-- ==== Sys2Proof/Word.lean ====
section
/-! DEFINITION. The word types of the PZ-3200, and the names of the things a command acts on. -/
namespace Sys2Proof

/-- One byte of a buffer, a frame, a memory or an image. -/
abbrev Byte := BitVec 8
/-- A set-up register, a tile scalar register, a 32-bit data word (R13). -/
abbrev Word := BitVec 32
/-- A 64-bit pair of registers, a mask register, a timestamp (R13, R119). -/
abbrev Dword := BitVec 64
/-- A tile bundle: control, move, vector and matrix slot (R259). -/
abbrev Bundle := BitVec 128
/-- A vector register: 64 lanes of 32 bits, lane 0 lowest (R249). -/
abbrev VecReg := BitVec 2048
/-- A frame, an image, a message: its bytes, lowest address or earliest first. -/
abbrev Bytes := List Byte

/-- A codeword of a link's lane: 5,440 line bits, the first of them bit 0 (R650). -/
abbrev LinkCode := BitVec 5440

/-- What a headgate's FEC did since the frame before: uncorrectable codewords, and whether the frame overlaps one (R390). -/
structure FecSeen where
  uncorr : Nat := 0
  hit : Bool := false
  deriving DecidableEq, Repr

/-- Two 64-bit words that stand as alignment markers in a link's codewords, and how many codewords apart (R651, R655). -/
structure MarkersSeen where
  link : Nat
  gap : Nat
  first : Dword
  second : Dword
  deriving DecidableEq, Repr

/-- A block with a CTRL.EN field and a common status (R51, R61). -/
inductive Blk where
  /-- headgate n -/
  | hg (n : Nat)
  /-- link engine n -/
  | lk (n : Nat)
  /-- spindle excitation -/
  | sp
  /-- partition n -/
  | part (n : Nat)
  /-- page mover n -/
  | pm (n : Nat)
  deriving DecidableEq, Repr

/-- Where a submission entry came from: the function (0 is PF0, n is VFn), its ring and the entry's CID (R891, R892). -/
structure CmdRef where
  fn : Nat := 0
  ring : Nat := 0
  cid : Nat := 0
  /-- FLAGS.IRQ of the entry (R891) -/
  irq : Bool := false
  deriving DecidableEq, Repr

/-- A mailbox command carried by Host Proxy (R552); extents as DPA and length in bytes; `other` any command not marked proxy. -/
inductive InnerCmd where
  | getEventRecords (log : Nat)
  | clearEventRecords (log n : Nat)
  | getConfiguration
  | getExtentList
  | addResponse (exts : List (Nat × Nat))
  | release (exts : List (Nat × Nat))
  | other (op : Nat)
  deriving DecidableEq, Repr

end Sys2Proof
end

