-- ==== Sys2Proof/Config.lean ====
section
/-! DEFINITION. What the manual leaves open: free values. Each is a constant with no body, applied to the count of free values
drawn so far (State holds it), so nothing can be proved of the value it gives. -/
namespace Sys2Proof.Config

/-- A free bit (an unstated rounding, an order the manual does not fix). Assumption 3. -/
opaque freeBit : Nat → Bool
/-- A free 32-bit value. Assumption 3. -/
opaque freeWord : Nat → Word
/-- A free byte (undefined memory contents, R1063, R516). Assumption 3. -/
opaque freeByte : Nat → Byte
/-- A free number with no bound of its own; the place of use bounds it. Assumption 3. -/
opaque freeNat : Nat → Nat

/-- A word whose contents are undefined: a function of the count of free values drawn and of its place (R1052, R1111). Assumption 3. -/
opaque undefWord : Nat → Nat → Word

/-- The part of a stack's line rate that the last completed pass carried when that pass had no POOL slot on the stack, by the lines carried and the
stack: a value 0 to 3 of dl_pool that R590 does not state. Assumption 85. -/
opaque idleLoad : Nat → Nat → Fin 4

end Sys2Proof.Config
end

