-- ==== Sys2Proof/Machine/Sparse.lean ====
section
/-! DEFINITION. Sparse maps in one canonical form: keys strictly rising, no entry equal to what an unlisted key reads as. -/
namespace Sys2Proof.Machine

/-- A map from numbers, listing only the keys that differ from their default. -/
structure SMap (α : Type) where
  entries : List (Nat × α) := []
  deriving DecidableEq, Repr

variable {α : Type}

/-- The entry at `k` of a list, or `d`. -/
def lookupD (d : α) : List (Nat × α) → Nat → α
  | [], _ => d
  | (k', v) :: r, k => if k' = k then v else lookupD d r k

/-- Puts `v` at `k` in a sorted list. -/
def insertAt (k : Nat) (v : α) : List (Nat × α) → List (Nat × α)
  | [] => [(k, v)]
  | (k', v') :: r =>
    if k < k' then (k, v) :: (k', v') :: r
    else if k = k' then (k, v) :: r
    else (k', v') :: insertAt k v r

/-- Takes `k` out of a list. -/
def eraseAt (k : Nat) : List (Nat × α) → List (Nat × α)
  | [] => []
  | (k', v') :: r => if k = k' then eraseAt k r else (k', v') :: eraseAt k r

/-- The value at `k`, whose default is `d`. -/
def smGet (m : SMap α) (d : α) (k : Nat) : α := lookupD d m.entries k

/-- `m` with `v` at `k`, whose default is `d`: writing the default takes the entry out. -/
def smSet [DecidableEq α] (m : SMap α) (d : α) (k : Nat) (v : α) : SMap α :=
  if v = d then ⟨eraseAt k m.entries⟩ else ⟨insertAt k v m.entries⟩

/-- `m` with `f` applied to the value at `k`. -/
def smUpd [DecidableEq α] (m : SMap α) (d : α) (k : Nat) (f : α → α) : SMap α := smSet m d k (f (smGet m d k))

/-- `m` with every key that satisfies `p` back at its default. -/
def smClear (m : SMap α) (p : Nat → Bool) : SMap α := ⟨m.entries.filter (fun e => !p e.1)⟩

/-- `m` with every key from `lo` to `hi - 1` back at its default. -/
def smClearRange (m : SMap α) (lo hi : Nat) : SMap α := smClear m (fun k => decide (lo ≤ k) && decide (k < hi))

/-- The listed keys. -/
def smKeys (m : SMap α) : List Nat := m.entries.map (·.1)

/-- The canonical form, relative to the default of each key. -/
def smWf [DecidableEq α] (d : Nat → α) (m : SMap α) : Bool :=
  decide (m.entries.Pairwise (fun a b => a.1 < b.1)) && m.entries.all (fun e => decide (e.2 ≠ d e.1))

/-! Bytes of a map of bytes whose default is zero (tile memory, instruction RAM, device memory, the keep store). -/

/-- `n` bytes from address `a`, lowest first. -/
def readBytes (m : SMap Byte) (a : Nat) : Nat → Bytes
  | 0 => []
  | n + 1 => smGet m 0 a :: readBytes m (a + 1) n

/-- Writes bytes from address `a` upward. -/
def writeBytes (m : SMap Byte) (a : Nat) : Bytes → SMap Byte
  | [] => m
  | b :: bs => writeBytes (smSet m 0 a b) (a + 1) bs

/-- The unsigned number of little-endian bytes (R4). -/
def leNat : Bytes → Nat
  | [] => 0
  | b :: bs => b.toNat + 256 * leNat bs

/-- The `n` little-endian bytes of a number (R4). -/
def leBytes : Nat → Nat → Bytes
  | 0, _ => []
  | n + 1, v => BitVec.ofNat 8 v :: leBytes n (v / 256)

/-- The little-endian number of `n` bytes at `a`. -/
def readLe (m : SMap Byte) (a n : Nat) : Nat := leNat (readBytes m a n)
/-- Writes the `n` little-endian bytes of `v` at `a`. -/
def writeLe (m : SMap Byte) (a n v : Nat) : SMap Byte := writeBytes m a (leBytes n v)
/-- `n` zero bytes. -/
def zeroBytes (n : Nat) : Bytes := List.replicate n 0
/-- The first `n` bytes of `b`, with zeros after them. -/
def padTo (n : Nat) (b : Bytes) : Bytes := (b ++ zeroBytes (n - b.length)).take n
/-- `n` bytes of `b` from offset `o`; bytes past its end read as 0. -/
def slice (b : Bytes) (o n : Nat) : Bytes := padTo n ((b.drop o).take n)
/-- The little-endian number of `n` bytes of `b` at offset `o`. -/
def leAt (b : Bytes) (o n : Nat) : Nat := leNat (slice b o n)

end Sys2Proof.Machine
end

