-- ==== Sys2Proof/Machine/Bits.lean ====
section
/-! DEFINITION. Bit fields, signed values, saturation and the CRC-32C of R151. -/
namespace Sys2Proof.Machine

/-- Bits `[h:l]` of a number. -/
def bits (v h l : Nat) : Nat := (v >>> l) % 2 ^ (h + 1 - l)
/-- Bit `i` of a number. -/
def bitN (v i : Nat) : Bool := v.testBit i
/-- The number with bits `[h:l]` replaced by the low bits of `x`. -/
def setBits (v h l x : Nat) : Nat :=
  (v >>> (h + 1)) <<< (h + 1) + (x % 2 ^ (h + 1 - l)) <<< l + v % 2 ^ l
/-- 1 for true, 0 for false. -/
def b2n (b : Bool) : Nat := if b then 1 else 0
/-- The two's complement reading of the low `w` bits. -/
def sx (w v : Nat) : Int :=
  let u := v % 2 ^ w
  if 2 * u < 2 ^ w then (u : Int) else (u : Int) - (2 ^ w : Nat)
/-- The low `w` bits of a signed number, as a number. -/
def ux (w : Nat) (v : Int) : Nat := (v % ((2 ^ w : Nat) : Int)).toNat
/-- Saturates to the signed range of `w` bits. -/
def satS (w : Nat) (v : Int) : Int :=
  let m : Int := ((2 ^ (w - 1) : Nat) : Int)
  if v < -m then -m else if v > m - 1 then m - 1 else v
/-- Saturates to the unsigned range of `w` bits. -/
def satU (w : Nat) (v : Nat) : Nat := if v ≥ 2 ^ w then 2 ^ w - 1 else v
/-- Clamps between two bounds. -/
def clampI (lo hi v : Int) : Int := if v < lo then lo else if v > hi then hi else v
/-- `x / 2^n` rounded to the nearest, ties to even. -/
def rneShift (x : Int) (n : Nat) : Int :=
  let d : Int := ((2 ^ n : Nat) : Int)
  let q := x / d
  let r := x % d
  if 2 * r < d then q else if 2 * r > d then q + 1 else if q % 2 = 0 then q else q + 1
/-- `x / d` rounded to the nearest, ties to even, for a positive `d`. -/
def rneDiv (x d : Int) : Int :=
  let q := x / d
  let r := x % d
  if 2 * r < d then q else if 2 * r > d then q + 1 else if q % 2 = 0 then q else q + 1
/-- The ceiling of a quotient. -/
def ceilDiv (a b : Nat) : Nat := (a + b - 1) / b

/-- One bit step of the reflected CRC with polynomial 0x1EDC6F41 (R151). -/
def crcBit (c : Nat) : Nat := if c % 2 = 1 then (c / 2) ^^^ 0x82F63B78 else c / 2
/-- One byte step of the CRC (R151). -/
def crcByte (c : Nat) (b : Byte) : Nat :=
  crcBit (crcBit (crcBit (crcBit (crcBit (crcBit (crcBit (crcBit (c ^^^ b.toNat))))))))
/-- CRC-32C of bytes: initial all ones, final complement (R151). -/
def crc32c (bs : Bytes) : Nat := (bs.foldl crcByte 0xFFFFFFFF) ^^^ 0xFFFFFFFF

/-- One bit step of the reflected CRC-32 of IEEE 802.3, whose polynomial is 0x04C11DB7. -/
def fcsBit (c : Nat) : Nat := if c % 2 = 1 then (c / 2) ^^^ 0xEDB88320 else c / 2
/-- One byte step of it. -/
def fcsByte (c : Nat) (b : Byte) : Nat :=
  fcsBit (fcsBit (fcsBit (fcsBit (fcsBit (fcsBit (fcsBit (fcsBit (c ^^^ b.toNat))))))))
/-- The FCS of a MAC frame, sent least significant byte first as a number (R394, Assumption 26). -/
def fcs (bs : Bytes) : Nat := (bs.foldl fcsByte 0xFFFFFFFF) ^^^ 0xFFFFFFFF

/-- Folds a function of a number over 0 … n-1, in rising order. -/
def foldUp {σ : Type} (n : Nat) (f : σ → Nat → σ) (s : σ) : σ := (List.range n).foldl f s

end Sys2Proof.Machine
end

