-- ==== Sys2Proof/Machine/RegTable.lean ====
section
/-! DEFINITION. The register tables of the manual: for every register its PF0 BAR0 offset, its repetition, its reset value and
its fields with access code, staging and range (R12, R24, R107 of the index chapter). Hub-space registers stand at the hub
window (R1112). -/
namespace Sys2Proof.Machine

/-- The access codes of R12. -/
inductive Acc where
  | ro | rw | wo | w1c | w1s | rwl
  deriving DecidableEq, Repr

/-- A field: bits `[hi:lo]`, access, staged or immediate, and the values accepted (R12, R24). -/
structure FieldSpec where
  hi : Nat
  lo : Nat
  acc : Acc
  staged : Bool
  min : Nat
  max : Nat
  deriving DecidableEq, Repr

/-- A register or an array of them: it stands at `base + i × s1 + j × s2` for `i < n1` and `j < n2`. -/
structure RegSpec where
  base : Nat
  n1 : Nat
  s1 : Nat
  n2 : Nat
  s2 : Nat
  reset : Nat
  fields : List FieldSpec
  deriving DecidableEq, Repr

/-- Registers of the block group Systempage. -/
def regsSystempage : List RegSpec := [
  /- GLB_ID -/ ⟨0x0, 1, 0x1, 1, 0x1, 0x3200a100, [⟨31, 16, .ro, false, 0, 65535⟩, ⟨15, 8, .ro, false, 0, 255⟩]⟩,
  /- GLB_FABRIC -/ ⟨0x4, 1, 0x1, 1, 0x1, 0x0, [⟨31, 16, .rwl, false, 0, 65535⟩, ⟨15, 8, .rwl, false, 0, 255⟩, ⟨7, 0, .rwl, false, 0, 255⟩]⟩,
  /- GLB_STAT -/ ⟨0x8, 1, 0x1, 1, 0x1, 0x0, [⟨4, 0, .ro, false, 0, 31⟩]⟩,
  /- GLB_STAGE_CTRL -/ ⟨0xc, 1, 0x1, 1, 0x1, 0x0, [⟨0, 0, .rw, false, 0, 1⟩]⟩,
  /- GLB_LAST_COMMIT_LO -/ ⟨0x10, 1, 0x1, 1, 0x1, 0x0, [⟨31, 0, .ro, false, 0, 4294967295⟩]⟩,
  /- GLB_LAST_COMMIT_HI -/ ⟨0x14, 1, 0x1, 1, 0x1, 0x0, [⟨15, 0, .ro, false, 0, 65535⟩]⟩,
  /- CLK_STAT -/ ⟨0x100, 1, 0x1, 1, 0x1, 0x0, [⟨3, 3, .w1c, false, 0, 1⟩, ⟨2, 2, .w1c, false, 0, 1⟩, ⟨1, 1, .ro, false, 0, 1⟩, ⟨0, 0, .ro, false, 0, 1⟩]⟩,
  /- TIM_CTRL -/ ⟨0x200, 1, 0x1, 1, 0x1, 0x40000, [⟨23, 20, .rwl, false, 0, 15⟩, ⟨19, 18, .rw, false, 0, 3⟩, ⟨17, 17, .rw, false, 0, 1⟩, ⟨16, 16, .rw, false, 0, 1⟩, ⟨15, 15, .rwl, false, 0, 1⟩, ⟨14, 10, .rwl, false, 0, 31⟩, ⟨8, 4, .rwl, false, 0, 31⟩, ⟨0, 0, .rwl, false, 0, 1⟩]⟩,
  /- TIM_STAT -/ ⟨0x204, 1, 0x1, 1, 0x1, 0x0, [⟨11, 8, .ro, false, 0, 15⟩, ⟨7, 7, .ro, false, 0, 1⟩, ⟨6, 4, .ro, false, 0, 7⟩]⟩,
  /- TIM_FTC_LO -/ ⟨0x208, 1, 0x1, 1, 0x1, 0x0, [⟨31, 0, .ro, false, 0, 4294967295⟩]⟩,
  /- TIM_FTC_HI -/ ⟨0x20c, 1, 0x1, 1, 0x1, 0x0, [⟨31, 0, .ro, false, 0, 4294967295⟩]⟩,
  /- TIM_EPOCH_AT_LO -/ ⟨0x210, 1, 0x1, 1, 0x1, 0x0, [⟨31, 0, .rwl, false, 0, 4294967295⟩]⟩,
  /- TIM_EPOCH_AT_HI -/ ⟨0x214, 1, 0x1, 1, 0x1, 0x0, [⟨31, 0, .rwl, false, 0, 4294967295⟩]⟩,
  /- TIM_EPOCH_FIRST_LO -/ ⟨0x218, 1, 0x1, 1, 0x1, 0x0, [⟨31, 0, .rwl, false, 0, 4294967295⟩]⟩,
  /- TIM_EPOCH_FIRST_HI -/ ⟨0x21c, 1, 0x1, 1, 0x1, 0x0, [⟨15, 0, .rwl, false, 0, 65535⟩]⟩,
  /- TIM_STOP_AT_LO -/ ⟨0x220, 1, 0x1, 1, 0x1, 0x0, [⟨31, 0, .rw, false, 0, 4294967295⟩]⟩,
  /- TIM_STOP_AT_HI -/ ⟨0x224, 1, 0x1, 1, 0x1, 0x0, [⟨15, 0, .rw, false, 0, 65535⟩]⟩,
  /- TIM_PASS_LO -/ ⟨0x228, 1, 0x1, 1, 0x1, 0xffffffff, [⟨31, 0, .ro, false, 0, 4294967295⟩]⟩,
  /- TIM_PASS_HI -/ ⟨0x22c, 1, 0x1, 1, 0x1, 0xffff, [⟨15, 0, .ro, false, 0, 65535⟩]⟩,
  /- TIM_PASS_LEN -/ ⟨0x230, 1, 0x1, 1, 0x1, 0x500, [⟨15, 0, .ro, false, 0, 65535⟩]⟩,
  /- TIM_OFFSET -/ ⟨0x234, 1, 0x1, 1, 0x1, 0x0, [⟨31, 0, .ro, false, 0, 4294967295⟩]⟩,
  /- TIM_FREQ -/ ⟨0x238, 1, 0x1, 1, 0x1, 0x0, [⟨31, 0, .ro, false, 0, 4294967295⟩]⟩,
  /- TIM_UP_ASYM -/ ⟨0x23c, 1, 0x1, 1, 0x1, 0x0, [⟨31, 16, .rwl, false, 0, 65535⟩, ⟨15, 0, .rwl, false, 0, 65535⟩]⟩,
  /- TIM_HOLD_MAX -/ ⟨0x240, 1, 0x1, 1, 0x1, 0x10000, [⟨23, 0, .rw, true, 1, 16777215⟩]⟩,
  /- PL_STAT -/ ⟨0x300, 1, 0x1, 1, 0x1, 0x10, [⟨15, 8, .ro, false, 0, 255⟩, ⟨4, 4, .ro, false, 0, 1⟩, ⟨3, 3, .ro, false, 0, 1⟩, ⟨2, 2, .ro, false, 0, 1⟩, ⟨1, 1, .ro, false, 0, 1⟩]⟩,
  /- PL_ERR_SECT -/ ⟨0x304, 1, 0x1, 1, 0x1, 0xffff, [⟨15, 0, .ro, false, 0, 65535⟩]⟩,
  /- PL_FPLAN_ID_LO -/ ⟨0x308, 1, 0x1, 1, 0x1, 0x0, [⟨31, 0, .ro, false, 0, 4294967295⟩]⟩,
  /- PL_FPLAN_ID_HI -/ ⟨0x30c, 1, 0x1, 1, 0x1, 0x0, [⟨31, 0, .ro, false, 0, 4294967295⟩]⟩,
  /- PL_ACT_PASS_LO -/ ⟨0x310, 1, 0x1, 1, 0x1, 0x0, [⟨31, 0, .ro, false, 0, 4294967295⟩]⟩,
  /- PL_ACT_PASS_HI -/ ⟨0x314, 1, 0x1, 1, 0x1, 0x0, [⟨15, 0, .ro, false, 0, 65535⟩]⟩,
  /- PWR_CTRL -/ ⟨0x400, 1, 0x1, 1, 0x1, 0x200, [⟨23, 16, .rw, false, 0, 255⟩, ⟨12, 8, .rw, false, 2, 16⟩, ⟨1, 0, .rw, false, 0, 3⟩]⟩,
  /- PWR_STAT -/ ⟨0x404, 1, 0x1, 1, 0x1, 0x0, [⟨15, 12, .ro, false, 0, 15⟩, ⟨11, 11, .ro, false, 0, 1⟩, ⟨9, 0, .ro, false, 0, 1023⟩]⟩,
  /- PWR_RST -/ ⟨0x408, 1, 0x1, 1, 0x1, 0x0, [⟨31, 31, .wo, false, 0, 1⟩, ⟨15, 8, .wo, false, 0, 255⟩]⟩,
  /- PWR_BLK_RST -/ ⟨0x40c, 1, 0x1, 1, 0x1, 0x0, [⟨31, 31, .wo, false, 0, 1⟩, ⟨10, 8, .wo, false, 0, 7⟩, ⟨4, 0, .wo, false, 0, 31⟩]⟩,
  /- PWR_SAG -/ ⟨0x410, 1, 0x1, 1, 0x1, 0x0, [⟨16, 16, .w1c, false, 0, 1⟩, ⟨10, 0, .w1c, false, 0, 2047⟩]⟩,
  /- PWR_HOLD -/ ⟨0x414, 1, 0x1, 1, 0x1, 0xffff0000, [⟨31, 16, .ro, false, 0, 65535⟩, ⟨15, 0, .ro, false, 0, 65535⟩]⟩,
  /- PWR_THERM -/ ⟨0x418, 1, 0x1, 1, 0x1, 0x6e005f, [⟨23, 16, .rw, false, 100, 115⟩, ⟨7, 0, .rw, false, 60, 255⟩]⟩,
  /- PWR_TEMPi -/ ⟨0x440, 24, 0x4, 1, 0x1, 0x0, [⟨15, 0, .ro, false, 0, 65535⟩]⟩,
  /- KS_STAT -/ ⟨0x500, 1, 0x1, 1, 0x1, 0x0, [⟨23, 16, .ro, false, 0, 255⟩, ⟨7, 5, .ro, false, 0, 7⟩, ⟨1, 0, .ro, false, 0, 3⟩]⟩,
  /- KS_SEQ -/ ⟨0x504, 1, 0x1, 1, 0x1, 0x0, [⟨31, 0, .ro, false, 0, 4294967295⟩]⟩]

/-- Registers of the block group HostPort. -/
def regsHostPort : List RegSpec := [
  /- HI_MON_CTRL -/ ⟨0x1000, 1, 0x1, 1, 0x1, 0x0, [⟨0, 0, .wo, false, 0, 1⟩]⟩,
  /- HI_MON_STAT -/ ⟨0x1004, 1, 0x1, 1, 0x1, 0x0, [⟨11, 8, .ro, false, 0, 15⟩, ⟨1, 0, .ro, false, 0, 3⟩]⟩,
  /- HI_MON_ADDR_LO -/ ⟨0x1008, 1, 0x1, 1, 0x1, 0x0, [⟨31, 0, .rw, false, 0, 4294967295⟩]⟩,
  /- HI_MON_ADDR_HI -/ ⟨0x100c, 1, 0x1, 1, 0x1, 0x0, [⟨31, 0, .rw, false, 0, 4294967295⟩]⟩,
  /- HI_MON_VER_LO -/ ⟨0x1010, 1, 0x1, 1, 0x1, 0x0, [⟨31, 0, .ro, false, 0, 4294967295⟩]⟩,
  /- HI_MON_VER_HI -/ ⟨0x1014, 1, 0x1, 1, 0x1, 0x0, [⟨31, 0, .ro, false, 0, 4294967295⟩]⟩,
  /- HI_RING0+_BASE_LO -/ ⟨0x1100, 5, 0x40, 1, 0x1, 0x0, [⟨31, 0, .rwl, false, 0, 4294967295⟩]⟩,
  /- HI_RING0+_BASE_HI -/ ⟨0x1104, 5, 0x40, 1, 0x1, 0x0, [⟨31, 0, .rwl, false, 0, 4294967295⟩]⟩,
  /- HI_RING0+_CTRL -/ ⟨0x1108, 5, 0x40, 1, 0x1, 0x4000000, [⟨31, 31, .wo, false, 0, 1⟩, ⟨29, 29, .rw, false, 0, 1⟩, ⟨28, 24, .rwl, false, 4, 16⟩, ⟨16, 16, .rw, false, 0, 1⟩, ⟨10, 0, .rw, false, 0, 2047⟩]⟩,
  /- HI_RING0+_COAL -/ ⟨0x110c, 5, 0x40, 1, 0x1, 0x1, [⟨31, 16, .rw, false, 0, 65535⟩, ⟨15, 0, .rw, false, 0, 65535⟩]⟩,
  /- HI_RING0+_DEVIDX -/ ⟨0x1110, 5, 0x40, 1, 0x1, 0x0, [⟨15, 0, .ro, false, 0, 65535⟩]⟩,
  /- HI_RING0+_STAT -/ ⟨0x1114, 5, 0x40, 1, 0x1, 0x0, [⟨7, 4, .ro, false, 0, 15⟩, ⟨3, 3, .w1c, false, 0, 1⟩, ⟨2, 2, .ro, false, 0, 1⟩, ⟨1, 1, .ro, false, 0, 1⟩, ⟨0, 0, .ro, false, 0, 1⟩]⟩,
  /- HI_RING0+_WB_LO -/ ⟨0x1118, 5, 0x40, 1, 0x1, 0x0, [⟨31, 0, .rwl, false, 0, 4294967295⟩]⟩,
  /- HI_RING0+_WB_HI -/ ⟨0x111c, 5, 0x40, 1, 0x1, 0x0, [⟨31, 0, .rwl, false, 0, 4294967295⟩]⟩,
  /- HI_RING0+_LOST -/ ⟨0x1120, 5, 0x40, 1, 0x1, 0x0, [⟨31, 0, .ro, false, 0, 4294967295⟩]⟩]

/-- Registers of the block group Dump. -/
def regsDump : List RegSpec := [
  /- DM_CTRL -/ ⟨0x4000, 1, 0x1, 1, 0x1, 0x4, [⟨9, 8, .rw, false, 0, 2⟩, ⟨2, 2, .rw, false, 0, 1⟩, ⟨1, 1, .rw, false, 0, 1⟩]⟩,
  /- DM_STAT -/ ⟨0x4004, 1, 0x1, 1, 0x1, 0x0, [⟨11, 8, .ro, false, 0, 15⟩, ⟨4, 2, .ro, false, 0, 7⟩, ⟨0, 0, .ro, false, 0, 1⟩]⟩,
  /- DM_HOLD_MAX -/ ⟨0x4008, 1, 0x1, 1, 0x1, 0x1388, [⟨15, 0, .rw, false, 1, 65535⟩]⟩,
  /- DM_TRIG -/ ⟨0x400c, 1, 0x1, 1, 0x1, 0x0, [⟨31, 16, .rw, false, 0, 65535⟩, ⟨0, 0, .rw, false, 0, 1⟩]⟩,
  /- DM_TRIG_MASK -/ ⟨0x4010, 1, 0x1, 1, 0x1, 0x0, [⟨31, 0, .rw, false, 0, 4294967295⟩]⟩,
  /- DM_REGION -/ ⟨0x4020, 1, 0x1, 1, 0x1, 0x0, [⟨25, 16, .ro, false, 0, 1023⟩, ⟨9, 0, .ro, false, 0, 1023⟩]⟩,
  /- DM_REGION_Gj -/ ⟨0x4024, 32, 0x4, 1, 0x1, 0x0, [⟨31, 0, .ro, false, 0, 4294967295⟩]⟩,
  /- DM_CAT_STAT -/ ⟨0x40c0, 1, 0x1, 1, 0x1, 0x0, [⟨15, 0, .ro, false, 0, 65535⟩]⟩,
  /- DM_CAT_FREE -/ ⟨0x40c4, 1, 0x1, 1, 0x1, 0x0, [⟨31, 31, .wo, false, 0, 1⟩, ⟨3, 0, .rw, false, 0, 15⟩]⟩,
  /- DM_CNT_x -/ ⟨0x4100, 5, 0x4, 1, 0x1, 0x0, [⟨31, 0, .ro, false, 0, 4294967295⟩]⟩,
  /- DM_CNT_CLR -/ ⟨0x411c, 1, 0x1, 1, 0x1, 0x0, [⟨0, 0, .wo, false, 0, 1⟩]⟩]

/-- Registers of the block group DeviceMem. -/
def regsDeviceMem : List RegSpec := [
  /- HB_STAT -/ ⟨0x5000, 1, 0x1, 1, 0x1, 0x0, [⟨15, 8, .ro, false, 0, 255⟩, ⟨7, 0, .ro, false, 0, 255⟩]⟩,
  /- HB_ECC_CORR -/ ⟨0x5010, 1, 0x1, 1, 0x1, 0x0, [⟨31, 0, .ro, false, 0, 4294967295⟩]⟩,
  /- HB_ECC_UNCORR -/ ⟨0x5014, 1, 0x1, 1, 0x1, 0x0, [⟨31, 0, .ro, false, 0, 4294967295⟩]⟩,
  /- HB_FAIL_DROP -/ ⟨0x5018, 1, 0x1, 1, 0x1, 0x0, [⟨31, 0, .ro, false, 0, 4294967295⟩]⟩,
  /- HB_CNT_CLR -/ ⟨0x501c, 1, 0x1, 1, 0x1, 0x0, [⟨0, 0, .wo, false, 0, 1⟩]⟩,
  /- HB_ERR_ADDR_LO -/ ⟨0x5020, 1, 0x1, 1, 0x1, 0x0, [⟨31, 0, .ro, false, 0, 4294967295⟩]⟩,
  /- HB_ERR_ADDR_HI -/ ⟨0x5024, 1, 0x1, 1, 0x1, 0x0, [⟨7, 0, .ro, false, 0, 255⟩]⟩,
  /- HB_FAIL_THR -/ ⟨0x5028, 1, 0x1, 1, 0x1, 0x0, [⟨15, 0, .rw, true, 0, 65535⟩]⟩,
  /- HB_PCH_FAILw -/ ⟨0x5040, 16, 0x4, 1, 0x1, 0x0, [⟨31, 0, .w1s, false, 0, 4294967295⟩]⟩,
  /- HB_SCRUB_CTRL -/ ⟨0x5080, 1, 0x1, 1, 0x1, 0x0, [⟨0, 0, .rw, true, 0, 1⟩]⟩,
  /- HB_SCRUB_POS -/ ⟨0x5084, 1, 0x1, 1, 0x1, 0x0, [⟨31, 0, .ro, false, 0, 4294967295⟩]⟩,
  /- HB_RPR_CTRL_LO -/ ⟨0x5090, 1, 0x1, 1, 0x1, 0x0, [⟨17, 0, .rw, false, 0, 262143⟩]⟩,
  /- HB_RPR_CTRL_HI -/ ⟨0x5094, 1, 0x1, 1, 0x1, 0x0, [⟨31, 31, .wo, false, 0, 1⟩, ⟨30, 30, .rw, false, 0, 1⟩, ⟨13, 9, .rw, false, 0, 31⟩, ⟨8, 0, .rw, false, 0, 511⟩]⟩,
  /- HB_RPR_STAT -/ ⟨0x5098, 1, 0x1, 1, 0x1, 0x0, [⟨15, 8, .ro, false, 0, 255⟩, ⟨3, 1, .ro, false, 0, 7⟩, ⟨0, 0, .ro, false, 0, 1⟩]⟩]

/-- Registers of the block group Nme. -/
def regsNme : List RegSpec := [
  /- NM_Pn_DONE -/ ⟨0x6100, 32, 0x10, 3, 0x4, 0x0, [⟨31, 0, .ro, false, 0, 4294967295⟩]⟩,
  /- NM_Pn_CLR -/ ⟨0x610c, 32, 0x10, 1, 0x1, 0x0, [⟨0, 0, .wo, false, 0, 1⟩]⟩]

/-- Registers of the block group Event. -/
def regsEvent : List RegSpec := [
  /- EV_CTRL -/ ⟨0x8000, 1, 0x1, 1, 0x1, 0x10, [⟨19, 19, .rw, false, 0, 1⟩, ⟨18, 18, .rw, false, 0, 1⟩, ⟨15, 12, .rw, false, 0, 15⟩, ⟨7, 0, .rw, false, 0, 255⟩]⟩,
  /- EV_STAT -/ ⟨0x8004, 1, 0x1, 1, 0x1, 0x0, [⟨24, 16, .ro, false, 0, 511⟩, ⟨7, 0, .ro, false, 0, 255⟩]⟩,
  /- EV_SEQ_LO -/ ⟨0x8008, 1, 0x1, 1, 0x1, 0x0, [⟨31, 0, .ro, false, 0, 4294967295⟩]⟩,
  /- EV_SEQ_HI -/ ⟨0x800c, 1, 0x1, 1, 0x1, 0x0, [⟨15, 0, .ro, false, 0, 65535⟩]⟩,
  /- EV_CNT_x -/ ⟨0x8040, 7, 0x4, 1, 0x1, 0x0, [⟨31, 0, .ro, false, 0, 4294967295⟩]⟩,
  /- EV_CNT_CLR -/ ⟨0x805c, 1, 0x1, 1, 0x1, 0x0, [⟨0, 0, .wo, false, 0, 1⟩]⟩,
  /- EV_BUF -/ ⟨0x9000, 2048, 0x4, 1, 0x1, 0x0, [⟨31, 0, .ro, false, 0, 4294967295⟩]⟩]

/-- Registers of the block group Merger. -/
def regsMerger : List RegSpec := [
  /- DC_CTRL -/ ⟨0x10000, 1, 0x1, 1, 0x1, 0xfa, [⟨11, 0, .rw, true, 175, 4095⟩]⟩,
  /- DC_STAT -/ ⟨0x10004, 1, 0x1, 1, 0x1, 0x0, [⟨16, 0, .ro, false, 0, 131071⟩]⟩,
  /- DC_CNT_CLR -/ ⟨0x10008, 1, 0x1, 1, 0x1, 0x0, [⟨0, 0, .wo, false, 0, 1⟩]⟩,
  /- DC_HGh_PEND -/ ⟨0x10040, 16, 0x4, 1, 0x1, 0x0, [⟨28, 16, .ro, false, 0, 8191⟩, ⟨12, 0, .ro, false, 0, 8191⟩]⟩,
  /- DC_Pn_CFG -/ ⟨0x10100, 32, 0x10, 1, 0x1, 0x100, [⟨31, 16, .rw, true, 0, 65535⟩, ⟨15, 8, .rw, true, 1, 255⟩, ⟨7, 7, .rw, true, 0, 1⟩]⟩,
  /- DC_Pn_GM -/ ⟨0x10104, 32, 0x10, 1, 0x1, 0x0, [⟨19, 16, .rw, true, 0, 8⟩, ⟨9, 0, .rw, true, 0, 1023⟩]⟩,
  /- DC_Pn_LATCH -/ ⟨0x10108, 32, 0x10, 1, 0x1, 0x1, [⟨8, 8, .ro, false, 0, 1⟩, ⟨6, 0, .ro, false, 0, 127⟩]⟩,
  /- DC_DL_i -/ ⟨0x11000, 1024, 0x4, 1, 0x1, 0x0, [⟨15, 0, .rw, true, 0, 65535⟩]⟩,
  /- DC_Pn_CNT_x -/ ⟨0x12000, 32, 0x40, 12, 0x4, 0x0, [⟨31, 0, .ro, false, 0, 4294967295⟩]⟩]

/-- Registers of the block group Link. -/
def regsLink : List RegSpec := [
  /- LK_CFG -/ ⟨0x14000, 1, 0x1, 1, 0x1, 0x204, [⟨15, 8, .rw, true, 2, 255⟩, ⟨7, 0, .rw, true, 1, 64⟩]⟩,
  /- LK_STAMP_OUT -/ ⟨0x14010, 1, 0x1, 1, 0x1, 0x0, [⟨31, 0, .rw, true, 0, 4294967295⟩]⟩,
  /- LK_STAMP_IN -/ ⟨0x14014, 1, 0x1, 1, 0x1, 0x0, [⟨5, 5, .rw, true, 0, 1⟩, ⟨4, 0, .rw, true, 0, 31⟩]⟩,
  /- LK_GRT_g -/ ⟨0x14400, 256, 0x4, 1, 0x1, 0x0, [⟨31, 31, .rw, true, 0, 1⟩, ⟨30, 28, .rw, true, 0, 7⟩, ⟨19, 0, .rw, true, 0, 1048575⟩]⟩,
  /- LK_MRT_m -/ ⟨0x14800, 256, 0x4, 1, 0x1, 0x0, [⟨31, 31, .rw, true, 0, 1⟩, ⟨30, 28, .rw, true, 0, 7⟩, ⟨19, 0, .rw, true, 0, 1048575⟩]⟩,
  /- LK_FAIL_e+0 -/ ⟨0x14c00, 32, 0x10, 1, 0x1, 0x0, [⟨31, 31, .ro, false, 0, 1⟩, ⟨30, 30, .ro, false, 0, 1⟩, ⟨29, 29, .wo, true, 0, 1⟩, ⟨20, 16, .ro, false, 0, 31⟩, ⟨15, 0, .ro, false, 0, 65535⟩]⟩,
  /- LK_FAIL_e+4 -/ ⟨0x14c04, 32, 0x10, 1, 0x1, 0x0, [⟨31, 0, .ro, false, 0, 4294967295⟩]⟩,
  /- LK_FAIL_e+8 -/ ⟨0x14c08, 32, 0x10, 1, 0x1, 0x0, [⟨15, 0, .ro, false, 0, 65535⟩]⟩,
  /- LK_Pn_HOLE -/ ⟨0x15000, 32, 0x8, 1, 0x1, 0x0, [⟨31, 31, .wo, false, 0, 1⟩, ⟨30, 0, .ro, false, 0, 2147483647⟩]⟩,
  /- LK_Pn_WOF -/ ⟨0x15004, 32, 0x8, 1, 0x1, 0x0, [⟨31, 0, .ro, false, 0, 4294967295⟩]⟩,
  /- LKn_CTRL -/ ⟨0x16000, 32, 0x100, 1, 0x1, 0x0, [⟨0, 0, .rw, true, 0, 1⟩]⟩,
  /- LKn_STAT -/ ⟨0x16004, 32, 0x100, 1, 0x1, 0x0, [⟨15, 12, .ro, false, 0, 15⟩, ⟨10, 8, .ro, false, 0, 7⟩, ⟨3, 0, .ro, false, 0, 15⟩]⟩,
  /- LKn_PHY -/ ⟨0x16008, 32, 0x100, 1, 0x1, 0x0, [⟨5, 2, .rwl, false, 0, 15⟩, ⟨1, 1, .rwl, false, 0, 1⟩, ⟨0, 0, .rwl, false, 0, 1⟩]⟩,
  /- LKn_PEER -/ ⟨0x1600c, 32, 0x100, 1, 0x1, 0x0, [⟨31, 16, .rwl, false, 0, 65535⟩, ⟨12, 8, .rwl, false, 0, 31⟩, ⟨0, 0, .rwl, false, 0, 1⟩]⟩,
  /- LKn_PEER_SEEN -/ ⟨0x16010, 32, 0x100, 1, 0x1, 0x0, [⟨31, 16, .ro, false, 0, 65535⟩, ⟨12, 8, .ro, false, 0, 31⟩, ⟨0, 0, .ro, false, 0, 1⟩]⟩,
  /- LKn_DELAY -/ ⟨0x16014, 32, 0x100, 1, 0x1, 0x0, [⟨15, 0, .ro, false, 0, 65535⟩]⟩,
  /- LKn_CNT_x -/ ⟨0x16040, 32, 0x100, 16, 0x4, 0x0, [⟨31, 0, .ro, false, 0, 4294967295⟩]⟩,
  /- LKn_CNT_CLR -/ ⟨0x16080, 32, 0x100, 1, 0x1, 0x0, [⟨0, 0, .wo, false, 0, 1⟩]⟩]

/-- Registers of the block group Weir. -/
def regsWeir : List RegSpec := [
  /- WE_h_CFG -/ ⟨0x18000, 64, 0x10, 1, 0x1, 0x0, [⟨31, 16, .rw, false, 0, 65535⟩, ⟨15, 0, .rw, false, 0, 65535⟩]⟩,
  /- WE_h_TRK -/ ⟨0x18004, 64, 0x10, 1, 0x1, 0x0, [⟨14, 0, .rw, false, 0, 16384⟩]⟩,
  /- WE_h_TOK -/ ⟨0x18008, 64, 0x10, 1, 0x1, 0x0, [⟨19, 0, .ro, false, 0, 1048575⟩]⟩,
  /- WE_h_TRKUSED -/ ⟨0x1800c, 64, 0x10, 1, 0x1, 0x0, [⟨14, 0, .ro, false, 0, 32767⟩]⟩,
  /- WE_h_CNT_x -/ ⟨0x18800, 64, 0x20, 6, 0x4, 0x0, [⟨31, 0, .ro, false, 0, 4294967295⟩]⟩,
  /- WE_h_CNT_CLR -/ ⟨0x1881c, 64, 0x20, 1, 0x1, 0x0, [⟨0, 0, .wo, false, 0, 1⟩]⟩,
  /- PM_m_CTRL -/ ⟨0x19000, 16, 0x20, 1, 0x1, 0x3f00, [⟨13, 8, .rwl, false, 0, 63⟩, ⟨0, 0, .rw, true, 0, 1⟩]⟩,
  /- PM_m_STAT -/ ⟨0x19004, 16, 0x20, 1, 0x1, 0x0, [⟨31, 16, .ro, false, 0, 65535⟩, ⟨3, 0, .ro, false, 0, 15⟩]⟩,
  /- PM_m_CNT_PAGES -/ ⟨0x19008, 16, 0x20, 1, 0x1, 0x0, [⟨31, 0, .ro, false, 0, 4294967295⟩]⟩,
  /- PM_m_CNT_DROP -/ ⟨0x1900c, 16, 0x20, 1, 0x1, 0x0, [⟨31, 0, .ro, false, 0, 4294967295⟩]⟩]

/-- Registers of the block group Pool. -/
def regsPool : List RegSpec := [
  /- PO_CTRL -/ ⟨0x20000, 1, 0x1, 1, 0x1, 0x3e80040, [⟨31, 16, .rw, false, 1, 65535⟩, ⟨13, 8, .rw, false, 0, 63⟩, ⟨7, 4, .rw, true, 1, 15⟩]⟩,
  /- PO_STAT -/ ⟨0x20004, 1, 0x1, 1, 0x1, 0x0, [⟨25, 16, .ro, false, 0, 1023⟩, ⟨9, 0, .ro, false, 0, 1023⟩]⟩,
  /- PO_CNT_NOHOST -/ ⟨0x20008, 1, 0x1, 1, 0x1, 0x0, [⟨31, 0, .ro, false, 0, 4294967295⟩]⟩,
  /- PO_HOST_CMD -/ ⟨0x2000c, 1, 0x1, 1, 0x1, 0x0, [⟨31, 31, .wo, false, 0, 1⟩, ⟨9, 8, .rw, false, 0, 3⟩, ⟨5, 0, .rw, false, 0, 63⟩]⟩,
  /- PO_FATAL -/ ⟨0x20014, 1, 0x1, 1, 0x1, 0x0, [⟨3, 1, .ro, false, 0, 7⟩, ⟨0, 0, .ro, false, 0, 1⟩]⟩,
  /- PO_HIT_h_LO -/ ⟨0x20100, 64, 0x8, 1, 0x1, 0x0, [⟨31, 31, .rw, false, 0, 1⟩, ⟨30, 30, .ro, false, 0, 1⟩, ⟨11, 0, .rw, false, 0, 4095⟩]⟩,
  /- PO_HIT_h_HI -/ ⟨0x20104, 64, 0x8, 1, 0x1, 0x0, [⟨23, 0, .rw, false, 0, 16777215⟩]⟩,
  /- PO_HRT_e -/ ⟨0x21000, 1024, 0x8, 2, 0x4, 0x0, [⟨31, 0, .ro, false, 0, 4294967295⟩]⟩,
  /- PO_GT_g -/ ⟨0x23000, 1024, 0x4, 1, 0x1, 0x0, [⟨19, 16, .ro, false, 0, 15⟩, ⟨13, 8, .ro, false, 0, 63⟩, ⟨5, 0, .ro, false, 0, 63⟩]⟩,
  /- PO_SRr_CTRL -/ ⟨0x25000, 64, 0x40, 1, 0x1, 0x0, [⟨1, 1, .wo, false, 0, 1⟩, ⟨0, 0, .rw, false, 0, 1⟩]⟩,
  /- PO_SRr_GRANULES -/ ⟨0x25004, 64, 0x40, 1, 0x1, 0x0, [⟨9, 0, .ro, false, 0, 1023⟩]⟩,
  /- PO_SRr_TAG -/ ⟨0x25010, 64, 0x40, 4, 0x4, 0x0, [⟨31, 0, .rw, false, 0, 4294967295⟩]⟩,
  /- PO_SRr_RO -/ ⟨0x25020, 64, 0x40, 2, 0x4, 0x0, [⟨31, 0, .rw, false, 0, 4294967295⟩]⟩,
  /- PO_SRr_MEM -/ ⟨0x25028, 64, 0x40, 2, 0x4, 0x0, [⟨31, 0, .ro, false, 0, 4294967295⟩]⟩,
  /- PO_KEY_DATAi -/ ⟨0x26000, 16, 0x4, 1, 0x1, 0x0, [⟨31, 0, .wo, false, 0, 4294967295⟩]⟩,
  /- PO_KEY_CMD -/ ⟨0x26040, 1, 0x1, 1, 0x1, 0x0, [⟨31, 31, .wo, false, 0, 1⟩, ⟨9, 8, .rw, false, 0, 3⟩, ⟨7, 7, .rw, false, 0, 1⟩, ⟨5, 0, .rw, false, 0, 63⟩]⟩,
  /- PO_KEY_STAT -/ ⟨0x26044, 1, 0x1, 1, 0x1, 0x0, [⟨2, 0, .ro, false, 0, 7⟩]⟩,
  /- PO_KEY_LOADED -/ ⟨0x26048, 4, 0x4, 1, 0x1, 0x0, [⟨31, 0, .ro, false, 0, 4294967295⟩]⟩]

/-- Registers of the block group Encoder. -/
def regsEncoder : List RegSpec := [
  /- EE_CFG -/ ⟨0x28000, 1, 0x1, 1, 0x1, 0xfff0500, [⟨31, 16, .rwl, false, 0, 65535⟩, ⟨15, 8, .rw, false, 5, 255⟩, ⟨3, 2, .rw, false, 0, 3⟩, ⟨1, 1, .rwl, false, 0, 1⟩, ⟨0, 0, .rw, false, 0, 1⟩]⟩,
  /- EE_ZPOS -/ ⟨0x28004, 1, 0x1, 1, 0x1, 0x0, [⟨17, 0, .rw, false, 0, 262143⟩]⟩,
  /- EE_LAG_MAX -/ ⟨0x28008, 1, 0x1, 1, 0x1, 0x100, [⟨17, 0, .rw, false, 0, 262143⟩]⟩,
  /- EE_STAT -/ ⟨0x2800c, 1, 0x1, 1, 0x1, 0x0, [⟨4, 4, .w1c, false, 0, 1⟩, ⟨3, 3, .w1c, false, 0, 1⟩, ⟨2, 2, .ro, false, 0, 1⟩, ⟨1, 1, .ro, false, 0, 1⟩, ⟨0, 0, .ro, false, 0, 1⟩]⟩,
  /- EE_POS -/ ⟨0x28010, 1, 0x1, 1, 0x1, 0x0, [⟨17, 0, .ro, false, 0, 262143⟩]⟩,
  /- EE_LAG -/ ⟨0x28014, 1, 0x1, 1, 0x1, 0x0, [⟨31, 0, .ro, false, 0, 4294967295⟩]⟩,
  /- EE_CNT_JUMP -/ ⟨0x28018, 1, 0x1, 1, 0x1, 0x0, [⟨31, 31, .wo, false, 0, 1⟩, ⟨30, 0, .ro, false, 0, 2147483647⟩]⟩]

/-- Registers of the block group Spindle. -/
def regsSpindle : List RegSpec := [
  /- SP_CTRL -/ ⟨0x40000, 1, 0x1, 1, 0x1, 0x0, [⟨0, 0, .rw, true, 0, 1⟩]⟩,
  /- SP_STAT -/ ⟨0x40004, 1, 0x1, 1, 0x1, 0x200, [⟨9, 8, .ro, false, 0, 3⟩, ⟨6, 6, .ro, false, 0, 1⟩, ⟨5, 5, .ro, false, 0, 1⟩, ⟨4, 4, .ro, false, 0, 1⟩, ⟨3, 0, .ro, false, 0, 15⟩]⟩,
  /- SP_EXC -/ ⟨0x40008, 1, 0x1, 1, 0x1, 0x9c4, [⟨31, 16, .rw, false, 0, 65535⟩, ⟨13, 0, .rwl, false, 1000, 12500⟩]⟩,
  /- SP_PHASE -/ ⟨0x4000c, 1, 0x1, 1, 0x1, 0x0, [⟨15, 0, .rw, false, 0, 65535⟩]⟩,
  /- SP_CFG -/ ⟨0x40010, 1, 0x1, 1, 0x1, 0x30, [⟨9, 9, .rw, false, 0, 1⟩, ⟨8, 8, .rwl, false, 0, 1⟩, ⟨6, 4, .rw, false, 0, 5⟩, ⟨2, 0, .rwl, false, 0, 7⟩]⟩,
  /- SP_OFS_S -/ ⟨0x40014, 1, 0x1, 1, 0x1, 0x0, [⟨23, 0, .rw, false, 0, 16777215⟩]⟩,
  /- SP_OFS_C -/ ⟨0x40018, 1, 0x1, 1, 0x1, 0x0, [⟨23, 0, .rw, false, 0, 16777215⟩]⟩,
  /- SP_GAIN_C -/ ⟨0x4001c, 1, 0x1, 1, 0x1, 0x400000, [⟨23, 0, .rw, false, 2097152, 8388608⟩]⟩,
  /- SP_QC1 -/ ⟨0x40020, 1, 0x1, 1, 0x1, 0x400000, [⟨23, 0, .rw, false, 4194304, 4843162⟩]⟩,
  /- SP_QC2 -/ ⟨0x40024, 1, 0x1, 1, 0x1, 0x0, [⟨23, 0, .rw, false, 0, 16777215⟩]⟩,
  /- SP_GNORM -/ ⟨0x40028, 1, 0x1, 1, 0x1, 0x400000, [⟨23, 0, .rw, false, 2097152, 8388608⟩]⟩,
  /- SP_SIG -/ ⟨0x4002c, 1, 0x1, 1, 0x1, 0xf0001000, [⟨31, 16, .rw, false, 0, 65535⟩, ⟨15, 0, .rw, false, 0, 65535⟩]⟩,
  /- SP_SPD_MAX -/ ⟨0x40030, 1, 0x1, 1, 0x1, 0x9c4, [⟨12, 0, .rw, false, 1, 6000⟩]⟩,
  /- SP_TRK -/ ⟨0x40034, 1, 0x1, 1, 0x1, 0x800, [⟨14, 0, .rw, false, 1, 16384⟩]⟩,
  /- SP_DCOMP -/ ⟨0x40038, 1, 0x1, 1, 0x1, 0xf5b4, [⟨18, 0, .ro, false, 0, 524287⟩]⟩,
  /- SP_POS -/ ⟨0x40040, 1, 0x1, 1, 0x1, 0x0, [⟨26, 24, .ro, false, 0, 7⟩, ⟨23, 0, .ro, false, 0, 16777215⟩]⟩,
  /- SP_POS2 -/ ⟨0x40044, 1, 0x1, 1, 0x1, 0x0, [⟨15, 0, .ro, false, 0, 65535⟩]⟩,
  /- SP_ELEC -/ ⟨0x40048, 1, 0x1, 1, 0x1, 0x0, [⟨23, 0, .ro, false, 0, 16777215⟩]⟩,
  /- SP_SPEED -/ ⟨0x4004c, 1, 0x1, 1, 0x1, 0x0, [⟨31, 0, .ro, false, 0, 4294967295⟩]⟩,
  /- SP_SET -/ ⟨0x40050, 1, 0x1, 1, 0x1, 0x0, [⟨31, 31, .wo, false, 0, 1⟩, ⟨18, 16, .rw, false, 0, 7⟩, ⟨15, 0, .rw, false, 0, 65535⟩]⟩,
  /- SP_HOME -/ ⟨0x40054, 1, 0x1, 1, 0x1, 0x0, [⟨31, 31, .rw, false, 0, 1⟩, ⟨30, 30, .rw, false, 0, 1⟩, ⟨18, 16, .rw, false, 0, 7⟩, ⟨15, 0, .rw, false, 0, 65535⟩]⟩,
  /- SP_RESTORE -/ ⟨0x40058, 1, 0x1, 1, 0x1, 0x40000, [⟨23, 22, .ro, false, 0, 3⟩, ⟨21, 0, .rw, false, 0, 4194303⟩]⟩,
  /- SP_FAULT -/ ⟨0x4005c, 1, 0x1, 1, 0x1, 0x0, [⟨7, 4, .ro, false, 0, 15⟩, ⟨3, 0, .w1c, false, 0, 15⟩]⟩,
  /- SP_STAMP_CFG -/ ⟨0x40060, 1, 0x1, 1, 0x1, 0x40100, [⟨31, 16, .rw, true, 0, 65535⟩, ⟨15, 8, .rw, true, 1, 255⟩, ⟨1, 1, .rw, true, 0, 1⟩, ⟨0, 0, .rw, true, 0, 1⟩]⟩,
  /- SP_LATCH_CFG -/ ⟨0x40070, 1, 0x1, 1, 0x1, 0x2, [⟨15, 8, .rw, false, 0, 255⟩, ⟨2, 1, .rw, false, 0, 3⟩, ⟨0, 0, .rw, false, 0, 1⟩]⟩,
  /- SP_LATCH_STAT -/ ⟨0x40074, 1, 0x1, 1, 0x1, 0x0, [⟨8, 8, .w1c, false, 0, 1⟩, ⟨4, 0, .ro, false, 0, 31⟩]⟩,
  /- SP_LATCH_POP -/ ⟨0x40078, 1, 0x1, 1, 0x1, 0x0, [⟨0, 0, .wo, false, 0, 1⟩]⟩,
  /- SP_LATCH_D -/ ⟨0x40080, 4, 0x4, 1, 0x1, 0x0, [⟨31, 0, .ro, false, 0, 4294967295⟩]⟩,
  /- SP_CAPT_CTRL -/ ⟨0x40090, 1, 0x1, 1, 0x1, 0x100, [⟨31, 31, .wo, false, 0, 1⟩, ⟨30, 30, .ro, false, 0, 1⟩, ⟨29, 29, .ro, false, 0, 1⟩, ⟨23, 8, .rw, false, 1, 65535⟩, ⟨0, 0, .rw, false, 0, 1⟩]⟩,
  /- SP_CNT_x -/ ⟨0x400a0, 6, 0x4, 1, 0x1, 0x0, [⟨31, 0, .ro, false, 0, 4294967295⟩]⟩,
  /- SP_CNT_CLR -/ ⟨0x400bc, 1, 0x1, 1, 0x1, 0x0, [⟨0, 0, .wo, false, 0, 1⟩]⟩,
  /- SP_CAPTi -/ ⟨0x50000, 4096, 0x10, 4, 0x4, 0x0, [⟨31, 0, .ro, false, 0, 4294967295⟩]⟩,
  /- SP_HARMi -/ ⟨0x60000, 256, 0x4, 1, 0x1, 0x0, [⟨15, 0, .rw, false, 0, 65535⟩]⟩]

/-- Registers of the block group Control. -/
def regsControl0 : List RegSpec := [
  /- CE_CTRL -/ ⟨0x80000, 1, 0x1, 1, 0x1, 0x0, [⟨27, 27, .rw, false, 0, 1⟩, ⟨26, 26, .rwl, false, 0, 1⟩, ⟨25, 25, .rwl, false, 0, 1⟩, ⟨24, 24, .rw, false, 0, 1⟩, ⟨21, 20, .rw, false, 0, 2⟩, ⟨17, 16, .rwl, false, 0, 2⟩, ⟨12, 8, .rwl, false, 0, 19⟩, ⟨0, 0, .rw, false, 0, 1⟩]⟩,
  /- CE_STAT -/ ⟨0x80004, 1, 0x1, 1, 0x1, 0x0, [⟨31, 28, .w1c, false, 0, 15⟩, ⟨27, 27, .w1c, false, 0, 1⟩, ⟨26, 24, .ro, false, 0, 7⟩, ⟨23, 20, .ro, false, 0, 15⟩, ⟨19, 16, .ro, false, 0, 15⟩, ⟨15, 15, .ro, false, 0, 1⟩, ⟨14, 14, .ro, false, 0, 1⟩, ⟨13, 13, .ro, false, 0, 1⟩, ⟨12, 12, .ro, false, 0, 1⟩, ⟨11, 11, .ro, false, 0, 1⟩, ⟨10, 10, .ro, false, 0, 1⟩, ⟨9, 9, .ro, false, 0, 1⟩, ⟨8, 8, .ro, false, 0, 1⟩, ⟨7, 7, .ro, false, 0, 1⟩, ⟨6, 6, .ro, false, 0, 1⟩, ⟨2, 0, .ro, false, 0, 7⟩]⟩,
  /- CE_CMD -/ ⟨0x80008, 1, 0x1, 1, 0x1, 0x0, [⟨3, 0, .wo, false, 0, 15⟩]⟩,
  /- CE_MODE -/ ⟨0x8000c, 1, 0x1, 1, 0x1, 0x10, [⟨11, 10, .rw, false, 0, 2⟩, ⟨8, 4, .rw, false, 0, 31⟩, ⟨2, 1, .rw, false, 0, 3⟩, ⟨0, 0, .rw, false, 0, 1⟩]⟩,
  /- CE_SCALE -/ ⟨0x80010, 1, 0x1, 1, 0x1, 0x80000, [⟨28, 24, .rwl, false, 0, 24⟩, ⟨20, 16, .rwl, false, 8, 20⟩, ⟨4, 0, .rwl, false, 0, 24⟩]⟩,
  /- CE_LOOP_OPEN -/ ⟨0x80014, 1, 0x1, 1, 0x1, 0x0, [⟨3, 0, .rw, false, 0, 15⟩]⟩,
  /- CE_LOOPx_CFG -/ ⟨0x80020, 4, 0x10, 1, 0x1, 0x40, [⟨10, 10, .rw, false, 0, 1⟩, ⟨9, 8, .rw, false, 0, 3⟩, ⟨7, 7, .rw, false, 0, 1⟩, ⟨6, 6, .rw, false, 0, 1⟩, ⟨5, 4, .rw, false, 0, 3⟩, ⟨3, 1, .rw, false, 0, 7⟩, ⟨0, 0, .rw, false, 0, 1⟩]⟩,
  /- CE_LOOPx_REF -/ ⟨0x80024, 4, 0x10, 1, 0x1, 0x0, [⟨31, 0, .rw, false, 0, 4294967295⟩]⟩,
  /- CE_LOOPx_YMIN -/ ⟨0x80028, 4, 0x10, 1, 0x1, 0x80000000, [⟨31, 0, .rw, false, 0, 4294967295⟩]⟩,
  /- CE_LOOPx_YMAX -/ ⟨0x8002c, 4, 0x10, 1, 0x1, 0x7fffffff, [⟨31, 0, .rw, false, 0, 4294967295⟩]⟩,
  /- CE_UMIN -/ ⟨0x80060, 1, 0x1, 1, 0x1, 0x80000000, [⟨31, 0, .rw, false, 0, 4294967295⟩]⟩,
  /- CE_UMAX -/ ⟨0x80064, 1, 0x1, 1, 0x1, 0x7fffffff, [⟨31, 0, .rw, false, 0, 4294967295⟩]⟩,
  /- CE_DUMAX -/ ⟨0x80068, 1, 0x1, 1, 0x1, 0x0, [⟨31, 0, .rw, false, 0, 4294967295⟩]⟩,
  /- CE_SAFE_VAL -/ ⟨0x8006c, 1, 0x1, 1, 0x1, 0x0, [⟨31, 0, .rw, false, 0, 4294967295⟩]⟩,
  /- CE_U_BIAS -/ ⟨0x80070, 1, 0x1, 1, 0x1, 0x0, [⟨31, 0, .rw, false, 0, 4294967295⟩]⟩,
  /- CE_KV_M -/ ⟨0x80074, 1, 0x1, 1, 0x1, 0x0, [⟨31, 0, .rw, false, 0, 4294967295⟩]⟩,
  /- CE_KV_K -/ ⟨0x80078, 1, 0x1, 1, 0x1, 0x0, [⟨4, 0, .rw, false, 0, 31⟩]⟩,
  /- CE_KA_M -/ ⟨0x8007c, 1, 0x1, 1, 0x1, 0x0, [⟨31, 0, .rw, false, 0, 4294967295⟩]⟩,
  /- CE_KA_K -/ ⟨0x80080, 1, 0x1, 1, 0x1, 0x0, [⟨4, 0, .rw, false, 0, 31⟩]⟩,
  /- CE_KH_M -/ ⟨0x80084, 1, 0x1, 1, 0x1, 0x0, [⟨31, 0, .rw, false, 0, 4294967295⟩]⟩,
  /- CE_KH_K -/ ⟨0x80088, 1, 0x1, 1, 0x1, 0x0, [⟨4, 0, .rw, false, 0, 31⟩]⟩,
  /- CE_FF_CTRL -/ ⟨0x8008c, 1, 0x1, 1, 0x1, 0x0, [⟨1, 1, .rw, false, 0, 1⟩, ⟨0, 0, .rw, false, 0, 1⟩]⟩,
  /- CE_FRIC_DB -/ ⟨0x80090, 1, 0x1, 1, 0x1, 0x0, [⟨23, 0, .rw, false, 0, 16777215⟩]⟩,
  /- CE_V_TGT -/ ⟨0x800a0, 1, 0x1, 1, 0x1, 0x0, [⟨23, 0, .rw, false, 0, 16777215⟩]⟩,
  /- CE_V_MAX -/ ⟨0x800a4, 1, 0x1, 1, 0x1, 0x1000, [⟨23, 0, .rw, false, 1, 16777215⟩]⟩,
  /- CE_A_MAX -/ ⟨0x800a8, 1, 0x1, 1, 0x1, 0x640, [⟨23, 0, .rw, false, 1, 16777215⟩]⟩,
  /- CE_J_MAX -/ ⟨0x800ac, 1, 0x1, 1, 0x1, 0x0, [⟨31, 0, .rw, false, 0, 4294967295⟩]⟩,
  /- CE_P_TGT_L -/ ⟨0x800b0, 1, 0x1, 1, 0x1, 0x0, [⟨31, 0, .rw, false, 0, 4294967295⟩]⟩,
  /- CE_P_TGT_H -/ ⟨0x800b4, 1, 0x1, 1, 0x1, 0x0, [⟨7, 0, .rw, false, 0, 255⟩]⟩,
  /- CE_POS_WIN -/ ⟨0x800b8, 1, 0x1, 1, 0x1, 0x100, [⟨23, 0, .rw, false, 0, 16777215⟩]⟩,
  /- CE_V_ZERO -/ ⟨0x800bc, 1, 0x1, 1, 0x1, 0x40, [⟨23, 0, .rw, false, 0, 16777215⟩]⟩,
  /- CE_PH_INC -/ ⟨0x800c0, 2, 0x4, 1, 0x1, 0x0, [⟨31, 0, .rw, false, 0, 4294967295⟩]⟩,
  /- CE_PH_OFS -/ ⟨0x800c8, 1, 0x1, 1, 0x1, 0x0, [⟨23, 0, .rw, false, 0, 16777215⟩]⟩,
  /- CE_PH_SLEW -/ ⟨0x800cc, 1, 0x1, 1, 0x1, 0x10, [⟨15, 0, .rw, false, 0, 65535⟩]⟩,
  /- CE_PH_WIN -/ ⟨0x800d0, 1, 0x1, 1, 0x1, 0x1000, [⟨23, 0, .rw, false, 0, 16777215⟩]⟩,
  /- CE_HOME_V -/ ⟨0x800d4, 1, 0x1, 1, 0x1, 0x0, [⟨23, 0, .rw, false, 0, 16777215⟩]⟩,
  /- CE_TRIM_CFG -/ ⟨0x800e0, 1, 0x1, 1, 0x1, 0x800, [⟨15, 8, .rw, false, 1, 255⟩, ⟨2, 0, .rw, false, 0, 4⟩]⟩,
  /- CE_TRIM_MAX -/ ⟨0x800e4, 1, 0x1, 1, 0x1, 0x0, [⟨31, 0, .rw, false, 0, 4294967295⟩]⟩,
  /- CE_TRIM_RATE -/ ⟨0x800e8, 1, 0x1, 1, 0x1, 0x0, [⟨31, 0, .rw, false, 0, 4294967295⟩]⟩,
  /- CE_P_MIN -/ ⟨0x800ec, 1, 0x1, 1, 0x1, 0x0, [⟨31, 0, .rw, false, 0, 4294967295⟩]⟩]

/-- Registers of the block group Control. -/
def regsControl1 : List RegSpec := [
  /- CE_P_MAX -/ ⟨0x800f0, 1, 0x1, 1, 0x1, 0x0, [⟨31, 0, .rw, false, 0, 4294967295⟩]⟩,
  /- CE_TRIM_IN -/ ⟨0x800f4, 1, 0x1, 1, 0x1, 0x0, [⟨31, 0, .ro, false, 0, 4294967295⟩]⟩,
  /- CE_TRIM_APP -/ ⟨0x800f8, 1, 0x1, 1, 0x1, 0x0, [⟨31, 0, .ro, false, 0, 4294967295⟩]⟩,
  /- CE_TRIM_AGE -/ ⟨0x800fc, 1, 0x1, 1, 0x1, 0xff, [⟨7, 0, .ro, false, 0, 255⟩]⟩,
  /- CE_DRV -/ ⟨0x80100, 1, 0x1, 1, 0x1, 0x410, [⟨16, 16, .rwl, false, 0, 1⟩, ⟨15, 8, .rwl, false, 2, 255⟩, ⟨7, 0, .rwl, false, 1, 255⟩]⟩,
  /- CE_OUT_OFS -/ ⟨0x80104, 1, 0x1, 1, 0x1, 0xdc, [⟨9, 0, .rwl, false, 0, 1023⟩]⟩,
  /- CE_MISS_MAX -/ ⟨0x80108, 1, 0x1, 1, 0x1, 0x3, [⟨2, 0, .rw, false, 1, 7⟩]⟩,
  /- CE_U -/ ⟨0x8010c, 1, 0x1, 1, 0x1, 0x0, [⟨31, 0, .ro, false, 0, 4294967295⟩]⟩,
  /- CE_AUX -/ ⟨0x80110, 1, 0x1, 1, 0x1, 0x0, [⟨27, 16, .ro, false, 0, 4095⟩, ⟨11, 0, .ro, false, 0, 4095⟩]⟩,
  /- CE_CNT_x -/ ⟨0x80120, 5, 0x4, 1, 0x1, 0x0, [⟨31, 0, .ro, false, 0, 4294967295⟩]⟩,
  /- CE_CNT_CLR -/ ⟨0x8013c, 1, 0x1, 1, 0x1, 0x0, [⟨0, 0, .wo, false, 0, 1⟩]⟩,
  /- CE_INJ_CTRL -/ ⟨0x80140, 1, 0x1, 1, 0x1, 0x0, [⟨31, 31, .wo, false, 0, 1⟩, ⟨30, 30, .wo, false, 0, 1⟩, ⟨29, 29, .ro, false, 0, 1⟩, ⟨28, 28, .w1c, false, 0, 1⟩, ⟨27, 27, .w1c, false, 0, 1⟩, ⟨9, 8, .rw, false, 0, 3⟩, ⟨5, 4, .rw, false, 0, 3⟩, ⟨1, 0, .rw, false, 0, 3⟩]⟩,
  /- CE_INJ_AMP -/ ⟨0x80144, 1, 0x1, 1, 0x1, 0x0, [⟨31, 0, .rw, false, 0, 4294967295⟩]⟩,
  /- CE_INJ_F0 -/ ⟨0x80148, 2, 0x4, 1, 0x1, 0x0, [⟨31, 0, .rw, false, 0, 2147483647⟩]⟩,
  /- CE_INJ_LEN -/ ⟨0x80150, 1, 0x1, 1, 0x1, 0x1, [⟨23, 0, .rw, false, 1, 16777215⟩]⟩,
  /- CE_INJ_PRBS -/ ⟨0x80154, 1, 0x1, 1, 0x1, 0x17fff, [⟨31, 16, .rw, false, 1, 65535⟩, ⟨14, 0, .rw, false, 1, 32767⟩]⟩,
  /- CE_CAPT_CTRL -/ ⟨0x80160, 1, 0x1, 1, 0x1, 0x1, [⟨31, 31, .wo, false, 0, 1⟩, ⟨30, 30, .wo, false, 0, 1⟩, ⟨29, 29, .ro, false, 0, 1⟩, ⟨28, 28, .ro, false, 0, 1⟩, ⟨27, 24, .rw, false, 0, 15⟩, ⟨18, 16, .rw, false, 0, 7⟩, ⟨15, 0, .rw, false, 1, 65535⟩]⟩,
  /- CE_CAPT_SEL -/ ⟨0x80164, 1, 0x1, 1, 0x1, 0x60800, [⟨28, 24, .rw, false, 0, 22⟩, ⟨20, 16, .rw, false, 0, 22⟩, ⟨12, 8, .rw, false, 0, 22⟩, ⟨4, 0, .rw, false, 0, 22⟩]⟩,
  /- CE_CAPT_PRE -/ ⟨0x80168, 1, 0x1, 1, 0x1, 0x0, [⟨13, 0, .rw, false, 0, 16383⟩]⟩,
  /- CE_CAPT_TLVL -/ ⟨0x8016c, 1, 0x1, 1, 0x1, 0x0, [⟨31, 0, .rw, false, 0, 4294967295⟩]⟩,
  /- CE_CAPT_TS -/ ⟨0x80170, 2, 0x4, 1, 0x1, 0x0, [⟨31, 0, .ro, false, 0, 4294967295⟩]⟩,
  /- CE_CAPT_FIRST -/ ⟨0x80178, 1, 0x1, 1, 0x1, 0x0, [⟨13, 0, .ro, false, 0, 16383⟩]⟩,
  /- CE_AT_CTRL -/ ⟨0x80180, 1, 0x1, 1, 0x1, 0x208, [⟨31, 31, .wo, false, 0, 1⟩, ⟨30, 30, .wo, false, 0, 1⟩, ⟨9, 9, .rw, false, 0, 1⟩, ⟨7, 6, .rw, false, 0, 3⟩, ⟨5, 0, .rw, false, 2, 32⟩]⟩,
  /- CE_AT_H -/ ⟨0x80184, 1, 0x1, 1, 0x1, 0x0, [⟨31, 0, .rw, false, 0, 4294967295⟩]⟩,
  /- CE_AT_EPS -/ ⟨0x80188, 1, 0x1, 1, 0x1, 0x0, [⟨31, 0, .rw, false, 0, 4294967295⟩]⟩,
  /- CE_AT_EMAX -/ ⟨0x8018c, 1, 0x1, 1, 0x1, 0x7fffffff, [⟨31, 0, .rw, false, 0, 4294967295⟩]⟩,
  /- CE_AT_MAXS -/ ⟨0x80190, 1, 0x1, 1, 0x1, 0xffffff, [⟨23, 0, .rw, false, 1, 16777215⟩]⟩,
  /- CE_AT_STAT -/ ⟨0x80194, 1, 0x1, 1, 0x1, 0x0, [⟨4, 4, .ro, false, 0, 1⟩, ⟨3, 0, .ro, false, 0, 15⟩]⟩,
  /- CE_AT_TU -/ ⟨0x80198, 1, 0x1, 1, 0x1, 0x0, [⟨31, 0, .ro, false, 0, 4294967295⟩]⟩,
  /- CE_AT_A -/ ⟨0x8019c, 1, 0x1, 1, 0x1, 0x0, [⟨31, 0, .ro, false, 0, 4294967295⟩]⟩,
  /- CE_AT_DC -/ ⟨0x801a0, 1, 0x1, 1, 0x1, 0x0, [⟨31, 0, .ro, false, 0, 4294967295⟩]⟩,
  /- CE_AT_KU -/ ⟨0x801a4, 1, 0x1, 1, 0x1, 0x0, [⟨31, 0, .ro, false, 0, 4294967295⟩]⟩,
  /- CE_AT_PHI -/ ⟨0x801a8, 1, 0x1, 1, 0x1, 0x0, [⟨15, 0, .ro, false, 0, 65535⟩]⟩,
  /- CE_OSC_CTRL -/ ⟨0x801c0, 1, 0x1, 1, 0x1, 0x80010, [⟨31, 31, .w1c, false, 0, 1⟩, ⟨23, 16, .rw, false, 2, 255⟩, ⟨15, 12, .rw, false, 0, 15⟩, ⟨11, 10, .rw, false, 0, 2⟩, ⟨5, 1, .rw, false, 0, 22⟩, ⟨0, 0, .rw, false, 0, 1⟩]⟩,
  /- CE_OSC_THR -/ ⟨0x801c4, 1, 0x1, 1, 0x1, 0x1000000, [⟨31, 0, .rw, false, 0, 4294967295⟩]⟩,
  /- CE_OSC_REF -/ ⟨0x801c8, 1, 0x1, 1, 0x1, 0x0, [⟨31, 0, .rw, false, 0, 4294967295⟩]⟩,
  /- CE_OSC_WIN -/ ⟨0x801cc, 1, 0x1, 1, 0x1, 0x4e20, [⟨15, 0, .rw, false, 1, 65535⟩]⟩,
  /- CE_OSC_CNT -/ ⟨0x801d0, 1, 0x1, 1, 0x1, 0x0, [⟨31, 31, .wo, false, 0, 1⟩, ⟨30, 0, .ro, false, 0, 2147483647⟩]⟩,
  /- CE_COG_i -/ ⟨0x90000, 1024, 0x4, 1, 0x1, 0x0, [⟨15, 0, .rw, false, 0, 65535⟩]⟩,
  /- CE_FRIC_i -/ ⟨0x91000, 1024, 0x4, 1, 0x1, 0x0, [⟨15, 0, .rw, false, 0, 65535⟩]⟩]

/-- Registers of the block group Control. -/
def regsControl2 : List RegSpec := [
  /- CE_COEF_M -/ ⟨0xa0000, 32, 0x40, 5, 0x8, 0x0, [⟨31, 0, .rw, false, 0, 4294967295⟩]⟩,
  /- CE_COEF_K -/ ⟨0xa0004, 32, 0x40, 5, 0x8, 0x0, [⟨4, 0, .rw, false, 0, 31⟩]⟩,
  /- CE_COEF_MODE -/ ⟨0xa0028, 32, 0x40, 1, 0x1, 0x0, [⟨2, 2, .rw, false, 0, 1⟩, ⟨1, 1, .rw, false, 0, 1⟩, ⟨0, 0, .rw, false, 0, 1⟩]⟩,
  /- CE_COEF_RES -/ ⟨0xa002c, 32, 0x40, 5, 0x4, 0x0, [⟨31, 0, .ro, false, 0, 4294967295⟩]⟩,
  /- CE_CAPT_BUF -/ ⟨0xc0000, 65536, 0x4, 1, 0x1, 0x0, [⟨31, 0, .ro, false, 0, 4294967295⟩]⟩]

/-- Registers of the block group Partition. -/
def regsPartition : List RegSpec := [
  /- PTn_CTRL -/ ⟨0x100000, 32, 0x1000, 1, 0x1, 0x0, [⟨4, 4, .wo, false, 0, 1⟩, ⟨3, 3, .wo, false, 0, 1⟩, ⟨2, 2, .wo, false, 0, 1⟩, ⟨1, 1, .rw, false, 0, 1⟩, ⟨0, 0, .rw, true, 0, 1⟩]⟩,
  /- PTn_STAT -/ ⟨0x100004, 32, 0x1000, 1, 0x1, 0x0, [⟨23, 16, .ro, false, 0, 255⟩, ⟨8, 8, .w1c, false, 0, 1⟩, ⟨7, 7, .ro, false, 0, 1⟩, ⟨6, 6, .ro, false, 0, 1⟩, ⟨5, 5, .ro, false, 0, 1⟩, ⟨4, 4, .ro, false, 0, 1⟩, ⟨2, 0, .ro, false, 0, 7⟩]⟩,
  /- PTn_EN_AT_LO -/ ⟨0x100008, 32, 0x1000, 1, 0x1, 0x0, [⟨31, 0, .rw, false, 0, 4294967295⟩]⟩,
  /- PTn_EN_AT_HI -/ ⟨0x10000c, 32, 0x1000, 1, 0x1, 0x0, [⟨15, 0, .rw, false, 0, 65535⟩]⟩,
  /- PTn_WDOG -/ ⟨0x100010, 32, 0x1000, 1, 0x1, 0x0, [⟨15, 0, .ro, false, 0, 65535⟩]⟩,
  /- PTn_DROP -/ ⟨0x100014, 32, 0x1000, 1, 0x1, 0x0, [⟨31, 0, .ro, false, 0, 4294967295⟩]⟩,
  /- PTn_LEDGER_STAT -/ ⟨0x100040, 32, 0x1000, 1, 0x1, 0x0, [⟨31, 16, .ro, false, 0, 65535⟩, ⟨15, 2, .ro, false, 0, 16383⟩, ⟨0, 0, .wo, false, 0, 1⟩]⟩,
  /- PTn_LEDGER_PEAK -/ ⟨0x100044, 32, 0x1000, 1, 0x1, 0x0, [⟨25, 21, .ro, false, 0, 31⟩, ⟨20, 16, .ro, false, 0, 31⟩, ⟨15, 0, .ro, false, 0, 65535⟩]⟩,
  /- PTn_PLAN_ID_LO -/ ⟨0x100048, 32, 0x1000, 1, 0x1, 0x0, [⟨31, 0, .ro, false, 0, 4294967295⟩]⟩,
  /- PTn_PLAN_ID_HI -/ ⟨0x10004c, 32, 0x1000, 1, 0x1, 0x0, [⟨31, 0, .ro, false, 0, 4294967295⟩]⟩,
  /- PTn_PLAN_STAT -/ ⟨0x100050, 32, 0x1000, 1, 0x1, 0x0, [⟨15, 8, .ro, false, 0, 255⟩, ⟨0, 0, .ro, false, 0, 1⟩]⟩]

/-- Registers of the block group Hub. -/
def regsHub : List RegSpec := [
  /- DB_CTRL -/ ⟨0x130000, 1, 0x1, 1, 0x1, 0x0, [⟨3, 3, .rw, false, 0, 1⟩, ⟨2, 2, .rw, false, 0, 1⟩, ⟨1, 1, .rw, false, 0, 1⟩]⟩,
  /- DB_STAT -/ ⟨0x130004, 1, 0x1, 1, 0x1, 0x0, [⟨2, 0, .ro, false, 0, 7⟩]⟩,
  /- DB_RELAY_TMO -/ ⟨0x130010, 1, 0x1, 1, 0x1, 0x3e8, [⟨15, 0, .rw, false, 1, 65535⟩]⟩,
  /- DB_STEP_TMO -/ ⟨0x130014, 1, 0x1, 1, 0x1, 0x400, [⟨15, 0, .rw, false, 1, 65535⟩]⟩,
  /- DB_MWDOG_CFG -/ ⟨0x130020, 1, 0x1, 1, 0x1, 0x3e8, [⟨15, 0, .rw, false, 0, 65535⟩]⟩,
  /- DB_MWDOG_KICK -/ ⟨0x130024, 1, 0x1, 1, 0x1, 0x0, [⟨0, 0, .wo, false, 0, 1⟩]⟩,
  /- DB_MWDOG_STAT -/ ⟨0x130028, 1, 0x1, 1, 0x1, 0x0, [⟨1, 1, .w1c, false, 0, 1⟩, ⟨0, 0, .ro, false, 0, 1⟩]⟩,
  /- DB_VT_TX -/ ⟨0x130030, 1, 0x1, 1, 0x1, 0x0, [⟨9, 9, .w1c, false, 0, 1⟩, ⟨8, 8, .ro, false, 0, 1⟩, ⟨7, 0, .rw, false, 0, 255⟩]⟩,
  /- DB_VT_RX -/ ⟨0x130034, 1, 0x1, 1, 0x1, 0x0, [⟨9, 9, .w1c, false, 0, 1⟩, ⟨8, 8, .ro, false, 0, 1⟩, ⟨7, 0, .rw, false, 0, 255⟩]⟩,
  /- DB_BSTOP_LO -/ ⟨0x130040, 1, 0x1, 1, 0x1, 0x0, [⟨31, 0, .ro, false, 0, 4294967295⟩]⟩,
  /- DB_BSTOP_HI -/ ⟨0x130044, 1, 0x1, 1, 0x1, 0x0, [⟨15, 0, .ro, false, 0, 65535⟩]⟩,
  /- DB_BSTOP_MASK -/ ⟨0x130048, 1, 0x1, 1, 0x1, 0x0, [⟨31, 0, .ro, false, 0, 4294967295⟩]⟩,
  /- DB_BSTOP_STAT -/ ⟨0x13004c, 1, 0x1, 1, 0x1, 0x0, [⟨2, 2, .w1c, false, 0, 1⟩, ⟨1, 0, .ro, false, 0, 3⟩]⟩,
  /- DB_BSTOP_SINK -/ ⟨0x130050, 1, 0x1, 1, 0x1, 0x200, [⟨31, 16, .rw, false, 0, 65535⟩, ⟨15, 8, .rw, false, 2, 255⟩, ⟨1, 1, .rw, false, 0, 1⟩, ⟨0, 0, .rw, false, 0, 1⟩]⟩,
  /- DB_BSTOP_SINK_MASK -/ ⟨0x130054, 1, 0x1, 1, 0x1, 0x0, [⟨31, 0, .rw, false, 0, 4294967295⟩]⟩,
  /- DB_REL -/ ⟨0x130060, 3, 0x4, 1, 0x1, 0x0, [⟨31, 0, .ro, false, 0, 4294967295⟩]⟩,
  /- DB_HGg -/ ⟨0x130080, 8, 0x8, 1, 0x1, 0x0, [⟨17, 17, .rw, false, 0, 1⟩, ⟨16, 16, .rw, false, 0, 1⟩, ⟨15, 0, .rw, false, 0, 65535⟩]⟩,
  /- DB_HGg_PART -/ ⟨0x130084, 8, 0x8, 1, 0x1, 0x0, [⟨31, 0, .rw, false, 0, 4294967295⟩]⟩,
  /- DB_SPILL_TREE -/ ⟨0x130100, 1, 0x1, 1, 0x1, 0x0, [⟨31, 0, .rw, false, 0, 4294967295⟩]⟩,
  /- DB_SPILL_MASKS -/ ⟨0x130104, 1, 0x1, 1, 0x1, 0x0, [⟨31, 16, .rw, false, 0, 65535⟩, ⟨15, 0, .rw, false, 0, 65535⟩]⟩,
  /- DB_SPILL_PIN -/ ⟨0x130108, 1, 0x1, 1, 0x1, 0x10000, [⟨31, 31, .wo, false, 0, 1⟩, ⟨30, 30, .rw, false, 0, 1⟩, ⟨27, 24, .rw, false, 0, 15⟩, ⟨23, 16, .rw, false, 1, 255⟩, ⟨15, 0, .rw, false, 0, 65535⟩]⟩,
  /- DB_SPILL_FIRE -/ ⟨0x13010c, 1, 0x1, 1, 0x1, 0x0, [⟨15, 0, .wo, false, 0, 65535⟩]⟩,
  /- DB_SPILL_EVSEV -/ ⟨0x130110, 1, 0x1, 1, 0x1, 0x3, [⟨2, 0, .rw, false, 0, 4⟩]⟩,
  /- DB_SPILL_SRCi -/ ⟨0x130200, 101, 0x4, 1, 0x1, 0x0, [⟨15, 0, .rw, false, 0, 65535⟩]⟩,
  /- DB_TRC_Pn_CTRL -/ ⟨0x130400, 32, 0x20, 1, 0x1, 0x0, [⟨31, 31, .rw, false, 0, 1⟩, ⟨30, 30, .rw, false, 0, 1⟩, ⟨29, 28, .ro, false, 0, 3⟩, ⟨27, 24, .rw, false, 0, 15⟩, ⟨23, 20, .rw, false, 0, 15⟩, ⟨19, 19, .rw, false, 0, 1⟩, ⟨18, 18, .rw, false, 0, 1⟩, ⟨15, 0, .rw, false, 0, 65535⟩]⟩,
  /- DB_TRC_Pn_TILES -/ ⟨0x130404, 32, 0x20, 2, 0x4, 0x0, [⟨31, 31, .rw, false, 0, 1⟩, ⟨25, 16, .rw, false, 0, 1023⟩, ⟨15, 15, .rw, false, 0, 1⟩, ⟨9, 0, .rw, false, 0, 1023⟩]⟩,
  /- DB_TRC_Pn_WP -/ ⟨0x13040c, 32, 0x20, 1, 0x1, 0x0, [⟨15, 0, .ro, false, 0, 65535⟩]⟩,
  /- DB_TRC_Pn_LOST -/ ⟨0x130410, 32, 0x20, 1, 0x1, 0x0, [⟨31, 0, .ro, false, 0, 4294967295⟩]⟩,
  /- DB_CNT_x -/ ⟨0x130800, 4, 0x4, 1, 0x1, 0x0, [⟨31, 0, .ro, false, 0, 4294967295⟩]⟩,
  /- DB_CNT_CLR -/ ⟨0x130810, 1, 0x1, 1, 0x1, 0x0, [⟨0, 0, .wo, false, 0, 1⟩]⟩]

/-- Registers of the block group Tile. -/
def regsTile : List RegSpec := [
  /- TLn_STAT -/ ⟨0x140000, 1024, 0x100, 1, 0x1, 0x10, [⟨28, 24, .ro, false, 0, 31⟩, ⟨4, 0, .ro, false, 0, 31⟩]⟩,
  /- TLn_EPC -/ ⟨0x140004, 1024, 0x100, 1, 0x1, 0x0, [⟨11, 0, .rwl, false, 0, 4095⟩]⟩,
  /- TLn_ECAUSE -/ ⟨0x140008, 1024, 0x100, 1, 0x1, 0x0, [⟨15, 15, .rwl, false, 0, 1⟩, ⟨14, 14, .rwl, false, 0, 1⟩, ⟨13, 13, .rwl, false, 0, 1⟩, ⟨10, 8, .ro, false, 0, 7⟩, ⟨7, 0, .ro, false, 0, 255⟩]⟩,
  /- TLn_ETGT -/ ⟨0x14000c, 1024, 0x100, 1, 0x1, 0x0, [⟨11, 0, .rwl, false, 0, 4095⟩]⟩,
  /- TLn_EMODE -/ ⟨0x140010, 1024, 0x100, 1, 0x1, 0x0, [⟨15, 8, .rwl, false, 0, 255⟩, ⟨7, 0, .rwl, false, 0, 255⟩]⟩,
  /- TLn_EADDR -/ ⟨0x140014, 1024, 0x100, 1, 0x1, 0x0, [⟨31, 0, .ro, false, 0, 4294967295⟩]⟩,
  /- TLn_CNT -/ ⟨0x140020, 1024, 0x100, 6, 0x4, 0x0, [⟨31, 0, .ro, false, 0, 4294967295⟩]⟩,
  /- TLn_CNT_CLR -/ ⟨0x14003c, 1024, 0x100, 1, 0x1, 0x0, [⟨0, 0, .wo, false, 0, 1⟩]⟩,
  /- TLn_STICKY_LAST -/ ⟨0x140040, 1024, 0x100, 1, 0x1, 0x0, [⟨31, 0, .ro, false, 0, 4294967295⟩]⟩,
  /- TLn_STICKY_ACC -/ ⟨0x140044, 1024, 0x100, 1, 0x1, 0x0, [⟨24, 16, .w1c, false, 0, 511⟩, ⟨8, 0, .w1c, false, 0, 511⟩]⟩,
  /- DBT_BPk -/ ⟨0x140080, 1024, 0x100, 4, 0x4, 0x0, [⟨31, 31, .rw, false, 0, 1⟩, ⟨30, 30, .rw, false, 0, 1⟩, ⟨29, 29, .rw, false, 0, 1⟩, ⟨27, 12, .rw, false, 0, 65535⟩, ⟨11, 0, .rw, false, 0, 4095⟩]⟩,
  /- DBT_BPk_HITS -/ ⟨0x140090, 1024, 0x100, 4, 0x4, 0x0, [⟨31, 0, .ro, false, 0, 4294967295⟩]⟩,
  /- DBT_WPk -/ ⟨0x1400a0, 1024, 0x100, 2, 0x8, 0x0, [⟨31, 31, .rw, false, 0, 1⟩, ⟨30, 30, .rw, false, 0, 1⟩, ⟨29, 29, .rw, false, 0, 1⟩, ⟨28, 28, .rw, false, 0, 1⟩, ⟨27, 27, .rw, false, 0, 1⟩, ⟨18, 0, .rw, false, 0, 524287⟩]⟩,
  /- DBT_WPk_MASK -/ ⟨0x1400a4, 1024, 0x100, 2, 0x8, 0x7ffff, [⟨18, 0, .rw, false, 0, 524287⟩]⟩,
  /- DBT_STEP -/ ⟨0x1400b0, 1024, 0x100, 1, 0x1, 0x0, [⟨31, 24, .ro, false, 0, 255⟩, ⟨17, 16, .ro, false, 0, 3⟩, ⟨11, 0, .ro, false, 0, 4095⟩]⟩]

/-- Registers of the block group Headgate. -/
def regsHeadgate : List RegSpec := [
  /- HGn_CTRL -/ ⟨0x800000, 16, 0x80000, 1, 0x1, 0x40100, [⟨23, 16, .rw, true, 1, 255⟩, ⟨15, 8, .rw, true, 0, 255⟩, ⟨1, 1, .rwl, false, 0, 1⟩, ⟨0, 0, .rw, true, 0, 1⟩]⟩,
  /- HGn_STAT -/ ⟨0x800004, 16, 0x80000, 1, 0x1, 0x0, [⟨15, 8, .ro, false, 0, 255⟩, ⟨5, 5, .ro, false, 0, 1⟩, ⟨4, 4, .ro, false, 0, 1⟩, ⟨3, 0, .ro, false, 0, 15⟩]⟩,
  /- HGn_PHY -/ ⟨0x800008, 16, 0x80000, 1, 0x1, 0x0, [⟨8, 8, .rwl, false, 0, 1⟩, ⟨7, 4, .rwl, false, 0, 15⟩, ⟨3, 0, .rwl, false, 0, 15⟩]⟩,
  /- HGn_MAC_LO -/ ⟨0x800010, 16, 0x80000, 1, 0x1, 0x0, [⟨31, 0, .rwl, false, 0, 4294967295⟩]⟩,
  /- HGn_MAC_HI -/ ⟨0x800014, 16, 0x80000, 1, 0x1, 0x0, [⟨15, 0, .rwl, false, 0, 65535⟩]⟩,
  /- HGn_ETYPE -/ ⟨0x800018, 16, 0x80000, 1, 0x1, 0x0, [⟨15, 0, .rwl, false, 1536, 65535⟩]⟩,
  /- HGn_DT_SEL -/ ⟨0x80001c, 16, 0x80000, 1, 0x1, 0x0, [⟨0, 0, .rw, true, 0, 1⟩]⟩,
  /- HGn_CNT -/ ⟨0x800100, 16, 0x80000, 15, 0x4, 0x0, [⟨31, 0, .ro, false, 0, 4294967295⟩]⟩,
  /- HGn_CNT_CLR -/ ⟨0x80013c, 16, 0x80000, 1, 0x1, 0x0, [⟨0, 0, .wo, false, 0, 1⟩]⟩,
  /- HGn_STN0 -/ ⟨0x800400, 16, 0x80000, 64, 0x10, 0x0, [⟨9, 9, .w1s, false, 0, 1⟩, ⟨8, 8, .rw, false, 0, 1⟩, ⟨1, 0, .ro, false, 0, 3⟩]⟩,
  /- HGn_STN1 -/ ⟨0x800404, 16, 0x80000, 64, 0x10, 0x0, [⟨31, 0, .rw, false, 0, 4294967295⟩]⟩,
  /- HGn_STN2 -/ ⟨0x800408, 16, 0x80000, 64, 0x10, 0x0, [⟨31, 16, .ro, false, 0, 65535⟩, ⟨15, 0, .rw, false, 0, 65535⟩]⟩,
  /- HGn_STN3 -/ ⟨0x80040c, 16, 0x80000, 64, 0x10, 0x0, [⟨31, 16, .ro, false, 0, 65535⟩, ⟨15, 0, .ro, false, 0, 65535⟩]⟩,
  /- HGn_CTX_LO -/ ⟨0x802000, 16, 0x80000, 1024, 0x8, 0x0, [⟨30, 16, .rw, true, 0, 32767⟩, ⟨14, 8, .rw, true, 0, 127⟩, ⟨7, 4, .rw, true, 0, 15⟩, ⟨3, 3, .rw, true, 0, 1⟩, ⟨2, 2, .rw, true, 0, 1⟩, ⟨1, 1, .rw, true, 0, 1⟩, ⟨0, 0, .rw, true, 0, 1⟩]⟩,
  /- HGn_CTX_HI -/ ⟨0x802004, 16, 0x80000, 1024, 0x8, 0x0, [⟨15, 0, .rw, true, 0, 65535⟩]⟩,
  /- HGn_DT_LO -/ ⟨0x840000, 16, 0x80000, 32768, 0x8, 0x0, [⟨31, 0, .rw, false, 0, 4294967295⟩]⟩,
  /- HGn_DT_HI -/ ⟨0x840004, 16, 0x80000, 32768, 0x8, 0x0, [⟨28, 0, .rw, false, 0, 536870911⟩]⟩]

/-- Registers of the block group Host. -/
def regsHost : List RegSpec := [
  /- VF_RING0+_BASE_LO -/ ⟨0x20001000, 32, 0x1000, 2, 0x40, 0x0, [⟨31, 0, .rwl, false, 0, 4294967295⟩]⟩,
  /- VF_RING0+_BASE_HI -/ ⟨0x20001004, 32, 0x1000, 2, 0x40, 0x0, [⟨31, 0, .rwl, false, 0, 4294967295⟩]⟩,
  /- VF_RING0+_CTRL -/ ⟨0x20001008, 32, 0x1000, 2, 0x40, 0x4000000, [⟨31, 31, .wo, false, 0, 1⟩, ⟨29, 29, .rw, false, 0, 1⟩, ⟨28, 24, .rwl, false, 4, 16⟩, ⟨16, 16, .rw, false, 0, 1⟩, ⟨10, 0, .rw, false, 0, 63⟩]⟩,
  /- VF_RING0+_COAL -/ ⟨0x2000100c, 32, 0x1000, 2, 0x40, 0x1, [⟨31, 16, .rw, false, 0, 65535⟩, ⟨15, 0, .rw, false, 0, 65535⟩]⟩,
  /- VF_RING0+_DEVIDX -/ ⟨0x20001010, 32, 0x1000, 2, 0x40, 0x0, [⟨15, 0, .ro, false, 0, 65535⟩]⟩,
  /- VF_RING0+_STAT -/ ⟨0x20001014, 32, 0x1000, 2, 0x40, 0x0, [⟨7, 4, .ro, false, 0, 15⟩, ⟨3, 3, .w1c, false, 0, 1⟩, ⟨2, 2, .ro, false, 0, 1⟩, ⟨1, 1, .ro, false, 0, 1⟩, ⟨0, 0, .ro, false, 0, 1⟩]⟩,
  /- VF_RING0+_WB_LO -/ ⟨0x20001018, 32, 0x1000, 2, 0x40, 0x0, [⟨31, 0, .rwl, false, 0, 4294967295⟩]⟩,
  /- VF_RING0+_WB_HI -/ ⟨0x2000101c, 32, 0x1000, 2, 0x40, 0x0, [⟨31, 0, .rwl, false, 0, 4294967295⟩]⟩,
  /- VF_RING0+_LOST -/ ⟨0x20001020, 32, 0x1000, 2, 0x40, 0x0, [⟨31, 0, .ro, false, 0, 4294967295⟩]⟩,
  /- VF_RING4_BASE_LO -/ ⟨0x20001100, 32, 0x1000, 1, 0x1, 0x0, [⟨31, 0, .rwl, false, 0, 4294967295⟩]⟩,
  /- VF_RING4_BASE_HI -/ ⟨0x20001104, 32, 0x1000, 1, 0x1, 0x0, [⟨31, 0, .rwl, false, 0, 4294967295⟩]⟩,
  /- VF_RING4_CTRL -/ ⟨0x20001108, 32, 0x1000, 1, 0x1, 0x4000000, [⟨31, 31, .wo, false, 0, 1⟩, ⟨29, 29, .rw, false, 0, 1⟩, ⟨28, 24, .rwl, false, 4, 16⟩, ⟨16, 16, .rw, false, 0, 1⟩, ⟨10, 0, .rw, false, 0, 63⟩]⟩,
  /- VF_RING4_COAL -/ ⟨0x2000110c, 32, 0x1000, 1, 0x1, 0x1, [⟨31, 16, .rw, false, 0, 65535⟩, ⟨15, 0, .rw, false, 0, 65535⟩]⟩,
  /- VF_RING4_DEVIDX -/ ⟨0x20001110, 32, 0x1000, 1, 0x1, 0x0, [⟨15, 0, .ro, false, 0, 65535⟩]⟩,
  /- VF_RING4_STAT -/ ⟨0x20001114, 32, 0x1000, 1, 0x1, 0x0, [⟨7, 4, .ro, false, 0, 15⟩, ⟨3, 3, .w1c, false, 0, 1⟩, ⟨2, 2, .ro, false, 0, 1⟩, ⟨1, 1, .ro, false, 0, 1⟩, ⟨0, 0, .ro, false, 0, 1⟩]⟩,
  /- VF_RING4_WB_LO -/ ⟨0x20001118, 32, 0x1000, 1, 0x1, 0x0, [⟨31, 0, .rwl, false, 0, 4294967295⟩]⟩,
  /- VF_RING4_WB_HI -/ ⟨0x2000111c, 32, 0x1000, 1, 0x1, 0x0, [⟨31, 0, .rwl, false, 0, 4294967295⟩]⟩,
  /- VF_RING4_LOST -/ ⟨0x20001120, 32, 0x1000, 1, 0x1, 0x0, [⟨31, 0, .ro, false, 0, 4294967295⟩]⟩]

/-- Every register of the index (R1107, R1108). -/
def regTable : List RegSpec :=
  regsSystempage ++ regsHostPort ++ regsDump ++ regsDeviceMem ++ regsNme ++ regsEvent ++ regsMerger ++ regsLink ++ regsWeir ++ regsPool ++ regsEncoder ++ regsSpindle ++ regsControl0 ++ regsControl1 ++ regsControl2 ++ regsPartition ++ regsHub ++ regsTile ++ regsHeadgate ++ regsHost

/-- Whether a register of the row stands at offset `o`. -/
def RegSpec.holds (r : RegSpec) (o : Nat) : Bool :=
  decide (r.base ≤ o) &&
    let d := o - r.base
    if r.n2 = 1 then decide (d % r.s1 = 0) && decide (d / r.s1 < r.n1)
    else decide (d / r.s1 < r.n1) && decide (d % r.s1 % r.s2 = 0) && decide (d % r.s1 / r.s2 < r.n2)

/-- The row of the register at offset `o`, if one stands there (R17). -/
def regSpec (o : Nat) : Option RegSpec := regTable.find? (fun r => r.holds o)

/-- The reset value of the register at offset `o`; 0 where none stands (R17, R63). -/
def regReset (o : Nat) : Word :=
  match regSpec o with
  | some r => BitVec.ofNat 32 r.reset
  | none => 0

end Sys2Proof.Machine
end

