-- ==== Sys2Proof/Syntax.lean ====
section
/-! DEFINITION. The commands of the block: one constructor per row of the table of operations and events. -/
namespace Sys2Proof

/-- A command: an operation from outside or an event of the Plezor, whole and indivisible (one row of the table each). -/
inductive Instr where
  /-- REGISTER_WRITE (R12). A write to a register field that has no row of its own takes effect under its access code, with staging, RWL discard and range rejection. `f`: the function; `off`: its BAR0 offset; `bytes`: the access width. -/
  | registerWrite (f off bytes : Nat) (v : Dword)
  /-- COUNTER_CLEAR (R1049). A write to a counter-clear field clears the named counters 8 tc after acceptance. `f`: the function; `off`: its BAR0 offset. -/
  | counterClear (f off : Nat) (v : Word)
  /-- EN_WRITE (R52). A write of a block's EN field starts, drains or cancels the block, or sets or clears EN_PENDING while it drains. -/
  | enWrite (f : Nat) (b : Blk) (en : Bool)
  /-- STAGED_COMMIT (R43). Staged writes commit at the first eligible pass boundary, or at PTn_EN_AT, and change block states. -/
  | stagedCommit
  /-- DRAIN_END (R55). A draining block whose accepted work is complete becomes OFF, or ON when EN_PENDING is 1. -/
  | drainEnd (b : Blk)
  /-- DRAIN_TIMEOUT (R62). A drain that has not ended at its bound stops the block, discards its work and raises a CONT event. -/
  | drainTimeout (b : Blk)
  /-- PASS_BOUNDARY (R88). At each pass boundary the Plezor evaluates the ledger, stops the epoch if due and starts the new pass. -/
  | passBoundary
  /-- PASS_WATCHDOG_EXPIRY (R221). A partition's watchdog count reaches 0 and the partition halts with cause 0x04. -/
  | passWatchdogExpiry (p : Nat)
  /-- ROOT_PLL_LOCK (R78). The root PLL locks after release of CHIP reset and the ROOT-derived clocks start. -/
  | rootPllLock
  /-- ROOT_LOL (R79). On loss of root PLL lock the Plezor drops MOT_EN, stops clocks, enters bypass and raises a CHIP event. -/
  | rootLol
  /-- REFCLK_LOSS (R82). On loss of REFCLK every clock but TCK and the PCIe clock stops. -/
  | refclkLoss
  /-- TIME_MESSAGE_INTERVAL (R94). Each interval of 8,192 tc each end of a link sends STAMP, COARSE and EPOCH time messages. -/
  | timeMessageInterval
  /-- TIME_STAMP_MESSAGE (R92). A received STAMP time message records t2 and is answered with an ECHO. -/
  | timeStampMessage (link depth seq t1 : Nat)
  /-- ECHO (R96). A received ECHO yields delay and offset and feeds the discipline filter. -/
  | echo (link depth seq res t2 : Nat)
  /-- COARSE (R102). A COARSE message moves a FREE member to ACQUIRE and loads FTC. -/
  | coarse (link depth hi : Nat)
  /-- EPOCH_MESSAGE (R92). A received EPOCH message supplies the upstream's PLEN and DIGEST for the start check. -/
  | epochMessage (link depth plen digest : Nat)
  /-- UPSTREAM_LOST (R106). A lost upstream is replaced by UP_ALT or puts the member in HOLDOVER. -/
  | upstreamLost
  /-- TIME_LOST (R108). HOLDOVER that lasts TIM_HOLD_MAX passes becomes LOST, raising a CHIP event and stopping the epoch. -/
  | timeLost
  /-- ARM (R111). A write that sets TIM_CTRL.ARM arms the epoch start, or fails at once if late. -/
  | arm
  /-- EPOCH_START (R112). When FTC reaches TIM_EPOCH_AT with ARM set, the epoch starts if every condition holds. -/
  | epochStart
  /-- STOP_ARM (R116). A write of STOP_ARM arms the epoch stop at TIM_STOP_AT. -/
  | stopArm
  /-- FPLAN_LOAD (R181). The FPLAN_LOAD command starts the loader's checks of a frame plan image. -/
  | fplanLoad
  /-- FPLAN_UNLOAD (R187). The FPLAN_UNLOAD command deactivates the frame plan and discards every partition plan. -/
  | fplanUnload
  /-- PPLAN_LOAD (R909). The PPLAN_LOAD command starts the loader's checks of a partition plan image. -/
  | pplanLoad (fn : Nat)
  /-- LOAD_CHECKS_COMPLETE (R1174). The loader's checks end with a refusal code, an activation, a pending swap or the start of the writes. The image as the host's memory returns it; none when a read fails. -/
  | loadChecksComplete (img : Option Bytes)
  /-- PPLAN_WRITES_COMPLETE (R186). The partition plan's writes complete and the plan is loaded. None when every read succeeds; otherwise the section index of the failing read, and the 64-byte lines of its body already written. -/
  | pplanWritesComplete (fail : Option (Nat × Nat))
  /-- FRAME_PLAN_ACTIVATION (R182). A pending frame plan becomes active at its pass boundary. -/
  | framePlanActivation
  /-- FALLBACK_REFRESH (R188). While no frame plan is in force each pseudo-channel receives a refresh every 4,096 tc. -/
  | fallbackRefresh
  /-- FALLBACK_FINAL_REFRESH (R190). At TIM_EPOCH_AT − 400 tc the fallback engine starts its final refresh. -/
  | fallbackFinalRefresh
  /-- REFRESH_SPAN (R160). A firing REFRESH entry gives its pseudo-channel an all-bank refresh in its slots. The entry of REFRESH. -/
  | refreshSpan (i : Nat)
  /-- RESUME (R218). A write of PTn_CTRL.RESUME ends an error halt of cause 0x02 or 0x04 at a boundary, or is discarded. -/
  | resume (p : Nat)
  /-- PARTITION_RESET (R225). A write of PTn_CTRL.RESET starts a PART reset of the partition, held off during its dump. -/
  | partitionReset (p : Nat)
  /-- PART_RESET_COMPLETE (R226). The PART reset ends with the partition OFF and its tile state cleared. -/
  | partResetComplete (p : Nat)
  /-- AT_EN (R240). A write of PTn_CTRL.AT_EN chooses commit at PTn_EN_AT or under R43 for a waiting write. -/
  | atEn (p : Nat) (on : Bool)
  /-- EN_AT (R239). A write to PTn_EN_AT moves a waiting EN commit to the new pass. -/
  | enAt (p pass : Nat)
  /-- ALU (R262). The ALU operation computes XA op XB into XD. Tile t issues it alone in the bundle at its next address; so for every slot operation below. -/
  | alu (t xd xa xb fn : Nat)
  /-- ADDI (R262). ADDI adds a sign-extended immediate. -/
  | addi (t xd xa imm : Nat)
  /-- ORI (R262). ORI ORs a zero-extended immediate. -/
  | ori (t xd xa imm : Nat)
  /-- LUI (R262). LUI loads an immediate into the upper half. -/
  | lui (t xd imm : Nat)
  /-- BR (R279). BR branches conditionally after one delay bundle. -/
  | br (t cond xa xb tgt : Nat)
  /-- JR (R279). JR branches to a register address after one delay bundle. -/
  | jr (t xd xa : Nat)
  /-- BAL (R279). BAL branches and links after one delay bundle. -/
  | bal (t xd tgt : Nat)
  /-- LOOP (R283). LOOP starts a hardware loop, or skips its body with count 0. SRC 1 takes the count from X(xc), SRC 0 is cnt; last is END. -/
  | loop (t lvl : Nat) (src : Bool) (xc cnt last : Nat)
  /-- LOOP_END (R283). When LCNT runs out at LEND the loop ends and execution continues after it. The bundle at LEND is the one in the tile's instruction RAM. -/
  | loopEnd (t : Nat)
  /-- SETMODE (R289). SETMODE sets MODE from the second bundle after it. -/
  | setmode (t : Nat) (src : Bool) (xa imm : Nat)
  /-- WAITP (R291). WAITP ends the tile's work in the pass and names the next pass's start. -/
  | waitp (t tgt : Nat)
  /-- WAITA (R262). WAITA issues once an arrival counter reaches N. -/
  | waita (t ch n : Nat)
  /-- ACLR (R262). ACLR clears arrival counters. -/
  | aclr (t mask : Nat)
  /-- KICK (R221). KICK reloads the partition's pass watchdog at the next boundary. -/
  | kick (t : Nat)
  /-- TRAP (R297). TRAP raises the TRAP exception with its code. -/
  | trap (t code : Nat)
  /-- CSRR (R263). CSRR reads a tile register into XD. -/
  | csrr (t xd idx : Nat)
  /-- CSRW (R263). CSRW writes a tile register. -/
  | csrw (t xa idx : Nat)
  /-- WAITT (R262). WAITT issues once the pass offset reaches OFF. -/
  | waitt (t off : Nat)
  /-- LDW (R264). LDW loads 32 bits from tile memory. imm is IMM11 as it stands, 11 bits; so below. -/
  | ldw (t rd xa imm : Nat)
  /-- STW (R264). STW stores 32 bits to tile memory. -/
  | stw (t xa xb imm : Nat)
  /-- VLD (R264). VLD loads 256 bytes into a vector register. -/
  | vld (t rd xa imm : Nat)
  /-- VST (R264). VST stores a vector register. -/
  | vst (t rd xa imm : Nat)
  /-- MLDW (R265). MLDW fills weight element bytes of a weight buffer. -/
  | mldw (t b g xa imm : Nat)
  /-- MLDS (R265). MLDS fills the scale bytes of a weight buffer. -/
  | mlds (t b xa imm : Nat)
  /-- MRD (R264). MRD reads a matrix accumulator row into a vector register. -/
  | mrd (t rd k row : Nat)
  /-- VBC (R264). VBC broadcasts a scalar to every lane. -/
  | vbc (t rd xa : Nat)
  /-- VEXT (R264). VEXT extracts one lane to a scalar register. -/
  | vext (t rd va lane : Nat)
  /-- VINS (R264). VINS inserts a scalar into one lane. -/
  | vins (t rd xa lane : Nat)
  /-- NSEND (R266). NSEND queues four flits of a vector register for the NoC. -/
  | nsend (t rd xa xb : Nat)
  /-- NMEQ (R270). NMEQ hands a 64-byte descriptor to a lead NME. -/
  | nmeq (t xa xb : Nat)
  /-- DECW (R271). DECW sends an event reference and verdict to the decision merger. -/
  | decw (t xa xb : Nat)
  /-- TRIMW (R272). TRIMW writes the plan trim port. -/
  | trimw (t xa : Nat)
  /-- VADD (R273). VADD adds vector lanes. ty is T: 0 INT32, 1 FP32. -/
  | vadd (t vd va vb km ty : Nat)
  /-- VSUB (R273). VSUB subtracts vector lanes. -/
  | vsub (t vd va vb km ty : Nat)
  /-- VMUL (R273). VMUL multiplies vector lanes. -/
  | vmul (t vd va vb km ty : Nat)
  /-- VFMA (R327). VFMA fuses multiply and add with one rounding. -/
  | vfma (t vd va vb km ty : Nat)
  /-- VMIN (R328). VMIN takes the lane minimum. -/
  | vmin (t vd va vb km ty : Nat)
  /-- VMAX (R328). VMAX takes the lane maximum. -/
  | vmax (t vd va vb km ty : Nat)
  /-- VLOG (R273). VLOG performs a bitwise logic operation. -/
  | vlog (t vd va vb km fn : Nat)
  /-- VSH (R273). VSH shifts lanes. -/
  | vsh (t vd va vb km fn : Nat)
  /-- VCMP (R273). VCMP compares lanes into a mask register. -/
  | vcmp (t vd va vb km ty fn : Nat)
  /-- VSEL (R273). VSEL selects lanes by mask. -/
  | vsel (t vd va vb km : Nat)
  /-- VCVT (R330). VCVT converts lanes between formats. -/
  | vcvt (t vd va km fn : Nat)
  /-- VPERM (R273). VPERM permutes lanes. -/
  | vperm (t vd va vb km : Nat)
  /-- WACC (R341). WACC adds into an exact wide accumulator. -/
  | wacc (t w va km ty fn : Nat)
  /-- WFOLD (R343). WFOLD sums all lanes of a wide accumulator into lane 0. -/
  | wfold (t w : Nat)
  /-- WRD (R342). WRD reads a wide accumulator, rounded or as slices. -/
  | wrd (t vd w km ty fn : Nat)
  /-- WCLR (R273). WCLR clears selected wide-accumulator lanes. -/
  | wclr (t w km : Nat)
  /-- MMA (R331). MMA accumulates an MX matrix product into an accumulator row. -/
  | mma (t k r vs q b xs : Nat)
  /-- MCLR (R275). MCLR clears a matrix accumulator. -/
  | mclr (t k : Nat)
  /-- MCLRR (R275). MCLRR clears one accumulator row. -/
  | mclrr (t k r : Nat)
  /-- END_OF_PASS_WAIT (R291). A tile enters its end-of-pass wait once every earlier operation is complete. -/
  | endOfPassWait (t : Nat)
  /-- FLIT_INJECTION (R266). A queued flit leaves in the next phase the partition owns at the router. -/
  | flitInjection (t : Nat)
  /-- FLIT_WRITE (R267). A flit is written into the destination tile memory and increments its ACNT. The flit due first. -/
  | flitWrite
  /-- TILE_QUIET (R300). A halted tile's pending results and send queue are done and QUIET becomes 1. -/
  | tileQuiet (t : Nat)
  /-- PCS_LOCK (R389). A change of PCS lock on a headgate's lanes raises a NOTE event. The new lock, and whether a frame was in progress when it fell. -/
  | pcsLock (hg : Nat) (lock cut : Bool)
  /-- DATA_FRAME (R421). A received DATA frame is tested, dressed and offered for landing or dropped and counted. What FEC did since the headgate's frame before, and the frame's bytes: in native mode the seven start bytes, the native frame and its CRC-32C; in Ethernet mode the MAC frame from DA to FCS. So for every frame received. -/
  | dataFrame (hg : Nat) (fec : FecSeen) (raw : Bytes)
  /-- CAL_FRAME (R417). A received CAL frame lands raw when its context allows. -/
  | calFrame (hg : Nat) (fec : FecSeen) (raw : Bytes)
  /-- HEARTBEAT (R406). A HEARTBEAT from an ACTIVE station is accepted and its status stored. -/
  | heartbeat (hg : Nat) (fec : FecSeen) (raw : Bytes)
  /-- NOTICE (R400). A NOTICE from a station raises a NOTE event. -/
  | notice (hg : Nat) (fec : FecSeen) (raw : Bytes)
  /-- DECISION_RECEIVED (R397). A DECISION frame received from a station is dropped and counted. -/
  | decisionReceived (hg : Nat) (fec : FecSeen) (raw : Bytes)
  /-- LANDING_LINE_WRITE (R430). The router writes one landing line in a LAND phase. -/
  | landingLineWrite (t : Nat)
  /-- LANDING_INSTANT (R429). At L the frame belongs to its pass and ACNT7 of its tile increments. -/
  | landingInstant
  /-- STATION_EN (R404). A write of a station's EN makes it ACTIVE or OFF. -/
  | stationEn (hg stn : Nat) (en : Bool)
  /-- REJOIN (R408). A write of REJOIN makes an ABSENT station ACTIVE and sends NOTICE REJOINED. -/
  | rejoin (hg stn : Nat)
  /-- STATION_ABSENT (R405). A station whose MISSED count reaches STN_TIMEOUT becomes ABSENT. -/
  | stationAbsent (hg stn : Nat)
  /-- VERDICT_ARRIVAL (R461). A DECW verdict reaches the merger and joins its pending entry or is counted. -/
  | verdictArrival
  /-- DUE_RELEASE (R464). At an entry's due release boundary the merger closes and decides it. -/
  | dueRelease
  /-- GLOBAL_DECISION (R466). A GMERGE entry is decided WAIT tc after its due release. -/
  | globalDecision
  /-- GUARD_DEFAULT (R477). At the guard instant a late entry is decided with the default and REASON LATE. -/
  | guardDefault
  /-- DECISION_HANDOFF (R481). DECISION frames are handed to the headgate and transmitted. -/
  | decisionHandoff
  /-- FILL (R527). The NME FILL operation writes a pattern over a range. Lead NME nme accepts the oldest descriptor of partition p; so for the five that follow. -/
  | fill (nme p : Nat)
  /-- COPY (R527). The NME COPY operation copies a range, encrypting into pool memory. -/
  | copy (nme p : Nat)
  /-- COMPARE (R527). The NME COMPARE operation compares two ranges line by line. -/
  | compare (nme p : Nat)
  /-- REDUCE (R528). The NME REDUCE operation combines source elements into the destination. -/
  | reduce (nme p : Nat)
  /-- TLOAD (R527). The NME TLOAD operation copies device memory into tile memory. -/
  | tload (nme p : Nat)
  /-- TSTORE (R527). The NME TSTORE operation copies tile memory into device memory. -/
  | tstore (nme p : Nat)
  /-- NME_SLOT_TRANSFER (R532). In an owned HBM slot an operation reads or writes up to 15 beats. Partition, pseudo-channel, slot of the pass in progress. -/
  | nmeSlotTransfer (p q slot : Nat)
  /-- NME_TILE_LINE (R533). TLOAD writes or TSTORE reads one tile-memory line in an owned phase. -/
  | nmeTileLine (t : Nat)
  /-- NME_COMPLETION (R536). The completion record is written and ACNT incremented after an operation ends. -/
  | nmeCompletion (p : Nat)
  /-- PCH_FAILED (R513). A pseudo-channel becomes failed and raises a CONT event. The cause: 0 training, 1 threshold, 2 software. -/
  | pchFailed (q why : Nat)
  /-- SOFT_REPAIR (R516). A soft row repair maps a row to a spare until POR. -/
  | softRepair (q bank row : Nat)
  /-- HARD_REPAIR (R516). A hard row repair maps a row permanently. -/
  | hardRepair (q bank row : Nat)
  /-- REPAIR_DONE (R516). A row repair ends and HB_RPR_STAT reports the result. The device's answer. -/
  | repairDone (result spares : Nat)
  /-- PATROL_SCRUB (R518). The patrol scrubber reads or rewrites beats in unused CULV slots. A CULV slot of the pass in progress that the culvert leaves unused. -/
  | patrolScrub (slot : Nat)
  /-- POOL_READ (R558). A CXL.mem read request is decoded and granted or completed as an unmapped access. The SPID, if the request carries one; the host physical address; the tag of its answer. -/
  | poolRead (spid : Option Nat) (hpa tag : Nat)
  /-- POOL_WRITE (R558). A CXL.mem write request is decoded and granted or completed as an unmapped access. As POOL_READ, with the line's data and its byte enables. -/
  | poolWrite (spid : Option Nat) (hpa tag : Nat) (data : BitVec 512) (mask : Dword)
  /-- WEIR_REFILL (R585). Every 64 tc each weir's token count is refilled. -/
  | weirRefill
  /-- WEIR_PASSAGE (R587). A waiting request passes its weir and becomes lines queued on pseudo-channels. -/
  | weirPassage (h : Nat)
  /-- POOL_SLOT (R588). A POOL slot is filled with host lines or a scrub write. Pseudo-channel, slot of the pass in progress. -/
  | poolSlot (q slot : Nat)
  /-- POOL_READ_DATA (R589). Read data of a served line reaches the endpoint and is answered. -/
  | poolReadData
  /-- POOL_WRITE_COMPLETION (R589). A write's completion leaves the endpoint after its slot ends. -/
  | poolWriteCompletion
  /-- IDENTIFY (R551). The Identify mailbox command returns device identity. -/
  | identify
  /-- BACKGROUND_OPERATION_STATUS (R551). The Background Operation Status command always reports none. -/
  | backgroundOperationStatus
  /-- GET_EVENT_RECORDS (R553). Get Event Records returns a host's CXL event records. The host identity, and its log: 0 Informational, 1 Warning, 2 Failure, 3 Fatal, 4 Dynamic Capacity. -/
  | getEventRecords (h log : Nat)
  /-- CLEAR_EVENT_RECORDS (R553). Clear Event Records clears a host's CXL event records. The n oldest records of a log. -/
  | clearEventRecords (h log n : Nat)
  /-- GET_EVENT_INTERRUPT_POLICY (R551). Get Event Interrupt Policy returns the policy. -/
  | getEventInterruptPolicy
  /-- SET_EVENT_INTERRUPT_POLICY (R551). Set Event Interrupt Policy sets the policy. One byte per log. -/
  | setEventInterruptPolicy (pol : Nat)
  /-- GET_TIMESTAMP (R551). Get Timestamp returns the CXL timestamp base. -/
  | getTimestamp
  /-- SET_TIMESTAMP (R551). Set Timestamp sets the CXL timestamp base. -/
  | setTimestamp (ns : Nat)
  /-- GET_SUPPORTED_LOGS (R551). Get Supported Logs lists the Command Effects Log. -/
  | getSupportedLogs
  /-- GET_LOG (R551). Get Log returns the Command Effects Log. 0 is the Command Effects Log. -/
  | getLog (which : Nat)
  /-- IDENTIFY_MEMORY_DEVICE (R551). Identify Memory Device reports zero static capacity. -/
  | identifyMemoryDevice
  /-- GET_DYNAMIC_CAPACITY_CONFIGURATION (R551). Get Dynamic Capacity Configuration reports region 0. -/
  | getDynamicCapacityConfiguration (h : Nat)
  /-- GET_DYNAMIC_CAPACITY_EXTENT_LIST (R551). Get Dynamic Capacity Extent List returns the host's extents. -/
  | getDynamicCapacityExtentList (h : Nat)
  /-- ADD_DYNAMIC_CAPACITY_RESPONSE (R568). A host's Add Dynamic Capacity Response accepts or declines offered extents. The extents accepted, as DPA and length. -/
  | addDynamicCapacityResponse (h : Nat) (exts : List (Nat × Nat))
  /-- EXTENT_MAP (R568). An accepted extent receives its host-range entry and becomes MAPPED or shared 64 tc later. -/
  | extentMap
  /-- RELEASE_DYNAMIC_CAPACITY (R571). A host's Release Dynamic Capacity starts the unmap of a named extent. -/
  | releaseDynamicCapacity (h : Nat) (exts : List (Nat × Nat))
  /-- GET_DCD_INFO (R551). Get DCD Info returns DCD information to the fabric manager. -/
  | getDcdInfo
  /-- GET_HOST_DC_REGION_CONFIGURATION (R551). Get Host DC Region Configuration reports per host identity. -/
  | getHostDcRegionConfiguration (h : Nat)
  /-- SET_DC_REGION_CONFIGURATION (R551). Set DC Region Configuration accepts only a 256 MiB block size. -/
  | setDcRegionConfiguration (region block : Nat)
  /-- GET_DC_REGION_EXTENT_LISTS (R551). Get DC Region Extent Lists reports extents per host identity. -/
  | getDcRegionExtentLists (h : Nat)
  /-- INITIATE_DYNAMIC_CAPACITY_ADD (R566). Initiate Dynamic Capacity Add offers granules to a host or shared region. Policy 0 Free, 1 Contiguous, 2 Prescriptive (its extents named), 3 Enable Shared Access. -/
  | initiateDynamicCapacityAdd (h len policy : Nat) (shared : Bool) (tag : Nat) (exts : List (Nat × Nat))
  /-- INITIATE_DYNAMIC_CAPACITY_RELEASE (R571). Initiate Dynamic Capacity Release makes named extents RELEASING. -/
  | initiateDynamicCapacityRelease (h : Nat) (exts : List (Nat × Nat))
  /-- FORCED_RELEASE (R613). A forced release unmaps an extent with no host acknowledgement. -/
  | forcedRelease (h : Nat) (exts : List (Nat × Nat))
  /-- HOST_PROXY (R552). Host Proxy executes an inner command on behalf of a host identity. -/
  | hostProxy (h : Nat) (cmd : InnerCmd)
  /-- UNMAP (R607). At the unmap instant a host-range entry is removed and unaccepted requests complete unmapped. -/
  | unmap
  /-- OFFER_TIMEOUT (R569). An offer with no response within OFFER_TMO becomes FREE. -/
  | offerTimeout
  /-- SCRUB_COMPLETE (R565). A granule's scrub ends and it becomes FREE or BROKEN. The stack. -/
  | scrubComplete (st : Nat)
  /-- SR_DEFINE (R573). Setting PO_SRr_CTRL.DEF defines a shared region. -/
  | srDefine (r : Nat)
  /-- SR_DELETE (R577). Writing DEL scrubs a memberless shared region and undefines it. -/
  | srDelete (r : Nat)
  /-- KEY_LOAD (R581). A key LOAD command loads a key slot from PO_KEY_DATA. Kind 0 host, 1 shared region. -/
  | keyLoad (kind slot : Nat)
  /-- KEY_ERASE (R583). A key ERASE command empties a key slot not in use. -/
  | keyErase (kind slot : Nat)
  /-- KILL (R619). A KILL of a host identity quarantines its extents and stops its weir. -/
  | kill (h : Nat)
  /-- REVIVE (R624). A REVIVE clears DEAD for a host holding nothing. -/
  | revive (h : Nat)
  /-- PAGE_MOVE (R913). The PAGE_MOVE command is checked and queued on a page mover. The bytes of the first page as the host's memory returns them, for a move into the pool; none when the read fails. -/
  | pageMove (fn : Nat) (page : Option Bytes)
  /-- PAGE_DONE (R593). A page mover completes a page and starts the next or completes the command. The mover, and the bytes of the page that starts next, as for PAGE_MOVE. -/
  | pageDone (m : Nat) (page : Option Bytes)
  /-- ENDPOINT_FATAL (R631). The pool endpoint enters endpoint-fatal state, sends ERR_FATAL and poisons every answer. The cause: 1 CHIP or FAB event, 2 to 5 a table's ECC. -/
  | endpointFatal (cause : Nat)
  /-- ADAPT_COMPLETE (R655). Clock recovery and equalization settle and training moves to ALIGN. -/
  | adaptComplete (l : Nat)
  /-- ALIGN_COMPLETE (R655). Two markers 1,024 codewords apart end ALIGN. The two 64-bit words found, and how many codewords apart. -/
  | alignComplete (m : MarkersSeen)
  /-- IDENT (R657). A received IDENT sideband is checked against the expected peer. The 56-bit payload. -/
  | ident (l pay : Nat)
  /-- MEASURE_COMPLETE (R658). Sixteen delay exchanges end and LKn_DELAY is set or the link faults. t4 − t1 and t3 − t2 of each exchange, in 1/16 tc. -/
  | measureComplete (l : Nat) (ex : List (Nat × Nat))
  /-- LINK_UP (R655). The link becomes UP and parcels flow. -/
  | linkUp (l : Nat)
  /-- TRAIN_TIMEOUT (R659). A link not UP within 25 ms enters FAULT with CAUSE TRAIN. -/
  | trainTimeout (l : Nat)
  /-- PARCEL_LINE_READ (R675). The link engine reads a transmit parcel line in an owned phase. The link and the slot. -/
  | parcelLineRead (l k : Nat)
  /-- PARCEL_TRANSMIT (R674). A frame is sent in its link slot as DATA, HOLE or IDLE. -/
  | parcelTransmit (l : Nat)
  /-- LINK_FRAME (R666). A received frame is assigned to its slot and partition or lost. The command stands at the instant at which the frame is checked: when its first byte reached the balls, in 1/16 tc before that; the fill bytes before it in the stream; its SBCRC and sideband as they arrived, before decoding; the codewords received since the frame before. The action of its sideband is a command of its own. -/
  | linkFrame (l ago fill : Nat) (crc : Byte) (early : Bytes) (codes : List LinkCode)
  /-- PARCEL_DELIVERY (R678). A parcel is delivered at the router 312 tc after its slot start and its lines written. -/
  | parcelDelivery (l k : Nat)
  /-- PARCEL_FORWARD (R681). A received frame is forwarded toward PEER in slot k + 6. -/
  | parcelForward (l k : Nat)
  /-- TRIG (R967). A received TRIG sideband fires channels and is forwarded on the tree. -/
  | trig (link ch src seq : Nat)
  /-- FAIL (R694). A received FAIL sideband is recorded and relayed. The 56-bit payload. -/
  | fail (l pay : Nat)
  /-- STAMP_WORD (R672). A received angle-stamp sideband word is accepted and relayed when complete. The link and the 56-bit payload. -/
  | stampWord (l pay : Nat)
  /-- LINK_FAILURE (R692). The receiving end declares failure, faults the link and squelches its transmitter. The detection, numbered as CAUSE: 5 loss of lock or signal, 6 uncorrectable codewords of 64 consecutive ones, 7 markers missing in a row; and, of a loss, for how many tc it has lasted. -/
  | linkFailure (l why n : Nat)
  /-- DETOUR_SWITCH (R696). At the boundary of P_fail + D partitions switch to their detour alternative. -/
  | detourSwitch
  /-- FAIL_CLEAR (R700). A staged CLR of an LK_FAIL entry invalidates it at its commit. -/
  | failClear (e : Nat)
  /-- SAMPLE_PAIR (R715). Every 640 ns the demodulator forms and corrects a sample pair. The 16 modulator bits of the sine and of the cosine input since the last pair, the earliest in bit 0. -/
  | samplePair (sb cb : Nat)
  /-- OBSERVER_UPDATE (R719). Every 5.12 µs the observer updates angle, speed and multiturn. -/
  | observerUpdate
  /-- CONVERSION_FAULT (R734). A fault condition held for its count puts the observer in HOLD. 0 LOS, 1 OVERRANGE, 2 TRACK, 3 OVERSPEED. -/
  | conversionFault (i : Nat)
  /-- CONVERSION_FAULT_END (R735). A fault absent for 64 samples or updates ends and the observer enters ACQ. -/
  | conversionFaultEnd (i : Nat)
  /-- EXCITATION_RAMP_END (R739). The excitation ramp reaches full amplitude or zero. -/
  | excitationRampEnd
  /-- SP_SET (R730). A GO to SP_SET loads e and MULTITURN at the next update. The word written. -/
  | spSet (v : Word)
  /-- HOME_EDGE (R731). An armed HOME edge loads e and MULTITURN. -/
  | homeEdge (falling : Bool)
  /-- STAMP_WINDOW_WRITE (R743). The stamp window is written in each receiving partition's tile. -/
  | stampWindowWrite
  /-- STAMP_RELAY (R746). A spindle master sends its stamp on the LK_STAMP_OUT links. -/
  | stampRelay
  /-- LATCH_EDGE (R751). A SPINDLE_LATCH edge records the angle in the latch FIFO. -/
  | latchEdge (rising : Bool)
  /-- LATCH_POP (R752). A write of POP moves the oldest latch entry into SP_LATCH_D0 to D3. -/
  | latchPop
  /-- ENCODER_COUNT (R754). The emulator moves its position one count toward the target and drives A, B and Z. -/
  | encoderCount
  /-- ENCODER_RUN (R758). A write of EE_CFG.RUN starts or stops encoder emulation. -/
  | encoderRun (on : Bool)
  /-- SPINDLE_CAPTURE (R759). A GO to SP_CAPT_CTRL starts a RAW or ANGLE capture. The word written. -/
  | spindleCapture (v : Word)
  /-- CE_SAMPLE (R774). At each sample instant the engine computes generator, trim, loops and output. The 12-bit codes of AUX0 and AUX1; `ext`: with CLKSRC 1, the drive's clock lets this sample's frame start (R821). -/
  | ceSample (a0 a1 : Nat) (ext : Bool)
  /-- OUTPUT_INSTANT (R775). At the output instant AOUT takes its code and the DRV frame starts. -/
  | outputInstant
  /-- CE_ARM (R777). ARM taking effect moves MSTATE to SAFE, FAULT CONFIG or OFF. -/
  | ceArm (on : Bool)
  /-- START (R809). The START command makes a flying start into RUN or is refused. -/
  | start
  /-- STOP (R811). The STOP command brakes the axis in STOPPING to SAFE. -/
  | stop
  /-- QSTOP (R811). The QSTOP command makes MSTATE SAFE at once. -/
  | qstop
  /-- CLR_FAULT (R813). The CLR_FAULT command returns FAULT to SAFE. -/
  | clrFault
  /-- HOME (R812). The HOME command runs the axis to the home capture and stops. -/
  | home
  /-- STOP_N (R815). STOP_N low drops MOT_EN and puts the engine in FAULT STOP. Its new level. -/
  | stopN (low : Bool)
  /-- MOT_FAULT_N (R816). MOT_FAULT_N low puts the engine in FAULT DRIVE. Its new level. -/
  | motFaultN (low : Bool)
  /-- LIMIT_INPUT (R817). An asserted limit input brakes and clamps motion in its direction. Which inputs are asserted. -/
  | limitInput (fwd rev : Bool)
  /-- MISS_FAULT (R825). MISS_MAX consecutive missed samples put the engine in FAULT MISS. -/
  | missFault
  /-- TRIM_TIMEOUT (R801). A trim request aged to TMO is withdrawn. -/
  | trimTimeout
  /-- LOOP_OPEN (R790). Setting a CE_LOOP_OPEN bit opens the loop at the next sample. -/
  | loopOpen (x : Nat)
  /-- LOOP_CLOSE (R792). Clearing a CE_LOOP_OPEN bit closes the loop with cleared histories. -/
  | loopClose (x : Nat)
  /-- INJECTION_GO (R840). A GO to CE_INJ_CTRL starts the injection generator or is refused. -/
  | injectionGo
  /-- INJECTION_STOP (R840). A STOP to CE_INJ_CTRL ends the generator at the next sample. -/
  | injectionStop
  /-- INJECTION_END (R840). The generator ends after LEN samples and DONE sets. -/
  | injectionEnd
  /-- CAPTURE_GO (R848). A GO to CE_CAPT_CTRL starts a control-engine capture. -/
  | captureGo
  /-- CAPTURE_ABORT (R853). An ABORT stops a capture at once. -/
  | captureAbort
  /-- CAPTURE_DONE (R851). A capture ends after its post-trigger entries and DONE sets. -/
  | captureDone
  /-- AUTOTUNE_GO (R855). A GO to CE_AT_CTRL starts a relay auto-tune or is refused. -/
  | autotuneGo
  /-- AUTOTUNE_ABORT (R859). An ABORT ends the auto-tune with status ABORT. -/
  | autotuneAbort
  /-- AUTOTUNE_COMPLETE (R858). The last measured cycle ends and the results are written. -/
  | autotuneComplete
  /-- AUTOTUNE_TIMEOUT (R859). MAXS samples without completion end the auto-tune with TIMEOUT. -/
  | autotuneTimeout
  /-- OSC_DETECT (R862). CNT swings within WIN samples fire the oscillation detector. -/
  | oscDetect
  /-- MONITOR_LOAD (R882). A GO to HI_MON_CTRL loads and checks the resident monitor image. -/
  | monitorLoad
  /-- MONITOR_READY (R882). The monitor reports ready and STATE becomes RUNNING. -/
  | monitorReady
  /-- RING_START (R885). A write of RUN = 1 starts a ring and releases held completions. Function 0 is PF0, n is VFn. -/
  | ringStart (fn r : Nat)
  /-- RING_STOP (R926). A write of RUN = 0 stops a running ring. -/
  | ringStop (fn r : Nat)
  /-- RING_RESET (R919). A write of RESET returns a ring to its reset state. -/
  | ringReset (fn r : Nat)
  /-- SUBMISSION_DOORBELL (R890). A submission doorbell announces entries, which the host port fetches. The value written, and the entries as the host's memory returns them; fewer than announced when a read fails. -/
  | submissionDoorbell (fn r tail : Nat) (entries : List Bytes)
  /-- COMPLETION_DOORBELL (R886). A completion or event doorbell frees ring space for the device. -/
  | completionDoorbell (fn r head : Nat)
  /-- COMMAND_DISPATCH (R907). A fetched entry is dispatched when FENCE and a completion slot allow. -/
  | commandDispatch (fn r : Nat)
  /-- NOP (R908). The NOP command completes at dispatch. The command dispatched first on the ring; so for the commands that follow. -/
  | nop (fn r : Nat)
  /-- REG_WRITE (R908). The REG_WRITE command performs up to six register writes in order. -/
  | regWrite (fn : Nat)
  /-- PART_START (R910). The PART_START command writes EN = 1 and completes when the partition is ON. -/
  | partStart (fn : Nat)
  /-- PART_STOP (R910). The PART_STOP command writes EN = 0 and completes when the partition is OFF. -/
  | partStop (fn : Nat)
  /-- PART_RESUME (R910). The PART_RESUME command writes RESUME and completes when the halt ends. -/
  | partResume (fn : Nat)
  /-- PART_RESET (R910). The PART_RESET command resets the partition and completes at the reset's end. -/
  | partReset (fn : Nat)
  /-- DUMP_REQ (R914). The DUMP_REQ command arms the stop and dump of its scope. -/
  | dumpReq (fn : Nat)
  /-- LOG_READ (R915). The LOG_READ command copies event records from the monitor's log. -/
  | logRead
  /-- KEEP_READ (R916). The KEEP_READ command copies keep-store bytes to host memory. -/
  | keepRead
  /-- DBG_REQ (R917). The DBG_REQ command carries a hub request from PF0's debug ring. -/
  | dbgReq
  /-- COMPLETION_WRITE (R894). A completion entry is written once every effect of its command has taken place. -/
  | completionWrite (fn r : Nat)
  /-- MSIX_MESSAGE (R905). A ring's moderation count or timer triggers its MSI-X message. -/
  | msixMessage (fn r : Nat)
  /-- FUNCTION_LEVEL_RESET (R879). A function-level reset returns a function's rings and configuration to reset, and resets a VF's partition. -/
  | functionLevelReset (fn : Nat)
  /-- DBREQ (R934). Update-DR of DBREQ submits a hub request from the scan port. `req`: the 56 bytes shifted in. -/
  | dbreq (req : Bytes)
  /-- DBRESP (R935). Capture-DR of DBRESP loads the latest scan-port response. -/
  | dbresp
  /-- DBDATA (R936). DBDATA pushes a write word or pops a read word. `push`: the word shifted in, when the scan ends in Update-DR with one. -/
  | dbdata (push : Option Word)
  /-- DBVT (R975). A DBVT scan reads TX and writes RX of the virtual terminal. `rx`: the byte of an update with bit 19 set. -/
  | dbvt (rx : Option Byte)
  /-- EXTEST (R933). The EXTEST instruction drives and samples balls through the boundary-scan register. `shift`: the bits shifted in; `balls`: the levels at the balls of the input cells. -/
  | extest (shift balls : Nat)
  /-- SAMPLE_PRELOAD (R933). The SAMPLE/PRELOAD instruction samples and preloads the boundary-scan register. `shift`: the bits shifted in; `balls`: the levels at the balls of the input cells. -/
  | samplePreload (shift balls : Nat)
  /-- IDCODE (R933). The IDCODE instruction selects the 32-bit identification register. -/
  | idcode
  /-- CLAMP (R933). The CLAMP instruction drives outputs from the boundary-scan register with bypass selected. -/
  | clamp
  /-- HIGHZ (R933). The HIGHZ instruction puts every chain output in high impedance. -/
  | highz
  /-- BYPASS (R933). The BYPASS instruction selects the 1-bit bypass register. -/
  | bypass
  /-- TRST_N (R932). TRST_N resets the TAP controller and its instruction register. -/
  | trstN
  /-- READ (R942). The hub READ operation reads a unit through the culvert. -/
  | read
  /-- WRITE (R943). The hub WRITE operation writes a unit through the culvert. `data`: what the host's memory returns at HADDR. -/
  | write (data : Bytes)
  /-- HALT (R946). The hub HALT operation debug-halts the named partitions and units. -/
  | halt
  /-- RELEASE (R953). The hub RELEASE operation arms the release of named members. -/
  | release
  /-- RELEASE_TAKES_EFFECT (R953). At its boundary a release clears DBG_HALT and the tiles resume. -/
  | releaseTakesEffect
  /-- FSTEP (R956). The hub FSTEP operation issues one bundle of a halted tile. -/
  | fstep
  /-- PSTEP (R954). The hub PSTEP operation arms a release and a stop COUNT passes apart. -/
  | pstep
  /-- BSTOP (R951). The hub BSTOP operation arms a boundary stop. -/
  | bstop
  /-- BOUNDARY_STOP (R950). At its pass boundary an armed stop halts the named partitions or stops the epoch. -/
  | boundaryStop
  /-- SPILL_IN (R966). An asserting edge at SPILL_IN fires its channels. How many TCLK samples in a row find the new level; 16 satisfy every filter. -/
  | spillIn (samples : Nat := 16)
  /-- SPILL_FIRE (R964). A write to DB_SPILL_FIRE fires the set spillway channels. -/
  | spillFire (ch : Nat)
  /-- SPILL_OUT_PULSE_END (R966). SPILL_OUT deasserts when its pulse width expires. -/
  | spillOutPulseEnd
  /-- SPILL_OUT_CLEAR (R966). A write of DB_SPILL_PIN.CLR deasserts a latched SPILL_OUT. -/
  | spillOutClear
  /-- RELAY_REQ (R971). A REQ relay message is forwarded or executed at its destination hub. `words`: the message's 56-bit words as checked on link `l`. -/
  | relayReq (l : Nat) (words : List Nat)
  /-- RELAY_RSP (R971). A RSP relay message is forwarded or completes the originating request. `words`: the message's 56-bit words as checked on link `l`. -/
  | relayRsp (l : Nat) (words : List Nat)
  /-- FLOOD (R974). A FLOOD message is applied locally and forwarded on the tree. `words`: the message's 56-bit words as checked on link `l`. -/
  | flood (l : Nat) (words : List Nat)
  /-- RELAY_TIMEOUT (R973). A relayed request with no response within DB_RELAY_TMO completes with TIMEOUT. -/
  | relayTimeout
  /-- VT_TX_WRITE (R975). The monitor writes a byte to DB_VT_TX. -/
  | vtTxWrite (b : Byte)
  /-- VT_TX_READ (R975). A debugger read of DB_VT_TX returns the byte and clears FULL. -/
  | vtTxRead
  /-- VT_RX_WRITE (R975). The debugger writes a byte to DB_VT_RX. -/
  | vtRxWrite (b : Byte)
  /-- VT_RX_READ (R975). The monitor's read of DB_VT_RX returns the byte and clears FULL. -/
  | vtRxRead
  /-- MWDOG_KICK (R976). A write to DB_MWDOG_KICK reloads the management watchdog. -/
  | mwdogKick
  /-- MWDOG_EXPIRED (R976). The management watchdog expires and stops the management core. -/
  | mwdogExpired
  /-- TRACE_EN (R963). A write of DB_TRC_Pn_CTRL.EN starts a partition's trace. `v`: the word written. -/
  | traceEn (p : Nat) (v : Word)
  /-- DBG_RESET (R982). DBG_RST_N clears the debug domain and releases debug halts. -/
  | dbgReset
  /-- DUMP_START (R1010). A dump starts once its scope is stopped and quiet, and allocates its catalog. -/
  | dumpStart
  /-- DUMP_RECORD_WRITE (R1012). A slot writes beats of dump records and completes records. The slot of a pseudo-channel. -/
  | dumpRecordWrite (q slot : Nat)
  /-- DUMP_END (R1013). Every record is final and the catalog becomes COMPLETE or PARTIAL. -/
  | dumpEnd
  /-- CATALOG_COMPLETION (R1017). After a CHIP reset the interrupted catalog is marked PARTIAL. -/
  | catalogCompletion
  /-- CATALOG_FREE (R1002). A GO to DM_CAT_FREE frees a catalog. -/
  | catalogFree (cat : Nat)
  /-- HOLD_EXPIRED (R1019). A held PART reset proceeds after DM_HOLD_MAX and the dump ends PARTIAL. -/
  | holdExpired (p : Nat)
  /-- EVENT_RECORD_ENTRY (R1034). An event record enters the event buffer, stamped and sequenced. -/
  | eventRecordEntry
  /-- EVENT_DELIVERY (R1036). An event record is written to the VF and PF0 event rings and the log. -/
  | eventDelivery
  /-- POR (R1062). PORST_N low or the internal power-on reset resets the whole Plezor. -/
  | por
  /-- CHIP_RESET (R1064). Assertion of a CHIP reset stops the CHIP domain and puts the stacks in self-refresh. -/
  | chipReset
  /-- PWR_RST (R1065). A write to PWR_RST with CONFIRM 0xC1 asserts a CHIP reset. `confirm`: bits [15:8] of the write of GO. -/
  | pwrRst (confirm : Nat)
  /-- CHIP_RESET_RELEASE (R1065). Release of CHIP reset relocks the PLL and brings the stacks out of self-refresh. `src`: 0 WRST_N rises, 1 the 10 µs of a PWR_RST write are over, 2 the 100 µs after the rise of PORST_N are over. -/
  | chipResetRelease (src : Nat)
  /-- HBM_TRAINING_DONE (R1065). Stack training ends and failed pseudo-channels are marked. `failed`: the pseudo-channels that fail it. -/
  | hbmTrainingDone (failed : List Nat)
  /-- PERST_N (R1067). PERST_N resets the host port's functions and link only. `low`: its new level. -/
  | perstN (low : Bool)
  /-- BLK_RESET (R1068). A write to PWR_BLK_RST resets one block instance. -/
  | blkReset (kind idx : Nat)
  /-- KEEP_STORE_CHECK (R1070). The keep-store check finds the newest keep record. -/
  | keepStoreCheck
  /-- REQUEST_S0 (R1071). A PWR_CTRL request to return to S0. -/
  | requestS0
  /-- REQUEST_S1 (R1071). A PWR_CTRL request to enter S1. -/
  | requestS1
  /-- REQUEST_S2 (R1071). A PWR_CTRL request to enter S2. -/
  | requestS2
  /-- REQUEST_S3 (R1071). A PWR_CTRL request to enter S3. -/
  | requestS3
  /-- POWER_TRANSITION (R1071). An accepted power-state transition begins at once or at the next eligible boundary. -/
  | powerTransition
  /-- POWER_TRANSITION_COMPLETE (R1075). A power-state transition completes and STATE reads the new state. -/
  | powerTransitionComplete
  /-- TEMPERATURE_UPDATE (R1077). Every 100 µs each sensor updates and may raise THERM_WARN. The 24 readings in 1/16 °C, and HOLDCAP in mV. -/
  | temperatureUpdate (temps : List Nat) (holdMv : Nat)
  /-- SUPPLY_SAG (R1079). A detected supply sag starts the hold-up save. `i`: the supply's index, or 11 for the pin PFAIL_N. -/
  | supplySag (i : Nat)
  /-- SAVE_COMPLETE (R1081). The keep record is verified and KS_STAT.LAST_SAVE records the result. `result`: LAST_SAVE, or 0 when the energy ended before the record was whole. -/
  | saveComplete (result : Nat)
  /-- HOLDCAP_CHARGED (R1094). HOLDCAP reaches 4.5 V, HOLD_READY sets and CAP_UF is reported. `uf`: the capacitance measured, of a charge that started below 3.0 V. -/
  | holdcapCharged (uf : Option Nat)
  /-- SMB_ID (R1142). The SMBus ID command returns GLB_ID. -/
  | smbId
  /-- SMB_STATUS (R1142). The SMBus STATUS command returns the status word. -/
  | smbStatus
  /-- SMB_STRAPS (R1142). The SMBus STRAPS command returns the latched straps. -/
  | smbStraps
  /-- TEMP_MAX (R1142). The SMBus TEMP_MAX command returns the highest sensor reading. -/
  | tempMax
  /-- TEMP (R1142). The SMBus TEMPi command returns one sensor reading. -/
  | temp (i : Nat)
  /-- VSUP (R1142). The SMBus VSUPi command returns one supply voltage. `mv`: the voltage as measured by now. -/
  | vsup (i : Nat) (mv : Option Nat)
  /-- VHOLD (R1142). The SMBus VHOLD command returns the HOLDCAP voltage. -/
  | vhold
  /-- CAP_UF (R1142). The SMBus CAP_UF command returns the measured capacitance. -/
  | capUf
  /-- CLEAR_ALERT (R1142). The SMBus CLEAR_ALERT command releases SMB_ALERT_N. -/
  | clearAlert
  /-- ALERT_RESPONSE (R1142). A read of the Alert Response Address returns the port's address. -/
  | alertResponse
  /-- REFCLK_RETURN (R82). When REFCLK returns after a loss, CLK_STAT.REF_LOSS is set and the Plezor waits for a POR. -/
  | refclkReturn
  /-- PORST_N_RISE (R1069). At the rise of PORST_N the straps are latched, the keep domain and Fliwell leave reset, the keep-store check begins and CHIP reset release is scheduled 100 µs later. `straps`: SMB_A0, SMB_A1, TEST_N; `wrstLow`: WRST_N is low. -/
  | porstNRise (straps : Nat) (wrstLow : Bool)
  /-- MONITOR_IMAGE_CHECK (R882). When the monitor image has been read and checked, the management core starts at ENTRY or HI_MON_STAT.STATE becomes FAILED with the ERR of the first failing check. The image as the host's memory returns it; none when a read fails. -/
  | monitorImageCheck (img : Option Bytes)
  /-- HDM_DECODER_COMMIT (R555). Committing the HDM decoder writes LOCAL_HOST's HPA_BASE from the decoder base and sets its VALID. The decoder's base address. -/
  | hdmDecoderCommit (base : Nat)
  /-- UNSUPPORTED_MAILBOX_OPCODE (R551). A mailbox command with an opcode not in the table completes with the CXL return code Unsupported and changes nothing. -/
  | unsupportedMailboxOpcode (op : Nat)
  /-- BUS_MASTER_DISABLE (R918). Clearing bus mastering while a ring's RUN is 1 puts every ring of the function in ERROR, and ends a plan image read with 0x06 FETCH. -/
  | busMasterDisable (fn : Nat)
  /-- MSIX_VECTOR_UNMASK (R906). Unmasking an MSI-X vector whose pending bit is set sends the held message. -/
  | msixVectorUnmask (fn vec : Nat)
  deriving DecidableEq, Repr

end Sys2Proof
end

