-- ==== Sys2Proof/Machine/State.lean ====
section
/-! DEFINITION. The state of one Plezor as plain data, its faults and refusals, and the state after reset. -/
namespace Sys2Proof.Machine

/-- Why a step stops the machine. A command of this block never stops it: every outcome the manual describes is a state. -/
inductive Fault where
  /-- Raised by no command; kept so that a fault has a name. Safe: nothing is claimed of it. -/
  | stuck
  deriving DecidableEq, Repr

/-- Why a command is turned away without a meaning. -/
inductive Refusal where
  /-- Raised by an arm of `exec` whose command has no meaning in this model. Safe: no state follows. -/
  | notModelled (mnemonic : String)
  deriving DecidableEq, Repr

/-- The CXL return codes the manual names (R551, R552, R566, R570). -/
inductive MbCode where
  | success
  | invalidInput
  | unsupported
  | resourcesExhausted
  deriving DecidableEq, Repr

/-- A CXL event record (R553): kind 0 General Media, 1 Memory Module, 2 Dynamic Capacity; what it reports; DPA and length; the
pseudo-channel of its component identifier; its CXL timestamp. `what`: 1 denied access, 2 poisoned or lost line, 3 failed memory,
4 endpoint fatal, 5 add capacity, 6 release capacity, 7 forced release, 8 offer withdrawn. -/
structure CxlRec where
  kind : Nat
  what : Nat
  dpa : Nat
  len : Nat := 64
  comp : Nat := 0
  ts : Nat := 0
  deriving DecidableEq, Repr

/-- The output of a mailbox command; its byte layout is CXL's and not in the manual. -/
inductive MbOut where
  | none
  | nums (v : List Nat)
  | recs (l : List CxlRec) (overflow : Nat)
  /-- extents: first granule, number of granules, and 0 mapped, 1 offered, 2 shared -/
  | extents (l : List (Nat × Nat × Nat))
  /-- the extents of a host with the records of the offers withdrawn (R551, R569) -/
  | extentLists (l : List (Nat × Nat × Nat)) (gone : List CxlRec)
  deriving DecidableEq, Repr

/-- What the block sends out. The list of a state holds the newest first. -/
inductive Emit where
  /-- bytes written to host memory -/
  | hostWrite (addr : Nat) (data : Bytes)
  /-- an MSI-X message of a function (R905) -/
  | msix (fn vec : Nat)
  /-- a native frame sent by a headgate to a station (R401) -/
  | hgFrame (hg station : Nat) (data : Bytes)
  /-- a frame of 266 bytes sent on a link in a slot (R663, R674) -/
  | linkFrame (link slot : Nat) (data : Bytes)
  /-- a codeword of a link's lane, in which frames stand (R650 to R652); codewords of fill bytes alone are left out -/
  | linkCode (link : Nat) (code : LinkCode)
  /-- a CXL.mem answer: the request's tag, its status (0 good, 1 poison, 2 write done), its DevLoad and data (R559, R589, R590) -/
  | cxlAnswer (tag status devload : Nat) (data : Bytes)
  /-- a line of a page written to host memory by a function, or a poisoned TLP (R593) -/
  | pageWrite (fn addr : Nat) (psn : Bool) (data : Bytes)
  /-- viral set on the CXL link (R632) -/
  | viral
  /-- a mailbox answer: return code and output (R551) -/
  | mailbox (code : MbCode) (out : MbOut)
  /-- a DRV frame of 28 bits (R820) -/
  | drvFrame (frame : Nat)
  /-- a value driven on a pin or an analogue output, by name -/
  | pin (name value : Nat)
  /-- an answer on the SMBus (R1142) -/
  | smbus (data : Bytes)
  /-- bits read from a TAP data register (R933) -/
  | tap (value : Nat)
  /-- a PCIe error message (R631) -/
  | errMsg (kind : Nat)
  /-- a register's word returned to its reader (R975) -/
  | regRead (value : Nat)
  /-- the balls in the chain are driven under this TAP instruction from this update latch, bit 22 forced to 0 while STOP_N is low
  (R933, R1158, R1159) -/
  | chain (ir levels : Nat)
  deriving DecidableEq, Repr

/-- A staged write waiting to commit (R43): the field, its value, the FTC of acceptance, whether it came through a VF, whether
it waits for PTn_EN_AT (R205), and the order number of its acceptance. -/
structure Staged where
  off : Nat
  hi : Nat
  lo : Nat
  val : Nat
  acc : Nat
  vf : Bool := false
  atEn : Bool := false
  /-- the partition command that wrote it (R910) -/
  cmd : Option CmdRef := none
  deriving DecidableEq, Repr

/-- Clocks, fabric time, the epoch and the discipline filter (chapter "Time"). -/
structure TimeSt where
  /-- FTC in whole tc (64 bits) and its fraction in 1/16 tc -/
  ftc : Nat := 0
  frac : Nat := 0
  /-- REFCLK present (R82) -/
  refclk : Bool := true
  /-- the Plezor waits for a POR after a loss of REFCLK (R82) -/
  needPor : Bool := false
  /-- the epoch runs; the pass in progress and the FTC of its boundary (R87) -/
  epoch : Bool := false
  pass : Nat := 0
  passAt : Nat := 0
  /-- how many of the actions of R88 at the coming boundary have been performed -/
  phase : Nat := 0
  /-- FTC at which ARM took effect (R112) -/
  armAt : Nat := 0
  /-- consecutive updates within 1 tc, and beyond 2 tc (R101) -/
  inCnt : Nat := 0
  outCnt : Nat := 0
  /-- discipline filter state in 10^-6/128 ppm (R97) -/
  acc : Int := 0
  corr : Int := 0
  /-- next STAMP sequence number per link, and T1 of the STAMPs sent, at link × 16 + SEQ, in 1/16 tc (R92) -/
  seq : SMap Nat := {}
  sentT1 : SMap Nat := {}
  /-- latest COARSE FTC_HI, latest STAMP T1 with its arrival, latest delay in 1/128 tc, from the active upstream (R102) -/
  coarse : Option Nat := none
  upStamp : Option (Nat × Nat) := none
  delay : Option Int := none
  /-- FTC already stepped in this ACQUIRE (R102) -/
  stepped : Bool := false
  /-- latest EPOCH of the active upstream: PLEN and DIGEST (R112) -/
  epochRx : Option (Nat × Nat) := none
  /-- time-message intervals without an ECHO, and whether one came in this interval (R106) -/
  echoMiss : Nat := 0
  echoSeen : Bool := false
  /-- the same for the primary while the alternate is the upstream; 4 or more until an ECHO comes on the primary (R110) -/
  priMiss : Nat := 0
  priSeen : Bool := false
  /-- passes of HOLDOVER (R108) -/
  holdPasses : Nat := 0
  deriving DecidableEq, Repr

/-- The tables of a frame plan, section bodies as loaded (R155 to R165). -/
structure FramePlan where
  planId : Nat := 0
  passLen : Nat := 1280
  tileGrant : Bytes := []
  granules : Bytes := []
  partGrant : Bytes := []
  noc : Bytes := []
  hbm : Bytes := []
  refresh : Bytes := []
  culvert : Bytes := []
  link : Bytes := []
  landing : Bytes := []
  tabCrc : Nat := 0
  deriving DecidableEq, Repr

/-- The tables of a partition plan (R166 to R174) that stay with the partition. -/
structure PartPlan where
  planId : Nat := 0
  seed : Nat := 0
  params : Bytes := []
  ledger : Bytes := []
  use : Bytes := []
  xfer : Bytes := []
  detour : Bytes := []
  deriving DecidableEq, Repr

/-- What the loader is doing (R175). -/
inductive LoadStage where
  /-- no load or unload in progress -/
  | idle
  /-- the checks of R176 run -/
  | checks
  /-- a checked frame plan awaits activation (R182) -/
  | pending
  /-- a partition plan's bodies are written (R1174) -/
  | writes
  deriving DecidableEq, Repr

/-- The loader (R175): kind 0 FPLAN_LOAD, 1 FPLAN_UNLOAD, 2 PPLAN_LOAD; the command, its LEN and ACT_PASS. -/
structure Loader where
  stage : LoadStage := .idle
  kind : Nat := 0
  part : Nat := 0
  addr : Nat := 0
  len : Nat := 0
  actPass : Option Nat := none
  ref : CmdRef := {}
  /-- the checked image, and the FTC at which the checks completed -/
  image : Bytes := []
  doneAt : Nat := 0
  /-- pieces of the bodies written so far (R1174, R199) -/
  wrote : Nat := 0
  /-- failed pseudo-channels on which a piece was dropped and reported (R544) -/
  told : List Nat := []
  deriving DecidableEq, Repr

/-- Plans (chapter "Plans"). -/
structure PlanSt where
  active : Option FramePlan := none
  pending : Option FramePlan := none
  loader : Loader := {}
  loaded : SMap (Option PartPlan) := {}
  /-- FTC at which the fallback engine starts its next refresh (R188, R189) -/
  nextRefresh : Nat := 0
  /-- FTC of the latest refresh start per pseudo-channel (R160, R188) -/
  lastRefresh : SMap Nat := {}
  /-- the final round before the epoch has been started (R190) -/
  finalDone : Bool := false
  /-- per tile cleared at an activation, the FTC at which its clearing is complete (R185) -/
  clearing : SMap Nat := {}
  deriving DecidableEq, Repr

/-- An error halt that is due (R214): its FTC, its cause, the tile concerned, and the timestamp of the cause's instant (R1034). -/
structure HaltDue where
  at_ : Nat
  cause : Nat
  tile : Option Nat
  ts : Nat
  deriving DecidableEq, Repr

/-- What a partition holds beyond its registers (chapters "Partitions", "Time"). -/
structure PartSt where
  /-- a kick was executed in the pass in progress (R221) -/
  kick : Bool := false
  /-- the partition's tiles run the pass in progress (R209 to R211) -/
  inPass : Bool := false
  /-- its tiles began the pass in progress, which is evaluated at its end whatever halts it (R125, R245) -/
  began : Bool := false
  /-- an error halt that follows its cause by 4 tc (R214) -/
  haltDue : Option HaltDue := none
  /-- a BREAK or WATCH of the present tc, whose halt follows in it (R946) -/
  brkDue : Bool := false
  /-- no pass has run since it became ON (R209) -/
  fresh : Bool := false
  /-- its ledger is not evaluated for the pass in progress (R130) -/
  noLedger : Bool := false
  /-- PART reset requested and held off, with the FTC of the request (R228, R1019) -/
  heldAt : Option Nat := none
  /-- commands waiting for a halt, start, stop or reset of this partition to end: command, kind, FTC of dispatch (R910, R911) -/
  waiting : List (CmdRef × Nat × Nat) := []
  /-- a PART reset is in progress (R226) -/
  resetting : Bool := false
  /-- its tiles ran the pass that ended last (R222, R1072) -/
  ran : Bool := false
  /-- FTC before which the partition starts no pass: a debug reset cleared its debug halt; 0 when none did (R982) -/
  holdTill : Nat := 0
  deriving DecidableEq, Repr

/-- One level of a hardware loop (R282, R283). -/
structure LoopSt where
  active : Bool := false
  start : Nat := 0
  last : Nat := 0
  count : Nat := 0
  deriving DecidableEq, Repr

/-- Where a tile stands in its pass (R291, R292). -/
inductive TileRun where
  /-- has no pass to run: its partition is not ON, or its first pass has not begun -/
  | idle
  /-- issues bundles -/
  | run
  /-- WAITP has issued and earlier operations are not yet complete -/
  | ending
  /-- in the end-of-pass wait -/
  | waiting
  deriving DecidableEq, Repr

/-- A 64-byte flit: destination tile, channel, address, data, and the tile that sent it (R266). -/
structure Flit where
  src : Nat
  dst : Nat
  ch : Nat
  addr : Nat
  data : BitVec 512
  deriving DecidableEq, Repr

/-- A bundle that the fetch unit holds: its address, its 128 bits, and whether its code is uncorrectable (R258, R294). -/
structure Fetched where
  addr : Nat
  word : Nat
  bad : Bool
  deriving DecidableEq, Repr

/-- One tile's registers and sequencer (R249 to R303); its recorded exception state and counters are registers. -/
structure Tile where
  x : SMap Word := {}
  v : SMap VecReg := {}
  k : SMap Dword := {}
  /-- wide accumulators: lane i of Ww at 64 w + i, value and status -/
  wv : SMap (BitVec 256) := {}
  ws : SMap Nat := {}
  /-- matrix accumulators: row r of MAk at 64 k + r -/
  ma : SMap VecReg := {}
  /-- weight buffers: buffer b from 4,224 b, 4,096 element bytes and then 128 scale bytes -/
  wb : SMap Byte := {}
  l0 : LoopSt := {}
  l1 : LoopSt := {}
  /-- MODE of the next bundle, and the MODE that follows it when the next bundle stands in a mode shadow (R289) -/
  mode : Nat := 0
  modeNext : Option Nat := none
  sticky : Nat := 0
  acnt : SMap Nat := {}
  /-- the next bundle; when it is a delay bundle, where execution continues after it (R279) -/
  pc : Nat := 0
  delay : Option Nat := none
  /-- the branch before the delay bundle is taken, and is a JR (R279, R295) -/
  delayTaken : Bool := false
  delayJr : Bool := false
  /-- 1: the breakpoint and watchpoint matches of the next bundle are counted (R958); 2: its exception causes are judged too (R260) -/
  judged : Nat := 0
  run : TileRun := .idle
  halted : Bool := false
  exc : Bool := false
  quiet : Bool := false
  /-- the next issue follows a BREAK and does not take it again (R302) -/
  pastBreak : Bool := false
  /-- where the next pass starts (R292) -/
  waitTgt : Nat := 0
  /-- bundles issued earlier in the pass (R324) -/
  issued : Nat := 0
  sendq : List Flit := []
  /-- NMEQ descriptors not yet accepted (R270) -/
  nmeq : Nat := 0
  /-- results pending: register code and the FTC from which it can be read (R252) -/
  score : List (Nat × Nat) := []
  /-- Flags of results still pending: the tc in which the result is written, and the STICKY bits it sets (R336, R374). -/
  flagq : List (Nat × Nat) := []
  /-- FTC before which nothing issues (R284 bubbles) -/
  bubble : Nat := 0
  /-- the bundles that the fetch unit holds (R294) -/
  held : List Fetched := []
  /-- the latest tc in which a counter of the tile took an arrival, plus 1, and the counters that did (R308) -/
  arrAt : Nat := 0
  arrMask : Nat := 0
  /-- the tc in which the receive port was used, latest first, and the bank of the latest use (R257, R1172) -/
  rxUsed : List Nat := []
  /-- FTC from which the tile's next flit or NME line may use a phase of its router (R266, R533) -/
  phaseAt : Nat := 0
  rxBank : Nat := 16
  /-- a CORR event has been raised in this pass (R255) -/
  corrEv : Bool := false
  /-- the tile's busy count of the pass, set when the end-of-pass wait begins (R122) -/
  busy : Nat := 0
  /-- written from outside while a dump runs (R1023) -/
  touched : Bool := false
  /-- the pass whose work the tile does (R323, R375) -/
  atPass : Nat := 0
  deriving DecidableEq, Repr

/-- A DECW word on its way to the merger (R271, R455). -/
structure DecWord where
  tile : Nat
  part : Nat
  ref : Nat
  verdict : Nat
  due : Nat
  deriving DecidableEq, Repr

/-- A descriptor handed to an NME and not yet accepted (R270, R523). -/
structure NmeHand where
  tile : Nat
  part : Nat
  nme : Nat
  desc : Bytes
  due : Nat
  deriving DecidableEq, Repr

/-- What is on its way between tiles and the shared units. -/
structure NocSt where
  /-- flits in flight with the FTC at which they are due (R267) -/
  flight : List (Flit × Nat) := []
  /-- DECW words in flight (R271) -/
  decw : List DecWord := []
  /-- descriptors in flight or waiting for a place (R523) -/
  nmeq : List NmeHand := []
  /-- the value in the plan trim port written in this pass (R272) -/
  trim : Option Word := none
  deriving DecidableEq, Repr

/-- A record to be traced (R961): tile, kind, tc offset, pass, data. -/
structure TraceRec where
  tile : Nat
  kind : Nat
  offset : Nat
  pass : Nat
  data : Nat
  /-- FTC at which the buffer takes it (R962) -/
  due : Nat
  deriving DecidableEq, Repr

/-- A cause that raises an event (R1030, R1034): its FTC orders it. -/
structure EvCause where
  code : Nat
  sev : Nat
  part : Nat
  unit : Nat
  ts : Nat
  detail : Nat
  tc : Nat
  deriving DecidableEq, Repr

/-- An event record (R1030). -/
structure EvRec where
  code : Nat := 0
  sev : Nat := 0
  part : Nat := 0
  unit : Nat := 0
  ts : Nat := 0
  seq : Nat := 0
  count : Nat := 0
  detail : Nat := 0
  deriving DecidableEq, Repr

/-- The event collector (R1034 to R1038). -/
structure EventSt where
  /-- causes not yet entered, in order of raising -/
  causes : List EvCause := []
  /-- the event buffer: record with SEQ q stands at q mod 256 -/
  buf : SMap EvRec := {}
  /-- SEQ of the next record, and of the next record the monitor takes -/
  seq : Nat := 0
  taken : Nat := 0
  /-- records lost and not yet reported (R1038) -/
  lost : Nat := 0
  /-- records of a code entered in the storm window, occurrences suppressed since its last record (R1037) -/
  entered : SMap Nat := {}
  suppressed : SMap Nat := {}
  /-- the storm window in force: pass number, or FTC / 1,280 while the epoch is not running -/
  window : Nat := 0
  /-- records whose VF ring copy is still to be written (R1036) -/
  vfTodo : List EvRec := []
  /-- the monitor's log, newest first (R915) -/
  log : List EvRec := []
  /-- CHIP or FAB containment holds (R1040) -/
  contained : Bool := false
  deriving DecidableEq, Repr

/-- A landing line queued at a tile's router (R430): the FTC of its LAND phase, its address, its bytes, and its headgate. -/
structure LandLine where
  due : Nat
  addr : Nat
  data : Bytes
  hg : Nat
  first : Bool
  /-- FTC of its offer -/
  offered : Nat := 0
  deriving DecidableEq, Repr

/-- A landing entry (R165). -/
structure LandEnt where
  ctx : Nat
  part : Nat
  mode : Nat
  base : Nat
  cnt : Nat
  stride : Nat
  addr : Nat
  len : Nat
  deriving DecidableEq, Repr

/-- A frame admitted in the present tc, kept for a frame of a lower headgate that is offered to the same router in it (R454): FTC of the offer,
headgate, tile, native frame, context entry, landing entry, channel words, the GAP that it took, and the slots taken before it, with their key. -/
structure LandOffer where
  at_ : Nat
  hg : Nat
  tile : Nat
  body : Bytes
  entry : Nat
  land : LandEnt
  words : List (Word × Bool)
  gap : Bool
  key : Nat
  old : Nat × Nat
  /-- RX_LAND before it, for a frame that was not admitted counts there -/
  lands : Nat
  deriving DecidableEq, Repr

/-- A HEARTBEAT or NOTICE that waits for its headgate's transmit pipeline (R402, R483): headgate, station, TYPE, CODE, and the FTC from which it
waits. -/
structure TxReq where
  hg : Nat
  stn : Nat
  typ : Nat
  code : Nat
  since : Nat
  deriving DecidableEq, Repr

/-- What a change made different for the headgates, as it was before (R415, R420, R428, R435, R440, R453): the FTC of the change, whether the epoch
ran, its pass in progress and that pass's start, the headgates that were ON and those whose DT_SEL.ACTIVE was 1, bit by bit, their STN_TIMEOUT,
and the words of the context tables. -/
structure HgPrev where
  at_ : Nat := 0
  epoch : Bool := false
  pass : Nat := 0
  passAt : Nat := 0
  on : Nat := 0
  bank : Nat := 0
  tmo : List Nat := []
  ctx : List (Nat × Nat) := []
  deriving DecidableEq, Repr

/-- A frame admitted whose landing instant is still to come (R429, R459). -/
structure Landing where
  due : Nat
  hg : Nat
  stn : Nat
  evn : Nat
  part : Nat
  tile : Nat
  ts : Nat
  tsFtc : Nat
  lpass : Nat
  cal : Bool
  deriving DecidableEq, Repr

/-- The headgates beyond their registers; a station is keyed headgate × 64 + station. -/
structure HgSt where
  /-- dressing RAM, at headgate × 65536 + bank × 32768 + entry (R418) -/
  dt : SMap Dword := {}
  /-- entries of the dressing RAM and of the context table (headgate × 1024 + context) with a correctable and with an uncorrectable
  error (R424) -/
  dtWeak : SMap Bool := {}
  dtBad : SMap Bool := {}
  ctxWeak : SMap Bool := {}
  ctxBad : SMap Bool := {}
  /-- landing lines queued per tile (R430) -/
  lines : SMap (List LandLine) := {}
  /-- frames admitted, before L -/
  landing : List Landing := []
  /-- slots taken in a half: pass + 1 and count, at (context × 1024 + tile) × 2 + half (R431) -/
  slots : SMap (Nat × Nat) := {}
  /-- stations heard in this pass; whose expected SEQ is set; whose next record shows a gap; whose ABSENT heartbeat was reported
  (R405, R407, R411) -/
  heard : SMap Bool := {}
  seqSet : SMap Bool := {}
  gap : SMap Bool := {}
  absNote : SMap Bool := {}
  /-- transmit SEQ per station (R396, R480) -/
  txSeq : SMap Nat := {}
  /-- the latest accepted LAST_EVN per station (R406) -/
  lastEvn : SMap Nat := {}
  /-- FTC at which a headgate's transmit pipeline becomes free (R482) -/
  txFree : SMap Nat := {}
  /-- HEARTBEATs and NOTICEs that wait for it, oldest first (R402, R483) -/
  txq : List TxReq := []
  /-- what the latest boundary, or a change outside the epoch, changed, and those before it that a frame in the headgates can still meet, oldest first -/
  prev : HgPrev := {}
  older : List HgPrev := []
  /-- FTC + 1 of the latest BLK reset of a headgate (R451) -/
  resetAt : SMap Nat := {}
  /-- FTC + 1 of the latest change of PCS_LOCK (R449) -/
  lockAt : SMap Nat := {}
  /-- frames admitted in the present tc, in headgate order (R454) -/
  offers : List LandOffer := []
  /-- stations whose MISSED reached STN_TIMEOUT at the latest boundary; FTC + 1 at which a station became ABSENT (R405, R445) -/
  absDue : SMap Bool := {}
  absAt : SMap Nat := {}
  deriving DecidableEq, Repr


/-- A pending entry of the merger (R459), with its contributions (R465) and, once it is decided, its answer (R466, R481). -/
structure Pend where
  hg : Nat
  stn : Nat
  evn : Nat
  part : Nat
  ts : Nat
  tsFtc : Nat
  lpass : Nat
  k : Nat
  count : Nat := 0
  orAcc : Bool := false
  andAcc : Bool := true
  tag : Nat := 0
  hole : Bool := false
  /-- the FTC of its due release, once it is closed (R464) -/
  closed : Option Nat := none
  /-- decided: the FTC of its scheduled hand-off -/
  handAt : Option Nat := none
  reason : Nat := 0
  accept : Bool := false
  dpass : Nat := 0
  deriving DecidableEq, Repr

/-- A partial: verdicts for another Plezor's event, combined (R469). -/
structure Partial where
  home : Nat
  part : Nat
  ref : Nat
  count : Nat
  acc : Bool
  tag : Nat
  hole : Bool
  deriving DecidableEq, Repr

/-- The decision merger (chapter "Decisions and deadlines"). -/
structure DcSt where
  /-- pending entries, oldest first -/
  pend : List Pend := []
  /-- entries the guard decided and handed over, kept for the verdicts that still come for them (R467) -/
  gone : List Pend := []
  /-- partials gathered in this pass (R469) -/
  gather : List Partial := []
  /-- merge parcels of this pass: link, slot and payload (R471) -/
  parcels : List (Nat × Nat × Bytes) := []
  /-- FTC + 1 of the latest hole that arrived in a partition's merge slots for this Plezor (R466) -/
  holeAt : SMap Nat := {}
  /-- headgates whose TRACK_FULL event of the pass is raised (R460) -/
  fullNote : SMap Bool := {}
  deriving DecidableEq, Repr


/-- A beat read by an NME operation: the FTC of its slot, whether it is poison, its data (R505, R512). -/
structure BeatIn where
  slot : Nat
  poison : Bool
  data : BitVec 256
  deriving DecidableEq, Repr

/-- An accepted NME operation (R523): its descriptor, its acceptance, the check it failed, the beats read by DM beat number, the
tile lines moved by line number (with their FTC), the destination beats written, and its end (R534). -/
structure NmeOp where
  /-- its number among the operations accepted, by which one of two equal descriptors is told from the other -/
  num : Nat := 0
  tile : Nat
  part : Nat
  lead : Nat
  desc : Bytes
  acc : Nat
  accTs : Nat
  status : Nat := 0
  beats : SMap (Option BeatIn) := {}
  lines : SMap (Option (Nat × BitVec 512)) := {}
  written : SMap Bool := {}
  flags : Nat := 0
  /-- a pseudo-channel it touches failed while it ran (R545) -/
  hurt : Bool := false
  fin : Option Nat := none
  finTs : Nat := 0
  deriving DecidableEq, Repr

/-- Device memory and the near-memory engines. -/
structure NmeSt where
  /-- operations accepted and not yet complete, per partition, in order of acceptance (R523, R530) -/
  ops : SMap (List NmeOp) := {}
  /-- operations accepted so far, and operations that have ended and whose record or arrival is still to be made (R536, R537) -/
  count : Nat := 0
  recs : List NmeOp := []
  /-- busy counts of the pass in progress, at partition × 256 + NME, and the last slot counted there, as FTC + 1 (R535) -/
  busy : SMap Nat := {}
  lastSlot : SMap Nat := {}
  /-- pseudo-channels whose CORR event of the pass is raised; uncorrectable reads of the pass (R509, R513) -/
  corr : SMap Bool := {}
  unc : SMap Nat := {}
  /-- uncorrectable beats already counted, by DM address / 32 (R510) -/
  seen : SMap Bool := {}
  /-- beats whose patrol read corrected an error and that are still to be rewritten (R518) -/
  fixes : List Nat := []
  /-- pseudo-channels, bit by bit, on which the patrol has read the beats at HB_SCRUB_POS (R518) -/
  walked : Nat := 0
  /-- FTC from which the next slot of a pseudo-channel may start: a slot serves once (R141, R502a, R532) -/
  slotNext : SMap Nat := {}
  /-- the row that the repair in progress named at its GO: pseudo-channel, bank, row, and whether for good (R516) -/
  repairing : Nat × Nat × Nat × Bool := (0, 0, 0, false)
  /-- rows mapped to spares: pseudo-channel, bank, row, and whether for good (R516) -/
  repairs : List (Nat × Nat × Nat × Bool) := []
  deriving DecidableEq, Repr


/-- A pool request decoded and waiting at its weir (R585): kind 0 read, 1 full write, 2 partial write; bytes enabled; the page
mover it belongs to, and the line of its page. -/
structure PoolReq where
  tag : Nat
  host : Nat
  kind : Nat
  dpa : Nat
  data : BitVec 512 := 0
  mask : Nat := 0
  pm : Option Nat := none
  idx : Nat := 0
  deriving DecidableEq, Repr

/-- A line that passed its weir (R587), with the key its granule held at acceptance (R609), the write flag, and the FTC from which
it is eligible; a partial write's write line is not eligible before its read data has arrived. -/
structure PoolLine where
  req : PoolReq
  write : Bool
  key : Nat
  elig : Option Nat
  /-- a partial write merged over a poisoned line -/
  psn : Bool := false
  deriving DecidableEq, Repr

/-- A served line on its way to the endpoint (R589): its data, whether poison, and the FTC at which it is due. -/
structure PoolBack where
  line : PoolLine
  data : BitVec 512 := 0
  poison : Bool := false
  due : Nat
  deriving DecidableEq, Repr

/-- An extent offered to a host (R566, R574): its region when shared, and the FTC of the offer. -/
structure Offer where
  host : Nat
  first : Nat
  cnt : Nat
  shared : Option Nat := none
  made : Nat
  deriving DecidableEq, Repr

/-- An accepted extent that waits for its host-range entry (R568), or an entry that waits for its unmap instant (R612, R613). -/
structure ExtWait where
  host : Nat
  first : Nat
  cnt : Nat
  shared : Option Nat := none
  forced : Bool := false
  due : Nat
  deriving DecidableEq, Repr

/-- A PAGE_MOVE command on a mover (R591), with the pages it has moved and whether a line read was poisoned. -/
structure PmCmd where
  ref : CmdRef
  dir : Nat
  host : Nat
  psize : Nat
  npages : Nat
  dpa : Nat
  haddr : Nat
  moved : Nat := 0
  poison : Bool := false
  deriving DecidableEq, Repr

/-- A page mover: its commands, the first in progress; the lines of its page that came back, whether a page is in progress, and whether a read of host
memory for it failed. -/
structure PmSt where
  cmds : List PmCmd := []
  page : Bool := false
  dma : Bool := false
  got : SMap (Option (BitVec 512 × Bool)) := {}
  deriving DecidableEq, Repr

/-- The memory pool (chapters "The memory pool" and "Host loss, pool failures and the drain order"). -/
structure PoolSt where
  /-- host-range entries, layout of R557, and granule states, layout of PO_GT_g -/
  hrt : SMap Nat := {}
  gt : SMap Nat := {}
  /-- key slots, HK h at h and SK r at 64 + r; the words of PO_KEY_DATA; the FTC at which the last key command ends (R581, R602) -/
  keys : SMap (BitVec 512) := {}
  keyData : SMap Word := {}
  keyTill : Nat := 0
  /-- requests waiting at the weirs, and lines waiting for slots, in order of arrival and of passage -/
  waiting : List PoolReq := []
  lines : List PoolLine := []
  /-- read data and write completions on their way (R589) -/
  reads : List PoolBack := []
  writes : List PoolBack := []
  /-- rotor per pseudo-channel (R588), POOL slots counted per pseudo-channel, scrub slots done per pseudo-channel (R563) -/
  rotor : SMap Nat := {}
  slotCnt : SMap Nat := {}
  scrubDone : SMap Nat := {}
  /-- the granule each stack scrubs, plus 1; 0 for none -/
  scrubbing : SMap Nat := {}
  offers : List Offer := []
  mapping : List ExtWait := []
  unmapping : List ExtWait := []
  /-- hosts whose KILL was accepted, each with the FTC at which it takes effect, in order (R619) -/
  kills : List (Nat × Nat) := []
  /-- granules unmapped whose last accepted lines are still to be served (R610) -/
  closing : SMap Bool := {}
  /-- the next refill's FTC (R585), and RATE and BURST in force per host, in the layout of WE_h_CFG (R598) -/
  refillAt : Nat := 64
  weir : SMap Nat := {}
  /-- lines carried per stack in this pass and in the last completed one, POOL slots per stack in that one, host waits at a weir in this pass
  and in the last completed one (R590) -/
  carried : SMap Nat := {}
  carriedLast : SMap Nat := {}
  slotsLast : SMap Nat := {}
  waited : SMap Bool := {}
  waitedLast : SMap Bool := {}
  /-- CXL event logs, host × 8 + log (0 Informational, 1 Warning, 2 Failure, 3 Fatal, 4 Dynamic Capacity), oldest first, and records
  lost to overflow (R553) -/
  logs : SMap (List CxlRec) := {}
  overflow : SMap Nat := {}
  /-- hosts with a Warning record of this pass, and with a Failure record (R559, R560, R627) -/
  warned : SMap Bool := {}
  failed : SMap Bool := {}
  /-- the fabric manager's view of withdrawn offers (R569) -/
  fmView : List CxlRec := []
  policy : Nat := 0
  tsBase : Nat := 0
  tsAt : Option Nat := none
  pms : SMap PmSt := {}
  deriving DecidableEq, Repr



/-- A sideband word that waits on a link (R667, R669): its kind and payload; the arrival of the STAMP an ECHO answers, in 1/16 tc. -/
structure SbWord where
  kind : Nat
  payload : Nat
  echo : Option Nat := none
  deriving DecidableEq, Repr

/-- A parcel in a receive buffer (R686): its pass and slot, the kind of its frame, its partition and its bytes. -/
structure RxBuf where
  pass : Nat
  slot : Nat
  kind : Nat
  part : Nat
  data : Bytes
  deriving DecidableEq, Repr

/-- A forwarded frame that waits for its output slot (R681, R702): the output link, 32 before the boundary of an output slot of the next pass,
the slot and its pass, the kind and the bytes, the partition that forwards it and the Plezor it goes toward, and the link, slot and pass in which
it came, whose receive buffer it holds (R686). -/
structure FwdFrame where
  link : Nat
  slot : Nat
  pass : Nat
  kind : Nat
  data : Bytes
  part : Nat
  peer : Nat
  inLink : Nat
  inSlot : Nat
  inPass : Nat
  deriving DecidableEq, Repr

/-- A delivery whose lines are not all written (R678, R683, R686): link, slot and pass; partition, entry and bytes; REDUCE; the earliest instant;
the lines still to write, and for REDUCE those read, with the phase of the read and the line, none when it is uncorrectable. -/
structure RxWork where
  link : Nat
  slot : Nat
  pass : Nat
  part : Nat
  entry : Bytes
  src : Bytes
  red : Bool
  from_ : Nat
  left : List Nat := [0, 1, 2, 3]
  reads : List (Nat × Nat × Option Bytes) := []
  deriving DecidableEq, Repr

/-- The lines of a transmit parcel read so far (R675): the pass of its slot, its bytes, the FTC of the latest read, and whether a line
was uncorrectable. -/
structure TxBuf where
  pass : Nat
  data : Bytes := []
  lastAt : Nat := 0
  bad : Bool := false
  deriving DecidableEq, Repr

/-- A failure whose switch a partition has made (R696 to R699): the pass of the switch, and whether the partition holds an alternative. -/
structure Detoured where
  part : Nat
  id : Nat
  link : Nat
  pfail : Nat
  sw : Nat
  has : Bool
  deriving DecidableEq, Repr

/-- The streams of a link's lane (R650 to R653, R692). Transmit: the place of the next byte, the number of the codeword under way, counted so that
every 1,024th begins with a marker whose count is that number over 1,024, and the frames with bytes in codewords not yet complete, each with the
place of its first byte; a line bit and the instant at which it leaves, in 1/85 tc. Receive: 1 more than the number of codewords since the latest marker's, 0 without codeword alignment; the stream bits
not yet read, none where the codeword was uncorrectable; how many markers in a row are missing; whether each of the latest 64 codewords was
uncorrectable, the latest first. -/
structure LinkStream where
  txPos : Nat := 0
  txCode : Nat := 0
  txPend : List (Nat × Bytes) := []
  refLine : Nat := 0
  refAt : Nat := 0
  rxCode : Nat := 0
  rxPend : List (Option Bool) := []
  rxMiss : Nat := 0
  rxBad : List Bool := []
  deriving DecidableEq, Repr

/-- The links beyond their registers (chapter "Links and the fabric"); a slot is keyed link × 1024 + slot. -/
structure LkSt where
  /-- the streams of each link's lane (R650 to R653) -/
  stream : SMap LinkStream := {}
  /-- FTC at which EN took effect; the peer's IDENT is accepted; the last accepted identity, plus 1 (R657, R659, R693) -/
  trainAt : SMap Nat := {}
  acked : SMap Bool := {}
  lastId : SMap Nat := {}
  /-- MEASURE has ended, with the pass from which the link may be UP, plus 1 (R655) -/
  mayUp : SMap Nat := {}
  /-- FTC + 1 at which MEASURE began, and how many of its STAMPs have been sent (R655) -/
  measAt : SMap Nat := {}
  measN : SMap Nat := {}
  /-- the IDENT payload, plus 1, that the next frame of a link in FAULT carries before the squelch; a draining link has sent IDENT with DOWN
  (R657, R701) -/
  owed : SMap Nat := {}
  downSent : SMap Bool := {}
  /-- sideband words waiting; the latest frame carried TRIG; frames since DBG while DBG waits; frames since IDENT; words of the stamp in
  progress already sent (R656, R669) -/
  sb : SMap (List SbWord) := {}
  lastTrig : SMap Bool := {}
  dbgGap : SMap Nat := {}
  identGap : SMap Nat := {}
  stampMid : SMap Nat := {}
  /-- FTC + 1 of the latest slot start at which a frame was sent (R661, R662) -/
  sent : SMap Nat := {}
  /-- transmit parcels, forwarded frames; what arrived in a slot: pass + 1 and kind, 0 for a late frame; receive buffers, at link × 8 +
  buffer; pass + 1 of a slot's latest delivery -/
  tx : SMap (Option TxBuf) := {}
  fwd : List FwdFrame := []
  /-- deliveries whose lines are not all written -/
  work : List RxWork := []
  got : SMap (Nat × Nat) := {}
  rx : SMap (Option RxBuf) := {}
  done : SMap Nat := {}
  /-- pass + 1 of a slot's latest merge parcel sent on; what the slot owes its own tile is still delivered (R681, R682) -/
  passed : SMap Nat := {}
  /-- passes for which a link has not been UP; the link chosen for the pass by each route entry (0 to 255 group, 256 on member), plus 1 -/
  notUp : SMap Nat := {}
  routes : SMap Nat := {}
  /-- partitions whose HOLE and LINK_WOF events of the pass are raised (R680, R684) -/
  holeNote : SMap Bool := {}
  wofNote : SMap Bool := {}
  /-- pass + 1 in which a failure was recorded, per entry of LK_FAIL, 0 for one recorded before the epoch started; the switches made (R697, R699) -/
  failRec : SMap Nat := {}
  switched : List Detoured := []
  /-- LINK_SLOTS of the frame plan before the present one, and the pass from which the present one holds (R706) -/
  oldLink : Bytes := []
  newFrom : Nat := 0
  /-- the angle stamp that comes in: its words so far (R672, R712) -/
  stampIn : List Nat := []
  deriving DecidableEq, Repr



/-- An angle stamp (R668, R741, R743): SPEED in 24 bits, STATUS without its two flags of the writer. -/
structure AngleStamp where
  pass : Nat
  source : Nat
  angle : Nat
  speed : Nat
  mt : Nat
  status : Nat
  elec : Nat := 0
  seq : Nat := 0
  deriving DecidableEq, Repr

/-- The spindle and the encoder emulator beyond their registers (chapter "The spindle"). -/
structure SpSt where
  /-- modulator bits of the sine and of the cosine input, the latest in bit 0 (1 is +1), and the MODCLK cycle of the excitation phase
  (R715) -/
  sBits : Nat := 0
  cBits : Nat := 0
  cyc : Nat := 0
  /-- FTC + 1 of the latest sample pair; s_m, c_m, s_q, c_q; the corrected pair (R715, R367) -/
  pairAt : Nat := 0
  sm : Int := 0
  cm : Int := 0
  sq : Int := 0
  cq : Int := 0
  s : Int := 0
  c : Int := 0
  /-- the excitation: 0 zero, 1 ramp up, 2 full, 3 ramp down; the FTC at which the ramp ends (R739) -/
  exc : Nat := 0
  rampEnd : Nat := 0
  /-- the amplitude in force; FTC + 1 of the latest positive-going zero crossing that was heeded; AMP before its latest change, and the FTC from
  which that change counts (R42, R714) -/
  amp : Nat := 0
  crossAt : Nat := 0
  ampOld : Nat := 0
  ampFrom : Nat := 0
  /-- observer: θ̂ in 2^-40 revolution, ω̂ in 2^-36 revolution per update, the latest en in 2^-31, FTC + 1 of the latest update (R719) -/
  th : Nat := 0
  w : Int := 0
  en : Int := 0
  updAt : Nat := 0
  /-- updates in ACQ, and consecutive updates within 1/256 revolution (R722) -/
  acqN : Nat := 0
  inWin : Nat := 0
  /-- electrical cycle index and θd of the latest update (R725) -/
  e : Nat := 0
  thd : Nat := 0
  /-- samples or updates for which a fault's condition held, and was absent: LOS, OVERRANGE, TRACK, OVERSPEED (R734, R735) -/
  faultN : SMap Nat := {}
  clearN : SMap Nat := {}
  /-- an entry to TRACK has been made since POR or a CHIP reset (R732, R1092) -/
  tracked : Bool := false
  /-- e and MULTITURN to load at the next update, by HOME and by SP_SET (R730, R731, R762) -/
  homeLoad : Option (Nat × Nat) := none
  setLoad : Option (Nat × Nat) := none
  /-- the stamp of the pass; relayed stamps with the FTC of their third word; the relayed one last written (R741, R743, R745) -/
  stamp : Option AngleStamp := none
  relayed : List (AngleStamp × Nat) := []
  written : Option AngleStamp := none
  /-- SEQ of the next stamp that a master sends; pass + 1 of the latest relay and of the latest window write -/
  seq : Nat := 0
  relayAt : Nat := 0
  windowAt : Nat := 0
  /-- latch entries, oldest first: timestamp, D2, D3 (R751) -/
  latch : List (Nat × Nat × Nat) := []
  /-- a capture: entries taken, and pairs or updates still to skip (R759) -/
  captN : Nat := 0
  captSkip : Nat := 0
  /-- FTC + 1 of the emulator's latest edge (R754) -/
  edgeAt : Nat := 0
  deriving DecidableEq, Repr

/-- The snapshot in the keep domain (R1080): record bytes 0x018 to 0x02F and 0x040 to 0x053. -/
structure SnapSt where
  sp : Bytes := []
  ce : Bytes := []
  /-- frozen by a save (R1081) -/
  frozen : Bool := false
  /-- FTC after which nothing refreshes it, in a save of CAUSE RAIL (R1081) -/
  till : Option Nat := none
  deriving DecidableEq, Repr



/-- A biquad section (R356, R361, R362): histories, residue in 2^-78, block exponent. -/
structure SecSt where
  x1 : Int := 0
  x2 : Int := 0
  y1 : Int := 0
  y2 : Int := 0
  res : Int := 0
  es : Int := -32
  deriving DecidableEq, Repr

/-- The injection generator beyond its registers (R840 to R842). -/
structure CeInj where
  /-- FTC at which a GO was accepted; a STOP was accepted; the sample index; φ; the PRBS register -/
  go : Option Nat := none
  stop : Bool := false
  k : Nat := 0
  phi : Nat := 0
  reg : Nat := 0
  /-- it started at the latest sample -/
  started : Bool := false
  deriving DecidableEq, Repr

/-- The capture beyond its registers (R848 to R851). -/
structure CeCapt where
  /-- FTC at which a GO was accepted; samples are counted; distance from the start; entries recorded; the trigger entry -/
  go : Option Nat := none
  on : Bool := false
  dist : Nat := 0
  n : Nat := 0
  trig : Option Nat := none
  /-- a trigger holds and waits for a recorded sample; channel 0 at the previous sample -/
  hold : Bool := false
  prev : Option Int := none
  /-- what happened since the latest output instant: MSTATE entered FAULT, the detector fired -/
  fault : Bool := false
  osc : Bool := false
  deriving DecidableEq, Repr

/-- The relay auto-tune beyond its registers (R855 to R860). -/
structure CeTune where
  /-- FTC at which a GO was accepted; 0 idle, 1 running, 2 ended and its last act still due; the loop -/
  go : Option Nat := none
  run : Nat := 0
  loop : Nat := 0
  /-- bias, relay high, samples since the start, an ABORT was accepted, it started at the latest sample -/
  bias : Int := 0
  high : Bool := false
  n : Nat := 0
  abort : Bool := false
  started : Bool := false
  /-- the cycle in progress (0 before the first), its samples, greatest and least e and sum of e -/
  cyc : Nat := 0
  len : Nat := 0
  hi : Int := 0
  lo : Int := 0
  sum : Int := 0
  /-- over the measured cycles: ΣL, Σ(emax − emin), Σe -/
  sumL : Nat := 0
  sumPp : Int := 0
  sumE : Int := 0
  /-- the last measured cycle has ended and the results are still to be written -/
  results : Bool := false
  deriving DecidableEq, Repr

/-- The oscillation detector beyond its registers (R861, R862): side 0 none, 1 above, 2 below; the samples of the swings, newest first;
the sample count; it fires at the latest sample. -/
structure CeOsc where
  side : Nat := 0
  swings : List Nat := []
  n : Nat := 0
  hit : Bool := false
  deriving DecidableEq, Repr

/-- The control engine beyond its registers (chapters "The control engine" and "Tuning and loop supervision"). -/
structure CeSt where
  /-- FTC + 1 of the latest sample; the output instant that is due and whether its sample missed (R773, R775, R824) -/
  sampleAt : Nat := 0
  outDue : Option (Nat × Bool) := none
  /-- commands accepted and not yet acted on: code and FTC (R776) -/
  cmds : List (Nat × Nat) := []
  /-- inputs of the latest sample: pos, mechanical angle, v (R780) -/
  pos : Nat := 0
  mech : Nat := 0
  v : Int := 0
  /-- generator: r_p (40 + 24 bits), r_v and r_a with 24 fraction bits, p_eff, the target taken, samples in the lock window (R793) -/
  rp : Nat := 0
  rv : Int := 0
  ra : Int := 0
  pEff : Nat := 0
  tgt : Option Nat := none
  lockN : Nat := 0
  /-- PLOCK is replaced by RAMP to this speed until the next START (R834) -/
  plockOff : Option Int := none
  /-- homing: 0 no, 1 before the capture, 2 braking after it, 3 holding; the capture was loaded; CE_MODE and CE_V_TGT at its start -/
  home : Nat := 0
  homeGot : Bool := false
  homeWords : Nat × Nat := (0, 0)
  /-- this sample is a flying start (R810); the state a halt left (R826) -/
  fly : Bool := false
  left : Nat := 2
  /-- sections by 8 × loop + section; error and output of each loop; loops open at the latest sample, and loops that close at it -/
  secs : SMap SecSt := {}
  err : SMap Int := {}
  y : SMap Int := {}
  openMask : Nat := 0
  closing : Nat := 0
  /-- s, ff, t_out, d, u of the latest sample; the outputs are in the safe state under R790 -/
  s : Int := 0
  ff : Int := 0
  tout : Int := 0
  d : Int := 0
  u : Int := 0
  safeHeld : Bool := false
  /-- a request is in force; the applied trim; LOOP_P: present, won the latest selection, its output (R800 to R803) -/
  trimOn : Bool := false
  trimApp : Int := 0
  lpOn : Bool := false
  lpWon : Bool := false
  lpOut : Int := 0
  /-- levels at the balls: MOT_EN, the AOUT code (R775, R818) -/
  mot : Bool := false
  aout : Nat := 0
  inj : CeInj := {}
  capt : CeCapt := {}
  tune : CeTune := {}
  osc : CeOsc := {}
  deriving DecidableEq, Repr


/-- A command that has finished and whose completion is still to be written: GEN, STATUS and RESULT (R894, R895). -/
structure Done where
  ref : CmdRef
  gen : Nat
  status : Nat
  result : Nat
  deriving DecidableEq, Repr

/-- A ring beyond its registers (R884 to R890): for a submission ring the head and the tail announced, the entries read and not
dispatched, those dispatched and not yet carried out, and the commands not complete; for a completion or event ring the producer
(`head`) and the host's consumer (`tail`), the phase, and what is not yet signalled (R905). -/
structure Ring where
  head : Nat := 0
  tail : Nat := 0
  phase : Bool := true
  /-- the doorbell's last value (R887) -/
  db : Nat := 0
  fetched : List Bytes := []
  todo : List Bytes := []
  busy : Nat := 0
  pend : Nat := 0
  oldest : Nat := 0
  urgent : Bool := false
  deriving DecidableEq, Repr

/-- The host port (chapter "The host port: rings, doorbells and set-up"). -/
structure HiSt where
  /-- rings, at function × 8 + ring -/
  rings : SMap Ring := {}
  /-- finished commands, in order of finishing (R900, R920) -/
  done : List Done := []
  /-- MSI-X vectors unmasked, and pending, at function × 4096 + vector (R906) -/
  unmasked : SMap Bool := {}
  pba : SMap Bool := {}
  /-- NumVFs of the SR-IOV capability (R878) -/
  numVfs : Nat := 32
  /-- the monitor image passed its checks: its VERSION, and the core has started (R882) -/
  monVer : Option Nat := none
  deriving DecidableEq, Repr


/-- A dump requested and not yet started (R993, R994): trigger code, scope 0 partitions or 1 Plezor, partition mask, the named
pass and its origin (R1014), the pass of the stop awaited or none when the stop has applied, the applied pass, LATE, MIDPASS, event
code, and the command that asked for it. -/
structure DumpReq where
  trigger : Nat
  scope : Nat
  mask : Nat
  origin : Nat
  named : Nat
  awaits : Option Nat := none
  pass : Nat
  late : Bool := false
  mid : Bool := false
  ev : Nat := 0
  ref : Option CmdRef := none
  /-- partitions whose held PART reset went on before the dump's end: their records not DONE are LOST (R1019); bit 32 a dump that a CHIP reset cut
  short (R1017) -/
  lost : Nat := 0
  /-- timestamp of the stop, and for a Plezor scope the bodies of the block records latched at it (R1009) -/
  ts : Nat := 0
  snap : List Bytes := []
  deriving DecidableEq, Repr

/-- A catalog entry (R1004): unit, kind, state 0 PENDING 1 WRITING 2 DONE 3 LOST, flags, region offset, length, CRC, timestamp. -/
structure DumpEnt where
  unit : Nat
  kind : Nat
  state : Nat := 0
  flags : Nat := 0
  off : Nat
  len : Nat
  crc : Nat := 0
  ts : Nat := 0
  deriving DecidableEq, Repr

/-- The dump that runs (R1010 to R1013). -/
structure Dump where
  req : DumpReq
  cat : Nat
  ents : List DumpEnt
  /-- region offset up to which the beats of an owner (32 for the culvert) on a pseudo-channel are written, at owner × 512 + it -/
  prog : SMap Nat := {}
  /-- per tile, FTC from which the next line of its record may be read over its router (R147) -/
  readAt : SMap Nat := {}
  /-- FTC of the dump's start -/
  startAt : Nat := 0
  base : Nat
  total : Nat
  startTs : Nat
  endTs : Nat := 0
  seq : Nat
  deriving DecidableEq, Repr

/-- The dump sequencer (chapter "Shavings"). -/
structure DumpSt where
  /-- record range of each IN_USE catalog: first region byte and length (R1001) -/
  cats : SMap (Option (Nat × Nat)) := {}
  running : Option Dump := none
  queue : List DumpReq := []
  /-- dumps whose boundary stop is still to apply -/
  armed : List DumpReq := []
  /-- SEQ of the latest summary (R1020) -/
  seq : Nat := 0
  /-- summaries to be written into the keep store: slot and bytes -/
  sums : List (Nat × Bytes) := []
  /-- a dump was cut by a CHIP reset and its catalog is still to be completed (R1017) -/
  cut : Option Dump := none
  /-- beats of catalogs that wait for a CULV slot: DM address and data (R147) -/
  catq : List (Nat × BitVec 256) := []
  /-- the owner served last while no frame plan is in force (R148) -/
  turn : Nat := 0
  deriving DecidableEq, Repr

/-- A hub request (R937): origin 0 scan port, 1 PF0 debug ring, 2 relay, 3 hub window, 4 a FLOOD; the command or relay tag it answers, and its
56 bytes (for a REQ message, its body). -/
structure HubReq where
  origin : Nat
  ref : CmdRef := {}
  tag : Nat := 0
  src : Nat := 0
  bytes : Bytes
  /-- FTC of acceptance -/
  acc : Nat := 0
  /-- a READ or WRITE in progress here: bytes moved, words read so far with their poison marks, and the bytes that a WRITE writes (R942) -/
  moved : Nat := 0
  got : List (Nat × Bool) := []
  data : Option Bytes := none
  deriving DecidableEq, Repr

/-- A request sent to another Plezor whose response is awaited (R971, R973): tag, first word and the FTC at which it times out, offset and length
of the 64-byte piece, and the words: of a READ those read so far with their poison marks, of a WRITE all that it writes. -/
structure Relay where
  tag : Nat
  first : Nat
  sent : Option Nat := none
  off : Nat := 0
  len : Nat := 0
  data : List (Nat × Bool) := []
  deriving DecidableEq, Repr

/-- Fliwell beyond its registers (chapter "Fliwell"). -/
structure DbSt where
  /-- channels fired and not yet acted on, with whether the source is local (R964) -/
  fireQ : List (Nat × Bool) := []
  /-- FTC from which the culvert's next piece may use a CULV phase (R942, R1172) -/
  culvAt : Nat := 0
  /-- SPILL_OUT asserted, and the FTC at which its pulse ends (R966) -/
  spillOut : Bool := false
  spillTill : Nat := 0
  /-- SEQ of the next TRIG this Plezor originates (R967) -/
  trigSeq : Nat := 0
  /-- a release is armed (R953, R954), with its engine and core members -/
  relArmed : Bool := false
  /-- the control engine and the management core are halted by Fliwell (R947) -/
  ceHalted : Bool := false
  coreHalted : Bool := false
  /-- a capture trigger was fired for the control engine (R850) -/
  captTrig : Nat := 0
  /-- trace records waiting per partition, oldest first (R962), and records dropped per tile since its last record -/
  traceQ : SMap (List TraceRec) := {}
  traceLost : SMap Nat := {}
  /-- releases without a named pass that wait for their boundary: FTC of acceptance and partitions (R953) -/
  relSoon : List (Nat × Nat) := []
  /-- hub requests accepted and not complete, in order of acceptance; the first is in execution (R931) -/
  reqs : List HubReq := []
  /-- the first request waits for another Plezor; TAG of the next message -/
  relay : Option Relay := none
  tag : Nat := 0
  /-- the armed boundary stop is late; it is fabric-wide, naming this pass (R952, R1014) -/
  bstopLate : Bool := false
  bstopFab : Option Nat := none
  /-- the scan port: its latest request is complete, OVR; OP, STATUS and RESULT of the latest (R934, R935) -/
  scanDone : Bool := false
  scanOvr : Bool := false
  scanOp : Nat := 0
  scanStatus : Nat := 0
  scanResult : Nat := 0
  /-- the FIFOs of DBDATA: words to write; words read, with POISON (R936) -/
  wfifo : List Nat := []
  rfifo : List (Nat × Bool) := []
  /-- FTC at which the management watchdog was last loaded (R976) -/
  mwdog : Nat := 0
  /-- the TAP's instruction register and the update latch of the boundary-scan register (R932, R933, R1158) -/
  ir : Nat := 2
  bsr : Nat := 0
  deriving DecidableEq, Repr


/-- A keep save in progress (R1081, R1083): CAUSE; the engine's safe state still awaited in a save of a supply sag; the
timestamp, FTC, pass number and flags of its instant. -/
structure SaveSt where
  cause : Nat
  wait : Bool
  ts : Nat
  ftc : Nat
  pass : Nat
  flags : Nat
  /-- the record's bytes 0x00A to 0xFF7, once they are assembled (R1081, R1097) -/
  body : Option Bytes := none
  deriving DecidableEq, Repr

/-- Power, resets and the pins of the keep domain (chapters "Power, reset, hold-up and start-up", "Balls, signals and electrical
characteristics"). -/
structure PwrSt where
  /-- CHIP reset is asserted, by a PWR_RST write, by WRST_N low, by PORST_N low (R1062) -/
  chip : Bool := false
  byReg : Bool := false
  wrst : Bool := false
  por : Bool := false
  /-- a POR waits for the end of a save (R1096) -/
  porWaits : Bool := false
  /-- the release 100 µs after the rise of PORST_N is still to come (R1069, R1105) -/
  porHold : Bool := false
  /-- the straps as latched: SMB_A0, SMB_A1, TEST_N (R1140) -/
  straps : Nat := 7
  /-- the stacks are to be trained, or are in training, at this release; the host port answers normally (R1065) -/
  train : Bool := true
  ready : Bool := false
  /-- PERST_N is low (R1067) -/
  perst : Bool := false
  /-- stacks trained; stacks in self-refresh; the SREF_MASK read at entry to S2 (R1064, R1073) -/
  trained : Nat := 0
  sref : Nat := 0
  /-- a CHIP reset was asserted under clock: the fallback engine's refresh of R1064, step 2, and then self-refresh are still to come -/
  resetRef : Bool := false
  /-- a power-state transition accepted: its state, FTC of acceptance, and whether it has begun (R1071) -/
  next : Option (Nat × Nat × Bool) := none
  /-- a write of S1_DIV in S1 that waits for its boundary: the value in force until then (R1072) -/
  s1div : Nat := 2
  s1new : Option (Nat × Nat) := none
  /-- sensors whose THERM_WARN is raised, whose latest reading reached TRIP; the sensors have been read (R1077, R1078) -/
  warned : Nat := 0
  tripped : Nat := 0
  measured : Bool := false
  /-- supply voltages measured, in mV -/
  supply : SMap Nat := {}
  vhold : Bool := false
  save : Option SaveSt := none
  /-- bytes 0x80 to 0x2C7 of the keep record, as the monitor last wrote them, while it is not running (R1086) -/
  staging : Bytes := []
  /-- SMB_ALERT_N is driven low; STATUS bits 3, 4 and 6 when last judged (R1142) -/
  alert : Bool := false
  cond : Nat := 0
  deriving DecidableEq, Repr

/-- Everything of the Plezor but its memories and the queue of commands. -/
structure Ctl where
  /-- the set-up registers, by PF0 BAR0 offset; an unlisted one holds its reset value (R12, R63) -/
  regs : SMap Word := {}
  /-- high words of register pairs written and held, by offset × 64 + requester (R14) -/
  held : SMap (Option Word) := {}
  /-- high words of pairs that a read of the low word latched, by offset × 64 + requester: a function, or 33 for the hub (R14) -/
  latched : SMap (Option Word) := {}
  /-- writes of immediate fields of the last 8 tc: FTC, offset, bits changed, word before (R42, R776) -/
  recent : List (Nat × Nat × Nat × Nat) := []
  /-- W1C bits that hardware set last, by offset: the HCLK cycle + 1 and the bits (R21) -/
  w1cSet : SMap (Nat × Nat) := {}
  staged : List Staged := []
  /-- free values drawn so far: the model's own counter, no state of the manual -/
  free : Nat := 0
  /-- what the Plezor has sent out, newest first: the model's own record -/
  outs : List Emit := []
  time : TimeSt := {}
  plan : PlanSt := {}
  parts : SMap PartSt := {}
  tiles : SMap Tile := {}
  noc : NocSt := {}
  ev : EventSt := {}
  /-- the headgates -/
  hg : HgSt := {}
  /-- FTC at which each draining block began its drain, by block (R61) -/
  drainAt : SMap Nat := {}
  /-- the decision merger -/
  dc : DcSt := {}
  /-- device memory and the near-memory engines -/
  nme : NmeSt := {}
  /-- the memory pool and the page movers -/
  pool : PoolSt := {}
  /-- the links -/
  lk : LkSt := {}
  /-- the spindle -/
  sp : SpSt := {}
  /-- the keep snapshot -/
  snap : SnapSt := {}
  /-- the control engine -/
  ce : CeSt := {}
  /-- the host port -/
  hi : HiSt := {}
  /-- the dump sequencer -/
  dump : DumpSt := {}
  /-- Fliwell -/
  db : DbSt := {}
  /-- power and resets -/
  pwr : PwrSt := {}
  deriving DecidableEq, Repr

/-- The memories, byte by byte; an unlisted byte reads as 0. -/
structure Mem where
  /-- device memory, by DM address (R499) -/
  dm : SMap Byte := {}
  /-- tile memory, at tile × 2^19 + byte address (R253) -/
  tm : SMap Byte := {}
  /-- instruction RAM, at tile × 2^16 + byte (R258) -/
  im : SMap Byte := {}
  /-- the keep store (R1088) -/
  keep : SMap Byte := {}
  /-- trace buffers, at partition × 2^20 + byte (R960) -/
  trace : SMap Byte := {}
  /-- beats of device memory that hold the poison code, that are uncorrectable, that hold a correctable error, by DM address / 32
  (R509 to R512) -/
  poison : SMap Bool := {}
  badBeat : SMap Bool := {}
  weakBeat : SMap Bool := {}
  /-- 64-bit words of tile memory with an uncorrectable code or a single-bit error, at tile × 2^16 + word (R255) -/
  badWord : SMap Bool := {}
  weakWord : SMap Bool := {}
  /-- bundles with an uncorrectable code or a single-bit error, at tile × 2^12 + bundle (R258) -/
  badBundle : SMap Bool := {}
  weakBundle : SMap Bool := {}
  deriving DecidableEq, Repr

/-- The state of one Plezor: its control state, its memories and the queue of the commands that wait, first in, first out. -/
structure State where
  ctl : Ctl := {}
  mem : Mem := {}
  pending : List Instr := []
  deriving DecidableEq, Repr

/-- The Plezor at the release of the CHIP reset that follows a power-on reset (R1069, step 4): every register at its reset value,
memories at 0, the root PLL not yet locked; the release has raised NO_KEEP_RECORD (R1070). -/
def State.reset : State :=
  { ctl := { ev := { causes := [{ code := 0x0101, sev := 0, part := 0xFF, unit := 0xF004, ts := 0xFFFFFFFFFFFF0000, detail := 0, tc := 0 }] } } }

/-- The canonical form of every memory: addresses strictly rising, no entry equal to what an unlisted address reads as. -/
def Mem.wf (m : Mem) : Bool :=
  smWf (fun _ => 0) m.dm && smWf (fun _ => 0) m.tm && smWf (fun _ => 0) m.im && smWf (fun _ => 0) m.keep &&
  smWf (fun _ => 0) m.trace && smWf (fun _ => false) m.poison && smWf (fun _ => false) m.badBeat &&
  smWf (fun _ => false) m.weakBeat && smWf (fun _ => false) m.badWord && smWf (fun _ => false) m.weakWord &&
  smWf (fun _ => false) m.badBundle && smWf (fun _ => false) m.weakBundle

end Sys2Proof.Machine
end

