-- ==== Sys2Proof/Machine/Ops.lean ====
section
/-! DEFINITION. The named operations every command is written with: registers and their fields, timestamps, events, the tables of
the frame plan, and the three shapes of a meaning. -/
namespace Sys2Proof.Machine

/-- The answer of a command. -/
abbrev Out := Host.Outcome State Fault Refusal

/-! Registers. -/
/-- The stored value of the register at offset `o`. -/
def rd (c : Ctl) (o : Nat) : Nat := (smGet c.regs (regReset o) o).toNat
/-- Stores a register. -/
def wr (c : Ctl) (o v : Nat) : Ctl := { c with regs := smSet c.regs (regReset o) o (BitVec.ofNat 32 v) }
/-- Bits `[h:l]` of a register. -/
def fld (c : Ctl) (o h l : Nat) : Nat := bits (rd c o) h l
/-- One bit of a register. -/
def rbit (c : Ctl) (o i : Nat) : Bool := (rd c o).testBit i
/-- Stores bits `[h:l]` of a register. -/
def setFld (c : Ctl) (o h l v : Nat) : Ctl := wr c o (setBits (rd c o) h l v)
/-- Stores one bit of a register. -/
def setBit (c : Ctl) (o i : Nat) (b : Bool) : Ctl := setFld c o i i (b2n b)
/-- A 64-bit quantity in a register pair, low word at `o` (R13). -/
def rd64 (c : Ctl) (o : Nat) : Nat := rd c o + 2 ^ 32 * rd c (o + 4)
/-- Stores a register pair (R13). -/
def wr64 (c : Ctl) (o v : Nat) : Ctl := wr (wr c o (v % 2 ^ 32)) (o + 4) (v / 2 ^ 32 % 2 ^ 32)
/-- Adds to a counter in bits `[h:0]` that saturates at all ones (R1047). -/
def cntAdd (c : Ctl) (o h n : Nat) : Ctl := setFld c o h 0 (satU (h + 1) (fld c o h 0 + n))
/-- Adds 1 to a 32-bit counter. -/
def cnt1 (c : Ctl) (o : Nat) : Ctl := cntAdd c o 31 1
/-- Returns the registers of `lo ≤ offset < hi` to their reset values (R63 of resets: R1063). -/
def resetRegs (c : Ctl) (lo hi : Nat) : Ctl := { c with regs := smClearRange c.regs lo hi }
/-- The TAP drives the balls in the chain: EXTEST, CLAMP or HIGHZ (R933). -/
def chainHeld (c : Ctl) : Bool := decide (c.db.ir = 0 ∨ c.db.ir = 3 ∨ c.db.ir = 4)
/-- An output on balls in the chain: SPILL_OUT, ENC, MOT_EN, SMB_ALERT_N, the DRV pair, SMB_DAT (R1158). -/
def onChain : Emit → Bool
  | .pin n _ => decide (n = 1 ∨ n = 2 ∨ n = 3 ∨ n = 6)
  | .drvFrame _ => true
  | .smbus _ => true
  | _ => false
/-- Adds an output to what the Plezor has sent; what the TAP drives does not show it. -/
def emit (c : Ctl) (e : Emit) : Ctl := if chainHeld c && onChain e then c else { c with outs := e :: c.outs }
/-- Draws the next free value's number. -/
def drawFree (c : Ctl) : Ctl × Nat := ({ c with free := c.free + 1 }, c.free)

/-! Offsets of the registers the hardware itself uses. -/
def rGlbFabric : Nat := 0x4
def rStageCtrl : Nat := 0xC
def rLastCommit : Nat := 0x10
def rClkStat : Nat := 0x100
def rTimCtrl : Nat := 0x200
def rTimStat : Nat := 0x204
def rEpochAt : Nat := 0x210
def rEpochFirst : Nat := 0x218
def rStopAt : Nat := 0x220
def rPassLen : Nat := 0x230
def rTimOffset : Nat := 0x234
def rTimFreq : Nat := 0x238
def rUpAsym : Nat := 0x23C
def rHoldMax : Nat := 0x240
def rPlStat : Nat := 0x300
def rPlErrSect : Nat := 0x304
def rPlFplanId : Nat := 0x308
def rPlActPass : Nat := 0x310
def rPwrCtrl : Nat := 0x400
def rPwrStat : Nat := 0x404
def rPwrSag : Nat := 0x410
def rPwrHold : Nat := 0x414
def rPwrTherm : Nat := 0x418
def rPwrTemp (i : Nat) : Nat := 0x440 + 4 * i
def rKsStat : Nat := 0x500
def rKsSeq : Nat := 0x504
def rEvCtrl : Nat := 0x8000
def rEvCnt (i : Nat) : Nat := 0x8040 + 4 * i
def rDmCtrl : Nat := 0x4000
def rDmHoldMax : Nat := 0x4008
def rDmTrig : Nat := 0x400C
def rDmTrigMask : Nat := 0x4010
def rDmCatFree : Nat := 0x40C4
def rDmCnt (i : Nat) : Nat := 0x4100 + 4 * i
/-- Base of partition n's register block. -/
def ptBase (n : Nat) : Nat := 0x100000 + 0x1000 * n
def ptCtrl (n : Nat) : Nat := ptBase n
def ptStat (n : Nat) : Nat := ptBase n + 4
def ptEnAt (n : Nat) : Nat := ptBase n + 8
def ptWdog (n : Nat) : Nat := ptBase n + 0x10
def ptDrop (n : Nat) : Nat := ptBase n + 0x14
def ptLedgerStat (n : Nat) : Nat := ptBase n + 0x40
def ptLedgerPeak (n : Nat) : Nat := ptBase n + 0x44
def ptPlanId (n : Nat) : Nat := ptBase n + 0x48
def ptPlanStat (n : Nat) : Nat := ptBase n + 0x50
/-- Base of tile n's register block. -/
def tlBase (n : Nat) : Nat := 0x140000 + 0x100 * n
def tlEpc (n : Nat) : Nat := tlBase n + 0x04
def tlEcause (n : Nat) : Nat := tlBase n + 0x08
def tlEtgt (n : Nat) : Nat := tlBase n + 0x0C
def tlEmode (n : Nat) : Nat := tlBase n + 0x10
def tlEaddr (n : Nat) : Nat := tlBase n + 0x14
def tlCnt (n i : Nat) : Nat := tlBase n + 0x20 + 4 * i
def tlStickyLast (n : Nat) : Nat := tlBase n + 0x40
def tlStickyAcc (n : Nat) : Nat := tlBase n + 0x44
def dbtBp (n k : Nat) : Nat := tlBase n + 0x80 + 4 * k
def dbtHits (n k : Nat) : Nat := tlBase n + 0x90 + 4 * k
def dbtWp (n k : Nat) : Nat := tlBase n + 0xA0 + 8 * k
def dbtWpMask (n k : Nat) : Nat := tlBase n + 0xA4 + 8 * k
def dbtStep (n : Nat) : Nat := tlBase n + 0xB0
/-- Base of link n's register block. -/
def lkBase (n : Nat) : Nat := 0x16000 + 0x100 * n
def lkCtrl (n : Nat) : Nat := lkBase n
def lkStat (n : Nat) : Nat := lkBase n + 4
def lkPeer (n : Nat) : Nat := lkBase n + 0xC
def lkSeen (n : Nat) : Nat := lkBase n + 0x10
def lkDelay (n : Nat) : Nat := lkBase n + 0x14
def lkCnt (n i : Nat) : Nat := lkBase n + 0x40 + 4 * i
def rLkCfg : Nat := 0x14000
def rStampOut : Nat := 0x14010
def rStampIn : Nat := 0x14014
def lkGrt (g : Nat) : Nat := 0x14400 + 4 * g
def lkMrt (m : Nat) : Nat := 0x14800 + 4 * m
def lkFail (e : Nat) : Nat := 0x14C00 + 16 * e
def lkHole (p : Nat) : Nat := 0x15000 + 8 * p
def lkWof (p : Nat) : Nat := 0x15004 + 8 * p
/-- A register of hub space, at the hub window (R1112). -/
def hub (o : Nat) : Nat := 0x130000 + o

/-! Identity, time and passes. -/
/-- This Plezor's ID: group and member (R34). -/
def plezorId (c : Ctl) : Nat := fld c rGlbFabric 15 0
/-- The profile is bench: a fabric of one (R33). -/
def bench (c : Ctl) : Bool := decide (fld c rGlbFabric 31 16 = 0)
/-- PASS_LEN in force (R84). -/
def passLen (c : Ctl) : Nat := fld c rPassLen 15 0
/-- The root PLL is locked (R78). -/
def rootLock (c : Ctl) : Bool := rbit c rClkStat 0
/-- The FTC of the boundary that ends the pass in progress (R87). -/
def nextBoundary (c : Ctl) : Nat := c.time.passAt + passLen c
/-- The pass of an instant and the offset in it, while the epoch runs (R119). -/
def passOf (c : Ctl) : Nat × Nat :=
  if c.time.ftc < c.time.passAt then (c.time.pass, 0)
  else
    let d := c.time.ftc - c.time.passAt
    if passLen c = 0 then (c.time.pass, d) else (c.time.pass + d / passLen c, d % passLen c)
/-- The timestamp of the present instant (R119, R120). -/
def stamp (c : Ctl) : Nat :=
  if c.time.epoch then let (p, o) := passOf c; p % 2 ^ 48 * 2 ^ 16 + o % 2 ^ 16
  else 0xFFFFFFFFFFFF * 2 ^ 16 + c.time.ftc % 2 ^ 16
/-- The pass number that TIM_PASS shows: all ones while the epoch is not running. -/
def passNo (c : Ctl) : Nat := if c.time.epoch then c.time.pass % 2 ^ 48 else 0xFFFFFFFFFFFF
/-- The boundary of pass `p`, while the epoch runs (R87). -/
def boundaryOf (c : Ctl) (p : Nat) : Nat :=
  if p ≥ c.time.pass then c.time.passAt + (p - c.time.pass) * passLen c
  else c.time.passAt - (c.time.pass - p) * passLen c
/-- The first pass whose boundary falls at least 64 tc after FTC `a` (R43, R66). -/
def firstPassAfter (c : Ctl) (a : Nat) : Nat :=
  if passLen c = 0 then c.time.pass + 1
  else if a + 64 ≤ c.time.passAt then c.time.pass
  else c.time.pass + ceilDiv (a + 64 - c.time.passAt) (passLen c)
/-- FTC moves forward to `t`; it never moves back (R102), and stands still while actions of a pass boundary are still to be done and
while CHIP reset is asserted. -/
def advanceTo (c : Ctl) (t : Nat) : Ctl :=
  if t > c.time.ftc ∧ c.time.phase = 0 ∧ c.pwr.chip = false then { c with time := { c.time with ftc := t } } else c
/-- FTC moves forward to the due instant of an event. While the epoch runs, an event due at or after the boundary that ends the pass in
progress comes after that boundary: it is not due yet. -/
def reach (c : Ctl) (t : Nat) : Option Ctl :=
  if c.time.epoch ∧ (t ≥ nextBoundary c ∨ (c.time.phase ≠ 0 ∧ t > c.time.ftc)) then none else some (advanceTo c t)
/-- FTC moves forward by `n` tc. -/
def advance (c : Ctl) (n : Nat) : Ctl := { c with time := { c.time with ftc := (c.time.ftc + n) % 2 ^ 64 } }

/-! Events (R1030 to R1045). -/
/-- Severities: 0 NOTE, 1 CORR, 2 CONT, 3 CHIP, 4 FAB. -/
def sevTable : List (Nat × Nat × Bool) := [
  (0x1001, 0, false), (0x1002, 0, false), (0x0003, 2, false), (0x0004, 2, false), (0x8005, 3, false), (0x8006, 4, false),
  (0x8041, 3, false), (0x3081, 0, false), (0x3082, 0, false), (0x3083, 3, false), (0x3084, 2, false), (0x3085, 0, false),
  (0x4086, 2, false), (0x80C1, 3, false), (0x00C2, 0, false), (0x80C3, 3, false), (0x0101, 0, false), (0x3181, 2, true),
  (0x1182, 0, true), (0x5183, 2, true), (0x1184, 0, true), (0x3185, 0, true), (0x3186, 2, true), (0x3187, 2, true),
  (0x21C1, 1, true), (0x4201, 0, false), (0x0202, 0, false), (0x4203, 2, false), (0x4204, 0, false), (0x1205, 0, false),
  (0x2206, 1, false), (0x2207, 2, false), (0x3241, 0, true), (0x2281, 1, false), (0x2282, 2, true), (0x2283, 2, false),
  (0x2284, 2, true), (0x52C1, 2, true), (0x7301, 2, false), (0x7302, 0, false), (0x7303, 2, false), (0x7304, 2, false)]
/-- The rest of the catalogue. -/
def sevTable2 : List (Nat × Nat × Bool) := [
  (0x13C1, 0, false), (0x43C2, 2, false), (0x43C3, 2, false), (0x43C4, 0, false), (0x23C5, 1, false), (0x43C6, 0, true),
  (0x53C7, 0, true), (0x23C8, 2, true), (0x43C9, 2, true), (0x43CA, 2, false), (0x43CB, 0, false), (0x43CC, 2, true),
  (0x43CD, 2, true), (0x6401, 2, false), (0x6402, 0, false), (0x6441, 2, false), (0x6442, 0, false), (0x6481, 2, false),
  (0x1482, 0, false), (0x6483, 0, true), (0x6484, 2, false), (0x6485, 2, false), (0x6486, 2, false), (0x6487, 0, false),
  (0x6488, 0, false), (0x6489, 0, false), (0x14C1, 0, false), (0x44C2, 2, false), (0x3501, 2, false), (0x0502, 2, false),
  (0x0541, 0, false), (0x0542, 0, false), (0x5543, 2, true), (0x0581, 0, false)]
/-- The severity of a code (R1033, R1045). -/
def sevOf (code : Nat) : Nat :=
  match (sevTable ++ sevTable2).find? (fun e => e.1 = code) with | some e => e.2.1 | none => 0
/-- A record of the code also goes to the partition's VF (R1036). -/
def vfCode (code : Nat) : Bool :=
  match (sevTable ++ sevTable2).find? (fun e => e.1 = code) with | some e => e.2.2 | none => false
/-- A unit address on this Plezor: class and index (R940, R1031). -/
def unitOf (c : Ctl) (cls idx : Nat) : Nat := plezorId c * 2 ^ 16 + cls * 2 ^ 12 + idx % 2 ^ 12
/-- The unit of a partition event that names no tile (R1031). -/
def unitPart (c : Ctl) (p : Nat) : Nat := unitOf c 0xC p
/-- The unit of a block that is no unit: its block number (R1031, R1032). -/
def unitBlock (c : Ctl) (b : Nat) : Nat := unitOf c 0xF b
/-- The channels that an event fires: source EVENT, and FAB_CH for a FAB event raised here while no containment holds (R964, R1041, R1042). -/
def eventCh (c : Ctl) (code sev : Nat) : Nat :=
  (if sev ≥ fld c (hub 0x110) 2 0 then fld c (hub 0x38C) 15 0 else 0) |||
  (if sev = 4 ∧ code ≠ 0x8006 ∧ rbit c rEvCtrl 19 ∧ c.ev.contained = false then 2 ^ fld c rEvCtrl 15 12 else 0)
/-- Raises an event with an explicit timestamp: its cause waits for the collector (R1034), and its channels fire. A CHIP code is raised as
FAB while CHIP_TO_FAB is 1 (R1041). While CHIP reset is asserted nothing is recorded (R1039). -/
def raiseAt (c : Ctl) (ts code part unit detail : Nat) : Ctl :=
  if c.pwr.chip then c
  else
    let s0 := sevOf code
    let sev := if s0 = 3 ∧ rbit c rEvCtrl 18 then 4 else s0
    let ch := eventCh c code sev
    let c := { c with ev := { c.ev with causes := c.ev.causes ++ [⟨code, sev, part, unit, ts, detail % 2 ^ 64, c.time.ftc⟩] } }
    if ch = 0 then c else { c with db := { c.db with fireQ := c.db.fireQ ++ [(ch, true)] } }
/-- Raises an event at the present instant. -/
def raise (c : Ctl) (code part unit detail : Nat) : Ctl := raiseAt c (stamp c) code part unit detail
/-- Hardware sets bits of a W1C field; the HCLK cycle in which it does so is kept (R21). -/
def hwSet (c : Ctl) (o mask : Nat) : Ctl :=
  let cyc := c.time.ftc / 2 + 1
  let old := smGet c.w1cSet (0, 0) o
  { (wr c o (rd c o ||| mask)) with w1cSet := smSet c.w1cSet (0, 0) o (cyc, if old.1 = cyc then old.2 ||| mask else mask) }
/-- Hardware sets one W1C bit. -/
def hwBit (c : Ctl) (o i : Nat) : Ctl := hwSet c o (2 ^ i)
/-- A register was written: which bits of the mask changed, and the word before. An immediate field takes effect 8 tc after its write is
accepted (R42, R776): what happens at an instant in between uses the word before. -/
def noteWrite (c : Ctl) (o old mask : Nat) : Ctl :=
  let chg := (old ^^^ rd c o) &&& mask
  let live := c.recent.filter (fun r => decide (r.1 + 8 ≥ c.time.ftc))
  { c with recent := if chg = 0 then live else (c.time.ftc, o, chg, old) :: live }
/-- The registers without some writes: the bits these changed are as before. -/
def earlyRegs (c : Ctl) (rs : List (Nat × Nat × Nat × Nat)) : Ctl :=
  rs.foldl (fun c r => wr c r.2.1 ((rd c r.2.1 &&& (0xFFFFFFFF ^^^ r.2.2.1)) ||| (r.2.2.2 &&& r.2.2.1))) c
/-- The writes come back. -/
def lateRegs (c : Ctl) (rs : List (Nat × Nat × Nat × Nat)) : Ctl :=
  rs.foldr (fun r c => wr c r.2.1 ((rd c r.2.1 &&& (0xFFFFFFFF ^^^ r.2.2.1)) ||| ((0xFFFFFFFF ^^^ r.2.2.2) &&& r.2.2.1))) c
/-- The writes that have not taken effect at FTC `t` (R42). -/
def lateAt (c : Ctl) (t : Nat) : List (Nat × Nat × Nat × Nat) := c.recent.filter (fun r => decide (r.1 + 8 > t))
/-- What an event at FTC `t` does, it does with the immediate fields in force at its instant: writes accepted less than 8 tc before take effect
after it (R42). -/
def inEffectAt (t : Nat) (f : Ctl → Ctl) (c : Ctl) : Ctl :=
  let rs := lateAt c t
  lateRegs (f (earlyRegs c rs)) rs
/-- The same for an event that touches the memories too. -/
def inEffectAll (t : Nat) (f : Ctl × Mem → Ctl × Mem) (cm : Ctl × Mem) : Ctl × Mem :=
  let rs := lateAt cm.1 t
  let r := f (earlyRegs cm.1 rs, cm.2)
  (lateRegs r.1 rs, r.2)
/-- The same for an event at the present instant. -/
def inEffect (f : Ctl → Ctl) (c : Ctl) : Ctl := inEffectAt c.time.ftc f c
/-- No partition. -/
def noPart : Nat := 0xFF
/-- The unit, as class and index, that holds the register at a PF0 BAR0 offset (R1031, R1107); blocks that are no unit have class 0xF
and their number (R1032). -/
def regUnit (o : Nat) : Nat × Nat :=
  if o < 0x100 then (0xF, 0x00) else if o < 0x200 then (0xF, 0x01) else if o < 0x300 then (0xF, 0x02)
  else if o < 0x400 then (0xF, 0x05) else if o < 0x500 then (0xF, 0x03) else if o < 0x1000 then (0xF, 0x04)
  else if o < 0x4000 then (0xF, 0x13) else if o < 0x5000 then (0xF, 0x15) else if o < 0x6000 then (0xF, 0x0A)
  else if o < 0x8000 then (0xF, 0x0B) else if o < 0x10000 then (0xF, 0x16) else if o < 0x14000 then (8, 0)
  else if o < 0x16000 then (0xF, 0x0F) else if o < 0x18000 then (2, (o - 0x16000) / 0x100) else if o < 0x28000 then (7, 0)
  else if o < 0x80000 then (4, 0) else if o < 0x100000 then (5, 0) else if o < 0x120000 then (0xC, (o - 0x100000) / 0x1000)
  else if o < 0x140000 then (0xD, 0) else if o < 0x180000 then (0, (o - 0x140000) / 0x100)
  else if 0x800000 ≤ o ∧ o < 0x1000000 then (3, (o - 0x800000) / 0x80000) else (0xF, 0x13)
/-- A write that a block discards raises a NOTE naming its BAR0 offset, as the function sees it, and the function (R23, R1031). -/
def discardAs (c : Ctl) (off raw fn : Nat) : Ctl :=
  let u := regUnit off
  raise c 0x1001 noPart (unitOf c u.1 u.2) (raw % 2 ^ 28 + fn % 64 * 2 ^ 40)
/-- The same for an access through PF0. -/
def discard (c : Ctl) (off fn : Nat) : Ctl := discardAs c off off fn
/-- A block enters FAULT (R64): its STATE, EN_PENDING 0, and one event: the code its cause has, or BLOCK_FAULT (R1044). -/
def enterFault (c : Ctl) (stat : Nat) : Ctl := setFld c stat 2 0 3
/-- The partition of an owner code, for an event; none for another owner. -/
def partOf (o : Nat) : Nat := if o < 32 then o else noPart

/-- The timestamp of another instant. -/
def stampAt (c : Ctl) (t : Nat) : Nat := stamp { c with time := { c.time with ftc := t } }
/-- `n` free bytes. -/
def freeBytes : Nat → Ctl → Ctl × Bytes
  | 0, c => (c, [])
  | n + 1, c =>
    let r := freeBytes n { c with free := c.free + 1 }
    (r.1, Config.freeByte c.free :: r.2)

/-- The epoch and the pass as they stood at an instant up to 349 tc ago, which a boundary or a stop may have changed since. -/
def timeAt (c : Ctl) (t : Nat) : Ctl :=
  match (c.hg.older ++ [c.hg.prev]).find? (fun h => decide (t < h.at_)) with
  | some h => { c with time := { c.time with epoch := h.epoch, pass := h.pass, passAt := h.passAt } }
  | none => c
/-- The timestamp of an instant that may lie before the pass in progress, before the epoch or before its stop (R119, R120). -/
def stampBack (c : Ctl) (t : Nat) : Nat :=
  let c := timeAt c t
  if c.time.epoch ∧ t < c.time.passAt then
    let d := c.time.passAt - t
    let n := ceilDiv d (passLen c)
    if c.time.pass < rd64 c rEpochFirst % 2 ^ 48 + n then 0xFFFFFFFFFFFF * 2 ^ 16 + t % 2 ^ 16
    else (c.time.pass - n) * 2 ^ 16 + (n * passLen c - d)
  else stampAt c t

/-! Sidebands (R667 to R669). -/
/-- The number of a link's drain timer. -/
def lkDrainKey (l : Nat) : Nat := 64 + l
/-- A link carries the parcels of pass `n`: it is ON, or its drain began in that pass or at its boundary (R54, R61). -/
def lkTakes (c : Ctl) (l n : Nat) : Bool :=
  decide (fld c (lkStat l) 1 0 = 1) ||
  (decide (fld c (lkStat l) 1 0 = 2) && c.time.epoch && decide (boundaryOf c n ≤ smGet c.drainAt 0 (lkDrainKey l)))
/-- A link takes a new sideband word: it is ON or drains in the pass of its drain; a draining link goes on taking time messages, of kind 1
(R54, R61, R138). -/
def sbTakes (c : Ctl) (l kind : Nat) : Bool :=
  lkTakes c l c.time.pass || (decide (fld c (lkStat l) 1 0 = 2) && decide (kind = 1))
/-- A sideband word waits on a link for a frame to carry it; a link that takes none drops it (R60). -/
def sbSend (c : Ctl) (l kind payload : Nat) (echo : Option Nat := none) : Ctl :=
  if sbTakes c l kind then { c with lk := { c.lk with sb := smUpd c.lk.sb [] l (· ++ [⟨kind, payload, echo⟩]) } } else c

/-! Whether the Plezor runs. -/
/-- STATE of PWR_STAT: the power state (R1071). -/
def pwrState (c : Ctl) : Nat := fld c rPwrStat 1 0
/-- HCLK runs from ROOT and no CHIP containment holds (R71, R78, R79); after a loss of REFCLK only a POR starts it again (R82). -/
def hclkRuns (c : Ctl) : Bool := rootLock c && !c.ev.contained && c.time.refclk && !c.time.needPor
/-- The blocks run: HCLK does, and the Plezor is not in S3 (R1074). -/
def alive (c : Ctl) : Bool := hclkRuns c && decide (pwrState c ≠ 3)
/-- Registers are written: HCLK runs, from ROOT or on the bypass path, and CHIP reset is over (R78 to R82, R1063). -/
def regsServed (c : Ctl) : Bool :=
  !c.pwr.chip && c.time.refclk && !c.time.needPor && (rootLock c || rbit c rClkStat 1)
/-- The Plezor runs on the bypass path after a loss of root PLL lock (R79, R80). -/
def onBypass (c : Ctl) : Bool := rbit c rClkStat 1 && !rootLock c
/-- Staged writes wait: the epoch runs, or there is no pass boundary to come on the bypass path (R43, R44, R80). -/
def stagedWait (c : Ctl) : Bool := c.time.epoch || onBypass c
/-- The W1C bits of a register that hardware has set in this HCLK cycle: a clear leaves them set (R21). FTC tells HCLK cycles apart while
it counts, from ROOT or on the bypass path. -/
def w1cKept (c : Ctl) (o : Nat) : Nat :=
  let e := smGet c.w1cSet (0, 0) o
  if regsServed c ∧ e.1 = c.time.ftc / 2 + 1 then e.2 else 0
/-- The links send and receive: TCLK runs and CHIP reset is over. A contained Plezor's links go on with time messages and TRIG words (R134,
R137). -/
def linksRun (c : Ctl) : Bool := rootLock c && c.time.refclk && !c.time.needPor && !c.pwr.chip && decide (pwrState c ≠ 3)
/-- Does something only while the links do. -/
def whenLinks (c : Ctl) (f : Ctl → Ctl) : Ctl := if linksRun c then f c else c
/-- Does something only while registers are written, on either clock. -/
def whenServed (c : Ctl) (f : Ctl → Ctl) : Ctl := if regsServed c then f c else c
/-- Does something only while the blocks run. -/
def whenAlive (c : Ctl) (f : Ctl → Ctl) : Ctl := if alive c then f c else c
/-- Does something only while HCLK runs. -/
def whenHclk (c : Ctl) (f : Ctl → Ctl) : Ctl := if hclkRuns c then f c else c
/-- The host port answers normally: CHIP reset and training are over (R1065, R1066), the link is up (R1067) and REFCLK runs (R82). -/
def hostUp (c : Ctl) : Bool := c.pwr.ready && !c.pwr.chip && !c.pwr.perst && c.time.refclk
/-- The stack of a pseudo-channel is in self-refresh (R1073). -/
def pchAsleep (c : Ctl) (q : Nat) : Bool := bitN c.pwr.sref (q / 64)

/-! Frame plan and partition plan tables (R155 to R174). -/
/-- Byte `i` of a table; a byte past its end reads as FREE. -/
def tab (b : Bytes) (i : Nat) : Nat := (b.getD i 0xFF).toNat
/-- A frame plan is active (R182). -/
def fplanOn (c : Ctl) : Bool := c.plan.active.isSome
/-- A frame plan is in force (R144). -/
def inForce (c : Ctl) : Bool := fplanOn c && c.time.epoch
/-- The tables of the active frame plan; those of none are empty. -/
def fplan (c : Ctl) : FramePlan := c.plan.active.getD {}
/-- The owner code of a tile (R155). -/
def tileOwner (c : Ctl) (t : Nat) : Nat := if t < 1024 then tab (fplan c).tileGrant t else 0xFF
/-- The owner code of a granule (R156). -/
def granOwner (c : Ctl) (g : Nat) : Nat := if g < 1024 then tab (fplan c).granules g else 0xFF
/-- The owner code of a phase at a router (R158). -/
def nocOwner (c : Ctl) (r p : Nat) : Nat := if r < 1024 ∧ p < 64 then tab (fplan c).noc (64 * r + p) else 0xFF
/-- HBM slots per pass (R141). -/
def hslots (c : Ctl) : Nat := passLen c / 16
/-- Link slots per pass (R142). -/
def lslots (c : Ctl) : Nat := 3 * passLen c / 160
/-- The owner code that HBM_SLOTS gives a slot of a pseudo-channel (R159). -/
def hbmTable (c : Ctl) (p s : Nat) : Nat := if p < 512 ∧ s < hslots c then tab (fplan c).hbm (hslots c * p + s) else 0xFF
/-- The owner that an HBM slot serves; the slots of a stack in self-refresh stay idle (R1073). -/
def hbmOwner (c : Ctl) (p s : Nat) : Nat := if pchAsleep c p then 0xFF else hbmTable c p s
/-- The owner code of a link slot (R164). -/
def linkOwner (c : Ctl) (l k : Nat) : Nat :=
  if l < 32 ∧ k < lslots c then tab (fplan c).link (lslots c * l + k) else 0xFF
/-- The tiles a partition owns, rising. -/
def tilesOf (c : Ctl) (p : Nat) : List Nat := (List.range 1024).filter (fun t => tileOwner c t = p)
/-- A PARTITION_GRANT flag: 0 STAMP, 1 TRIM, 2 GMERGE (R157). -/
def grantFlag (c : Ctl) (p i : Nat) : Bool :=
  decide (p < 32) && fplanOn c && ((fplan c).partGrant.getD (16 * p + 8) 0).toNat.testBit i
/-- The shared regions a partition may write (R157). -/
def srMask (c : Ctl) (p : Nat) : Nat := if p < 32 then leAt (fplan c).partGrant (16 * p) 8 else 0
/-- The plan a partition has loaded. -/
def partPlan (c : Ctl) (p : Nat) : Option PartPlan := smGet c.plan.loaded none p
/-- A field of PART_PARAMS of a partition (R166). -/
def params (c : Ctl) (p o n : Nat) : Nat := match partPlan c p with | some q => leAt q.params o n | none => 0
/-- DEFAULT_DEC (R166). -/
def defaultDec (c : Ctl) (p : Nat) : Nat := params c p 1 1
/-- DUMP_ON_HALT (R166). -/
def dumpOnHalt (c : Ctl) (p : Nat) : Bool := (params c p 2 1).testBit 0
/-- The watchdog period (R166). -/
def wdogOf (c : Ctl) (p : Nat) : Nat := params c p 4 2

/-- Nothing refreshes the snapshot: a save has frozen it (R1081). -/
def snapShut (c : Ctl) : Bool := c.snap.frozen || (match c.snap.till with | some t => decide (c.time.ftc > t) | none => false)

/-! Partition state. -/
/-- The hidden state of a partition. -/
def part (c : Ctl) (p : Nat) : PartSt := smGet c.parts {} p
/-- Changes the hidden state of a partition. -/
def updPart (c : Ctl) (p : Nat) (f : PartSt → PartSt) : Ctl := { c with parts := smUpd c.parts {} p f }
/-- STATE of a partition: 0 OFF, 1 ON, 2 DRAINING, 3 FAULT (R51). -/
def ptState (c : Ctl) (p : Nat) : Nat := fld c (ptStat p) 1 0
/-- The partition is halted (R214). -/
def ptHalted (c : Ctl) (p : Nat) : Bool := rbit c (ptStat p) 4
/-- HALTED is the OR of the two halts. -/
def ptFixHalted (c : Ctl) (p : Nat) : Ctl := setBit c (ptStat p) 4 (rbit c (ptStat p) 5 || rbit c (ptStat p) 6)
/-- The partition is ON, not halted and not in a PART reset. -/
def ptRuns (c : Ctl) (p : Nat) : Bool := decide (ptState c p = 1) && !ptHalted c p && !(part c p).resetting
/-- In S1, a pass that no partition runs (R1072). -/
def throttled (c : Ctl) (n : Nat) : Bool := decide (pwrState c = 1 ∧ n % c.pwr.s1div ≠ 0)
/-- The partition runs the pass in progress, so that its link slots and stamps do not stand still (R213, R1072). -/
def ptPasses (c : Ctl) (p : Nat) : Bool := ptRuns c p && !throttled c c.time.pass

/-! Tile state. -/
/-- The bits STICKY holds; the rest read 0 (R336). -/
def stickyMask (v : Nat) : Nat := v &&& 0x00BF01FF
/-- The state of a tile. -/
def tile (c : Ctl) (t : Nat) : Tile := smGet c.tiles {} t
/-- The tile is being cleared after an activation: a write to it is discarded, and it reads 0 (R185). -/
def clearing (c : Ctl) (t : Nat) : Bool := decide (c.time.ftc < smGet c.plan.clearing 0 t)
/-- Changes the state of a tile. -/
def updTile (c : Ctl) (t : Nat) (f : Tile → Tile) : Ctl := { c with tiles := smUpd c.tiles {} t f }
/-- Stores the state of a tile. -/
def putTile (c : Ctl) (t : Nat) (v : Tile) : Ctl := { c with tiles := smSet c.tiles {} t v }

end Sys2Proof.Machine
end

