-- ==== Sys2Proof/Machine/Keep.lean ====
section
/-! DEFINITION. The keep store's records: which bank is the newest, and whether its record is valid (R1088 to R1091). -/
namespace Sys2Proof.Machine

/-- The offset of a bank: 0 is A, 1 is B. -/
def bankAt (b : Nat) : Nat := 0x1000 + 0x1000 * b
/-- A bank holds MAGIC. -/
def bankMagic (m : Mem) (b : Nat) : Bool := decide (readLe m.keep (bankAt b) 4 = 0x524B5A50)
/-- SAVE_SEQ of a bank. -/
def bankSeq (m : Mem) (b : Nat) : Nat := readLe m.keep (bankAt b + 4) 4
/-- The newest bank (R1089). -/
def newestBank (m : Mem) : Option Nat :=
  match bankMagic m 0, bankMagic m 1 with
  | true, true => some (if bankSeq m 1 > bankSeq m 0 then 1 else 0)
  | true, false => some 0
  | false, true => some 1
  | false, false => none
/-- The record of a bank has FORMAT and CRC right (R1089). -/
def bankGood (m : Mem) (b : Nat) : Bool :=
  decide (readLe m.keep (bankAt b + 8) 2 = 1) &&
  decide (crc32c (readBytes m.keep (bankAt b) 0xFF8) = readLe m.keep (bankAt b + 0xFF8) 4)
/-- The newest bank when the keep record is valid (R1089). -/
def validBank (m : Mem) : Option Nat :=
  match newestBank m with | some b => if bankGood m b then some b else none | none => none
/-- CONSUMED of a bank. -/
def consumed (m : Mem) (b : Nat) : Nat := readLe m.keep (bankAt b + 0xFFC) 4
/-- CONSUMED becomes 1 in the newest bank (R1090). -/
def consume (m : Mem) : Mem :=
  match newestBank m with | some b => { m with keep := writeLe m.keep (bankAt b + 0xFFC) 4 1 } | none => m

end Sys2Proof.Machine
end

