-- ==== Sys2Proof/Machine/Plans.lean ====
section
/-! DEFINITION. The checks of the loader (R149 to R178, R426, R685, R1173), over the bytes of an image. -/
namespace Sys2Proof.Machine

/-- The first check that fails. -/
def firstFail : List (Option (Nat × Nat)) → Option (Nat × Nat)
  | [] => none
  | some e :: _ => some e
  | none :: r => firstFail r
/-- Refuses with a code and a section index when the condition holds. -/
def refuseIf (cond : Bool) (code idx : Nat) : Option (Nat × Nat) := if cond then some (code, idx) else none
/-- No section: the command, the header or the table (R1173). -/
def noSect : Nat := 0xFFFF

/-- A section table entry (R150) with its index. -/
structure Sect where
  idx : Nat
  typ : Nat
  ver : Nat
  inst : Nat
  off : Nat
  len : Nat
  crc : Nat
  /-- the reserved bytes of the entry are 0 -/
  clean : Bool
  deriving DecidableEq, Repr

/-- Entry `i` of the table at offset `t` of an image. -/
def sectAt (img : Bytes) (t i : Nat) : Sect :=
  let o := t + 32 * i
  { idx := i, typ := leAt img o 2, ver := leAt img (o + 2) 1, inst := leAt img (o + 4) 4, off := leAt img (o + 8) 8,
    len := leAt img (o + 16) 8, crc := leAt img (o + 24) 4,
    clean := decide (leAt img (o + 3) 1 = 0 ∧ leAt img (o + 28) 4 = 0) }
/-- The image's section table: the entries that lie within the image. -/
def sectsOf (img : Bytes) : List Sect :=
  let t := leAt img 0x14 4
  ((List.range (leAt img 0x10 2)).filter (fun i => decide (t + 32 * (i + 1) ≤ leAt img 8 8))).map (sectAt img t)
/-- The body of a section. -/
def body (img : Bytes) (s : Sect) : Bytes := slice img s.off s.len
/-- The body of the section of a type, and its index; empty when absent. -/
def bodyOf (img : Bytes) (ss : List Sect) (typ : Nat) : Bytes :=
  match ss.find? (fun s => s.typ = typ) with | some s => body img s | none => []
/-- The index of the section of a type. -/
def idxOf (ss : List Sect) (typ : Nat) : Nat :=
  match ss.find? (fun s => s.typ = typ) with | some s => s.idx | none => noSect
/-- The types of a frame plan and of a partition plan (R154). -/
def frameTypes : List Nat := [0x10, 0x11, 0x12, 0x20, 0x21, 0x22, 0x23, 0x24, 0x25]
def partTypes : List Nat := [0x100, 0x101, 0x102, 0x103, 0x104, 0x105, 0x106, 0x107]
/-- The pieces of `n` bytes of a body; a rest shorter than that is no piece. -/
def pieces (n : Nat) (b : Bytes) : List Bytes := (List.range (b.length / n)).map (fun i => slice b (n * i) n)
/-- All bytes from offset `o`, `n` of them, are 0. -/
def zeroAt (b : Bytes) (o n : Nat) : Bool := decide (leAt b o n = 0)

/-- The reserved bytes of a transfer entry are 0 (R173). -/
def xferClean (e : Bytes) : Bool := decide (leAt e 3 1 < 8) && zeroAt e 0x0F 1 && zeroAt e 0x1A 6
/-- The alternatives of a DETOUR body: FAIL_ID, FAIL_LINK, their entries, whether reserved bytes are 0; and what is left
(R174). -/
def alts : Nat → Bytes → List (Nat × Nat × List Bytes × Bool) × Bytes
  | 0, b => ([], b)
  | n + 1, b =>
    if b.length < 8 then ([], b)
    else
      let k := leAt b 4 2
      let r := alts n (b.drop (8 + 32 * k))
      ((leAt b 0 2, leAt b 2 1, pieces 32 (slice b 8 (32 * k)), zeroAt b 3 1 && zeroAt b 6 2) :: r.1, r.2)
/-- The length that a DETOUR body's headers require. -/
def altsLen : Nat → Bytes → Nat
  | 0, _ => 0
  | n + 1, b => let k := leAt b 4 2; 8 + 32 * k + altsLen n (b.drop (8 + 32 * k))
/-- The alternatives of a DETOUR body (R174). -/
def altsOf (b : Bytes) : List (Nat × Nat × List Bytes × Bool) := (alts (leAt b 2 2) (b.drop 8)).1

/-- The reserved fields of a section's body are 0 (code 0x0D). -/
def bodyClean (typ : Nat) (b : Bytes) : Bool :=
  match typ with
  | 0x12 => (pieces 16 b).all (fun e => decide (leAt e 8 1 < 8) && zeroAt e 9 7)
  | 0x22 => (pieces 16 b).all (fun e => zeroAt e 6 10)
  | 0x23 => zeroAt b 8 8
  | 0x100 => decide (leAt b 2 1 < 2) && zeroAt b 3 1 && zeroAt b 0x0C 52
  | 0x104 => zeroAt b 1 1 && zeroAt b 6 2
  | 0x106 => (pieces 32 b).all xferClean
  | 0x107 => zeroAt b 1 1 && zeroAt b 4 4 && (altsOf b).all (fun a => a.2.2.2 && a.2.2.1.all xferClean)
  | _ => true
/-- Two byte ranges meet. -/
def meets (a n b m : Nat) : Bool := decide (a < b + m ∧ b < a + n)
/-- The length that a section's type and header fields require; `pl` is the header's PASS_LEN (code 0x17). -/
def lenOk (typ pl : Nat) (b : Bytes) : Bool :=
  let n := b.length
  match typ with
  | 0x10 | 0x11 => decide (n = 1024)
  | 0x12 => decide (n = 512)
  | 0x20 => decide (n = 65536)
  | 0x21 => decide (n = 512 * (pl / 16))
  | 0x22 | 0x25 => decide (n % 16 = 0)
  | 0x23 => decide (n = 16)
  | 0x24 => decide (n = 32 * (3 * pl / 160))
  | 0x100 => decide (n = 64)
  | 0x102 => decide (8 ≤ n ∧ n = 8 + leAt b 4 4)
  | 0x103 => decide (16 ≤ n ∧ n = 16 + leAt b 8 8)
  | 0x104 => decide (8 ≤ n ∧ n = 8 + 4 * (leAt b 2 2 + leAt b 4 2))
  | 0x105 => decide (n = 141824)
  | 0x106 => decide (n % 32 = 0)
  | 0x107 => decide (8 ≤ n ∧ n = 8 + altsLen (leAt b 2 2) (b.drop 8))
  | _ => true

/-- The checks that both kinds of image share: codes 0x08 to 0x17 (R176). -/
def checkForm (c : Ctl) (kind part cmdLen : Nat) (img : Bytes) : Option (Nat × Nat) :=
  let h (o n : Nat) := leAt img o n
  let len := h 8 8
  let ss := sectsOf img
  let t := h 0x14 4
  let cnt := h 0x10 2
  let known (s : Sect) : Bool := (frameTypes ++ partTypes).contains s.typ
  let ours (s : Sect) : Bool := if kind = 0 then frameTypes.contains s.typ else partTypes.contains s.typ
  let once (s : Sect) : Bool := decide (s.typ ≠ 0x102 ∧ s.typ ≠ 0x103)
  let same (a b : Sect) : Bool := decide (a.typ = b.typ) && (decide (a.typ ≠ 0x101) || decide (a.inst = b.inst))
  firstFail [
    refuseIf (decide (cmdLen ≠ len)) 0x08 noSect,
    refuseIf (decide (h 0 4 ≠ (if kind = 0 then 0x50465A50 else 0x50505A50) ∨ h 6 1 ≠ (if kind = 0 then 1 else 2))) 0x09 noSect,
    refuseIf (decide (h 4 2 ≠ 1 ∨ h 0x12 2 ≠ 64 ∨ h 0x20 8 = 0)) 0x0A noSect,
    refuseIf (decide (crc32c (slice img 0 0x3C) ≠ h 0x3C 4)) 0x0B noSect,
    refuseIf (decide (h 7 1 ≠ (if kind = 0 then 0xFF else part))) 0x0C noSect,
    refuseIf (decide (h 0x1E 2 ≠ 0) || (decide (kind = 0) && decide (h 0x28 8 ≠ 0 ∨ h 0x30 8 ≠ 0))) 0x0D noSect,
    (ss.find? (fun s => !s.clean || (decide (s.inst ≠ 0) && decide (s.typ ≠ 0x101 ∧ s.typ ≠ 0x102)) ||
      (known s && decide (s.ver = 1 ∧ s.off + s.len ≤ len) && !bodyClean s.typ (body img s)))).map (fun s => (0x0D, s.idx)),
    refuseIf (decide (cnt = 0 ∨ cnt > 16384 ∨ t % 64 ≠ 0 ∨ t < 64 ∨ t + 32 * cnt > len)) 0x10 noSect,
    refuseIf (decide (crc32c (slice img t (32 * cnt)) ≠ h 0x38 4)) 0x11 noSect,
    (ss.find? (fun s => decide (s.off % 64 ≠ 0 ∨ s.len = 0 ∨ s.off + s.len > len) || meets s.off s.len 0 64 ||
      meets s.off s.len t (32 * cnt) || ss.any (fun u => decide (s.idx < u.idx) && meets s.off s.len u.off u.len))).map
        (fun s => (0x12, s.idx)),
    (ss.find? (fun s => !ours s || decide (s.ver ≠ 1))).map (fun s => (0x13, s.idx)),
    (ss.find? (fun s => once s && ss.any (fun u => decide (u.idx < s.idx) && same u s))).map (fun s => (0x14, s.idx)),
    refuseIf (if kind = 0 then [0x10, 0x11, 0x12, 0x20, 0x21, 0x22, 0x23].any (fun y => !ss.any (fun s => s.typ = y))
      else [0x100, 0x104, 0x105].any (fun y => !ss.any (fun s => s.typ = y)) ||
        (tilesOf c part).any (fun i => !ss.any (fun s => s.typ = 0x101 ∧ s.inst = i))) 0x15 noSect,
    (ss.find? (fun s => decide (crc32c (body img s) ≠ s.crc))).map (fun s => (0x16, s.idx)),
    (ss.find? (fun s => !lenOk s.typ (h 0x18 4) (body img s))).map (fun s => (0x17, s.idx))]

/-- The owner codes of R143 by table: bit 0 partitions, 1 POOL, 2 CULV, 3 REFRESH, 4 LAND, 5 SYS, 6 SHAVINGS, 7 FREE. -/
def codeBit (o : Nat) : Nat :=
  if o < 32 then 0
  else match o with | 0x40 => 1 | 0x41 => 2 | 0x42 => 3 | 0x43 => 4 | 0x44 => 5 | 0x45 => 6 | 0xFF => 7 | _ => 8
/-- The codes valid in a table. -/
def codesOf (typ : Nat) : Nat :=
  match typ with
  | 0x10 | 0x24 => 0x81
  | 0x11 => 0xC3
  | 0x20 => 0xB5
  | 0x21 => 0x8F
  | _ => 0
/-- Every code of a table is valid in it (code 0x23). -/
def codesOk (typ : Nat) (b : Bytes) : Bool := b.all (fun o => bitN (codesOf typ) (codeBit o.toNat))
/-- A refresh entry's fields: PCH, SLOT, PERIOD, PHASE (R160). -/
def refFields (e : Bytes) : Nat × Nat × Nat × Nat := (leAt e 0 2, leAt e 2 2, leAt e 4 1, leAt e 5 1)
/-- Whether a refresh entry fires in pass `n` (R160). -/
def refFires (e : Bytes) (n : Nat) : Bool := let (_, _, p, q) := refFields e; decide (p ≠ 0 ∧ n % p = q)
/-- A number joins a rising list. -/
def insertUp (a : Nat) : List Nat → List Nat
  | [] => [a]
  | b :: r => if a ≤ b then a :: b :: r else b :: insertUp a r
/-- The numbers of a list, rising. -/
def sortUp (l : List Nat) : List Nat := l.foldr insertUp []
/-- The starts of a pseudo-channel's refreshes over 12 passes, rising (R161); 12 is a multiple of every PERIOD. -/
def refStarts (es : List Bytes) (pch pl : Nat) : List Nat :=
  let mine := es.filter (fun e => decide ((refFields e).1 = pch))
  (List.range 12).flatMap (fun n =>
    sortUp ((mine.filter (refFires · n)).map (fun e => n * pl + 16 * (refFields e).2.1)))
/-- The greatest step of a rising list that wraps after `cyc`. -/
def maxGap (cyc : Nat) (l : List Nat) : Nat :=
  match l with
  | [] => cyc + 10000
  | a :: _ =>
    let steps := (l.zip (l.drop 1)).map (fun p => p.2 - p.1)
    (steps ++ [a + cyc - l.getLastD a]).foldl max 0
/-- Reads a landing entry. -/
def landEnt (e : Bytes) : LandEnt :=
  { ctx := leAt e 0 2, part := leAt e 2 1, mode := leAt e 3 1, base := leAt e 4 2, cnt := leAt e 6 1, stride := leAt e 7 1,
    addr := leAt e 8 4, len := leAt e 12 4 }
/-- The tiles of an entry's list (R165). -/
def landTiles (e : LandEnt) : List Nat := (List.range e.cnt).map (fun i => e.base + i * e.stride)
/-- The entries of a landing map. -/
def landEnts (b : Bytes) : List LandEnt := (pieces 16 b).map landEnt
/-- Whether two entries' windows overlap on a tile. -/
def landClash (a b : LandEnt) : Bool :=
  meets a.addr a.len b.addr b.len && (landTiles a).any (fun t => (landTiles b).contains t)
/-- An entry breaks R165 or R426, its tiles apart from their LAND phases. -/
def landBad (tg : Bytes) (e : LandEnt) : Bool :=
  decide (e.ctx ≥ 16384 ∨ e.part ≥ 32 ∨ (e.mode ≠ 1 ∧ e.mode ≠ 2) ∨ e.cnt = 0 ∨ e.cnt > 32 ∨ (e.mode = 1 ∧ e.cnt ≠ 1) ∨ e.stride = 0 ∨
    e.addr % 64 ≠ 0 ∨ e.len % 128 ≠ 0 ∨ e.len < 128 ∨ e.addr + e.len > 524288) ||
    (landTiles e).any (fun t => decide (t ≥ 1024 ∨ tab tg t ≠ e.part))
/-- The tables of an image, as a frame plan. -/
def framePlanOf (img : Bytes) : FramePlan :=
  let ss := sectsOf img
  let b := bodyOf img ss
  { planId := leAt img 0x20 8, passLen := leAt img 0x18 4, tileGrant := b 0x10, granules := b 0x11, partGrant := b 0x12,
    noc := b 0x20, hbm := b 0x21, refresh := b 0x22, culvert := b 0x23, link := b 0x24, landing := b 0x25,
    tabCrc := leAt img 0x38 4 }
/-- Where one of two tables gives an entry to partition `p` and the other does not. -/
def grantDiff (p : Nat) (a b : Bytes) : Bool :=
  (List.range (max a.length b.length)).any (fun i => (decide (tab a i = p)) != (decide (tab b i = p)))
/-- The slots of partition `p` in a table of `n` slots per unit: unit and slot. -/
def slotsHeld (p n : Nat) (t : Bytes) : List (Nat × Nat) :=
  t.zipIdx.filterMap (fun e => if e.1.toNat = p then some (e.2 / n, e.2 % n) else none)
/-- The section types in which two frame plans differ for partition `p` (code 0x2F, R185); landing entries, one per context, have no order (R165). -/
def grantChanges (p : Nat) (a b : FramePlan) : List Nat :=
  (if grantDiff p a.tileGrant b.tileGrant then [0x10] else []) ++
  (if grantDiff p a.granules b.granules then [0x11] else []) ++
  (if slice a.partGrant (16 * p) 16 ≠ slice b.partGrant (16 * p) 16 then [0x12] else []) ++
  (if grantDiff p a.noc b.noc then [0x20] else []) ++
  (if slotsHeld p (a.passLen / 16) a.hbm ≠ slotsHeld p (b.passLen / 16) b.hbm then [0x21] else []) ++
  (if slotsHeld p (3 * a.passLen / 160) a.link ≠ slotsHeld p (3 * b.passLen / 160) b.link then [0x24] else []) ++
  (let x := (landEnts a.landing).filter (fun e => e.part = p)
   let y := (landEnts b.landing).filter (fun e => e.part = p)
   if x.all (y.contains ·) && y.all (x.contains ·) then [] else [0x25])

/-- The checks of a frame plan: codes 0x20 to 0x2F (R176). Where the change that 0x2F refuses is the removal of an optional section, the index
reported is 0xFFFF, that of no section: DESIGN CHOICE, for R1173 names none (Assumption 59). -/
def checkFrame (c : Ctl) (img : Bytes) : Option (Nat × Nat) :=
  let ss := sectsOf img
  let f := framePlanOf img
  let ix := idxOf ss
  let pl := f.passLen
  let hs := pl / 16
  let old := fplan c
  let es := pieces 16 f.refresh
  let mask := leAt f.culvert 0 8
  let noc (r p : Nat) : Nat := tab f.noc (64 * r + p)
  let hbm (q s : Nat) : Nat := tab f.hbm (hs * q + s)
  let isCulv (q s : Nat) : Bool := decide (hbm q (s % hs) = 0x41)
  let land := landEnts f.landing
  let pool := (f.granules.filter (fun o => o.toNat = 0x40)).length
  let bit (l : Bytes) (p : Nat) : Bool := bitN (leAt l (16 * p + 8) 1) 1
  let refSlots (b : Bytes) : List Bool := b.map (fun o => decide (o.toNat = 0x42))
  firstFail [
    refuseIf (decide (pl % 64 ≠ 0 ∨ pl < 256 ∨ pl > 32768)) 0x20 noSect,
    refuseIf (c.time.epoch && decide (pl ≠ passLen c)) 0x21 noSect,
    refuseIf (decide (leAt img 0x1C 2 ≠ fld c rGlbFabric 31 16)) 0x22 noSect,
    (ss.find? (fun s => [0x10, 0x11, 0x20, 0x21, 0x24].contains s.typ && !codesOk s.typ (body img s))).map (fun s => (0x23, s.idx)),
    refuseIf (decide (mask = 0)) 0x24 (ix 0x23),
    refuseIf (f.noc.zipIdx.any (fun e => (decide (e.1.toNat = 0x41)) != bitN mask (e.2 % 64))) 0x24 (ix 0x20),
    refuseIf ((List.range 512).any (fun q => (List.range hs).any (fun s =>
      !(List.range 64).any (fun k => isCulv q (s + k))))) 0x24 (ix 0x21),
    refuseIf (es.any (fun e => let (p, s, per, ph) := refFields e
      decide (p ≥ 512 ∨ s + 9 ≥ hs ∨ per = 0 ∨ per > 4 ∨ ph ≥ per))) 0x25 (ix 0x22),
    refuseIf (es.any (fun e => let (p, s, _, _) := refFields e
      (List.range 10).any (fun k => decide (hbm p (s + k) ≠ 0x42)))) 0x25 (ix 0x21),
    refuseIf (es.zipIdx.any (fun a => es.zipIdx.any (fun b =>
      decide (a.2 < b.2 ∧ (refFields a.1).1 = (refFields b.1).1) && meets (refFields a.1).2.1 10 (refFields b.1).2.1 10 &&
        (List.range 12).any (fun n => refFires a.1 n && refFires b.1 n)))) 0x25 (ix 0x22),
    refuseIf ((List.range 512).any (fun q => decide (maxGap (12 * pl) (refStarts es q pl) > 4475))) 0x26 (ix 0x22),
    refuseIf (c.time.epoch && decide (f.refresh ≠ old.refresh)) 0x27 (ix 0x22),
    refuseIf (c.time.epoch && decide (refSlots f.hbm ≠ refSlots old.hbm)) 0x27 (ix 0x21),
    refuseIf (decide (pool > 896)) 0x28 (ix 0x11),
    refuseIf ((List.range 512).any (fun q =>
      f.granules.zipIdx.any (fun e => decide (e.1.toNat = 0x40 ∧ e.2 % 8 = q / 64)) &&
        !(List.range hs).any (fun s => decide (hbm q s = 0x40)))) 0x29 (ix 0x21),
    refuseIf (decide ((f.granules.filter (fun o => o.toNat = 0x45)).length < 4)) 0x2A (ix 0x11),
    refuseIf (bench c && f.link.any (fun o => decide (o.toNat < 32))) 0x2B (ix 0x24),
    refuseIf ((List.range 1024).any (fun r => !(List.range 64).any (fun p => decide (noc r p = 0x44)))) 0x2C (ix 0x20),
    refuseIf (land.zipIdx.any (fun a => land.zipIdx.any (fun b => decide (a.2 < b.2 ∧ a.1.ctx = b.1.ctx))) ||
      land.any (landBad f.tileGrant)) 0x2D (ix 0x25),
    refuseIf (land.any (fun e => (landTiles e).any (fun t => !(List.range 64).any (fun p => decide (noc t p = 0x43))))) 0x2D (ix 0x20),
    refuseIf (land.zipIdx.any (fun a => land.zipIdx.any (fun b => decide (a.2 < b.2) && landClash a.1 b.1))) 0x2D (ix 0x25),
    refuseIf (decide (((List.range 32).filter (bit f.partGrant)).length > 1)) 0x2E (ix 0x12),
    (let ps := (List.range 32).filter (fun p => decide (ptState c p ≠ 0))
     let ch := ps.flatMap (fun p => grantChanges p old f)
     if ch.isEmpty then none
     else some (0x2F, match ss.find? (fun s => ch.contains s.typ) with | some s => s.idx | none => noSect))]

/-- The pseudo-channel of a valid DM address (R501). -/
def pchOf (a : Nat) : Nat := 64 * bits a 30 28 + bits a 13 8
/-- The pseudo-channels that `n` bytes from `a` touch, one address of each 256-byte piece; no byte touches none (R169). -/
def piecesOf (a n : Nat) : List Nat := if n = 0 then [] else (List.range ((a + n + 255) / 256 - a / 256)).map (fun i => (a / 256 + i) * 256)
/-- A transfer entry breaks code 0x3B or R685, its XFER_ID apart; `use` tells whether LINK_USE sets a slot. -/
def xferBad (c : Ctl) (p : Nat) (use : Nat → Nat → Bool) (e : Bytes) : Bool :=
  let fl := leAt e 3 1
  let dir := bitN fl 0
  let red := bitN fl 1
  let fwd := bitN fl 2
  let slot := leAt e 4 2
  let cnt := leAt e 6 2
  let op := leAt e 14 1
  decide (leAt e 2 1 ≥ 32 ∨ cnt = 0 ∨ slot + cnt > lslots c ∨ leAt e 8 1 = 0 ∨ leAt e 8 1 > 16 ∨ leAt e 9 1 ≥ leAt e 8 1) ||
  (fwd && !dir) || (red && (!dir || fwd)) || (if red then decide (op = 0 ∨ op > 9) else decide (op ≠ 0)) ||
  (!fwd && decide (tileOwner c (leAt e 10 2) ≠ p ∨ leAt e 16 4 % 64 ≠ 0 ∨ leAt e 20 4 % 64 ≠ 0 ∨
    leAt e 16 4 + leAt e 20 4 * (cnt - 1) + 256 > 524288)) ||
  (!dir && (List.range cnt).any (fun i => !use (leAt e 2 1) (slot + i)))
/-- The checks of a partition plan: codes 0x22 and 0x30 to 0x3C (R176). -/
def checkPart (c : Ctl) (p : Nat) (img : Bytes) : Option (Nat × Nat) :=
  let ss := sectsOf img
  let ix := idxOf ss
  let use := bodyOf img ss 0x105
  let led := bodyOf img ss 0x104
  let par := bodyOf img ss 0x100
  let tn := leAt led 2 2
  let nn := leAt led 4 2
  let tents := (List.range tn).map (fun i => (leAt led (8 + 4 * i) 2, leAt led (10 + 4 * i) 2))
  let nents := (List.range nn).map (fun i => (leAt led (8 + 4 * (tn + i)) 2, leAt led (10 + 4 * (tn + i)) 2))
  let phase (t : Nat) : Bool := (List.range 64).any (fun q => decide (nocOwner c t q = p))
  let pchSlot (q : Nat) : Bool := (List.range (hslots c)).any (fun s => decide (hbmTable c q s = p))
  let ubit (o i : Nat) : Bool := (use.getD (o + i / 8) 0).toNat.testBit (i % 8)
  let luse (l k : Nat) : Bool := ubit (139264 + 80 * l) k
  let xs := pieces 32 (bodyOf img ss 0x106)
  let det := bodyOf img ss 0x107
  let pl := passLen c
  let st := leAt par 6 2
  let sa := leAt par 8 4
  let dup (l : List Nat) : Bool := l.zipIdx.any (fun a => l.zipIdx.any (fun b => decide (a.2 < b.2 ∧ a.1 = b.1)))
  firstFail [
    refuseIf (decide (leAt img 0x1C 2 ≠ fld c rGlbFabric 31 16)) 0x22 noSect,
    refuseIf (decide (leAt img 0x28 8 ≠ (fplan c).planId)) 0x30 noSect,
    refuseIf (decide (leAt img 0x18 4 ≠ (fplan c).passLen)) 0x31 noSect,
    refuseIf (tilesOf c p).isEmpty 0x32 noSect,
    (ss.find? (fun s => (decide (s.typ = 0x101 ∨ s.typ = 0x102) && decide (tileOwner c s.inst ≠ p)) ||
      (decide (s.typ = 0x104) && tents.any (fun e => decide (tileOwner c e.1 ≠ p))))).map (fun s => (0x32, s.idx)),
    (ss.find? (fun s => decide (s.typ = 0x101) &&
      (decide (s.len < 16 ∨ s.len > 65536 ∨ s.len % 16 ≠ 0) || !phase s.inst))).map (fun s => (0x33, s.idx)),
    (ss.find? (fun s => decide (s.typ = 0x102) &&
      (let b := body img s; decide (leAt b 0 4 % 64 ≠ 0 ∨ leAt b 0 4 + leAt b 4 4 > 524288) || !phase s.inst))).map
        (fun s => (0x34, s.idx)),
    (ss.find? (fun s => decide (s.typ = 0x103) &&
      (let b := body img s
       let a := leAt b 0 8
       let n := leAt b 8 8
       decide (a % 64 ≠ 0 ∨ a ≥ 2 ^ 40) ||
        (piecesOf a n).any (fun x => decide (granOwner c (x / 2 ^ 28) ≠ p) || !pchSlot (pchOf x))))).map (fun s => (0x35, s.idx)),
    refuseIf ((List.range 65536).any (fun i => ubit 0 i && decide (nocOwner c (i / 64) (i % 64) ≠ p))) 0x36 (ix 0x105),
    refuseIf ((List.range 512).any (fun q => (List.range 2048).any (fun s =>
      ubit (8192 + 256 * q) s && decide (hbmTable c q s ≠ p)))) 0x37 (ix 0x105),
    refuseIf ((List.range 32).any (fun l => (List.range 640).any (fun k => luse l k && decide (linkOwner c l k ≠ p)))) 0x38 (ix 0x105),
    refuseIf (decide (leAt led 0 1 > 1) || dup (tents.map (·.1)) || dup (nents.map (·.1)) ||
      (tilesOf c p).any (fun t => !tents.any (fun e => e.1 = t)) || tents.any (fun e => decide (e.2 = 0 ∨ e.2 > pl)) ||
      nents.any (fun e => decide (e.1 > 255 ∨ e.2 > pl)) || decide (nn > 256)) 0x39 (ix 0x104),
    refuseIf (decide (leAt par 0 1 = 0 ∨ leAt par 0 1 > 64 ∨ leAt par 1 1 > 1 ∨ leAt par 4 2 = 0) ||
      (decide (st ≠ 0xFFFF) && (decide (tileOwner c st ≠ p ∨ sa % 64 ≠ 0 ∨ sa + 64 > 524288) || !grantFlag c p 0))) 0x3A (ix 0x100),
    refuseIf (dup (xs.map (fun e => leAt e 0 2)) || xs.any (xferBad c p luse)) 0x3B (ix 0x106),
    refuseIf (!det.isEmpty && (decide (leAt det 0 1 < 2 ∨ leAt det 2 2 = 0 ∨ leAt det 2 2 > 4096) ||
      (altsOf det).any (fun a => a.2.2.1.any (fun e => !xs.any (fun x => leAt x 0 2 = leAt e 0 2) ||
        (decide (leAt e 6 2 ≠ 0) &&
          (xferBad c p luse e || decide ((a.2.2.1.filter (fun x => leAt x 0 2 = leAt e 0 2)).length > 1))))))) 0x3C (ix 0x107)]

/-- The checks of an image in the order of R176: the first that fails, or none. -/
def checkImage (c : Ctl) (kind part cmdLen : Nat) (img : Bytes) : Option (Nat × Nat) :=
  firstFail [checkForm c kind part cmdLen img, if kind = 0 then checkFrame c img else checkPart c part img]
/-- The tables of a partition plan (R166 to R174). -/
def partPlanOf (img : Bytes) : PartPlan :=
  let b := bodyOf img (sectsOf img)
  { planId := leAt img 0x20 8, seed := leAt img 0x30 8, params := b 0x100, ledger := b 0x104, use := b 0x105, xfer := b 0x106,
    detour := b 0x107 }

end Sys2Proof.Machine
end

