-- ==== Sys2Proof/Machine/RegRead.lean ====
section
/-! DEFINITION. What a read of a register returns: its stored value, or the view of the state that it shows (R12, R16, R17, R46, R1110 to
R1114). -/
namespace Sys2Proof.Machine

/-! What views are made of. -/
/-- State code and region of a granule (R562, PO_GT_g), and some states. -/
def gtState (c : Ctl) (g : Nat) : Nat := bits (smGet c.pool.gt 0 g) 19 16
def gSCRUB : Nat := 1
def gFREE : Nat := 2
def gSHARED : Nat := 5
def gtSr (c : Ctl) (g : Nat) : Nat := bits (smGet c.pool.gt 0 g) 13 8
/-- The operations of a partition. -/
def nmeOps (c : Ctl) (p : Nat) : List NmeOp := smGet c.nme.ops [] p
/-- A partition has no operation accepted, waiting or with its record still to be written (R523, R536). -/
def nmeQuiet (c : Ctl) (p : Nat) : Bool :=
  (nmeOps c p).isEmpty && c.noc.nmeq.all (fun h => h.part ≠ p) && c.nme.recs.all (fun o => o.part ≠ p)
/-- The region holds granule `g`. -/
def srHas (c : Ctl) (r g : Nat) : Bool := decide (gtState c g = gSHARED ∧ gtSr c g = r)
/-- Base of headgate n's block. -/
def hgBase (n : Nat) : Nat := 0x800000 + 0x80000 * n
/-- Word w of station s. -/
def hgStn (n s w : Nat) : Nat := hgBase n + 0x400 + 16 * s + 4 * w
/-- STATE of a station: 0 OFF, 1 ACTIVE, 2 ABSENT (R404). -/
def stnState (c : Ctl) (n s : Nat) : Nat := fld c (hgStn n s 0) 1 0
/-- A ring's register block: PF0's in the HI block, a VF's in its own BAR0. -/
def ringBase (fn r : Nat) : Nat := if fn = 0 then 0x1100 + 0x40 * r else 0x20000000 + 0x1000 * fn + 0x40 * r
def ringStat (fn r : Nat) : Nat := ringBase fn r + 0x14
/-- The hidden state of a ring. -/
def ring (c : Ctl) (fn r : Nat) : Ring := smGet c.hi.rings {} (fn * 8 + r)
/-- IDLE of a submission ring: no command dispatched and not complete. -/
def ringIdle (c : Ctl) (fn r : Nat) : Bool :=
  decide ((ring c fn r).busy = 0) && !(c.hi.done.any (fun d => decide (d.ref.fn = fn ∧ d.ref.ring = r)))
/-- STATE of the monitor is RUNNING (R883). -/
def monRuns (c : Ctl) : Bool := decide (fld c 0x1004 1 0 = 2)
/-- PERIOD of the management watchdog in tc, at 1,250,000 tc a ms (R976). -/
def mwdogTc (c : Ctl) : Nat := fld c (hub 0x20) 15 0 * 1250000

/-! The views. -/
/-- The tiles and the NME windows are reachable (R1114); an emulated S3 keeps them so (R978). -/
def tilesUp (c : Ctl) : Bool := rootLock c && c.time.refclk && !c.time.needPor && !(c.ev.contained && rbit c rPwrStat 11) && (decide (pwrState c ≠ 3) || rbit c rPwrStat 4)
/-- TLn_STAT. -/
def tlStat (c : Ctl) (t : Nat) : Nat :=
  let x := tile c t
  let o := tileOwner c t
  (if o < 32 then o * 2 ^ 24 else 2 ^ 4) + b2n x.quiet * 8 + b2n x.exc * 4 +
    b2n (decide (x.run = .waiting)) * 2 + b2n x.halted
/-- The 32 bytes of an event record (R1030). -/
def evBytes (e : EvRec) : Bytes :=
  leBytes 2 e.code ++ leBytes 1 e.sev ++ leBytes 1 e.part ++ leBytes 4 e.unit ++ leBytes 8 e.ts ++ leBytes 6 e.seq ++ leBytes 2 e.count ++
    leBytes 8 e.detail
/-- Records the monitor has not taken, and the oldest of them (R1038). -/
def evCount (c : Ctl) : Nat := min 256 (c.ev.seq - c.ev.taken)
def evHead (c : Ctl) : Nat := c.ev.seq - evCount c
/-- A word of the event buffer; an entry never written is undefined (EV_BUF). -/
def evBufWord (c : Ctl) (i : Nat) : Nat :=
  if i / 8 < c.ev.seq then leAt (evBytes (smGet c.ev.buf {} (i / 8))) (4 * (i % 8)) 4 else (Config.undefWord c.free i).toNat
/-- A lead-queue place of an NME: its descriptor with the byte that says accepted, or zeros (R1110). -/
def nmePlace (c : Ctl) (k q : Nat) : Bytes :=
  match ((nmeOps c (q / 8)).filter (fun o => o.lead = k)).drop (q % 8) with
  | o :: _ => (padTo 64 o.desc).set 0x2C 2
  | [] => zeroBytes 64
/-- A word of the NMEk window (R1110). -/
def nmeWord (c : Ctl) (k w : Nat) : Nat :=
  if w < 8 then leNat ((List.range 4).map (fun i => BitVec.ofNat 8 ((nmeOps c (4 * w + i)).filter (fun o => o.lead = k)).length))
  else if w < 16 then 0
  else if w < 16 + 256 * 16 then leAt (nmePlace c k ((w - 16) / 16)) (4 * (w % 16)) 4
  else 0
/-- Granules in a state. -/
def granCount (c : Ctl) (st : Nat) : Nat := ((List.range 1024).filter (fun g => decide (gtState c g = st))).length
/-- The PF0 ring or VF ring that a STAT register belongs to. -/
def statRing (o : Nat) : Option (Nat × Nat) :=
  if 0x1100 ≤ o ∧ o < 0x1240 then (if (o - 0x1100) % 64 = 0x14 then some (0, (o - 0x1100) / 64) else none)
  else if 0x20001000 ≤ o then (if o % 4096 % 64 = 0x14 then some ((o - 0x20000000) / 4096, o % 4096 / 64) else none)
  else none
/-- What a read of the word at PF0 BAR0 offset `o` returns; the rings of VF n stand at 0x20000000 + 0x1000 n. -/
def regView (c : Ctl) (m : Mem) (o : Nat) : Nat :=
  if 0x140000 ≤ o ∧ o < 0x180000 then
    let t := (o - 0x140000) / 0x100
    if tilesUp c = false ∨ (clearing c t ∧ o % 0x100 < 0x80) then 0 else if o % 0x100 = 0 then tlStat c t else rd c o
  else if 0x1000000 ≤ o ∧ o < 0x1800000 then
    if tilesUp c then nmeWord c ((o - 0x1000000) / 0x8000) (o % 0x8000 / 4) else 0
  else if 0x120000 ≤ o ∧ o < 0x120100 then (Config.undefWord c.free o).toNat
  else if 0x9000 ≤ o ∧ o < 0xB000 then evBufWord c ((o - 0x9000) / 4)
  else if 0x21000 ≤ o ∧ o < 0x23000 then
    let v := smGet c.pool.hrt 0 ((o - 0x21000) / 8)
    if o % 8 = 0 then v % 2 ^ 32 else v / 2 ^ 32 % 2 ^ 32
  else if 0x23000 ≤ o ∧ o < 0x24000 then smGet c.pool.gt 0 ((o - 0x23000) / 4)
  else if 0x25000 ≤ o ∧ o < 0x26000 ∧ o % 64 = 4 then
    ((List.range 1024).filter (fun g => srHas c ((o - 0x25000) / 64) g)).length
  else if 0x26000 ≤ o ∧ o < 0x26040 then 0
  else if 0x800000 ≤ o ∧ o < 0x1000000 then
    let n := (o - 0x800000) / 0x80000
    let w := o % 0x80000
    if w = 4 then
      setBits (setBits (rd c o) 15 8 ((List.range 64).filter (fun s => decide (stnState c n s = 1))).length) 5 5 (fld c (hgBase n + 0x1C) 0 0)
    else if 0x40000 ≤ w then
      let e := smGet c.hg.dt 0 (n * 65536 + (1 - fld c (hgBase n + 0x1C) 0 0) * 32768 + (w - 0x40000) / 8)
      if w % 8 = 0 then bits e.toNat 31 0 else bits e.toNat 63 32
    else rd c o
  else match statRing o with
    | some (fn, r) => if r = 0 ∨ r = 2 then setBits (rd c o) 1 1 (b2n (ringIdle c fn r)) else rd c o
    | none =>
      match o with
      | 0x8 => b2n (!bench c) * 16 + b2n (c.staged.any (fun w => !w.vf)) * 8 + b2n (rbit c rStageCtrl 0) * 4 + b2n (fplanOn c) * 2 +
          b2n c.time.epoch
      -- a root reads LOCKED, a bench one while the root PLL is locked (R90, R103); once ROLE or the profile changes back, the LOCK stored
      -- before shows again: DESIGN CHOICE (Assumption 55)
      | 0x204 => if (if bench c then rootLock c else rbit c rTimCtrl 0) then setBits (rd c o) 6 4 3 else rd c o
      | 0x208 => c.time.ftc % 2 ^ 32
      | 0x20C => c.time.ftc / 2 ^ 32 % 2 ^ 32
      | 0x228 => passNo c % 2 ^ 32
      | 0x22C => passNo c / 2 ^ 32
      | 0x234 => if bench c || rbit c rTimCtrl 0 then 0 else rd c o
      | 0x500 => match newestBank m with
        | some b => setBits (rd c o) 6 6 (b2n (decide (fld c o 1 0 ≠ 0 ∧ consumed m b = 1)))
        | none => rd c o
      | 0x4004 =>
        (match c.dump.running with | some d => d.cat * 2 ^ 8 + 1 | none => 0) + c.dump.queue.length * 4
      | 0x40C0 => (List.range 16).foldl (fun n i => n + b2n (smGet c.dump.cats none i).isSome * 2 ^ i) 0
      | 0x5000 => c.pwr.sref % 256 * 256 + c.pwr.trained % 256
      | 0x8004 => evCount c * 2 ^ 16 + evHead c % 256
      | 0x8008 => c.ev.seq % 2 ^ 32
      | 0x800C => c.ev.seq / 2 ^ 32 % 2 ^ 16
      | 0x10004 => min (c.dc.pend.length) 65536
      | 0x20004 => granCount c gFREE * 2 ^ 16 + granCount c gSCRUB
      | 0x130004 => b2n (!c.db.reqs.isEmpty) * 4 + b2n (rbit c (hub 0x4C) 0) * 2 + b2n c.db.relArmed
      | 0x130028 => setBits (rd c o) 0 0 (b2n (monRuns c && decide (mwdogTc c ≠ 0) && !rbit c (hub 0) 2))
      | 0x40038 => fld c 0x40008 13 0 * 25 + 400
      | _ => rd c o
/-- The words of a register range, as bytes, in register order. -/
def regRange (c : Ctl) (m : Mem) (o n : Nat) : Bytes := (List.range (n / 4)).flatMap (fun i => leBytes 4 (regView c m (o + 4 * i)))

/-! Pairs and latches (R13, R14). -/
/-- A register that is the low word of a pair that software writes; HB_RPR_CTRL, CE_P_TGT and PO_SRr_RO are taken as pairs by R13. -/
def pairLow (o : Nat) : Bool :=
  [0x210, 0x218, 0x220, 0x1008, 0x5090, 0x800B0, 0x800C0].contains o ||
  (decide (0x1100 ≤ o ∧ o < 0x1240) && decide ((o - 0x1100) % 64 = 0 ∨ (o - 0x1100) % 64 = 0x18)) ||
  (decide (0x20001000 ≤ o) && decide (o % 64 = 0 ∨ o % 64 = 0x18)) ||
  (decide (0x100000 ≤ o ∧ o < 0x120000) && decide (o % 4096 = 8)) ||
  (decide (0x20100 ≤ o ∧ o < 0x20300) && decide (o % 8 = 0)) ||
  (decide (0x25000 ≤ o ∧ o < 0x26000) && decide (o % 64 = 0x20)) ||
  (decide (0x800000 ≤ o ∧ o < 0x1000000) &&
    (let w := o % 0x80000
     decide (w = 0x10) || (decide ((0x2000 ≤ w ∧ w < 0x4000) ∨ 0x40000 ≤ w) && decide (w % 8 = 0))))
/-- A register pair that only reads: its low word latches too. -/
def roPair (o : Nat) : Bool :=
  [0x10, 0x208, 0x228, 0x308, 0x310, 0x1010, 0x5020, 0x8008, 0x40080, 0x130040, 0x130060, 0x80170].contains o ||
  (decide (0x100000 ≤ o ∧ o < 0x120000) && decide (o % 4096 = 0x48)) ||
  (decide (0x14C00 ≤ o ∧ o < 0x14E00) && decide (o % 16 = 4)) ||
  (decide (0x21000 ≤ o ∧ o < 0x23000) && decide (o % 8 = 0)) ||
  (decide (0x25000 ≤ o ∧ o < 0x26000) && decide (o % 64 = 0x28))
/-- The registers that a 32-bit read of one latches for its requester: the high word of a pair, and with SP_POS the other three words of
the update (R14, SP_POS). -/
def latchedBy (o : Nat) : List Nat :=
  if pairLow o || roPair o then [o + 4] else if o = 0x40040 then [0x40044, 0x40048, 0x4004C] else []
/-- The requester that the hub is, beside the functions 0 to 32 (R14). -/
def whoHub : Nat := 33
/-- A 32-bit read of a register by a requester: a word latched for it is returned once (R14). -/
def readWord (who o : Nat) (c : Ctl) (m : Mem) : Ctl × Nat :=
  match latchedBy o with
  | [] =>
    let k := o * 64 + who
    match smGet c.latched none k with
    | some w => ({ c with latched := smSet c.latched none k none }, w.toNat)
    | none => (c, regView c m o)
  | l =>
    ({ c with latched := l.foldl (fun t h => smSet t none (h * 64 + who) (some (BitVec.ofNat 32 (regView c m h)))) c.latched },
     regView c m o)

/-! The staging copy of the keep record (R1086, R1088). -/
/-- 16 bytes of a partition. -/
def stagePart (c : Ctl) (p : Nat) : Bytes :=
  let st := rd c (ptStat p)
  leBytes 8 (rd64 c (ptPlanId p)) ++ leBytes 1 (bits st 1 0) ++ leBytes 1 (bits st 23 16) ++
    leBytes 1 (b2n (rbit c (ptPlanStat p) 0) * 4 + bits st 5 5 * 2 + bits st 6 6) ++ zeroBytes 5
/-- Bytes 0x080 to 0x2C7 of a keep record, LAST_PASS apart. -/
def stagingOf (c : Ctl) : Bytes :=
  let crc (o n : Nat) : Bytes := leBytes 4 (crc32c (regRange c {} o n))
  let dead := (List.range 64).foldl (fun n h => n + bits (rd c (0x20100 + 8 * h)) 30 30 * 2 ^ h) 0
  (List.range 32).flatMap (stagePart c) ++ leBytes 8 (rd64 c rPlFplanId) ++ leBytes 4 (rd c rPassLen) ++ leBytes 4 (fplan c).tabCrc ++
    zeroBytes 16 ++ crc 0x20100 0x200 ++ crc 0x21000 0x2000 ++ crc 0x23000 0x1000 ++ crc 0x25000 0x1000 ++
    regRange c {} 0x26048 16 ++ leBytes 8 dead
/-- The staging copy: the monitor keeps it current while it runs; then it stays as the monitor left it (R1086). -/
def staging (c : Ctl) : Bytes := if monRuns c && !c.db.coreHalted then stagingOf c else padTo 584 c.pwr.staging
/-- The monitor is about to stop: the staging copy stays as it is. -/
def keepStaging (c : Ctl) : Ctl := { c with pwr := { c.pwr with staging := staging c } }

end Sys2Proof.Machine
end

