-- ==== Sys2Proof/Machine/DumpRecords.lean ====
section
/-! DEFINITION. The records of a dump (R1003 to R1009), and its summary (R1020). -/
namespace Sys2Proof.Machine

/-- STICKY with the flags of the results written up to tc `f` (R336). -/
def stickyAt (f : Nat) (x : Tile) : Nat := x.flagq.foldl (fun s e => if e.1 ≤ f then s ||| e.2 else s) x.sticky
/-- The flags of the results written up to tc `f` stand in STICKY (R336). -/
def settleFlags (f : Nat) (x : Tile) : Tile :=
  { x with sticky := stickyAt f x, flagq := x.flagq.filter (fun e => decide (e.1 > f)) }
/-- DUMP_ID (R1014): a fabric-wide stop's origin is 0xFFFF. -/
def dumpId (r : DumpReq) : Nat := if r.origin = 0xFFFF then 0xFFFF * 2 ^ 48 + r.named % 2 ^ 48 else r.origin * 2 ^ 48 + r.pass % 2 ^ 48
/-- Bytes with their CRC-32C after them. -/
def withCrc (b : Bytes) : Bytes := b ++ leBytes 4 (crc32c b)
/-- A summary (R1020): SEQ, STATE, request, catalog, start and end, entries in all, DONE and LOST. -/
def sumBytes (c : Ctl) (seq state : Nat) (r : DumpReq) (cat start fin n done lost : Nat) : Bytes :=
  withCrc (leBytes 4 seq ++ leBytes 1 state ++ leBytes 1 r.scope ++ leBytes 1 r.trigger ++ leBytes 1 cat ++ leBytes 8 (dumpId r) ++
    leBytes 6 r.pass ++ leBytes 2 (b2n r.mid * 2 + b2n r.late) ++ leBytes 8 start ++ leBytes 8 fin ++ leBytes 4 r.mask ++ leBytes 2 n ++
    leBytes 2 done ++ leBytes 2 lost ++ leBytes 2 r.ev ++ leBytes 2 (plezorId c) ++ zeroBytes 6)
/-- A summary is to be written into the keep store, in slot SEQ mod 8 (R1020). -/
def putSum (c : Ctl) (seq state : Nat) (r : DumpReq) (cat start fin n done lost : Nat) : Ctl :=
  { c with dump := { c.dump with sums := c.dump.sums ++ [(seq % 8, sumBytes c seq state r cat start fin n done lost)] } }
/-- The summary of a dump that takes no catalog: NO_SPACE, NO_CATALOG, DROPPED or NO_CLOCK. -/
def lostSum (c : Ctl) (state : Nat) (r : DumpReq) : Ctl :=
  let q := c.dump.seq + 1
  putSum { c with dump := { c.dump with seq := q } } q state r 0xFF (stamp c) (stamp c) 0 0 0

/-! Bodies of the block records (R1006): NME0 to NME255, LK0 to LK31, HG0 to HG15, spindle, control engine, management core, pool
endpoint, merger. -/
/-- The receive and transmit buffers of a link: frame byte 0 and payload. -/
def linkBuffers (c : Ctl) (l : Nat) : List (Nat × Bytes) :=
  let rx := (List.range 8).map (fun b => match smGet c.lk.rx none (l * 8 + b) with
    | some x => (x.kind * 16 + x.slot % 16, padTo 256 x.data)
    | none => (0, zeroBytes 256))
  let tx := c.lk.tx.entries.filterMap (fun e => if e.1 / 1024 = l then e.2.map (fun t => (2 * 16 + e.1 % 16, padTo 256 t.data)) else none)
  rx ++ (tx ++ List.replicate 4 (0, zeroBytes 256)).take 4
/-- A latch entry as SP_LATCH_D0 to D3 (R751). -/
def latchBytes (e : Nat × Nat × Nat) : Bytes := leBytes 8 e.1 ++ leBytes 4 e.2.1 ++ leBytes 4 e.2.2
/-- The body of block `i`. -/
def blockBody (c : Ctl) (i : Nat) : Bytes :=
  let rr := regRange c {}
  if i < 256 then rr (0x1000000 + 0x8000 * i) 0x4040
  else if i < 288 then
    let bs := linkBuffers c (i - 256)
    rr (0x16000 + 0x100 * (i - 256)) 0xC0 ++ padTo 64 (bs.map (fun b => BitVec.ofNat 8 b.1)) ++ bs.flatMap (·.2)
  else if i < 304 then rr (hgBase (i - 288)) 0x140 ++ rr (hgBase (i - 288) + 0x400) 0x400
  else if i = 304 then rr 0x40000 0xC0 ++ rr 0x28000 0x40 ++ padTo 256 (c.sp.latch.flatMap latchBytes)
  else if i = 305 then rr 0x80000 0x200 ++ rr 0xA0000 0x800
  else if i = 306 then rr 0x120000 0x100 ++ padTo 8192 ((c.ev.log.take 256).reverse.flatMap evBytes)
  else if i = 307 then
    rr 0x20000 0x100 ++ rr 0x20100 0x200 ++ rr 0x21000 0x2000 ++ rr 0x23000 0x1000 ++ rr 0x25000 0x1000 ++ rr 0x18000 0x1000 ++
      rr 0x19000 0x200
  else rr 0x10000 0x2800 ++
    (List.range (65536 * 4)).flatMap (fun w =>
      leBytes 4 (if w / 4 < c.dc.pend.length then (Config.undefWord c.free w).toNat else 0))
/-- KIND, unit and length of the record of block `i` (R1005, R1006). -/
def blockEnt (c : Ctl) (i : Nat) : Nat × Nat × Nat :=
  if i < 256 then (4, unitOf c 1 i, 16512) else if i < 288 then (5, unitOf c 2 (i - 256), 3392)
  else if i < 304 then (6, unitOf c 3 (i - 288), 1408) else if i = 304 then (7, unitOf c 4 0, 576)
  else if i = 305 then (8, unitOf c 5 0, 2624) else if i = 306 then (9, unitOf c 6 0, 8512)
  else if i = 307 then (10, unitOf c 7 0, 21824) else (11, unitOf c 8 0, 1058880)
/-- Some tile of a partition mask stands mid-pass. -/
def midPass (c : Ctl) (mask : Nat) : Bool :=
  (List.range 1024).any (fun t =>
    let x := tile c t
    decide (tileOwner c t < 32) && bitN mask (tileOwner c t) && decide (x.run = .run ∨ x.run = .ending))
/-- The snapshot of a request whose stop applies now (R1003, R1009). -/
def latched (c : Ctl) (r : DumpReq) : DumpReq :=
  { r with ts := stamp c, mid := midPass c r.mask, snap := if r.scope = 1 then (List.range 309).map (blockBody c) else [] }

/-! The records that are read as they are written (R1006, R1007). -/
/-- The header line of a record. -/
def recHead (r : DumpReq) (e : DumpEnt) : Bytes :=
  padTo 64 (leBytes 4 0x44525A50 ++ leBytes 1 e.kind ++ leBytes 1 1 ++ leBytes 2 0 ++ leBytes 4 e.unit ++ leBytes 4 e.len ++
    leBytes 8 (dumpId r) ++ leBytes 8 e.ts ++ leBytes 6 r.pass)
/-- A loop level in line 1. -/
def loopBytes (l : LoopSt) : Bytes := leBytes 4 (l.start % 4096 + l.last % 4096 * 2 ^ 16 + b2n l.active * 2 ^ 31) ++ leBytes 4 (l.count % 2 ^ 16)
/-- Line 1 of a TILE body. -/
def tileLine1 (c : Ctl) (t : Nat) : Bytes :=
  let x := tile c t
  padTo 64 (leBytes 4 (tlStat c t) ++ leBytes 4 (rd c (tlEpc t)) ++ leBytes 4 (rd c (tlEcause t)) ++ leBytes 4 (rd c (tlEtgt t)) ++
    leBytes 4 (rd c (tlEmode t)) ++ leBytes 4 (rd c (tlEaddr t)) ++ leBytes 4 (x.mode % 256) ++ leBytes 4 (stickyAt c.time.ftc x) ++ loopBytes x.l0 ++
    loopBytes x.l1 ++ (List.range 8).flatMap (fun i => leBytes 2 (smGet x.acnt 0 i)))
/-- 64 bytes of a wide register from byte `o`. -/
def wideSlice (v : VecReg) (o : Nat) : Bytes := leBytes 64 (bits v.toNat (8 * o + 511) (8 * o))
/-- Line `l` of a TILE body, from line 1 (R1007). -/
def dumpLine (c : Ctl) (m : Mem) (t l : Nat) : Bytes :=
  let x := tile c t
  if l = 1 then tileLine1 c t
  else if l < 4 then (List.range 16).flatMap (fun i => leBytes 4 (smGet x.x 0 (16 * (l - 2) + i)).toNat)
  else if l = 4 then (List.range 8).flatMap (fun i => leBytes 8 (smGet x.k 0 i).toNat)
  else if l < 133 then wideSlice (smGet x.v 0 ((l - 5) / 4)) ((l - 5) % 4 * 64)
  else if l < 261 then (List.range 2).flatMap (fun i => leBytes 32 (smGet x.wv 0 (2 * (l - 133) + i)).toNat)
  else if l < 265 then (List.range 64).flatMap (fun i => leBytes 1 (smGet x.ws 0 (64 * (l - 261) + i) % 8))
  else if l < 777 then wideSlice (smGet x.ma 0 ((l - 265) / 4)) ((l - 265) % 4 * 64)
  else if l < 909 then readBytes x.wb (64 * (l - 777)) 64
  else if l < 1933 then readBytes m.im (t * 65536 + 64 * (l - 909)) 64
  else readBytes m.tm (t * 524288 + 64 * (l - 1933)) 64
/-- Whether 32 bytes of a TILE line hold an uncorrectable word (R1024). -/
def tileBad (m : Mem) (t l h : Nat) : Bool :=
  if l < 909 then false
  else if l < 1933 then (List.range 2).any (fun i => smGet m.badBundle false (t * 4096 + 4 * (l - 909) + 2 * h + i))
  else (List.range 4).any (fun i => smGet m.badWord false (t * 65536 + 8 * (l - 1933) + 4 * h + i))
/-- The body of a PART record. -/
def partBody (c : Ctl) (m : Mem) (p : Nat) : Bytes :=
  let rr := regRange c m
  padTo 8192 (rr (ptBase p) 0x1000 ++ rr (0x10100 + 16 * p) 12 ++ rr (0x12000 + 64 * p) 48 ++ rr (0x6100 + 16 * p) 12 ++ rr (lkHole p) 8 ++
    rr (hub (0x400 + 32 * p)) 20)
/-- Line `l` of a TRACE body, from line 1. -/
def traceLine (c : Ctl) (m : Mem) (p l : Nat) : Bytes :=
  let w (o : Nat) : Bytes := leBytes 4 (rd c (hub (0x400 + 32 * p + o)))
  if l = 1 then padTo 64 (w 0xC ++ w 0x10 ++ w 0) else readBytes m.trace (p * 2 ^ 20 + 64 * (l - 2)) 64
/-- Line `l` of a record, and whether its halves are poison. -/
def recLine (c : Ctl) (m : Mem) (r : DumpReq) (i : Nat) (e : DumpEnt) (l : Nat) : Bytes × Bool × Bool :=
  let k := e.unit % 4096
  if l = 0 then (recHead r e, false, false)
  else match e.kind with
    | 1 => (dumpLine c m k l, tileBad m k l 0, tileBad m k l 1)
    | 2 => (slice (partBody c m k) (64 * (l - 1)) 64, false, false)
    | 3 => (traceLine c m k l, false, false)
    | _ => (slice (r.snap.getD i []) (64 * (l - 1)) 64, false, false)

end Sys2Proof.Machine
end

