-- ==== Sys2Proof/Machine/Halts.lean ====
section
/-! DEFINITION. Halts of tiles and partitions, the spillway that spreads them, trace records and dump triggers: the shared
operations other chapters call (R214 to R217, R298, R946 to R968, R993). -/
namespace Sys2Proof.Machine

/-! Trace (R961 to R963). -/
/-- DB_TRC_Pn_CTRL. -/
def trcCtrl (p : Nat) : Nat := hub (0x400 + 32 * p)
/-- The tiles a trace names that partition p owns (R961). -/
def trcTiles (c : Ctl) (p : Nat) : List Nat :=
  let w0 := rd c (hub (0x404 + 32 * p))
  let w1 := rd c (hub (0x408 + 32 * p))
  let pick (w v h l : Nat) : List Nat := if bitN w v then [bits w h l] else []
  (pick w0 15 9 0 ++ pick w0 31 25 16 ++ pick w1 15 9 0 ++ pick w1 31 25 16).filter (fun t => tileOwner c t = p)
/-- The tc offset a trace record carries (R961). -/
def trcOffset (c : Ctl) : Nat := if c.time.epoch then (passOf c).2 else 0xFFFF
/-- Queues one trace record of partition p, or drops and counts it when the tile's queue of 16 is full (R962). -/
def tracePut (c : Ctl) (p t kind data : Nat) : Ctl :=
  if rbit c (trcCtrl p) 28 ∧ bitN (fld c (trcCtrl p) 15 0) kind then
    let q := smGet c.db.traceQ [] p
    let now := c.time.ftc
    if (q.filter (fun r => r.tile = t ∧ r.due > now)).length ≥ 16 then
      let c := cnt1 c (hub (0x410 + 32 * p))
      { c with db := { c.db with traceLost := smUpd c.db.traceLost 0 (p * 1024 + t) (· + 1) } }
    else
      let n := smGet c.db.traceLost 0 (p * 1024 + t)
      let next := max now ((q.getLast?.map (·.due)).getD 0) + 1
      let mk (k d i : Nat) : TraceRec := ⟨t, k, trcOffset c, passNo c % 2 ^ 16, d, next + i⟩
      let rs := if n = 0 then [mk kind data 0] else [mk 0x0F n 0, mk kind data 1]
      { c with db := { c.db with traceQ := smSet c.db.traceQ [] p (q ++ rs),
                                 traceLost := smSet c.db.traceLost 0 (p * 1024 + t) 0 } }
  else c
/-- A trace record of tile t, if its partition's trace names it (R961). -/
def traceTile (c : Ctl) (t kind data : Nat) : Ctl :=
  let p := tileOwner c t
  if p < 32 ∧ (trcTiles c p).contains t then tracePut c p t kind data else c

/-- The buffer takes a record at the write pointer: 16 bytes; in MODE STOP the trace ends with the last place (R961 to R963). -/
def traceTake (p : Nat) (cm : Ctl × Mem) (r : TraceRec) : Ctl × Mem :=
  let c := cm.1
  if rbit c (trcCtrl p) 29 then cm
  else
    let w := fld c (hub (0x40C + 32 * p)) 15 0
    let b := leBytes 1 r.kind ++ leBytes 1 0 ++ leBytes 2 r.tile ++ leBytes 2 r.offset ++ leBytes 2 r.pass ++ leBytes 8 r.data
    let c := wr c (hub (0x40C + 32 * p)) ((w + 1) % 65536)
    let c := if w = 65535 ∧ rbit c (trcCtrl p) 30 then setFld c (trcCtrl p) 29 28 2 else c
    (c, { cm.2 with trace := writeBytes cm.2.trace (p * 2 ^ 20 + 16 * w) b })
/-- The records of a partition that the buffer has taken by now are in it (R962). -/
def traceFlushPart (cm : Ctl × Mem) (p : Nat) : Ctl × Mem :=
  let q := smGet cm.1.db.traceQ [] p
  let now := cm.1.time.ftc
  let (c, m) := (q.filter (fun r => r.due ≤ now)).foldl (traceTake p) cm
  ({ c with db := { c.db with traceQ := smSet c.db.traceQ [] p (if rbit c (trcCtrl p) 29 then [] else q.filter (fun r => r.due > now)) } }, m)
/-- The records of every partition that the buffers have taken by now are in them. -/
def traceFlush (cm : Ctl × Mem) : Ctl × Mem := (cm.1.db.traceQ.entries.map (·.1)).foldl traceFlushPart cm

/-! Dump triggers (R993, R994). -/
/-- A dump that is not taken: counted, reported, summarised (R993, R1020). -/
def dumpDrop (c : Ctl) (r : DumpReq) : Ctl :=
  lostSum (raise (cnt1 c (rDmCnt 3)) 0x0541 noPart (unitBlock c 0x15) r.trigger) 6 r
/-- A dump whose stop has applied joins the queue of 4, in order of arrival (R993); a SPILL dump is dropped without an event while
another SPILL dump runs or waits (R1028); of two triggers of one scope at one boundary the lower code stays (R1027). -/
def dumpQueue (c : Ctl) (r : DumpReq) : Ctl :=
  let others := (match c.dump.running with | some d => [d.req] | none => []) ++ c.dump.queue
  if r.trigger = 3 ∧ others.any (fun q => q.trigger = 3) then cnt1 c (rDmCnt 3)
  else match c.dump.queue.find? (fun q => q.scope = r.scope ∧ q.mask = r.mask ∧ q.pass = r.pass ∧ q.trigger ≠ r.trigger) with
    | some q =>
      if r.trigger < q.trigger then
        { c with dump := { c.dump with queue := c.dump.queue.map (fun x => if x = q then { r with ts := q.ts, snap := q.snap } else x) } }
      else c
    | none =>
      if c.dump.queue.length ≥ 4 then dumpDrop c r
      else { c with dump := { c.dump with queue := c.dump.queue ++ [latched c r] } }
/-- A dump at an applied stop of this instant. -/
def dumpNow (c : Ctl) (trigger scope mask ev : Nat) (ref : Option CmdRef) : Ctl :=
  dumpQueue c { trigger := trigger, scope := scope, mask := mask, origin := plezorId c, named := passNo c, pass := passNo c,
                ev := ev, ref := ref }
/-- A dump that waits for the armed boundary stop of pass `p`. -/
def dumpArm (c : Ctl) (r : DumpReq) : Ctl := { c with dump := { c.dump with armed := c.dump.armed ++ [r] } }

/-! The armed boundary stop (R951, R952). -/
def rBstop : Nat := hub 0x40
def rBstopMask : Nat := hub 0x48
def rBstopStat : Nat := hub 0x4C
/-- Arms a boundary stop: an earlier pass replaces, the same pass joins, a later one is ignored; a boundary nearer than 64 tc
applies later, is marked LATE, counted and reported; EPOCH also arms the epoch stop. Answers the pass at which it applies, and whether it
is late (R950 to R952). -/
def armBstop (c : Ctl) (pass mask : Nat) (ep : Bool) (fab : Bool := false) : Ctl × Nat × Bool :=
  let first := firstPassAfter c c.time.ftc
  let late := decide (pass < first)
  let p := if late then first else pass
  let c := if late then
      raise (cnt1 (hwBit c rBstopStat 2) (hub 0x80C)) 0x3501 noPart (unitOf c 0xD 0) pass
    else c
  let valid := rbit c rBstopStat 0
  let cur := rd64 c rBstop
  let nf := if fab then some pass else none
  let stopEp (c : Ctl) : Ctl := if ep then setBit (wr64 c rStopAt p) rTimCtrl 17 true else c
  let c := if !valid || decide (p < cur) then
      let c := stopEp (setBit (setBit (wr (wr64 c rBstop p) rBstopMask mask) rBstopStat 0 true) rBstopStat 1 ep)
      { c with db := { c.db with bstopLate := late, bstopFab := nf } }
    else if p = cur then
      let c := stopEp (setBit (wr c rBstopMask (rd c rBstopMask ||| mask)) rBstopStat 1 (rbit c rBstopStat 1 || ep))
      { c with db := { c.db with bstopLate := c.db.bstopLate || late, bstopFab := if fab then nf else c.db.bstopFab } }
    else c
  (c, min p (if valid then cur else p), late)

/-! Messages of the relay (R969, R970). -/
/-- The words of a message: POS, TYPE, a header, and a body of at most 90 bytes, 6 to a word. -/
def msgWords (typ dst src tag : Nat) (body : Bytes) : List Nat :=
  let n := ceilDiv body.length 6
  let hd := (if n = 0 then 3 else 2) * 2 ^ 54 + typ * 2 ^ 52 + dst % 2 ^ 16 * 2 ^ 32 + src % 2 ^ 16 * 2 ^ 16 + tag % 256 * 2 ^ 8 + n % 16
  hd :: (List.range n).map (fun i => (if i + 1 = n then 1 else 0) * 2 ^ 54 + typ * 2 ^ 52 + leAt body (6 * i) 6)
/-- Sends a message on a link, its words one after another (R971); SBKIND 4 is DBG. -/
def sendMsg (c : Ctl) (l : Nat) (ws : List Nat) : Ctl := ws.foldl (fun c w => sbSend c l 4 w) c
/-- The first 32 bytes of a request without data (R937). -/
def reqHead (op flags unit arg mask sel : Nat) : Bytes :=
  leBytes 1 op ++ leBytes 1 flags ++ leBytes 2 0 ++ leBytes 4 unit ++ leBytes 8 0 ++ leBytes 8 arg ++ leBytes 4 mask ++ leBytes 4 sel
/-- A link is UP and may carry tree traffic. -/
def linkUp (c : Ctl) (l : Nat) : Bool := decide (fld c (lkStat l) 10 8 = 5)
/-- Sends a message on every UP link of the spillway tree but one (R974). -/
def floodTree (c : Ctl) (ws : List Nat) (except : Nat) : Ctl :=
  foldUp 32 (fun c l => if bitN (rd c (hub 0x100)) l ∧ linkUp c l ∧ l ≠ except then sendMsg c l ws else c) c
/-- Originates a FLOOD with the first 32 bytes of a request (R970, R974); its DST names no Plezor. -/
def flood (c : Ctl) (head : Bytes) : Ctl :=
  let t := c.db.tag
  floodTree { c with db := { c.db with tag := (t + 1) % 256 } } (msgWords 2 0 (plezorId c) t (padTo 32 head)) 32

/-! Firing (R964). -/
/-- Source numbers of DB_SPILL_SRCi. -/
def srcPdbg (p : Nat) : Nat := p
def srcPerr (p : Nat) : Nat := 32 + p
def srcPmatch (p : Nat) : Nat := 64 + p
/-- A source fires the channels set in its mask. -/
def fireSrc (c : Ctl) (i : Nat) : Ctl :=
  let ch := fld c (hub (0x200 + 4 * i)) 15 0
  if ch = 0 then c else { c with db := { c.db with fireQ := c.db.fireQ ++ [(ch, true)] } }
/-- Fires channels directly, from a local source or from the tree. -/
def fireCh (c : Ctl) (ch : Nat) (here : Bool) : Ctl :=
  if ch % 2 ^ 16 = 0 then c else { c with db := { c.db with fireQ := c.db.fireQ ++ [(ch % 2 ^ 16, here)] } }

/-! Halting (R298, R214, R946). -/
/-- The state a tile records at a halt, with the cause found (R298). -/
def haltTile (c : Ctl) (t cause slot eaddr : Nat) : Ctl :=
  let x := tile c t
  if x.halted then c
  else
    let nxt := if x.run = .waiting ∨ x.run = .ending then x.waitTgt else x.pc
    let ds := x.delay.isSome
    let epc := if ds then (nxt + 4095) % 4096 else nxt
    let isEnd (l : LoopSt) : Bool := l.active && decide (l.last = nxt)
    let le := !ds && decide (x.run = .run) && (isEnd x.l0 || isEnd x.l1)
    let c := wr c (tlEpc t) epc
    let c := wr c (tlEtgt t) (x.delay.getD 0)
    let c := wr c (tlEcause t) (b2n ds * 2 ^ 15 + b2n x.modeNext.isSome * 2 ^ 14 + b2n le * 2 ^ 13 + slot * 2 ^ 8 + cause)
    let c := wr c (tlEmode t) (x.modeNext.getD 0 * 2 ^ 8 + x.mode)
    let c := wr c (tlEaddr t) eaddr
    let c := if x.run = .run then cntAdd c (tlCnt t 4) 31 2 else c
    let c := putTile c t { x with halted := true, exc := decide (cause ≠ 0), quiet := false, pastBreak := false, judged := 0, held := [] }
    if cause ≠ 0 then
      traceTile c t 0x05 (cause + epc * 2 ^ 8 + (b2n ds * 4 + b2n x.modeNext.isSome * 2 + b2n le) * 2 ^ 20)
    else c
/-- Halts every tile of a partition that is not halted, without an exception (R298). -/
def haltTiles (c : Ctl) (p cause : Nat) : Ctl :=
  (tilesOf c p).foldl (fun c t =>
    if (tile c t).halted then c
    else
      let c := haltTile c t 0 0 0
      traceTile c t 0x06 (cause + fld c (tlEpc t) 11 0 * 2 ^ 8)) c
/-- The error halt of a partition with its cause; `t` the tile concerned, if one is; the event carries the timestamp `ts` of the cause, and
the tile's state as the halt has recorded it (R214 to R217, R1034). PTn_STAT of a contained Plezor holds (R246). -/
def errorHalt (c : Ctl) (p cause : Nat) (t : Option Nat) (ts : Nat) : Ctl :=
  if rbit c (ptStat p) 5 ∨ c.ev.contained then c
  else
    let c := setFld (setBit c (ptStat p) 5 true) (ptStat p) 23 16 cause
    let c := ptFixHalted c p
    let c := haltTiles c p cause
    let c := updPart c p (fun s => { s with inPass := false })
    let u := match t with | some t => unitOf c 0 t | none => unitPart c p
    let det := match t with
      | some t => cause + fld c (tlEcause t) 7 0 * 2 ^ 8 + fld c (tlEpc t) 11 0 * 2 ^ 16 + rd c (tlEaddr t) * 2 ^ 32
      | none => cause
    let c := raiseAt c ts 0x5183 p u det
    let c := if dumpOnHalt c p then dumpNow c 2 0 (2 ^ p) 0x5183 none else c
    fireSrc c (srcPerr p)
/-- An error halt that was due is taken (R214, R216, R245). -/
def haltOwed (c : Ctl) (p : Nat) : Ctl :=
  match (part c p).haltDue with
  | some h => errorHalt (updPart c p (fun x => { x with haltDue := none })) p h.cause h.tile h.ts
  | none => c
/-- The error halts whose 4 tc are over are taken (R214). -/
def haltsDue (c : Ctl) : Ctl :=
  foldUp 32 (fun c p => match (part c p).haltDue with | some h => if h.at_ ≤ c.time.ftc then haltOwed c p else c | none => c) c
/-- The debug halt of a partition at once (R946). PTn_STAT of a contained Plezor holds (R246). -/
def debugHalt (c : Ctl) (p : Nat) : Ctl :=
  if rbit c (ptStat p) 6 ∨ p ≥ 32 ∨ c.ev.contained then c
  else
    let c := ptFixHalted (setBit c (ptStat p) 6 true) p
    let c := haltTiles c p 0
    let c := updPart c p (fun s => { s with inPass := false, noLedger := true })
    fireSrc c (srcPdbg p)
/-- Debug-halts every partition of a mask. -/
def debugHaltMask (c : Ctl) (mask : Nat) : Ctl :=
  foldUp 32 (fun c p => if bitN mask p then debugHalt c p else c) c
/-- Fliwell halts the control engine, if MOTION_HALT_EN lets it (R826, R947). -/
def debugHaltCe (c : Ctl) : Ctl := if rbit c (hub 0) 1 then { c with db := { c.db with ceHalted := true } } else c
/-- Fliwell halts the management core (R947). -/
def debugHaltCore (c : Ctl) : Ctl :=
  if c.db.coreHalted then c
  else
    let c := keepStaging c
    { c with db := { c.db with coreHalted := true } }

/-! Sinks (R965). -/
/-- The halt groups that a firing reaches (R948). -/
def sinkHalt (c : Ctl) (ch : Nat) : Ctl :=
  foldUp 8 (fun c g =>
    let w := rd c (hub (0x80 + 8 * g))
    if (w % 2 ^ 16) &&& ch ≠ 0 then
      let c := debugHaltMask c (rd c (hub (0x84 + 8 * g)))
      let c := if bitN w 16 then debugHaltCe c else c
      if bitN w 17 then debugHaltCore c else c
    else c) c
/-- The boundary-stop sink: a local firing originates a stop D passes ahead, fabric-wide when FAB is 1 (R968, R974). -/
def sinkBstop (c : Ctl) (ch : Nat) (here : Bool) : Ctl :=
  let w := rd c (hub 0x50)
  if here ∧ c.time.epoch ∧ (bits w 31 16) &&& ch ≠ 0 then
    let p := c.time.pass + bits w 15 8
    let m := rd c (hub 0x54)
    let c := (armBstop c p m (bitN w 0) (bitN w 1)).1
    if bitN w 1 then flood c (reqHead 0x14 1 (unitOf c 0 0) p m (b2n (bitN w 0) * 4)) else c
  else c
/-- Traces start and stop on their channels, and every running trace records the firing (R961, R963). -/
def sinkTrace (c : Ctl) (ch : Nat) : Ctl :=
  foldUp 32 (fun c p =>
    let w := rd c (trcCtrl p)
    if bitN w 31 then
      let c := if bitN w 19 ∧ bitN ch (bits w 23 20) ∧ ¬ bitN w 29 then setBit c (trcCtrl p) 28 true else c
      let c := tracePut c p 0x3FF 0x0C ch
      if bitN w 18 ∧ bitN ch (bits w 27 24) then setBit c (trcCtrl p) 28 false else c
    else c) c
/-- SPILL_OUT asserts; a further firing extends its pulse (R966). -/
def sinkPin (c : Ctl) (ch : Nat) : Ctl :=
  let w := rd c (hub 0x108)
  if (w % 2 ^ 16) &&& ch ≠ 0 then
    let c := if c.db.spillOut then c else emit c (.pin 1 1)
    { c with db := { c.db with spillOut := true, spillTill := c.time.ftc + 8 + 16 * bits w 23 16 } }
  else c
/-- A TRIG sideband's payload: channels, origin, sequence (R668). -/
def trigPayload (ch src seq : Nat) : Nat := src % 2 ^ 16 * 2 ^ 40 + seq % 2 ^ 8 * 2 ^ 32 + ch % 2 ^ 16
/-- A local firing is sent on every tree link that is UP (R967). -/
def sinkTree (c : Ctl) (ch : Nat) (here : Bool) : Ctl :=
  let tx := ch &&& fld c (hub 0x104) 15 0
  if here ∧ tx ≠ 0 then
    let q := c.db.trigSeq
    let c := foldUp 32 (fun c l =>
      if bitN (rd c (hub 0x100)) l ∧ linkUp c l then sbSend c l 2 (trigPayload tx (plezorId c) q) else c) c
    { c with db := { c.db with trigSeq := (q + 1) % 256 } }
  else c
/-- The dump trigger SPILL: a boundary stop at the first boundary 64 tc ahead, or a debug halt at once while no epoch runs
(R994, R996). -/
def stopAndDump (c : Ctl) (trigger scope mask : Nat) : Ctl :=
  let m := if scope = 1 then 2 ^ 32 - 1 else mask
  if c.time.epoch then
    let p := firstPassAfter c c.time.ftc
    let (c, q, _) := armBstop c p m false
    dumpArm c { trigger := trigger, scope := scope, mask := m, origin := plezorId c, named := q, awaits := some q, pass := q }
  else dumpNow (debugHaltMask c m) trigger scope m 0 none
/-- The dump trigger of the spillway (R994). -/
def sinkDump (c : Ctl) (ch : Nat) : Ctl :=
  let w := rd c rDmTrig
  if (bits w 31 16) &&& ch ≠ 0 then stopAndDump c 3 (w % 2) (rd c rDmTrigMask) else c
/-- Every sink of one firing (R965). -/
def sinkAll (c : Ctl) (ch : Nat) (here : Bool) : Ctl :=
  let c := sinkHalt c ch
  let c := sinkBstop c ch here
  let c := sinkTrace c ch
  let c := { c with db := { c.db with captTrig := c.db.captTrig ||| ch } }
  let c := sinkPin c ch
  let c := sinkTree c ch here
  sinkDump c ch
/-- Acts on every firing that waits, and on those they cause; each partition halts once, so the rounds end. -/
def settle : Nat → Ctl → Ctl
  | 0, c => c
  | n + 1, c =>
    match c.db.fireQ with
    | [] => c
    | (ch, here) :: r => settle n (sinkAll { c with db := { c.db with fireQ := r } } ch here)
/-- What follows every command: error halts whose instant FTC has reached are taken, and rounds enough for every source to fire once. -/
def settled (c : Ctl) : Ctl := settle 256 (haltsDue c)

/-- The management watchdog expires: trigger MWDOG of R964 and R994. -/
def srcMwdog : Nat := 100
/-- The control engine enters FAULT (R964). -/
def srcCeFault : Nat := 96

/-! The three shapes of a meaning: what it changes, and then what the spillway does in its 4 tc (R965). -/
/-- A command that changes the control state alone. -/
def onCtl (f : Ctl → Ctl) (s : State) : Out := .next { s with ctl := settled (f s.ctl) }
/-- A command that reads the memories and changes the control state alone. -/
def onCtlM (f : Mem → Ctl → Ctl) (s : State) : Out := .next { s with ctl := settled (f s.mem s.ctl) }
/-- A command that changes control state and memories. -/
def onAll (f : Ctl × Mem → Ctl × Mem) (s : State) : Out :=
  let r := f (s.ctl, s.mem)
  .next { s with ctl := settled r.1, mem := r.2 }

/-- The same while the clocks of the blocks run, from ROOT or on the bypass path (R78 to R82). -/
def onServed (f : Ctl → Ctl) (s : State) : Out := onCtl (fun c => whenServed c f) s
def onServedAll (f : Ctl × Mem → Ctl × Mem) (s : State) : Out := onAll (fun cm => if regsServed cm.1 then f cm else cm) s
/-- A command that the host port takes, while it answers. -/
def onHost (f : Ctl → Ctl) (s : State) : Out := onCtl (fun c => if hostUp c then f c else c) s

end Sys2Proof.Machine
end

