-- ==== Sys2Proof/Machine/Flags.lean ====
section
/-! DEFINITION. The arithmetic of tiles: formats, roundings, draws, sticky flags, exact accumulators (chapter "Arithmetic"). -/
namespace Sys2Proof.Machine

/-! Sticky flag bits of R336, as masks of the low nine bits. -/
def fNV : Nat := 0x001
def fOF : Nat := 0x002
def fUF : Nat := 0x004
def fNX : Nat := 0x008
def fISAT : Nat := 0x010
def fIWRAP : Nat := 0x020
def fWOF : Nat := 0x040
def fNANIN : Nat := 0x080
def fCVTSAT : Nat := 0x100
/-- The flag mask if the condition holds. -/
def flagIf (c : Bool) (m : Nat) : Nat := if c then m else 0

/-- A value of a floating format: an exact dyadic number with the sign of its zero (R316, R317). -/
inductive Fp where
  | nan
  | inf (neg : Bool)
  /-- `(-1)^neg × m × 2^e` -/
  | fin (neg : Bool) (m : Nat) (e : Int)
  deriving DecidableEq, Repr

/-- The canonical NaN of FP32 (R317). -/
def nan32 : Nat := 0x7FC00000

/-- Decodes an IEEE-style format with `eb` exponent bits, `mb` fraction bits and bias `bias` (R316, R319). -/
def fpDecode (eb mb bias v : Nat) : Fp :=
  let neg := bitN v (eb + mb)
  let ex := bits v (eb + mb - 1) mb
  let fr := v % 2 ^ mb
  if ex = 2 ^ eb - 1 then (if fr = 0 then .inf neg else .nan)
  else if ex = 0 then .fin neg fr (1 - (bias : Int) - mb)
  else .fin neg (fr + 2 ^ mb) ((ex : Int) - bias - mb)

/-- FP32 (R316). -/
def fp32 (v : Nat) : Fp := fpDecode 8 23 127 v
/-- BF16 (R316). -/
def bf16 (v : Nat) : Fp := fpDecode 8 7 127 v

/-- `m / 2^sh` rounded under RND on the magnitude, and whether the value changed (R321, R322). -/
def roundMag (rnd : Nat) (neg : Bool) (draw m sh : Nat) : Nat × Bool :=
  let q := m >>> sh
  let r := m % 2 ^ sh
  if r = 0 then (q, false)
  else
    let up := match rnd with
      | 0 => decide (2 * r > 2 ^ sh) || (decide (2 * r = 2 ^ sh) && decide (q % 2 = 1))
      | 1 => false
      | 2 => !neg
      | 3 => neg
      | _ => decide (r * 2 ^ 32 / 2 ^ sh + draw ≥ 2 ^ 32)
    (if up then q + 1 else q, true)

/-- A nonzero magnitude `m × 2^e` rounded to a format of `mb` fraction bits and least exponent `emin`: the bits without the
sign (overflow past the top exponent shows as larger bits), whether inexact, and whether tiny before rounding (R321, R336). -/
def fpPack (mb : Nat) (emin : Int) (rnd : Nat) (neg : Bool) (draw m : Nat) (e : Int) : Nat × Bool × Bool :=
  if m = 0 then (0, false, false)
  else
    let top : Int := (Nat.log2 m : Int) + e
    let g : Int := (if top < emin then emin else top) - mb
    let (k, inex) := if e ≥ g then (m <<< (e - g).toNat, false) else roundMag rnd neg draw m (g - e).toNat
    (k + ((g - (emin - mb)).toNat <<< mb), inex, decide (top < emin))

/-- What a finite magnitude beyond the largest finite value becomes (R326): `infB` infinity, `infB - 1` the largest. -/
def overflowBits (rnd : Nat) (neg : Bool) (infB : Nat) : Nat :=
  match rnd with
  | 1 => infB - 1
  | 2 => if neg then infB - 1 else infB
  | 3 => if neg then infB else infB - 1
  | _ => infB

/-- Rounds to an IEEE-style format with infinity `infB` and sign bit `sb`: bits and flags (R321, R326, R336). -/
def fpRound (mb : Nat) (emin : Int) (infB sb rnd : Nat) (neg : Bool) (draw m : Nat) (e : Int) : Nat × Nat :=
  let (b, inex, tiny) := fpPack mb emin rnd neg draw m e
  let s := if neg then 2 ^ sb else 0
  if b ≥ infB then (s + overflowBits rnd neg infB, fOF ||| fNX)
  else (s + b, flagIf inex fNX ||| flagIf (tiny && inex) fUF)

/-- Rounds to FP32. -/
def round32 (rnd : Nat) (neg : Bool) (draw m : Nat) (e : Int) : Nat × Nat :=
  fpRound 23 (-126) 0x7F800000 31 rnd neg draw m e

/-- Rounds the signed dyadic `n × 2^e`; an exact zero takes the sign `zneg`. -/
def round32I (rnd draw : Nat) (zneg : Bool) (n e : Int) : Nat × Nat :=
  if n = 0 then ((if zneg then 0x80000000 else 0), 0) else round32 rnd (decide (n < 0)) draw n.natAbs e

/-- The signed integer of a finite value at exponent `e0`, which is at most its own. -/
def alignTo (e0 : Int) (neg : Bool) (m : Nat) (e : Int) : Int :=
  let v : Int := ((m <<< (e - e0).toNat : Nat) : Int)
  if neg then -v else v

/-- Infinity of FP32. -/
def inf32 (neg : Bool) : Nat := if neg then 0xFF800000 else 0x7F800000

/-- FP32 addition, rounded once (R327). -/
def fpAdd (rnd draw : Nat) (a b : Fp) : Nat × Nat :=
  match a, b with
  | .nan, _ => (nan32, fNANIN)
  | _, .nan => (nan32, fNANIN)
  | .inf n1, .inf n2 => if n1 = n2 then (inf32 n1, 0) else (nan32, fNV)
  | .inf n1, .fin .. => (inf32 n1, 0)
  | .fin .., .inf n2 => (inf32 n2, 0)
  | .fin n1 m1 e1, .fin n2 m2 e2 =>
    let e := min e1 e2
    let s := alignTo e n1 m1 e1 + alignTo e n2 m2 e2
    let z := if m1 = 0 ∧ m2 = 0 ∧ n1 = n2 then n1 else decide (rnd = 3)
    round32I rnd draw z s e

/-- The exact product of two values; `none` where it is invalid (R327). -/
def fpMulX (a b : Fp) : Option Fp :=
  match a, b with
  | .nan, _ => some .nan
  | _, .nan => some .nan
  | .inf n1, .inf n2 => some (.inf (n1 != n2))
  | .inf n1, .fin n2 m _ => if m = 0 then none else some (.inf (n1 != n2))
  | .fin n1 m _, .inf n2 => if m = 0 then none else some (.inf (n1 != n2))
  | .fin n1 m1 e1, .fin n2 m2 e2 => some (.fin (n1 != n2) (m1 * m2) (e1 + e2))

/-- Changes the sign. -/
def fpNeg : Fp → Fp
  | .nan => .nan
  | .inf n => .inf (!n)
  | .fin n m e => .fin (!n) m e

/-- FP32 multiplication (R327). -/
def fpMul (rnd draw : Nat) (a b : Fp) : Nat × Nat :=
  match fpMulX a b with
  | none => (nan32, fNV)
  | some .nan => (nan32, fNANIN)
  | some (.inf n) => (inf32 n, 0)
  | some (.fin n m e) => if m = 0 then ((if n then 0x80000000 else 0), 0) else round32 rnd n draw m e

/-- FP32 fused multiply and add: `c + a × b`, rounded once (R327). -/
def fpFma (rnd draw : Nat) (a b c : Fp) : Nat × Nat :=
  let anyNan := decide (a = .nan ∨ b = .nan ∨ c = .nan)
  match fpMulX a b with
  | none => (nan32, fNV ||| flagIf anyNan fNANIN)
  | some p => if anyNan then (nan32, fNANIN) else fpAdd rnd draw c p

/-- The order of FP32 bits that puts −0 below +0 (R328). -/
def fpKey (v : Nat) : Int := if bitN v 31 then -((v % 2 ^ 31 : Nat) : Int) - 1 else ((v % 2 ^ 31 : Nat) : Int)
/-- The order of FP32 bits in which the zeros are equal. -/
def fpKeyEq (v : Nat) : Int := if bitN v 31 then -((v % 2 ^ 31 : Nat) : Int) else ((v % 2 ^ 31 : Nat) : Int)

/-- FP32 minimum (`mx` false) or maximum (R328). -/
def fpMinMax (mx : Bool) (a b : Nat) : Nat × Nat :=
  match fp32 a, fp32 b with
  | .nan, .nan => (nan32, fNANIN)
  | .nan, _ => (b, fNANIN)
  | _, .nan => (a, fNANIN)
  | _, _ => (if (decide (fpKey a < fpKey b)) != mx then a else b, 0)

/-- A comparison by its code: EQ, NE, LT, LE, GT, GE (R273). -/
def cmpInt (fn : Nat) (a b : Int) : Bool :=
  match fn with
  | 0 => decide (a = b)
  | 1 => decide (a ≠ b)
  | 2 => decide (a < b)
  | 3 => decide (a ≤ b)
  | 4 => decide (a > b)
  | _ => decide (a ≥ b)

/-- FP32 comparison: a NaN makes every one false but NE (R328). -/
def fpCmp (fn a b : Nat) : Bool × Nat :=
  if fp32 a = .nan ∨ fp32 b = .nan then (decide (fn = 1), fNANIN) else (cmpInt fn (fpKeyEq a) (fpKeyEq b), 0)

/-- An exact integer to INT32 under SAT: saturates or wraps (R329). -/
def toInt32 (sat : Bool) (v : Int) : Nat × Nat :=
  if v < -2147483648 ∨ v > 2147483647 then
    if sat then (ux 32 (satS 32 v), fISAT) else (ux 32 v, fIWRAP)
  else (ux 32 v, 0)

/-- A finite value rounded to an integer: the signed integer and whether it changed. -/
def fpToInt (rnd : Nat) (neg : Bool) (draw m : Nat) (e : Int) : Int × Bool :=
  let (k, inex) := if e ≥ 0 then (m <<< e.toNat, false) else roundMag rnd neg draw m (-e).toNat
  (if neg then -(k : Int) else (k : Int), inex)

/-- FP32 to an integer of `w` bits, saturating (R330). -/
def cvtToInt (w rnd draw v : Nat) : Nat × Nat :=
  match fp32 v with
  | .nan => (0, fNV ||| fNANIN)
  | .inf n => (ux w (if n then -((2 ^ (w - 1) : Nat) : Int) else ((2 ^ (w - 1) : Nat) : Int) - 1), fCVTSAT)
  | .fin n m e =>
    let (k, inex) := fpToInt rnd n draw m e
    let s := satS w k
    (ux w s, flagIf inex fNX ||| flagIf (decide (s ≠ k)) fCVTSAT)

/-- FP32 to a narrow format whose finite top is `topB` and whose sign stands at `sb`, saturating (R330). -/
def cvtSat (mb : Nat) (emin : Int) (topB sb rnd : Nat) (neg : Bool) (draw m : Nat) (e : Int) : Nat × Nat :=
  let (b, inex, tiny) := fpPack mb emin rnd neg draw m e
  let s := if neg then 2 ^ sb else 0
  if b > topB then (s + topB, fCVTSAT ||| fOF ||| fNX)
  else (s + b, flagIf inex fNX ||| flagIf (tiny && inex) fUF)

/-- One lane of VCVT (R274, R330), the byte pack excepted; `none` for a code the table does not list. -/
def vcvtLane (fn rnd : Nat) (sat : Bool) (draw v : Nat) : Option (Nat × Nat) :=
  match fn with
  | 0x00 => some (round32I rnd draw false (sx 32 v) 0)
  | 0x01 => some (cvtToInt 32 rnd draw v)
  | 0x02 => some (match fp32 v with
      | .nan => (0x7FC0, fNANIN)
      | .inf n => (if n then 0xFF80 else 0x7F80, 0)
      | .fin n m e => if m = 0 then ((if n then 0x8000 else 0), 0) else fpRound 7 (-126) 0x7F80 15 rnd n draw m e)
  | 0x03 => some (match bf16 (v % 2 ^ 16) with
      | .nan => (nan32, fNANIN)
      | _ => ((v % 2 ^ 16) <<< 16, 0))
  | 0x04 => some (match fp32 v with
      | .nan => (0x7F, fNANIN)
      | .inf n => ((if n then 0x80 else 0) + 0x7E, fCVTSAT)
      | .fin n m e => if m = 0 then ((if n then 0x80 else 0), 0) else cvtSat 3 (-6) 0x7E 7 rnd n draw m e)
  | 0x05 => some (match fp32 v with
      | .nan => (0x7F, fNANIN)
      | .inf n => if sat then ((if n then 0x80 else 0) + 0x7B, fCVTSAT) else ((if n then 0x80 else 0) + 0x7C, 0)
      | .fin n m e =>
        if m = 0 then ((if n then 0x80 else 0), 0)
        else if sat then cvtSat 2 (-14) 0x7B 7 rnd n draw m e
        else fpRound 2 (-14) 0x7C 7 rnd n draw m e)
  | 0x06 => some (match fp32 v with
      | .nan => (0, fNV ||| fNANIN)
      | .inf n => ((if n then 8 else 0) + 7, fCVTSAT)
      | .fin n m e => if m = 0 then ((if n then 8 else 0), 0) else cvtSat 1 0 7 3 rnd n draw m e)
  | 0x07 => some (cvtToInt 8 rnd draw v)
  | _ =>
    if 0x20 ≤ fn ∧ fn ≤ 0x3F then
      let x := sx 32 v
      let (k, inex) := roundMag rnd (decide (x < 0)) draw x.natAbs (fn - 0x20)
      some (ux 32 (if x < 0 then -(k : Int) else (k : Int)), flagIf inex fNX)
    else none

/-! The stochastic draw (R323). -/
/-- Reduces modulo 2^64. -/
def m64 (v : Nat) : Nat := v % 2 ^ 64
/-- The mixing function of R323. -/
def mix64 (z : Nat) : Nat :=
  let a := m64 ((z ^^^ (z >>> 30)) * 0xBF58476D1CE4E5B9)
  let b := m64 ((a ^^^ (a >>> 27)) * 0x94D049BB133111EB)
  b ^^^ (b >>> 31)
/-- The key of a pass (R323). -/
def passKey (seed pass tile : Nat) : Nat := mix64 (seed ^^^ mix64 (m64 ((pass <<< 16) ||| tile)))
/-- The draw of a rounding (R323). -/
def drawOf (key n unit sub lane : Nat) : Nat :=
  let ctr := (n <<< 10) ||| (unit <<< 7) ||| (sub <<< 6) ||| lane
  (mix64 (m64 (key + ctr * 0x9E3779B97F4A7C15)) >>> 32) % 2 ^ 32

/-! The exact accumulator (R337 to R343). -/
/-- The signed content of a lane. -/
def wInt (v : BitVec 256) : Int := v.toInt
/-- An exact sum into a lane: the low 256 bits and WOF when it leaves the range (R338). -/
def wPut (v : Int) : BitVec 256 × Nat := (BitVec.ofInt 256 v, flagIf (decide (satS 256 v ≠ v)) fWOF)
/-- An FP32 term as a multiple of 2^-128, its status bits and its flags (R340). -/
def wTerm32 (v : Nat) : Int × Nat × Nat :=
  match fp32 v with
  | .nan => (0, 4, fNANIN)
  | .inf n => (0, if n then 1 else 2, 0)
  | .fin n m e =>
    let sh : Int := e + 128
    let (k, inex) := if sh ≥ 0 then (m <<< sh.toNat, false) else roundMag 0 n 0 m (-sh).toNat
    ((if n then -(k : Int) else (k : Int)), 0, flagIf inex fNX ||| flagIf (inex && decide (k = 0)) fUF)
/-- One lane of WACC: the new value and status and the flags; `none` for a code not listed (R339 to R341). -/
def waccLane (t fn : Nat) (a : BitVec 256) (st v : Nat) : Option (BitVec 256 × Nat × Nat) :=
  if fn = 0 then
    if t = 0 then
      let (r, f) := wPut (wInt a + sx 32 v * ((2 ^ 128 : Nat) : Int)); some (r, st, f)
    else
      let (x, s, f) := wTerm32 v
      let (r, g) := wPut (wInt a + x); some (r, st ||| s, f ||| g)
  else if t ≠ 0 then none
  else if 0x10 ≤ fn ∧ fn ≤ 0x17 then
    let k := fn - 0x10
    let x : Int := if k = 7 then sx 32 v else (v : Int)
    let (r, f) := wPut (wInt a + x * ((2 ^ (32 * k) : Nat) : Int)); some (r, st, f)
  else if fn = 0x18 then some (a, st ||| v % 8, 0)
  else none
/-- One lane of WRD (R341, R342). -/
def wrdLane (t fn rnd : Nat) (sat : Bool) (draw : Nat) (a : BitVec 256) (st : Nat) : Option (Nat × Nat) :=
  if fn = 0 then
    if bitN st 2 ∨ (bitN st 1 ∧ bitN st 0) then some (if t = 0 then (0, fNV) else (nan32, fNV))
    else if bitN st 1 then some (if t = 0 then (0x7FFFFFFF, fCVTSAT) else (0x7F800000, 0))
    else if bitN st 0 then some (if t = 0 then (0x80000000, fCVTSAT) else (0xFF800000, 0))
    else
      let x := wInt a
      if t = 0 then
        let (k, inex) := roundMag rnd (decide (x < 0)) draw x.natAbs 128
        let (w, f) := toInt32 sat (if x < 0 then -(k : Int) else (k : Int))
        some (w, f ||| flagIf inex fNX)
      else some (round32I rnd draw false x (-128))
  else if t ≠ 0 then none
  else if 0x10 ≤ fn ∧ fn ≤ 0x17 then some (bits a.toNat (32 * (fn - 0x10) + 31) (32 * (fn - 0x10)), 0)
  else if fn = 0x18 then some (st % 8, 0)
  else none

/-! Microscaling elements (R319): each is an integer times 2^-unit. -/
/-- An element: its signed integer in units of the format's step, or an infinity or a NaN. -/
inductive MxEl where
  | num (v : Int)
  | inf (neg : Bool)
  | nan
  deriving DecidableEq, Repr

/-- A small IEEE-style format as an integer of its least step. -/
def mxSmall (eb mb v : Nat) : Int :=
  let ex := bits v (eb + mb - 1) mb
  let fr := v % 2 ^ mb
  let m : Int := if ex = 0 then (fr : Int) else (((fr + 2 ^ mb) <<< (ex - 1) : Nat) : Int)
  if bitN v (eb + mb) then -m else m
/-- The element of format MFMT held in a byte (R319). -/
def mxEl (mfmt v : Nat) : MxEl :=
  match mfmt with
  | 0 => .num (sx 8 v)
  | 1 => if v % 128 = 127 then .nan else .num (mxSmall 4 3 v)
  | 2 => if bits v 6 2 = 31 then (if v % 4 = 0 then .inf (bitN v 7) else .nan) else .num (mxSmall 5 2 v)
  | _ => .num (mxSmall 2 1 v)
/-- The element's step is 2 to minus this (R319). -/
def mxUnit (mfmt : Nat) : Nat := match mfmt with | 0 => 6 | 1 => 9 | 2 => 16 | _ => 1

/-- The state of a product sum: the exact sum, whether a NaN element, an infinity of either sign, an invalid product. -/
structure MxSum where
  sum : Int := 0
  nan : Bool := false
  pinf : Bool := false
  ninf : Bool := false
  inv : Bool := false
  deriving DecidableEq, Repr

/-- Adds one product, scaled by 2^sh (R331, R333). -/
def mxAcc (sh : Nat) (s : MxSum) (a w : MxEl) : MxSum :=
  match a, w with
  | .nan, _ => { s with nan := true }
  | _, .nan => { s with nan := true }
  | .num x, .num y => { s with sum := s.sum + x * y * ((2 ^ sh : Nat) : Int) }
  | .inf n, .num y => if y = 0 then { s with inv := true } else
      if n != decide (y < 0) then { s with ninf := true } else { s with pinf := true }
  | .num x, .inf n => if x = 0 then { s with inv := true } else
      if n != decide (x < 0) then { s with ninf := true } else { s with pinf := true }
  | .inf n, .inf k => if n != k then { s with ninf := true } else { s with pinf := true }

/-- One output element of an MMA: `acts` and `wts` are the 64 pairs' elements, `ea` and `ew` the two scales of each side
(R331 to R334); `old` is the element before. A sum of 0 is taken as +0 beside an old element that is a zero: DESIGN CHOICE, for R333 gives the
sum no sign of zero (Assumption 76). -/
def mmaEl (mfmt rnd : Nat) (sat : Bool) (draw old : Nat) (acts wts : List MxEl) (ea ew : Nat → Nat) : Nat × Nat :=
  let pairs := (acts.zip wts).zipIdx
  let bad := decide (ea 0 = 255 ∨ ea 1 = 255 ∨ ew 0 = 255 ∨ ew 1 = 255)
  let s := pairs.foldl (fun (s : MxSum) p => let h := p.2 / 32; mxAcc (ea h + ew h) s p.1.1 p.1.2) {}
  let ex : Int := -((254 + 2 * mxUnit mfmt : Nat) : Int)
  if mfmt = 0 then
    if bad then (old, fNV)
    else
      let t : Int := sx 32 old * ((2 ^ (ex + 12).natAbs : Nat) : Int) + s.sum
      let (k, inex) := roundMag rnd (decide (t < 0)) draw t.natAbs (ex + 12).natAbs
      let (w, f) := toInt32 sat (if t < 0 then -(k : Int) else (k : Int))
      (w, f ||| flagIf inex fNX)
  else
    let fn := flagIf (s.nan || decide (fp32 old = .nan)) fNANIN
    if bad ∨ s.nan ∨ s.inv ∨ (s.pinf ∧ s.ninf) then (nan32, fNV ||| fn)
    else match fp32 old with
      | .nan => (nan32, fn)
      | .inf n =>
        if (s.pinf ∧ n = true) ∨ (s.ninf ∧ n = false) then (nan32, fNV) else (inf32 n, 0)
      | .fin n m e =>
        if s.pinf then (inf32 false, 0) else if s.ninf then (inf32 true, 0)
        else
          let e0 := min e ex
          let t := alignTo e0 n m e + s.sum * ((2 ^ (ex - e0).toNat : Nat) : Int)
          let z := if m = 0 ∧ s.sum = 0 then (n && decide (rnd = 3)) else decide (rnd = 3)
          round32I rnd draw z t e0

/-! Dressing (R351 to R353). -/
/-- One channel: the dressed word and whether the clamp changed it. -/
def dress (r : Int) (ped : Int) (gain : Nat) (thr : Int) (absF : Bool) : Word × Bool :=
  let p := (16 * r - ped) * (gain : Int)
  let d0 := rneDiv p 4096
  let d := clampI (-8388608) 8388607 d0
  let c := if absF then (d.natAbs : Int) else d
  (if c < thr then 0x80000000 else BitVec.ofInt 32 d, decide (d ≠ d0))

/-! The order-free reductions of near-memory engines and links (R345). -/
/-- A 32-bit reduction: 0 INT32 add, 1 INT32 min, 2 INT32 max, 3 FP32 min, 4 FP32 max, 5 AND, 6 OR, 7 XOR. -/
def redWord (op a b : Nat) : Nat :=
  match op with
  | 0 => (a + b) % 2 ^ 32
  | 1 => if sx 32 a < sx 32 b then a else b
  | 2 => if sx 32 a < sx 32 b then b else a
  | 3 => (fpMinMax false a b).1
  | 4 => (fpMinMax true a b).1
  | 5 => a &&& b
  | 6 => a ||| b
  | _ => a ^^^ b

end Sys2Proof.Machine
end

