-- ==== Sys2Proof/Machine/Operands.lean ====
section
/-! DEFINITION. The four slots of a bundle: fields, legality, register names, addresses (R259 to R278). -/
namespace Sys2Proof.Machine

/-- A control slot: OP, the registers and numbers of its format, and whether a reserved field is nonzero (R259, R261). `fn` is
FN, COND, CH or LVL; `imm` is IMM16, TGT, END, N, MASK, CODE, IDX or OFF. -/
structure COp where
  op : Nat := 0
  xd : Nat := 0
  xa : Nat := 0
  xb : Nat := 0
  fn : Nat := 0
  imm : Nat := 0
  src : Bool := false
  cnt : Nat := 0
  bad : Bool := false
  deriving DecidableEq, Repr

/-- A move slot: OP, RD, XA, XB, IMM11 (R264). -/
structure MOp where
  op : Nat := 0
  rd : Nat := 0
  xa : Nat := 0
  xb : Nat := 0
  imm : Nat := 0
  deriving DecidableEq, Repr

/-- A vector slot (R273). -/
structure VOp where
  op : Nat := 0
  vd : Nat := 0
  va : Nat := 0
  vb : Nat := 0
  km : Nat := 0
  t : Nat := 0
  fn : Nat := 0
  deriving DecidableEq, Repr

/-- A matrix slot (R275); `low` is the reserved field [5:0]. -/
structure XOp where
  op : Nat := 0
  k : Nat := 0
  r : Nat := 0
  vs : Nat := 0
  q : Nat := 0
  b : Nat := 0
  xs : Nat := 0
  low : Nat := 0
  deriving DecidableEq, Repr

/-- A bundle: its four slots (R259); a slot not given is NOP. -/
structure Slots where
  c : COp := {}
  m : MOp := {}
  v : VOp := {}
  x : XOp := {}
  deriving DecidableEq, Repr

/-! Control operations of R262. -/
def cALU : Nat := 0x01
def cADDI : Nat := 0x02
def cORI : Nat := 0x03
def cLUI : Nat := 0x04
def cBR : Nat := 0x08
def cJR : Nat := 0x09
def cBAL : Nat := 0x0A
def cLOOP : Nat := 0x0C
def cSETMODE : Nat := 0x10
def cWAITP : Nat := 0x14
def cWAITA : Nat := 0x15
def cACLR : Nat := 0x16
def cKICK : Nat := 0x17
def cTRAP : Nat := 0x18
def cCSRR : Nat := 0x19
def cCSRW : Nat := 0x1A
def cWAITT : Nat := 0x1B

/-- The control slot of a 32-bit word (R261, R262). -/
def decodeC (w : Nat) : COp :=
  let f := bits w
  match f 31 26 with
  | 0x01 => { op := cALU, xd := f 25 21, xa := f 20 16, xb := f 15 11, fn := f 10 0 }
  | 0x02 => { op := cADDI, xd := f 25 21, xa := f 20 16, imm := f 15 0 }
  | 0x03 => { op := cORI, xd := f 25 21, xa := f 20 16, imm := f 15 0 }
  | 0x04 => { op := cLUI, xd := f 25 21, imm := f 15 0, bad := decide (f 20 16 ≠ 0) }
  | 0x08 => { op := cBR, fn := f 25 22, xa := f 21 17, xb := f 16 12, imm := f 11 0 }
  | 0x09 => { op := cJR, xd := f 25 21, xa := f 20 16, bad := decide (f 15 0 ≠ 0) }
  | 0x0A => { op := cBAL, xd := f 25 21, imm := f 11 0, bad := decide (f 20 12 ≠ 0) }
  | 0x0C => { op := cLOOP, fn := f 25 25, src := bitN w 24, xb := f 16 12, cnt := f 23 12, imm := f 11 0,
              bad := bitN w 24 && decide (f 23 17 ≠ 0) }
  | 0x10 => { op := cSETMODE, src := bitN w 25, xa := f 24 20, imm := f 7 0, bad := decide (f 19 8 ≠ 0) }
  | 0x14 => { op := cWAITP, imm := f 11 0, bad := decide (f 25 12 ≠ 0) }
  | 0x15 => { op := cWAITA, fn := f 25 23, imm := f 15 0, bad := decide (f 22 16 ≠ 0) }
  | 0x16 => { op := cACLR, imm := f 7 0, bad := decide (f 25 8 ≠ 0) }
  | 0x17 => { op := cKICK, bad := decide (f 25 0 ≠ 0) }
  | 0x18 => { op := cTRAP, imm := f 15 0, bad := decide (f 25 16 ≠ 0) }
  | 0x19 => { op := cCSRR, xd := f 25 21, imm := f 7 0, bad := decide (f 20 8 ≠ 0) }
  | 0x1A => { op := cCSRW, xa := f 20 16, imm := f 7 0, bad := decide (f 25 21 ≠ 0 ∨ f 15 8 ≠ 0) }
  | 0x1B => { op := cWAITT, imm := f 15 0, bad := decide (f 25 16 ≠ 0) }
  | o => { op := o, bad := decide (o ≠ 0) }

/-- The move slot of a 32-bit word (R264). -/
def decodeM (w : Nat) : MOp :=
  { op := bits w 31 26, rd := bits w 25 21, xa := bits w 20 16, xb := bits w 15 11, imm := bits w 10 0 }
/-- The vector slot of a 32-bit word (R273). -/
def decodeV (w : Nat) : VOp :=
  { op := bits w 31 26, vd := bits w 25 21, va := bits w 20 16, vb := bits w 15 11, km := bits w 10 8, t := bits w 7 6,
    fn := bits w 5 0 }
/-- The matrix slot of a 32-bit word (R275). -/
def decodeX (w : Nat) : XOp :=
  { op := bits w 31 26, k := bits w 25 25, r := bits w 24 19, vs := bits w 18 14, q := bits w 13 12, b := bits w 11 11,
    xs := bits w 10 6, low := bits w 5 0 }
/-- The slots of a bundle (R259). -/
def decodeBundle (w : Nat) : Slots :=
  { c := decodeC (bits w 127 96), m := decodeM (bits w 95 64), v := decodeV (bits w 63 32), x := decodeX (bits w 31 0) }

/-! Registers of a tile. -/
/-- X0 reads 0 (R249). -/
def rdX (x : Tile) (n : Nat) : Nat := if n = 0 then 0 else (smGet x.x 0 n).toNat
/-- A write to X0 is discarded (R249). -/
def wrX (x : Tile) (n v : Nat) : Tile := if n = 0 then x else { x with x := smSet x.x 0 n (BitVec.ofNat 32 v) }
/-- A vector register. -/
def rdV (x : Tile) (n : Nat) : VecReg := smGet x.v 0 n
/-- Writes a vector register. -/
def wrV (x : Tile) (n : Nat) (v : VecReg) : Tile := { x with v := smSet x.v 0 n v }
/-- K0 reads all ones (R249). -/
def rdK (x : Tile) (n : Nat) : Nat := if n = 0 then 2 ^ 64 - 1 else (smGet x.k 0 n).toNat
/-- Writes a mask register other than K0. -/
def wrK (x : Tile) (n v : Nat) : Tile := if n = 0 then x else { x with k := smSet x.k 0 n (BitVec.ofNat 64 v) }
/-- A lane of a wide accumulator: value and status (R337). -/
def rdW (x : Tile) (w i : Nat) : BitVec 256 × Nat := (smGet x.wv 0 (64 * w + i), smGet x.ws 0 (64 * w + i))
/-- Writes a lane of a wide accumulator. -/
def wrW (x : Tile) (w i : Nat) (v : BitVec 256) (st : Nat) : Tile :=
  { x with wv := smSet x.wv 0 (64 * w + i) v, ws := smSet x.ws 0 (64 * w + i) st }
/-- A row of a matrix accumulator: 64 columns of 32 bits. -/
def rdMA (x : Tile) (k r : Nat) : VecReg := smGet x.ma 0 (64 * k + r)
/-- Writes a row of a matrix accumulator. -/
def wrMA (x : Tile) (k r : Nat) (v : VecReg) : Tile := { x with ma := smSet x.ma 0 (64 * k + r) v }
/-- An arrival counter. -/
def rdAcnt (x : Tile) (c : Nat) : Nat := smGet x.acnt 0 c
/-- An arrival at FTC `now`: a counter at 0xFFFF stays (R268). The tile knows which counters an arrival reached in that tc (R308). -/
def arrive (now : Nat) (x : Tile) (c : Nat) : Tile :=
  { x with acnt := smUpd x.acnt 0 c (fun n => satU 16 (n + 1)), arrAt := now + 1,
           arrMask := (if x.arrAt = now + 1 then x.arrMask else 0) ||| 1 <<< c }
/-- Lane `i` of a vector. -/
def lane (v : VecReg) (i : Nat) : Nat := bits v.toNat (32 * i + 31) (32 * i)
/-- Byte `i` of a vector. -/
def vbyte (v : VecReg) (i : Nat) : Nat := bits v.toNat (8 * i + 7) (8 * i)
/-- Lanes to a number, lane 0 lowest (R249). -/
def packLanes : List Nat → Nat
  | [] => 0
  | l :: ls => l % 2 ^ 32 + 2 ^ 32 * packLanes ls
/-- The vector whose lane `i` is `f i`. -/
def vecOf (f : Nat → Nat) : VecReg := BitVec.ofNat 2048 (packLanes ((List.range 64).map f))
/-- The 256 bytes of a vector. -/
def vecBytes (v : VecReg) : Bytes := leBytes 256 v.toNat

/-! Legality within a slot (R259, R262 to R264, R273 to R277, R341). -/
/-- A MODE value with a reserved encoding (R250). -/
def modeReserved (m : Nat) : Bool := decide (m % 256 ≥ 64 ∨ m % 8 > 4)
/-- MFMT of a MODE (R250). -/
def mfmtOf (mode : Nat) : Nat := bits mode 5 4
/-- SAT of a MODE. -/
def satOf (mode : Nat) : Bool := bitN mode 3
/-- RND of a MODE. -/
def rndOf (mode : Nat) : Nat := mode % 8
/-- The tile registers CSRR may read (R263). -/
def csrListed (i : Nat) : Bool := decide (i ≤ 8 ∨ (0x10 ≤ i ∧ i ≤ 0x17))
/-- The mode a SETMODE asks for. -/
def setModeVal (x : Tile) (c : COp) : Nat := if c.src then rdX x c.xa % 256 else c.imm % 256

/-- The control slot is illegal (R259, R262, R263, R250). -/
def illegalC (x : Tile) (c : COp) : Bool :=
  c.bad ||
  (decide (c.op = cALU) && decide (c.fn > 10)) ||
  (decide (c.op = cBR) && decide (5 < c.fn ∧ c.fn ≠ 15)) ||
  (decide (c.op = cSETMODE) && modeReserved (setModeVal x c)) ||
  (decide (c.op = cCSRR) && !csrListed c.imm) ||
  (decide (c.op = cCSRW) && decide (c.imm ≠ 1))
/-- The move slot is illegal (R259, R264, R268). -/
def illegalM (x : Tile) (m : MOp) : Bool :=
  match m.op with
  | 0x00 | 0x03 | 0x04 | 0x05 | 0x08 | 0x09 | 0x0A | 0x0E | 0x0F => false
  | 0x01 => decide (m.xb ≠ 0)
  | 0x02 => decide (m.rd ≠ 0)
  | 0x06 => decide (m.rd % 16 ≠ 0)
  | 0x07 => decide (m.xa ≠ 0 ∨ m.xb ≠ 0 ∨ bits m.imm 10 7 ≠ 0)
  | 0x0B => decide (m.imm ≠ 0 ∨ bits (rdX x m.xa) 12 10 ≥ 6)
  | 0x0D => decide (m.imm ≠ 0)
  | _ => true
/-- A VCVT code of R274. -/
def vcvtListed (fn : Nat) : Bool := decide (fn ≤ 8 ∨ (0x20 ≤ fn ∧ fn ≤ 0x3F))
/-- A WACC or WRD code of R341. -/
def waccListed (t fn : Nat) : Bool := decide (fn = 0 ∨ (0x10 ≤ fn ∧ fn ≤ 0x18 ∧ t = 0))
/-- The vector slot is illegal (R259, R273, R274, R341, R249). -/
def illegalV (v : VOp) : Bool :=
  if v.op = 0 then false
  else decide (v.op > 0x10) || decide (v.t > 1) ||
    (match v.op with
     | 0x07 => decide (v.t ≠ 0 ∨ v.fn > 3)
     | 0x08 => decide (v.t ≠ 0 ∨ bits v.fn 5 3 ≠ 0 ∨ bits v.fn 2 1 = 3)
     | 0x09 => decide (bits v.vd 4 3 ≠ 0 ∨ v.fn > 5 ∨ v.vd % 8 = 0)
     | 0x0B => decide (v.t ≠ 0) || !vcvtListed v.fn
     | 0x0D => decide (bits v.vd 4 2 ≠ 0) || !waccListed v.t v.fn
     | 0x0F => !waccListed v.t v.fn
     | _ => false)
/-- The matrix slot is illegal under a MODE (R259, R275, R277). -/
def illegalX (mode : Nat) (o : XOp) : Bool :=
  if o.op = 0 then decide (o.low ≠ 0)
  else decide (o.op > 3 ∨ o.low ≠ 0) || (decide (o.op = 1 ∧ mfmtOf mode = 3) && decide (o.r % 2 = 1))

/-! Register names: Xi is i, Vi 100 + i, Ki 200 + i, row r of MAk 300 + 64 k + r, WBb 500 + b, Ww 510 + w, ACNTc 530 + c. -/
/-- The name of Xn; X0 has none. -/
def xName (n : Nat) : List Nat := if n = 0 then [] else [n]
/-- The name of Kn; K0 has none. -/
def kName (n : Nat) : List Nat := if n = 0 then [] else [200 + n]
/-- Destinations of the control slot. -/
def destC (c : COp) : List Nat :=
  if c.op = cALU ∨ c.op = cADDI ∨ c.op = cORI ∨ c.op = cLUI ∨ c.op = cJR ∨ c.op = cBAL ∨ c.op = cCSRR then xName c.xd
  else if c.op = cACLR then ((List.range 8).filter (bitN c.imm ·)).map (530 + ·)
  else []
/-- Sources of the control slot. -/
def srcC (c : COp) : List Nat :=
  if c.op = cALU then xName c.xa ++ xName c.xb
  else if c.op = cBR then (if c.fn = 15 then [] else xName c.xa ++ xName c.xb)
  else if c.op = cADDI ∨ c.op = cORI ∨ c.op = cJR ∨ c.op = cCSRW then xName c.xa
  else if c.op = cLOOP then (if c.src then xName c.xb else [])
  else if c.op = cSETMODE then (if c.src then xName c.xa else [])
  else if c.op = cWAITA then [530 + c.fn]
  else if c.op = cCSRR ∧ 0x10 ≤ c.imm ∧ c.imm ≤ 0x17 then [530 + (c.imm - 0x10)]
  else []
/-- Latency of the control slot (R262). -/
def latC (c : COp) : Nat := if c.op = cALU ∧ c.fn = 10 then 3 else 1
/-- Destinations of the move slot. -/
def destM (m : MOp) : List Nat :=
  match m.op with
  | 0x01 | 0x09 => xName m.rd
  | 0x03 | 0x07 | 0x08 | 0x0A => [100 + m.rd]
  | 0x05 | 0x06 => [500 + m.rd / 16]
  | _ => []
/-- Sources of the move slot. -/
def srcM (m : MOp) : List Nat :=
  match m.op with
  | 0x01 | 0x03 | 0x05 | 0x06 | 0x08 | 0x0F => xName m.xa
  | 0x02 | 0x0D | 0x0E => xName m.xa ++ xName m.xb
  | 0x04 => xName m.xa ++ [100 + m.rd]
  | 0x07 => [300 + m.imm % 128]
  | 0x09 => [100 + m.xa]
  | 0x0A => xName m.xa ++ [100 + m.rd]
  | 0x0B => xName m.xa ++ xName m.xb ++ [100 + m.rd]
  | _ => []
/-- Latency of the move slot (R264). -/
def latM (m : MOp) : Nat :=
  match m.op with
  | 0x01 | 0x03 | 0x05 | 0x06 => 3
  | 0x07 | 0x09 => 2
  | _ => 1
/-- Destinations of the vector slot. -/
def destV (v : VOp) : List Nat :=
  match v.op with
  | 0x00 => []
  | 0x09 => kName (v.vd % 8)
  | 0x0D | 0x0E | 0x10 => [510 + v.vd % 4]
  | _ => [100 + v.vd]
/-- Sources of the vector slot. -/
def srcV (v : VOp) : List Nat :=
  match v.op with
  | 0x00 => []
  | 0x04 => kName v.km ++ [100 + v.vd, 100 + v.va, 100 + v.vb]
  | 0x08 => kName v.km ++ (if v.fn % 2 = 1 then [100 + v.va] else [100 + v.va, 100 + v.vb])
  | 0x0B => kName v.km ++ [100 + v.va]
  | 0x0D => kName v.km ++ [510 + v.vd % 4, 100 + v.va]
  | 0x0E => [510 + v.vd % 4]
  | 0x0F => kName v.km ++ [510 + v.va % 4]
  | 0x10 => kName v.km
  | _ => kName v.km ++ [100 + v.va, 100 + v.vb]
/-- Latency of the vector slot (R273, R341). -/
def latV (v : VOp) : Nat :=
  let f := v.t = 1
  match v.op with
  | 0x01 | 0x02 => if f then 3 else 1
  | 0x03 | 0x0B | 0x0F => 3
  | 0x04 => 4
  | 0x05 | 0x06 | 0x09 => if f then 2 else 1
  | 0x0C => 2
  | 0x0D => if f then 3 else 2
  | 0x0E => 6
  | _ => 1
/-- Destinations of the matrix slot under a MODE. -/
def destX (mode : Nat) (o : XOp) : List Nat :=
  match o.op with
  | 1 => if mfmtOf mode = 3 then [300 + 64 * o.k + o.r, 301 + 64 * o.k + o.r] else [300 + 64 * o.k + o.r]
  | 2 => (List.range 64).map (300 + 64 * o.k + ·)
  | 3 => [300 + 64 * o.k + o.r]
  | _ => []
/-- Sources of the matrix slot. -/
def srcX (o : XOp) : List Nat :=
  if o.op = 1 then (100 + o.vs) :: (500 + o.b) :: xName o.xs else []
/-- Latency of the matrix slot (R275). -/
def latX (o : XOp) : Nat := if o.op = 1 then 8 else 1
/-- Two slots name the same destination (R251); X0 has no name. -/
def destConflict (mode : Nat) (b : Slots) : Bool :=
  let c := destC b.c
  let m := destM b.m
  let v := destV b.v
  let x := destX mode b.x
  m.any (c.contains ·) || v.any ((c ++ m).contains ·) || x.any ((c ++ m ++ v).contains ·)

/-! Move-slot addresses (R264, R265). -/
/-- The scale of the operation's immediate, its size in bytes and its alignment; `none` when it reaches no tile memory. -/
def accessOf (m : MOp) : Option (Nat × Nat × Nat) :=
  match m.op with
  | 0x01 | 0x02 => some (4, 4, 4)
  | 0x03 | 0x04 | 0x05 => some (64, 256, 64)
  | 0x06 => some (64, 128, 64)
  | 0x0D => some (0, 64, 64)
  | _ => none
/-- The byte address a move slot names: XA + IMM11 scaled, XA for NMEQ, XB for NSEND (R298). The sum wraps modulo 2^32 before R265 judges it:
DESIGN CHOICE, for the rule does not say (Assumption 75). -/
def moveAddr (x : Tile) (m : MOp) : Nat :=
  if m.op = 0x0B then rdX x m.xb
  else match accessOf m with
    | some (sc, _, _) => ux 32 ((rdX x m.xa : Int) + sx 11 m.imm * (sc : Int))
    | none => 0
/-- The move-slot access breaks R265. -/
def badAddr (x : Tile) (m : MOp) : Bool :=
  let a := moveAddr x m
  if m.op = 0x0B then decide (a % 64 ≠ 0 ∨ a + 256 > 524288)
  else match accessOf m with
    | some (_, n, al) => decide (a % al ≠ 0 ∨ a + n > 524288)
    | none => false
/-- The access writes tile memory. -/
def isStore (m : MOp) : Bool := decide (m.op = 0x02 ∨ m.op = 0x04)
/-- The access reads tile memory. -/
def isLoad (m : MOp) : Bool := (accessOf m).isSome && !isStore m

end Sys2Proof.Machine
end

