-- ==== Sys2Proof/Machine/Slots.lean ====
section
/-! DEFINITION. What each slot of an issuing bundle writes in its tile (R262, R264, R273 to R278, R327 to R343). -/
namespace Sys2Proof.Machine

/-- ALU by FN (R262); the scalar unit wraps. -/
def aluRes (fn a b : Nat) : Nat :=
  match fn with
  | 0 => (a + b) % 2 ^ 32
  | 1 => (a + 2 ^ 32 - b) % 2 ^ 32
  | 2 => a &&& b
  | 3 => a ||| b
  | 4 => a ^^^ b
  | 5 => (a <<< (b % 32)) % 2 ^ 32
  | 6 => a >>> (b % 32)
  | 7 => ux 32 (sx 32 a / ((2 ^ (b % 32) : Nat) : Int))
  | 8 => b2n (decide (sx 32 a < sx 32 b))
  | 9 => b2n (decide (a < b))
  | _ => (a * b) % 2 ^ 32
/-- The condition of BR by COND (R262). -/
def brTaken (cond a b : Nat) : Bool :=
  match cond with
  | 0 => decide (a = b)
  | 1 => decide (a ≠ b)
  | 2 => decide (sx 32 a < sx 32 b)
  | 3 => decide (sx 32 a ≥ sx 32 b)
  | 4 => decide (a < b)
  | 5 => decide (a ≥ b)
  | _ => true
/-- The offset of the present tc in the pass, FTC [15:0] while no epoch runs (R119, R120, R263). -/
def nowOffset (c : Ctl) : Nat := if c.time.epoch then (passOf c).2 % 2 ^ 16 else c.time.ftc % 2 ^ 16
/-- What CSRR reads (R263). -/
def csrVal (c : Ctl) (t : Nat) (x : Tile) (idx : Nat) : Nat :=
  match idx with
  | 0 => x.mode
  | 1 => x.sticky
  | 2 => passNo c % 2 ^ 32
  | 3 => passNo c / 2 ^ 32
  | 4 => nowOffset c
  | 5 => tileOwner c t % 32 * 2 ^ 16 + t
  | 6 => plezorId c
  | 7 => x.l0.count
  | 8 => x.l1.count
  | _ => rdAcnt x (idx - 0x10)

/-- The registers the control slot writes: `x` before the bundle, `y` so far (R262). A counter that an arrival reaches in the tc of an
ACLR reads 1 after it (R308). -/
def writesC (c : Ctl) (t : Nat) (o : COp) (x y : Tile) : Tile :=
  if o.op = cALU then wrX y o.xd (aluRes o.fn (rdX x o.xa) (rdX x o.xb))
  else if o.op = cADDI then wrX y o.xd (ux 32 ((rdX x o.xa : Int) + sx 16 o.imm))
  else if o.op = cORI then wrX y o.xd (rdX x o.xa ||| o.imm % 2 ^ 16)
  else if o.op = cLUI then wrX y o.xd (o.imm % 2 ^ 16 * 2 ^ 16)
  else if o.op = cJR ∨ o.op = cBAL then wrX y o.xd ((x.pc + 2) % 4096)
  else if o.op = cCSRR then wrX y o.xd (csrVal c t x o.imm)
  else if o.op = cCSRW then { y with sticky := stickyMask (rdX x o.xa) }
  else if o.op = cACLR then
    foldUp 8 (fun (y : Tile) i =>
      if bitN o.imm i then
        { y with acnt := smSet y.acnt 0 i (b2n (decide (x.arrAt = c.time.ftc + 1) && bitN x.arrMask i)) } else y) y
  else y

/-- Tile memory is kept at tile × 2^19 + address. -/
def tmAt (t a : Nat) : Nat := t * 524288 + a
/-- The registers the move slot writes (R264). -/
def writesM (m : Mem) (t : Nat) (o : MOp) (x y : Tile) : Tile :=
  let a := tmAt t (moveAddr x o)
  match o.op with
  | 0x01 => wrX y o.rd (readLe m.tm a 4)
  | 0x03 => wrV y o.rd (BitVec.ofNat 2048 (readLe m.tm a 256))
  | 0x05 => { y with wb := writeBytes y.wb (4224 * (o.rd / 16) + 256 * (o.rd % 16)) (readBytes m.tm a 256) }
  | 0x06 => { y with wb := writeBytes y.wb (4224 * (o.rd / 16) + 4096) (readBytes m.tm a 128) }
  | 0x07 => wrV y o.rd (rdMA x (bits o.imm 6 6) (bits o.imm 5 0))
  | 0x08 => wrV y o.rd (vecOf (fun _ => rdX x o.xa))
  | 0x09 => wrX y o.rd (lane (rdV x o.xa) (o.imm % 64))
  | 0x0A => wrV y o.rd (vecOf (fun i => if i = o.imm % 64 then rdX x o.xa else lane (rdV x o.rd) i))
  | _ => y
/-- The bytes the move slot stores, if it stores (R264). -/
def storeBytes (o : MOp) (x : Tile) : Bytes :=
  match o.op with
  | 0x02 => leBytes 4 (rdX x o.xb)
  | 0x04 => vecBytes (rdV x o.rd)
  | _ => []

/-- One lane of the vector operations that write VD lane by lane: the value and its flags (R273, R327 to R330, R342). `d` is the
old lane, `a` and `b` the operand lanes. -/
def vecLane (o : VOp) (mode draw : Nat) (sel : Bool) (w : BitVec 256 × Nat) (d a b : Nat) : Nat × Nat :=
  let rnd := rndOf mode
  let sat := satOf mode
  match o.op with
  | 0x01 => if o.t = 0 then toInt32 sat (sx 32 a + sx 32 b) else fpAdd rnd draw (fp32 a) (fp32 b)
  | 0x02 => if o.t = 0 then toInt32 sat (sx 32 a - sx 32 b) else fpAdd rnd draw (fp32 a) (fpNeg (fp32 b))
  | 0x03 => if o.t = 0 then toInt32 sat (sx 32 a * sx 32 b) else fpMul rnd draw (fp32 a) (fp32 b)
  | 0x04 => if o.t = 0 then toInt32 sat (sx 32 d + sx 32 a * sx 32 b) else fpFma rnd draw (fp32 a) (fp32 b) (fp32 d)
  | 0x05 => if o.t = 0 then ((if sx 32 a < sx 32 b then a else b), 0) else fpMinMax false a b
  | 0x06 => if o.t = 0 then ((if sx 32 a < sx 32 b then b else a), 0) else fpMinMax true a b
  | 0x07 => ((match o.fn with | 0 => a &&& b | 1 => a ||| b | 2 => a ^^^ b | _ => a ^^^ (a &&& b)), 0)
  | 0x08 =>
    let n := if o.fn % 2 = 1 then o.vb else b % 32
    ((match bits o.fn 2 1 with
      | 0 => (a <<< n) % 2 ^ 32
      | 1 => a >>> n
      | _ => ux 32 (sx 32 a / ((2 ^ n : Nat) : Int))), 0)
  | 0x0A => ((if sel then a else b), 0)
  | 0x0B => (vcvtLane o.fn rnd sat draw a).getD (d, 0)
  | 0x0F => (wrdLane o.t o.fn rnd sat draw w.1 w.2).getD (d, 0)
  | _ => (d, 0)

/-- VCMP in one lane (R273, R328). -/
def cmpLane (o : VOp) (a b : Nat) : Bool × Nat :=
  if o.t = 0 then (cmpInt o.fn (sx 32 a) (sx 32 b), 0) else fpCmp o.fn a b

/-- The flags of the selected lanes, together. -/
def orFlags (sel : Nat → Bool) (f : Nat → Nat) : Nat :=
  (List.range 64).foldl (fun g i => if sel i then g ||| f i else g) 0

/-- Adds vector flags to STICKY (R336). -/
def addVFlags (x : Tile) (f : Nat) : Tile := { x with sticky := x.sticky ||| stickyMask (f % 512) }
/-- Adds matrix flags to STICKY (R336). -/
def addMFlags (x : Tile) (f : Nat) : Tile := { x with sticky := x.sticky ||| stickyMask ((f % 512) <<< 16) }

/-- The registers the vector slot writes and the flags it raises; `key` is the pass key and `n` the issue index of a draw
(R273, R322 to R324, R338 to R343). -/
def writesV (mode key n : Nat) (o : VOp) (x y : Tile) : Tile :=
  let k := rdK x o.km
  let sel (i : Nat) : Bool := bitN k i
  let draw (i : Nat) : Nat := if rndOf mode = 4 then drawOf key n 0 0 i else 0
  let va := rdV x o.va
  let vb := rdV x o.vb
  let vd := rdV x o.vd
  let w := o.vd % 4
  match o.op with
  | 0x00 => y
  | 0x09 =>
    let r (i : Nat) := cmpLane o (lane va i) (lane vb i)
    let old := rdK x (o.vd % 8)
    let new := (List.range 64).foldl (fun a i => a + (b2n (if sel i then (r i).1 else bitN old i)) <<< i) 0
    addVFlags (wrK y (o.vd % 8) new) (orFlags sel (fun i => (r i).2))
  | 0x0A => wrV y o.vd (vecOf (fun i => if sel i then lane va i else lane vb i))
  | 0x0C => wrV y o.vd (vecOf (fun i => if sel i then lane va (lane vb i % 64) else lane vd i))
  | 0x0D =>
    foldUp 64 (fun (y : Tile) i =>
      if sel i then
        let (a, st) := rdW x w i
        match waccLane o.t o.fn a st (lane va i) with
        | some (r, s, f) => addVFlags (wrW y w i r s) f
        | none => y
      else y) y
  | 0x0E =>
    let sum := (List.range 64).foldl (fun (s : Int) i => s + wInt (rdW x w i).1) 0
    let st := (List.range 64).foldl (fun s i => s ||| (rdW x w i).2) 0
    let (r, f) := wPut sum
    let y := foldUp 64 (fun y i => wrW y w i 0 0) y
    addVFlags (wrW y w 0 r st) f
  | 0x10 => foldUp 64 (fun y i => if sel i then wrW y w i 0 0 else y) y
  | 0x0B =>
    if o.fn = 8 then
      let pk (i : Nat) : Nat :=
        if i < 16 then
          lane va (4 * i) % 256 + lane va (4 * i + 1) % 256 * 2 ^ 8 + lane va (4 * i + 2) % 256 * 2 ^ 16 +
            lane va (4 * i + 3) % 256 * 2 ^ 24
        else 0
      wrV y o.vd (vecOf (fun i => if sel i then pk i else lane vd i))
    else
      let r (i : Nat) := vecLane o mode (draw i) (sel i) (0, 0) (lane vd i) (lane va i) 0
      addVFlags (wrV y o.vd (vecOf (fun i => if sel i then (r i).1 else lane vd i))) (orFlags sel (fun i => (r i).2))
  | _ =>
    let r (i : Nat) := vecLane o mode (draw i) (sel i) (rdW x (o.va % 4) i) (lane vd i) (lane va i) (lane vb i)
    addVFlags (wrV y o.vd (vecOf (fun i => if sel i then (r i).1 else lane vd i))) (orFlags sel (fun i => (r i).2))

/-- Byte `i` of weight buffer `b`: 4,096 element bytes and then 128 scale bytes (R249, R265). -/
def wbByte (x : Tile) (b i : Nat) : Nat := (smGet x.wb 0 (4224 * b + i)).toNat
/-- One row of an MMA: the accumulator row `old` plus the activations times the weights, column by column (R276, R277, R331). -/
def mmaRow (mode key n sub : Nat) (x : Tile) (o : XOp) (acts : List MxEl) (ea : Nat → Nat) (old : VecReg) : VecReg × Nat :=
  let mf := mfmtOf mode
  let col (j : Nat) : Nat × Nat :=
    let wts := (List.range 64).map (fun k =>
      if mf = 3 then mxEl 3 (if j % 2 = 0 then wbByte x o.b (32 * k + j / 2) % 16 else wbByte x o.b (32 * k + j / 2) / 16)
      else mxEl mf (wbByte x o.b (64 * k + j)))
    let d := if rndOf mode = 4 then drawOf key n 1 sub j else 0
    mmaEl mf (rndOf mode) (satOf mode) d (lane old j) acts wts ea (fun h => wbByte x o.b (4096 + 2 * j + h))
  let rs := (List.range 64).map col
  (BitVec.ofNat 2048 (packLanes (rs.map (·.1))), rs.foldl (fun f r => f ||| r.2) 0)
/-- The registers the matrix slot writes and its flags (R275 to R278, R331 to R335). -/
def writesX (mode key n : Nat) (o : XOp) (x y : Tile) : Tile :=
  match o.op with
  | 1 =>
    let v := rdV x o.vs
    let byte (i : Nat) : Nat := vbyte v (64 * o.q + i)
    let sc := rdX x o.xs
    if mfmtOf mode = 3 then
      let nib (h i : Nat) : MxEl :=
        mxEl 3 (if i % 2 = 0 then byte (32 * h + i / 2) % 16 else byte (32 * h + i / 2) / 16)
      let ea (h i : Nat) : Nat := bits sc (16 * h + 8 * i + 7) (16 * h + 8 * i)
      let (r0, f0) := mmaRow mode key n 0 x o ((List.range 64).map (nib 0)) (ea 0) (rdMA x o.k o.r)
      let (r1, f1) := mmaRow mode key n 1 x o ((List.range 64).map (nib 1)) (ea 1) (rdMA x o.k (o.r + 1))
      addMFlags (wrMA (wrMA y o.k o.r r0) o.k (o.r + 1) r1) (f0 ||| f1)
    else
      let acts := (List.range 64).map (fun i => mxEl (mfmtOf mode) (byte i))
      let (r, f) := mmaRow mode key n 0 x o acts (fun h => bits sc (8 * h + 7) (8 * h)) (rdMA x o.k o.r)
      addMFlags (wrMA y o.k o.r r) f
  | 2 => foldUp 64 (fun y i => wrMA y o.k i 0) y
  | 3 => wrMA y o.k o.r 0
  | _ => y

/-! Sequencing (R279 to R292). -/
/-- The loop rule at the issue of bundle `a`: the two levels after it and the next bundle (R283, R285). -/
def loopStep (l0 l1 : LoopSt) (a : Nat) : LoopSt × LoopSt × Nat :=
  let outer (l1 : LoopSt) : LoopSt × LoopSt × Nat :=
    if l0.active ∧ l0.last = a then
      if l0.count > 1 then ({ l0 with count := l0.count - 1 }, l1, l0.start)
      else ({ l0 with active := false, count := 0 }, l1, (a + 1) % 4096)
    else (l0, l1, (a + 1) % 4096)
  if l1.active ∧ l1.last = a then
    if l1.count > 1 then (l0, { l1 with count := l1.count - 1 }, l1.start)
    else outer { l1 with active := false, count := 0 }
  else outer l1
/-- A taken branch to `tgt` ends an active loop whose body it leaves (R287). -/
def leaveLoop (l : LoopSt) (tgt : Nat) : LoopSt :=
  if l.active ∧ ¬ (l.start ≤ tgt ∧ tgt ≤ l.last) then { l with active := false, count := 0 } else l
/-- The count of a LOOP (R261). -/
def loopCount (x : Tile) (o : COp) : Nat := if o.src then rdX x o.xb % 2 ^ 16 else o.cnt
/-- The target of BR, JR or BAL, if it is taken (R262). -/
def branchTgt (x : Tile) (o : COp) : Option Nat :=
  if o.op = cBR then (if brTaken o.fn (rdX x o.xa) (rdX x o.xb) then some o.imm else none)
  else if o.op = cJR then some (rdX x o.xa % 4096)
  else some o.imm
/-- The slot branches (R279). -/
def isBranch (o : COp) : Bool := decide (o.op = cBR ∨ o.op = cJR ∨ o.op = cBAL)
/-- Both held bundles are discarded at this issue (R295). -/
def discards (o : COp) (x : Tile) : Bool :=
  (x.delay.isSome && x.delayTaken) || decide (o.op = cWAITP) || (decide (o.op = cLOOP) && decide (loopCount x o = 0))
/-- The sequencer after the issue: `x` before it, `y` with its registers written; `ftc` the tc of the issue. -/
def sequence (ftc : Nat) (o : COp) (x y : Tile) : Tile :=
  let y := { y with issued := x.issued + 1, judged := 0, pastBreak := false,
                    mode := x.modeNext.getD x.mode,
                    modeNext := if o.op = cSETMODE then some (setModeVal x o) else none }
  match x.delay with
  | some tgt =>
    let y := { y with pc := tgt, delay := none, delayTaken := false, delayJr := false }
    if x.delayTaken then
      { y with l0 := leaveLoop x.l0 tgt, l1 := leaveLoop x.l1 tgt, bubble := if x.delayJr then ftc + 2 else y.bubble }
    else y
  | none =>
    if isBranch o then
      match branchTgt x o with
      | some t => { y with pc := (x.pc + 1) % 4096, delay := some t, delayTaken := true, delayJr := decide (o.op = cJR) }
      | none => { y with pc := (x.pc + 1) % 4096, delay := some ((x.pc + 2) % 4096), delayTaken := false, delayJr := false }
    else if o.op = cLOOP then
      let n := loopCount x o
      if n = 0 then { y with pc := (o.imm + 1) % 4096, bubble := ftc + 2 }
      else
        let l : LoopSt := { active := true, start := (x.pc + 1) % 4096, last := o.imm, count := n }
        if o.fn = 0 then { y with pc := (x.pc + 1) % 4096, l0 := l } else { y with pc := (x.pc + 1) % 4096, l1 := l }
    else if o.op = cWAITP then
      { y with pc := o.imm, waitTgt := o.imm, run := .ending, bubble := ftc + 1,
               l0 := { x.l0 with active := false, count := 0 }, l1 := { x.l1 with active := false, count := 0 } }
    else
      let (l0, l1, nxt) := loopStep x.l0 x.l1 x.pc
      { y with pc := nxt, l0 := l0, l1 := l1 }

end Sys2Proof.Machine
end

