-- ==== Sys2Proof/Machine/Tiles.lean ====
section
/-! DEFINITION. The tile sequencer: tile memory with its ECC, exceptions, stalls, the issue of a bundle, and the resume from a
recorded state (R248 to R314). -/
namespace Sys2Proof.Machine

/-- Control state and memories together. -/
abbrev CM := Ctl × Mem

/-! Tile memory (R255 to R257). -/
/-- The 64-bit words that `n` bytes from address `a` touch. -/
def wordsOf (a n : Nat) : List Nat := if n = 0 then [] else (List.range ((a + n - 1) / 8 + 1 - a / 8)).map (a / 8 + ·)
/-- A word of tile memory in the marks: tile × 2^16 + word. -/
def wordAt (t w : Nat) : Nat := t * 65536 + w
/-- Counts a correction, but for a tile that is halted or in its end-of-pass wait (R303), and raises the tile's one CORR event of the
pass (R255, R258). -/
def eccFix (c : Ctl) (t detail : Nat) : Ctl :=
  let c := if (tile c t).halted ∨ (tile c t).run = .waiting then c else cnt1 c (tlCnt t 5)
  if (tile c t).corrEv then c
  else raise (updTile c t (fun x => { x with corrEv := true })) 0x21C1 (tileOwner c t) (unitOf c 0 t) detail
/-- The lowest uncorrectable word a read of `n` bytes finds, as a byte address (R255, R298). -/
def eccBad (m : Mem) (t a n : Nat) : Option Nat :=
  ((wordsOf a n).find? (fun w => smGet m.badWord false (wordAt t w))).map (8 * ·)
/-- A read corrects the single-bit errors it finds (R255). -/
def eccRead (cm : CM) (t a n : Nat) : CM :=
  (wordsOf a n).foldl (fun (cm : CM) w =>
    if smGet cm.2.weakWord false (wordAt t w) then
      (eccFix cm.1 t (8 * w % 2 ^ 19), { cm.2 with weakWord := smSet cm.2.weakWord false (wordAt t w) false })
    else cm) cm
/-- What a write of `n` bytes leaves of the codes: a whole word is replaced, a part corrects a single-bit error and keeps an
uncorrectable code (R256). The correction in the merge is counted and reported as one in a read is: DEDUCED, the merge reads the word
(Assumption 60). -/
def eccWrite (cm : CM) (t a n : Nat) : CM :=
  (wordsOf a n).foldl (fun (cm : CM) w =>
    let full := decide (a ≤ 8 * w ∧ 8 * w + 8 ≤ a + n)
    (if !full && smGet cm.2.weakWord false (wordAt t w) then eccFix cm.1 t (8 * w % 2 ^ 19) else cm.1,
     { cm.2 with weakWord := smSet cm.2.weakWord false (wordAt t w) false,
                 badWord := if full then smSet cm.2.badWord false (wordAt t w) false else cm.2.badWord })) cm
/-- A write into tile memory. -/
def tmWrite (cm : CM) (t a : Nat) (bs : Bytes) : CM :=
  if bs.isEmpty then cm else eccWrite (cm.1, { cm.2 with tm := writeBytes cm.2.tm (tmAt t a) bs }) t a bs.length
/-- The receive port is used in the present tc, in the bank of address `a` (R257, R1172); a dump that runs learns of a write (R1023). -/
def rxUse (c : Ctl) (t a : Nat) (write : Bool) : Ctl :=
  updTile c t (fun x =>
    { x with rxUsed := (c.time.ftc :: x.rxUsed).take 64, rxBank := a / 64 % 16,
             touched := x.touched || (write && c.dump.running.isSome) })
/-- The tile takes a write: it has an owner and is not being cleared (R185, R248). -/
def tileTakes (c : Ctl) (t : Nat) : Bool := decide (tileOwner c t < 32) && !clearing c t
/-- A write through the receive port: a FREE tile takes none (R248, R257). -/
def rxWrite (cm : CM) (t a : Nat) (bs : Bytes) : CM :=
  if tileTakes cm.1 t then tmWrite (rxUse cm.1 t a true, cm.2) t a bs else cm
/-- An arrival at a tile's counter (R268, R432). -/
def rxArrive (c : Ctl) (t ch : Nat) : Ctl := if tileTakes c t then updTile c t (fun x => arrive c.time.ftc x ch) else c

/-! The fetch unit (R258, R294 to R296). -/
/-- Fetches a bundle: a correctable error is corrected in the instruction RAM and counted (R258). -/
def fetch (cm : CM) (t a : Nat) : CM × Fetched :=
  let k := t * 4096 + a % 4096
  let f : Fetched := { addr := a % 4096, word := readLe cm.2.im (t * 65536 + 16 * (a % 4096)) 16, bad := smGet cm.2.badBundle false k }
  if smGet cm.2.weakBundle false k then
    ((eccFix cm.1 t (16 * (a % 4096) + 2 ^ 31), { cm.2 with weakBundle := smSet cm.2.weakBundle false k false }), f)
  else (cm, f)
/-- The bundle at an address: the one held, or one fetched afresh (R294, R296). -/
def fetched (cm : CM) (t a : Nat) : CM × Fetched :=
  match (tile cm.1 t).held.find? (fun f => decide (f.addr = a % 4096)) with
  | some f => (cm, f)
  | none => fetch cm t a
/-- The two bundles that follow the one of a control slot `o` in execution order, when no branch is taken and every active loop takes the
path of its count: `x` the tile before the issue, `y` after it (R294). -/
def following (o : COp) (x y : Tile) : Nat × Nat :=
  if o.op = cLOOP then
    let a := (x.pc + 1) % 4096
    (a, if loopCount x o = 0 then (a + 1) % 4096 else (loopStep y.l0 y.l1 a).2.2)
  else
    let (l0, l1, a) := loopStep x.l0 x.l1 x.pc
    (a, (loopStep l0 l1 a).2.2)
/-- After an issue the fetch unit holds the two bundles that follow (R294); those that a taken branch's delay bundle, a LOOP of count 0 or a
WAITP discards have been fetched too (R258, R295). `x` is the tile before the issue. -/
def holdNext (cm : CM) (t : Nat) (o : COp) (x : Tile) : CM :=
  let (a, b) := following o x (tile cm.1 t)
  let (cm, f) := fetched cm t a
  let (cm, g) := fetched cm t b
  (updTile cm.1 t (fun y => { y with held := if discards o x then [] else [f, g] }), cm.2)

/-! Breakpoints and watchpoints (R958, R959). -/
/-- Breakpoint `k` stands at bundle `a` and is enabled. -/
def bpHit (c : Ctl) (t k a : Nat) : Bool := let w := rd c (dbtBp t k); bitN w 31 && decide (bits w 11 0 = a)
/-- Breakpoint `k` acts: its SKIP matches are past. -/
def bpActs (c : Ctl) (t k a : Nat) : Bool :=
  bpHit c t k a && decide (rd c (dbtHits t k) ≥ bits (rd c (dbtBp t k)) 27 12)
/-- Some byte of the access satisfies the masked comparison over [18:0]. -/
def wpRange (a n base mask : Nat) : Bool :=
  (List.range n).any (fun i => (a + i) % 2 ^ 19 &&& mask = base &&& mask)
/-- Watchpoint `k` matches the move slot's access. -/
def wpHit (c : Ctl) (t k : Nat) (x : Tile) (o : MOp) : Bool :=
  let w := rd c (dbtWp t k)
  bitN w 31 && !badAddr x o && ((bitN w 28 && isLoad o) || (bitN w 27 && isStore o)) &&
    (match accessOf o with
     | some (_, n, _) => wpRange (moveAddr x o) n (bits w 18 0) (fld c (dbtWpMask t k) 18 0)
     | none => false)
/-- Counts, fires and traces the matches of a bundle, once (R958, R959, R961). -/
def noteMatches (c : Ctl) (t : Nat) (b : Slots) : Ctl :=
  let x := tile c t
  let p := tileOwner c t
  let c := foldUp 4 (fun c k =>
    if bpHit c t k x.pc then
      let acts := bpActs c t k x.pc
      let c := if acts ∧ rbit c (dbtBp t k) 29 then fireSrc c (srcPmatch p) else c
      let c := if acts then traceTile c t 0x0B k else c
      cnt1 c (dbtHits t k)
    else c) c
  foldUp 2 (fun c k =>
    if wpHit c t k x b.m then
      traceTile (if rbit c (dbtWp t k) 29 then fireSrc c (srcPmatch p) else c) t 0x0B (4 + k)
    else c) c
/-- A breakpoint with HALT acts on the next bundle, `hits` taken before this bundle is counted (R297, R958). -/
def breakNow (c : Ctl) (t : Nat) : Bool :=
  (List.range 4).any (fun k => bpActs c t k (tile c t).pc && rbit c (dbtBp t k) 30)
/-- A watchpoint with HALT matches (R297, R959). -/
def watchNow (c : Ctl) (t : Nat) (o : MOp) : Bool :=
  (List.range 2).any (fun k => wpHit c t k (tile c t) o && rbit c (dbtWp t k) 30)

/-! Exceptions (R297). -/
/-- LOOP breaks R282. -/
def badLoop (x : Tile) (o : COp) : Bool :=
  decide (o.op = cLOOP) &&
    (decide (o.imm < x.pc + 1) ||
     (if o.fn = 0 then x.l0.active || x.l1.active else !x.l0.active || x.l1.active || decide (o.imm > x.l0.last)))
/-- A branch or WAITP at LEND or LEND − 1 of an active loop (R286). -/
def badLoopEnd (x : Tile) (o : COp) : Bool :=
  let at1 (l : LoopSt) : Bool := l.active && decide (x.pc = l.last ∨ x.pc + 1 = l.last)
  (isBranch o || decide (o.op = cWAITP)) && (at1 x.l0 || at1 x.l1)
/-- The first illegal slot: 0 the whole bundle, then 1 to 4 (R251, R297). -/
def illegalSlot (x : Tile) (b : Slots) : Option Nat :=
  if destConflict x.mode b then some 0
  else if illegalC x b.c then some 1
  else if illegalM x b.m then some 2
  else if illegalV b.v then some 3
  else if illegalX x.mode b.x then some 4
  else none
/-- The cause found in a bundle before it issues, TM_ECC excepted: ECAUSE, ESLOT and EADDR (R297, R298). `brk` tells that BREAK
is taken; `bad` that the bundle's own code is uncorrectable; `step` a free step, in which BREAK and WATCH are not taken (R957). -/
def causeOf (c : Ctl) (bad : Bool) (t : Nat) (b : Slots) (brk step : Bool) : Option (Nat × Nat × Nat) :=
  let x := tile c t
  if brk then some (0x0E, 0, 0)
  else if bad then some (0x09, 0, 0)
  else match illegalSlot x b with
    | some s => some (0x01, s, 0)
    | none =>
      if x.delay.isSome && (isBranch b.c || decide (b.c.op = cLOOP ∨ b.c.op = cWAITP)) then some (0x02, 1, 0)
      else if badLoop x b.c || badLoopEnd x b.c then some (0x03, 1, 0)
      else if b.c.op = cTRAP then some (0x07, 1, b.c.imm)
      else if badAddr x b.m then some (0x04, 2, moveAddr x b.m)
      else if b.m.op = 0x0B ∧ tileOwner c (rdX x b.m.xa % 1024) ≠ tileOwner c t then some (0x05, 2, rdX x b.m.xa)
      else if b.m.op = 0x0F ∧ grantFlag c (tileOwner c t) 1 = false then some (0x06, 2, 0)
      else if !step && watchNow c t b.m then some (0x0F, 2, moveAddr x b.m)
      else none
/-- TM_ECC: the read of the move slot finds an uncorrectable word (R255, R260, R298). -/
def eccCause (c : Ctl) (m : Mem) (t : Nat) (b : Slots) : Option (Nat × Nat × Nat) :=
  let x := tile c t
  if isLoad b.m then
    match accessOf b.m with
    | some (_, n, _) => (eccBad m t (moveAddr x b.m) n).map (fun a => (0x08, 2, a))
    | none => none
  else none
/-- The tile takes an exception: its state is recorded, BREAK and WATCH give a debug halt of the partition and the other causes
its error halt 4 tc later; the other tiles of the partition stop after the bundle of this tc (R297, R214, R946). A command that is one
issue has the halt at once: it stands for its tc and the 4 that follow (Assumption 1). -/
def takeException (c : Ctl) (t : Nat) (cause slot eaddr : Nat) (timed : Bool) : Ctl :=
  let c := haltTile c t cause slot eaddr
  let p := tileOwner c t
  if cause = 0x0E ∨ cause = 0x0F then (if timed then updPart c p (fun q => { q with brkDue := true }) else debugHalt c p)
  else if timed then
    updPart c p (fun q => if q.haltDue.isSome then q else
      { q with haltDue := some { at_ := c.time.ftc + 4, cause := 1, tile := some t, ts := stamp c } })
  else errorHalt c p 0x01 (some t) (stamp c)

/-! Stalls (R252, R257, R260, R262, R266, R270). -/
/-- Operands or destinations of the bundle are pending (R252); an operation that is not listed has none (R260). -/
def stallDep (c : Ctl) (t : Nat) (b : Slots) : Bool :=
  let x := tile c t
  let vec := if b.v.op > 0x10 then [] else srcV b.v ++ destV b.v
  let names := srcC b.c ++ destC b.c ++ srcM b.m ++ destM b.m ++ vec ++ srcX b.x ++ destX x.mode b.x
  x.score.any (fun e => decide (e.2 > c.time.ftc) && names.contains e.1)
/-- The receive port uses a bank of the move-slot access in this tc (R257). -/
def stallBank (c : Ctl) (t : Nat) (b : Slots) : Bool :=
  let x := tile c t
  match accessOf b.m with
  | some (_, n, _) =>
    decide (x.rxUsed.head? = some c.time.ftc) &&
      (List.range (ceilDiv n 64)).any (fun i => decide ((moveAddr x b.m / 64 + i) % 16 = x.rxBank))
  | none => false
/-- WAITA, WAITT, send-queue space or NMEQ credit is missing (R260, R303); a free step does not wait for WAITT (R957). -/
def stallWait (c : Ctl) (t : Nat) (b : Slots) (step : Bool) : Bool :=
  let x := tile c t
  (decide (b.c.op = cWAITA) && decide (rdAcnt x b.c.fn < b.c.imm)) ||
  (decide (b.c.op = cWAITT) && !step && decide (nowOffset c < b.c.imm)) ||
  (decide (b.m.op = 0x0B) && decide (x.sendq.length + 4 > 32)) ||
  (decide (b.m.op = 0x0D) && decide (x.nmeq ≥ 4))

/-! Issue (R251, R260, R262 to R292, R303). -/
/-- The key of the tile's draws: a tile resumed in a later pass draws as in its own (R323, R375, R376). -/
def tileKey (c : Ctl) (t : Nat) : Nat :=
  let n := if c.time.epoch ∧ (tile c t).run ≠ .idle then (tile c t).atPass else passNo c
  match partPlan c (tileOwner c t) with
  | some q => passKey q.seed n t
  | none => passKey 0 n t
/-- The tile after the bundle: every slot reads before any writes (R251). Flags are set when their result is written; a CSRW of
STICKY in that same tc is ORed with them (R336, R374). A command that is one issue has its results at once. -/
def issueTile (c : Ctl) (m : Mem) (t : Nat) (b : Slots) (timed : Bool) : Tile :=
  let x := settleFlags c.time.ftc (tile c t)
  let key := tileKey c t
  let y := writesC c t b.c x x
  let y := writesM m t b.m x y
  let s := y.sticky
  let y := writesV x.mode key x.issued b.v x { y with sticky := 0 }
  let v := y.sticky
  let y := writesX x.mode key x.issued b.x x { y with sticky := 0 }
  let y := if timed then { y with sticky := s, flagq := x.flagq ++
      [(c.time.ftc + latV b.v, v), (c.time.ftc + latX b.x, y.sticky)].filter (fun e => decide (e.2 ≠ 0)) }
    else { y with sticky := s ||| v ||| y.sticky }
  sequence c.time.ftc b.c x y
/-- The four flits of an NSEND (R266). -/
def nsendFlits (t : Nat) (x : Tile) (o : MOp) : List Flit :=
  let d := rdX x o.xa
  (List.range 4).map (fun i =>
    { src := t, dst := d % 1024, ch := bits d 12 10, addr := rdX x o.xb + 64 * i,
      data := BitVec.ofNat 512 (bits (rdV x o.rd).toNat (512 * i + 511) (512 * i)) })
/-- What the move slot sends out of the tile: NSEND, NMEQ, DECW, TRIMW (R266, R270 to R272, R961); a free step's DECW and TRIMW
have no effect (R957). TRIMW takes effect in the last pass too, while STATE is DRAINING, as R313 says: DESIGN CHOICE, for R213 gives the plan
trim port no new value while STATE is not ON (Assumption 68). -/
def sendsM (c : Ctl) (m : Mem) (t : Nat) (o : MOp) (x : Tile) (step : Bool) : Ctl :=
  let p := tileOwner c t
  match o.op with
  | 0x0B => updTile c t (fun y =>
      { y with sendq := y.sendq ++ nsendFlits t x o, phaseAt := if y.sendq.isEmpty then max y.phaseAt (c.time.ftc + 1) else y.phaseAt })
  | 0x0D =>
    let h : NmeHand := { tile := t, part := p, nme := rdX x o.xb % 256,
                         desc := readBytes m.tm (tmAt t (moveAddr x o)) 64, due := c.time.ftc + 24 }
    let c := updTile c t (fun y => { y with nmeq := y.nmeq + 1 })
    let c := { c with noc := { c.noc with nmeq := c.noc.nmeq ++ [h] } }
    traceTile c t 0x0A (rdX x o.xb % 256 + moveAddr x o * 2 ^ 8)
  | 0x0E =>
    if step then c
    else
      let w : DecWord := { tile := t, part := p, ref := rdX x o.xa, verdict := rdX x o.xb, due := c.time.ftc + 8 }
      traceTile { c with noc := { c.noc with decw := c.noc.decw ++ [w] } } t 0x09 (rdX x o.xa + rdX x o.xb * 2 ^ 32)
  | 0x0F => if step = true ∨ (ptState c p ≠ 1 ∧ ptState c p ≠ 2) then c else { c with noc := { c.noc with trim := some (BitVec.ofNat 32 (rdX x o.xa)) } }
  | _ => c
/-- Trace records of control flow (R961). -/
def traceFlow (c : Ctl) (t : Nat) (o : COp) (x y : Tile) : Ctl :=
  let c := if isBranch o then
      match branchTgt x o with | some g => traceTile c t 0x02 (x.pc + g * 2 ^ 16) | none => c
    else c
  let c := if o.op = cWAITP then traceTile c t 0x04 x.pc else c
  let c := if x.l0.active ∧ ¬ y.l0.active then traceTile c t 0x03 x.l0.last else c
  if x.l1.active ∧ ¬ y.l1.active then traceTile c t 0x03 (x.l1.last + 2 ^ 12) else c
/-- Results pending after the issue (R252); kept only when the issue is timed. -/
def scoreAfter (ftc mode : Nat) (b : Slots) (old : List (Nat × Nat)) : List (Nat × Nat) :=
  old.filter (fun e => decide (e.2 > ftc)) ++ (destC b.c).map (·, ftc + latC b.c) ++ (destM b.m).map (·, ftc + latM b.m) ++
    (destV b.v).map (·, ftc + latV b.v) ++ (destX mode b.x).map (·, ftc + latX b.x)
/-- The bundle issues with all of its slots. -/
def issueBundle (cm : CM) (t : Nat) (b : Slots) (step timed : Bool) : CM :=
  let (c, m) := cm
  let x := tile c t
  let y := issueTile c m t b timed
  let y := if timed then { y with score := scoreAfter c.time.ftc x.mode b x.score } else { y with held := if step then y.held else [] }
  let st := storeBytes b.m x
  let c1 := putTile c t y
  let c1 := cnt1 c1 (tlCnt t 0)
  let c1 := if discards b.c x then cntAdd c1 (tlCnt t 4) 31 2 else c1
  let c1 := if b.c.op = cKICK ∧ step = false then updPart c1 (tileOwner c t) (fun s => { s with kick := true }) else c1
  let c1 := sendsM c1 m t b.m x step
  let c1 := traceFlow c1 t b.c x y
  let cm2 := if isLoad b.m then
      (match accessOf b.m with | some (_, n, _) => eccRead (c1, m) t (moveAddr x b.m) n | none => (c1, m))
    else (c1, m)
  tmWrite cm2 t (moveAddr x b.m) st
/-- The writes of breakpoint and watchpoint registers that a bundle issuing now does not see yet: a write that takes effect in the very
tc of the bundle leaves it judged with the old value (R990, R42). -/
def lateDebug (c : Ctl) : List (Nat × Nat × Nat × Nat) := c.recent.filter (fun r => decide (r.1 + 8 ≥ c.time.ftc))
/-- What the debug registers make of a bundle in its first ready tc: its matches are counted once; BREAK is taken, and the cause found
(R260, R297, R957, R958). -/
def judge (c : Ctl) (t : Nat) (b : Slots) (bad step timed : Bool) : Ctl × Option (Nat × Nat × Nat) :=
  let x := tile c t
  let late := if timed then lateDebug c else []
  let old := earlyRegs c late
  let look := !step && decide (x.judged = 0) && !x.pastBreak
  let brk := look && breakNow old t
  let c := if look then lateRegs (noteMatches old t b) late else c
  let c := if step then c else updTile c t (fun x => { x with judged := if timed then 2 else max x.judged 1 })
  (c, if timed && decide (x.judged = 2) then none else causeOf (earlyRegs c late) bad t b brk step)
/-- One attempt to issue a bundle: it stalls and counts, raises an exception, or issues (R260, R297, R303). -/
def attempt (cm : CM) (t : Nat) (b : Slots) (bad step timed : Bool) : CM :=
  let (c, m) := cm
  if stallDep c t b then ((if step then c else cnt1 c (tlCnt t 1)), m)
  else
    let r := judge c t b bad step timed
    let c := r.1
    match r.2 with
    | some (e, s, a) => (takeException c t e s a timed, m)
    | none =>
      if stallBank c t b then ((if step then c else cnt1 c (tlCnt t 2)), m)
      else if stallWait c t b step then ((if step then c else cnt1 c (tlCnt t 3)), m)
      else match eccCause c m t b with
        | some (e, s, a) => (takeException c t e s a timed, m)
        | none =>
          let cm := issueBundle (c, m) t b step timed
          if timed then holdNext cm t b.c (tile c t) else cm
/-- A tile that may issue: its partition owns it and it stands in a pass, not halted (R214, R248). -/
def tileIssues (c : Ctl) (t : Nat) : Bool :=
  alive c && decide (tileOwner c t < 32) && decide ((tile c t).run = .run) && !(tile c t).halted
/-- A command that is one issue of a tile: its bundle stands in the place of the one at the tile's pc, with that one's code (R258); once it has
issued, the fetch unit holds nothing of what it held before (R294). -/
def issueCmd (t : Nat) (b : Slots) (s : State) : Out :=
  onAll (fun cm =>
    if tileIssues cm.1 t then
      let r := fetched cm t (tile cm.1 t).pc
      attempt r.1 t b r.2.bad false false
    else cm) s
/-- The bundle at an address of a tile's instruction RAM (R258). -/
def bundleAt (m : Mem) (t a : Nat) : Slots := decodeBundle (readLe m.im (t * 65536 + 16 * (a % 4096)) 16)

/-! Resume (R301, R302). -/
/-- The tile resumes from its recorded state, as written. BREAK is not taken again on the bundle at which it was taken: the tile's `pc` still
names that one (R302). A tile halted after its WAITP has that state as what its next pass starts from. A BR whose recorded ETGT is the bundle
after its delay bundle counts as not taken: DESIGN CHOICE, for the recorded state does not tell (R295, R301, Assumption 69). -/
def loadState (c : Ctl) (m : Mem) (t : Nat) : Ctl :=
  let x := tile c t
  let epc := fld c (tlEpc t) 11 0
  let ec := rd c (tlEcause t)
  let ds := bitN ec 15
  let ms := bitN ec 14
  let tgt := fld c (tlEtgt t) 11 0
  let em := rd c (tlEmode t)
  let op := (bundleAt m t epc).c.op
  let first := if ds then (epc + 1) % 4096 else epc
  let was := if x.run = .run then x.pc else x.waitTgt
  putTile c t
    { x with pc := first
             waitTgt := if x.run = .run then x.waitTgt else first
             run := if x.run = .ending then .waiting else x.run
             delay := if ds then some tgt else none
             delayTaken := ds && (decide (op = cJR ∨ op = cBAL) || decide (tgt ≠ (epc + 2) % 4096))
             delayJr := ds && decide (op = cJR)
             mode := if ms then bits em 7 0 else x.mode
             modeNext := if ms then some (bits em 15 8) else none
             judged := 0
             held := []
             pastBreak := decide (bits ec 7 0 = 0x0E) && decide (was = first) }
/-- A halted tile goes on at once from its recorded state; one halted after its WAITP stands in the end-of-pass wait, and its next pass starts from
that state (R301). -/
def resumeTile (c : Ctl) (m : Mem) (t : Nat) : Ctl :=
  if (tile c t).halted then
    let first := fld c (tlEpc t) 11 0 + (if rbit c (tlEcause t) 15 then 1 else 0)
    let c := if (tile c t).run = .idle then c else loadState c m t
    let c := updTile c t (fun x => { x with halted := false, exc := false, quiet := false })
    traceTile c t 0x07 (first % 4096 * 2 ^ 8)
  else c

/-! The end-of-pass wait (R291, R122). -/
/-- Every earlier operation of the tile is complete: nothing queued, no decision word on its way, no descriptor that an NME has yet to accept
(R291). -/
def tileDone (c : Ctl) (t : Nat) : Bool :=
  (tile c t).sendq.isEmpty && decide ((tile c t).nmeq = 0) && !(c.noc.decw.any (fun w => decide (w.tile = t)))
/-- The tc of the pass up to now. -/
def passTc (c : Ctl) : Nat := if c.time.epoch then c.time.ftc - c.time.passAt else 0
/-- The instant from which every result of a tile is written, and its WAITP lies behind it (R252, R291). -/
def doneFrom (x : Tile) : Nat := x.score.foldl (fun m e => max m e.2) x.bubble
/-- Every pending result of the tile is written, with its flags. -/
def writeAll (x : Tile) : Tile := { x with bubble := 0, score := [], sticky := x.flagq.foldl (fun s e => s ||| e.2) x.sticky, flagq := [] }
/-- The tile enters the end-of-pass wait: its busy count stands (R122, R291). -/
def enterWait (c : Ctl) (t : Nat) : Ctl :=
  if (tile c t).run = .ending ∧ tileDone c t = true ∧ doneFrom (tile c t) ≤ c.time.ftc then
    updTile c t (fun x => { writeAll x with run := .waiting, busy := passTc c })
  else c
/-- A halted tile whose results are written and whose queue is empty is quiet (R300). -/
def becomeQuiet (c : Ctl) (t : Nat) : Ctl :=
  if (tile c t).halted ∧ (tile c t).sendq = [] ∧ doneFrom (tile c t) ≤ c.time.ftc then updTile c t (fun x => { writeAll x with quiet := true }) else c

/-! The NoC (R144, R266 to R268). -/
/-- Hops between two tiles, X then Y (R267). -/
def hops (a b : Nat) : Nat :=
  let d (x y : Nat) : Nat := if x ≥ y then x - y else y - x
  d (a % 32) (b % 32) + d (a / 32) (b / 32)
/-- The first instant from `f` on in one of the partition's phases at a router (R140, R144). -/
def firstPhase (c : Ctl) (r p f : Nat) : Option Nat :=
  ((List.range 64).find? (fun i => nocOwner c r ((f + i) % 64) = p)).map (f + ·)
/-- The front flit of a tile's send queue is injected at instant `f` (R266, R267). -/
def injectAt (c : Ctl) (t f : Nat) : Ctl :=
  match (tile c t).sendq with
  | [] => c
  | fl :: r =>
    match reach c f with
    | some c =>
      let c := updTile c t (fun x => { x with sendq := r, phaseAt := f + 1 })
      { c with noc := { c.noc with flight := c.noc.flight ++ [(fl, f + hops t fl.dst + 4)] } }
    | none => c
/-- The tc in which a flit in flight can be written: the tc it is due, or the next one that no other write of the receive port
takes (R1172). -/
def flitAt (c : Ctl) (e : Flit × Nat) : Nat :=
  let used := (tile c e.1.dst).rxUsed
  e.2 + ((List.range 65).find? (fun i => !used.contains (e.2 + i))).getD 65
/-- The flit written first: the earliest tc, then the earliest due, then the lowest source tile, then the order of sending (R1172). -/
def firstFlit (c : Ctl) : Option (Flit × Nat) :=
  c.noc.flight.foldl (fun b e => match b with
    | none => some e
    | some a =>
      let x := flitAt c e
      let y := flitAt c a
      if x < y ∨ (x = y ∧ (e.2 < a.2 ∨ (e.2 = a.2 ∧ e.1.src < a.1.src))) then some e else b) none
/-- A flit in flight is written at its own tc, which may have gone by within the present command (R267, R268, R1172). -/
def flitNow (cm : CM) (e : Flit × Nat) : CM :=
  let now := cm.1.time.ftc
  let at_ (t : Nat) (c : Ctl) : Ctl := { c with time := { c.time with ftc := t } }
  let c := at_ (flitAt cm.1 e) { cm.1 with noc := { cm.1.noc with flight := cm.1.noc.flight.erase e } }
  let r := rxWrite (c, cm.2) e.1.dst e.1.addr (leBytes 64 e.1.data.toNat)
  (at_ now (rxArrive r.1 e.1.dst e.1.ch), r.2)
/-- The flits whose tc lies before the present one are written, in their order (R1172). -/
def lateFlits (cm : CM) : CM :=
  foldUp cm.1.noc.flight.length (fun cm _ => match firstFlit cm.1 with
    | some e => if flitAt cm.1 e < cm.1.time.ftc then flitNow cm e else cm
    | none => cm) cm
/-- Writes the flit into its destination tile: the line, then its channel's counter (R267, R268). -/
def writeFlit (cm : CM) (e : Flit × Nat) : CM :=
  let c := advanceTo cm.1 (flitAt cm.1 e)
  let c := { c with noc := { c.noc with flight := c.noc.flight.erase e } }
  let r := rxWrite (c, cm.2) e.1.dst e.1.addr (leBytes 64 e.1.data.toNat)
  (rxArrive r.1 e.1.dst e.1.ch, r.2)

end Sys2Proof.Machine
end

