-- ==== Sys2Proof/Machine/Headgate.lean ====
section
/-! DEFINITION. The headgates: framing, stations, contexts, dressing and landing (R386 to R454). -/
namespace Sys2Proof.Machine

/-! Registers. -/
def hgCtrl (n : Nat) : Nat := hgBase n
def hgStat (n : Nat) : Nat := hgBase n + 4
/-- Counters of R438 by offset: 0 RX_FRAMES, 1 FEC_UNCORR, 2 RX_CRC, 3 RX_FORMAT, 4 RX_STN, 5 RX_CTX, 6 RX_PART, 7 RX_EPOCH,
8 RX_LAND, 9 RX_DRAIN, 10 DRESS_SAT, 11 SEQ_GAP, 12 DEC_DROP_ABSENT, 13 DEC_DROP_OFF, 14 TX_FRAMES. -/
def hgCnt (n i : Nat) : Nat := hgBase n + 0x100 + 4 * i
/-- STATE of a headgate. -/
def hgState (c : Ctl) (n : Nat) : Nat := fld c (hgStat n) 1 0
/-- MISSED of a station. -/
def stnMissed (c : Ctl) (n s : Nat) : Nat := fld c (hgStn n s 2) 31 16
/-- STN_TIMEOUT and HB_TX. -/
def stnTimeout (c : Ctl) (n : Nat) : Nat := fld c (hgCtrl n) 23 16
def hbTx (c : Ctl) (n : Nat) : Nat := fld c (hgCtrl n) 15 8
/-- The entry of a context (R414). -/
def ctxEntry (c : Ctl) (n k : Nat) : Nat := rd64 c (hgBase n + 0x2000 + 8 * k)
/-- The ranges of R414 hold (R416). -/
def ctxOk (v : Nat) : Bool :=
  decide (1 ≤ bits v 47 32 ∧ bits v 47 32 ≤ 32768 ∧ bits v 30 16 + bits v 47 32 ≤ 32768 ∧ 1 ≤ bits v 14 8 ∧ bits v 14 8 ≤ 64)
/-- A MAC address in two registers, as its six bytes (HGn_MAC). -/
def macBytes (lo hi : Nat) : Bytes := leBytes 2 hi ++ leBytes 4 lo
/-- The seven bytes of the start block (R393). -/
def startBytes : Bytes := [0x55, 0x55, 0x55, 0x55, 0x55, 0x55, 0xA7]
/-- Preamble and SFD of an Ethernet frame as the start block carries them: the start character stands for the first preamble byte (R394),
PRESUMED from IEEE 802.3 (Assumption 74). -/
def ethStart : Bytes := [0x55, 0x55, 0x55, 0x55, 0x55, 0x55, 0xD5]
/-- Headgate n's hidden state changed. -/
def updHg (c : Ctl) (f : HgSt → HgSt) : Ctl := { c with hg := f c.hg }
/-- The merger's hidden state changed. -/
def updDc (c : Ctl) (f : DcSt → DcSt) : Ctl := { c with dc := f c.dc }
/-- DC_HGh_PEND. -/
def dcPend (h : Nat) : Nat := 0x10040 + 4 * h
/-- Entries in use of a headgate. -/
def pendCount (c : Ctl) (h : Nat) : Nat := (c.dc.pend.filter (fun e => e.hg = h)).length
/-- COUNT and PEAK of DC_HGh_PEND follow the entries in use. -/
def pendSync (c : Ctl) (h : Nat) : Ctl :=
  let n := pendCount c h
  setFld (setFld c (dcPend h) 12 0 n) (dcPend h) 28 16 (max n (fld c (dcPend h) 28 16))

/-! The instants of the decisions, which the transmit pipeline serves first (R464, R476, R477, R482). -/
def rDcGuard : Nat := 0x10000
def dcCfg (p : Nat) : Nat := 0x10100 + 16 * p
def dcDl (h s : Nat) : Nat := 0x11000 + 4 * (64 * h + s)
/-- WAIT of a partition. -/
def dcWait (c : Ctl) (p : Nat) : Nat := fld c (dcCfg p) 31 16
/-- The due release of an entry (R464). -/
def dueFtc (c : Ctl) (e : Pend) : Nat := match e.closed with | some b => b | none => boundaryOf c (e.lpass + e.k + 1)
/-- The decision instant of an entry: its due release, and WAIT after it for a GMERGE partition (R464, R494). -/
def decideFtc (c : Ctl) (e : Pend) : Nat := dueFtc c e + if grantFlag c e.part 2 then dcWait c e.part else 0
/-- The guard instant, when the station has a deadline (R476). -/
def guardFtc (c : Ctl) (e : Pend) : Option Nat :=
  let d := fld c (dcDl e.hg e.stn) 15 0
  if d = 0 then none else some (e.tsFtc + d - fld c rDcGuard 11 0)
/-- The guard decides the entry: its scheduled hand-off falls after G (R477, R478). -/
def guarded (c : Ctl) (e : Pend) : Bool :=
  match guardFtc c e with | some g => decide (decideFtc c e + 50 > g) | none => false
/-- Tc of a headgate's transmit pipeline that a frame of LEN `len` occupies (R482). -/
def txOccupies (eth : Bool) (len : Nat) : Nat := if eth then ceilDiv (max (len + 18) 64 + 20) 10 else ceilDiv (len + 24) 10
/-- The hand-offs scheduled at a headgate: of decided entries, and of those that the guard will decide at G. -/
def handoffsTo (c : Ctl) (n : Nat) : List Nat :=
  (c.dc.pend.filter (fun e => e.hg = n)).filterMap (fun e =>
    match e.handAt with | some t => some t | none => if guarded c e then guardFtc c e else none)

/-! Sending (R393 to R396, R399 to R403, R483). -/
/-- What stands on the wire for a native frame to a station: start bytes and CRC-32C, or preamble, SFD, addresses, EtherType, padding and FCS
(R393 to R395). -/
def txWire (c : Ctl) (n s : Nat) (body : Bytes) : Bytes :=
  if rbit c (hgCtrl n) 1 then
    let ty := fld c (hgBase n + 0x18) 15 0
    let f := macBytes (rd c (hgStn n s 1)) (fld c (hgStn n s 2) 15 0) ++ macBytes (rd c (hgBase n + 0x10)) (fld c (hgBase n + 0x14) 15 0) ++
      leBytes 1 (ty / 256) ++ leBytes 1 ty ++ body
    let f := padTo 60 f
    ethStart ++ f ++ leBytes 4 (fcs f)
  else startBytes ++ body ++ leBytes 4 (crc32c body)
/-- Hands a frame to a station to the transmit pipeline at instant `t`: header with TYPE, the headgate's SEQ for it, TSPEC and body. -/
def hgSend (c : Ctl) (n s typ : Nat) (rest : Bytes) (t : Nat) : Ctl :=
  let q := smGet c.hg.txSeq 0 (n * 64 + s)
  let h := leBytes 1 typ ++ leBytes 1 1 ++ leBytes 1 s ++ leBytes 1 0 ++ leBytes 2 (8 + rest.length) ++ leBytes 2 q
  let c := updHg c (fun x => { x with
    txSeq := smSet x.txSeq 0 (n * 64 + s) ((q + 1) % 65536),
    txFree := smSet x.txFree 0 n (t + txOccupies (rbit c (hgCtrl n) 1) (8 + rest.length)) })
  emit (cnt1 c (hgCnt n 14)) (.hgFrame n s (txWire c n s (h ++ rest)))
/-- TSPEC and body of a HEARTBEAT or NOTICE that starts at `t` (R399, R400). -/
def txBody (c : Ctl) (r : TxReq) (t : Nat) : Bytes :=
  if r.typ = 0x02 then leBytes 8 (stampAt c t) ++ leBytes 8 (stnState c r.hg r.stn) else leBytes 2 r.code ++ zeroBytes 6
/-- The oldest HEARTBEAT or NOTICE that waits at a headgate starts, once the pipeline is free, if it ends no later than the next scheduled
DECISION hand-off (R402, R483); a headgate that neither is ON nor drains sends none (R442). -/
def txNext (n : Nat) (c : Ctl) : Ctl :=
  match c.hg.txq.find? (fun r => r.hg = n) with
  | none => c
  | some r =>
    if hgState c n ≠ 1 ∧ hgState c n ≠ 2 then updHg c (fun x => { x with txq := x.txq.filter (fun r => r.hg ≠ n) })
    else
      let t := max (smGet c.hg.txFree 0 n) r.since
      let len := if r.typ = 0x02 then 24 else 16
      if t ≤ c.time.ftc ∧ (handoffsTo c n).all (fun h => t + txOccupies (rbit c (hgCtrl n) 1) len ≤ h) then
        hgSend (updHg c (fun x => { x with txq := x.txq.erase r })) n r.stn r.typ (txBody c r t) t
      else c
/-- Every HEARTBEAT and NOTICE of a headgate that can have started by now has. -/
def txRun (c : Ctl) (n : Nat) : Ctl := foldUp (c.hg.txq.filter (fun r => r.hg = n)).length (fun c _ => txNext n c) c
/-- A HEARTBEAT or NOTICE joins those that wait. -/
def txPut (c : Ctl) (n s typ code : Nat) : Ctl :=
  updHg c (fun x => { x with txq := x.txq ++ [{ hg := n, stn := s, typ := typ, code := code, since := c.time.ftc }] })
/-- A NOTICE: 1 MARKED_ABSENT, 2 REJOINED, 3 DRAINING; only a headgate that is ON or draining sends (R400, R442). -/
def hgNotice (c : Ctl) (n s code : Nat) : Ctl :=
  if hgState c n = 1 ∨ hgState c n = 2 then txRun (txPut c n s 0x05 code) n else c
/-- The HEARTBEATs after a boundary, to the stations that are still ACTIVE: one whose MISSED reached STN_TIMEOUT at this boundary
becomes ABSENT (R399, R403, R405). -/
def hgHeartbeats (c : Ctl) : Ctl :=
  foldUp 16 (fun c n =>
    if hgState c n = 1 ∧ hbTx c n ≠ 0 ∧ c.time.pass % hbTx c n = 0 then
      txRun (foldUp 64 (fun c s => if stnState c n s = 1 ∧ smGet c.hg.absDue false (n * 64 + s) = false then txPut c n s 0x02 0 else c) c) n
    else c) c

/-! Stations (R404 to R412). -/
/-- A station becomes ACTIVE with MISSED 0; its next frame sets the expected SEQ, and a gap counted before still shows in its next record
(R404, R408, R411). -/
def stnActive (c : Ctl) (n s : Nat) : Ctl :=
  let c := setFld (setFld c (hgStn n s 0) 1 0 1) (hgStn n s 2) 31 16 0
  updHg c (fun x => { x with seqSet := smSet x.seqSet false (n * 64 + s) false,
                             heard := smSet x.heard false (n * 64 + s) false })
/-- A write of a station's EN (R404). -/
def stnEn (n s : Nat) (en : Bool) (c : Ctl) : Ctl :=
  let c := setBit c (hgStn n s 0) 8 en
  if en then (if stnState c n s = 0 then stnActive c n s else c) else setFld c (hgStn n s 0) 1 0 0
/-- A write of 1 to REJOIN (R408); none in the HCLK cycle, 2 tc, in which the station became ABSENT (R445). -/
def stnRejoin (n s : Nat) (c : Ctl) : Ctl :=
  let a := smGet c.hg.absAt 0 (n * 64 + s)
  if stnState c n s = 2 ∧ (a = 0 ∨ (a - 1) / 2 ≠ c.time.ftc / 2) then hgNotice (stnActive c n s) n s 2 else c
/-- What the end of a pass does to MISSED, and the stations whose MISSED has then reached the STN_TIMEOUT that was in force in that pass (R405);
a STN_TIMEOUT that takes effect at this boundary is for the next one (R453). -/
def stnMiss (c : Ctl) : Ctl :=
  let c := updHg c (fun x => { x with absDue := {} })
  let c := foldUp 16 (fun c n => foldUp 64 (fun c s =>
    if stnState c n s = 1 then
      let k := n * 64 + s
      let m := if smGet c.hg.heard false k then 0 else satU 16 (stnMissed c n s + 1)
      let c := setFld c (hgStn n s 2) 31 16 m
      if m ≥ c.hg.prev.tmo.getD n (stnTimeout c n) then updHg c (fun x => { x with absDue := smSet x.absDue false k true }) else c
    else c) c) c
  updHg c (fun x => { x with heard := {} })
/-- At the boundary a station whose MISSED has reached STN_TIMEOUT becomes ABSENT (R405, R453). -/
def stnAbsent (n s : Nat) (c : Ctl) : Ctl :=
  let k := n * 64 + s
  if stnState c n s = 1 ∧ smGet c.hg.absDue false k = true ∧ c.time.epoch ∧ c.time.ftc = c.time.passAt then
    let c := setFld c (hgStn n s 0) 1 0 2
    let c := updHg c (fun x => { x with absNote := smSet x.absNote false k false, absDue := smSet x.absDue false k false,
                                        absAt := smSet x.absAt 0 k (c.time.ftc + 1) })
    hgNotice (raise c 0x4203 noPart (unitOf c 3 n) s) n s 1
  else c
/-- The SEQ of a frame from an ACTIVE station (R411). -/
def stnSeq (c : Ctl) (n s q : Nat) : Ctl :=
  let k := n * 64 + s
  let exp := fld c (hgStn n s 3) 15 0
  let c := if smGet c.hg.seqSet false k ∧ exp ≠ q then
      updHg (cnt1 c (hgCnt n 11)) (fun x => { x with gap := smSet x.gap false k true })
    else c
  updHg (setFld c (hgStn n s 3) 15 0 ((q + 1) % 65536)) (fun x => { x with seqSet := smSet x.seqSet false k true })

/-! Framing (R393 to R399, R417). -/
/-- A received frame: whether its check sequence is right, whether its framing and addressing are, its native frame and the bytes
that stand in its place on the wire. -/
structure RxFrame where
  crcOk : Bool
  wireOk : Bool
  body : Bytes
  deriving DecidableEq, Repr

/-- Reads the wire bytes of a frame under MODE (R393 to R395). -/
def rxWire (c : Ctl) (n : Nat) (raw : Bytes) : RxFrame :=
  if rbit c (hgCtrl n) 1 then
    let start := decide (raw.take 7 = ethStart)
    let raw := raw.drop 7
    let k := raw.length - 4
    let body := (raw.take k).drop 14
    let s := leAt body 2 1 % 64
    { crcOk := decide (raw.length ≥ 18 ∧ fcs (raw.take k) = leAt raw k 4)
      wireOk := start && decide (raw.length ≤ 1518) && decide (slice raw 0 6 = macBytes (rd c (hgBase n + 0x10)) (fld c (hgBase n + 0x14) 15 0)) &&
        decide (slice raw 6 6 = macBytes (rd c (hgStn n s 1)) (fld c (hgStn n s 2) 15 0)) &&
        decide (leAt raw 13 1 + 256 * leAt raw 12 1 = fld c (hgBase n + 0x18) 15 0) && decide (leAt body 4 2 ≤ body.length)
      body := body.take (leAt body 4 2) }
  else
    let k := raw.length - 4
    let body := (raw.take k).drop 7
    { crcOk := decide (raw.length ≥ 11 ∧ crc32c body = leAt raw k 4)
      wireOk := decide (raw.take 7 = startBytes) && decide (leAt body 4 2 = body.length)
      body := body }
/-- Fields of a native frame. -/
def fType (b : Bytes) : Nat := leAt b 0 1
def fStn (b : Bytes) : Nat := leAt b 2 1 % 64
def fLen (b : Bytes) : Nat := leAt b 4 2
def fSeq (b : Bytes) : Nat := leAt b 6 2
def fEvn (b : Bytes) : Nat := leAt b 8 6
def fStream (b : Bytes) : Nat := leAt b 0xE 1 % 16
def fFirst (b : Bytes) : Nat := leAt b 0x10 2
def fNch (b : Bytes) : Nat := leAt b 0x12 1
/-- The context's place in its headgate's table (R413). -/
def fCtx (b : Bytes) : Nat := 16 * fStn b + fStream b
/-- Bytes of a sample (R398). -/
def sampleBytes (e : Nat) : Nat := if bits e 7 4 + 1 ≤ 8 then 1 else 2
/-- The sample format of a DATA or CAL frame fits its context (R417). -/
def samplesOk (e : Nat) (b : Bytes) : Bool :=
  decide (fNch b ≠ 0 ∧ fNch b ≤ bits e 14 8 ∧ fFirst b + fNch b ≤ bits e 47 32 ∧
    fLen b = (20 + fNch b * sampleBytes e + 3) / 4 * 4)
/-! What was in force when parsing started, 124 tc before the offer (R415, R420, R430, R435, R440, R443, R449). -/
/-- Tc from the start of parsing to the row of a frame: 120 of framing and dressing, for every frame, and 4 to the offer (R423, R430). -/
def parseTc : Nat := 124
/-- Tc from the end of a frame's last codeword to its row (R391, R423, R430). -/
def frameTc : Nat := 349
/-- What the changes since the parsing of the frame offered now started made different, oldest first. -/
def changed (c : Ctl) : List HgPrev := (c.hg.older ++ [c.hg.prev]).filter (fun h => decide (0 < h.at_ ∧ c.time.ftc < h.at_ + parseTc))
/-- A word of a context table. -/
def ctxWordAt (c : Ctl) (o : Nat) : Nat :=
  match ((changed c).flatMap (·.ctx)).find? (fun e => e.1 = o) with | some e => e.2 | none => rd c o
/-- The context's entry (R415). -/
def ctxAt (c : Ctl) (n k : Nat) : Nat := let o := hgBase n + 0x2000 + 8 * k; ctxWordAt c o + 2 ^ 32 * ctxWordAt c (o + 4)
/-- The bank that dressing used (R420). -/
def dressBankAt (c : Ctl) (n : Nat) : Nat :=
  match (changed c).head? with | some h => b2n (bitN h.bank n) | none => fld c (hgBase n + 0x1C) 0 0
/-- The epoch ran (R435). -/
def epochAt (c : Ctl) : Bool := match (changed c).head? with | some h => h.epoch | none => c.time.epoch
/-- The headgate was ON, and has only begun to drain since (R440). -/
def onAt (c : Ctl) (n : Nat) : Bool :=
  match (changed c).head? with
  | some h => bitN h.on n && decide (hgState c n = 1 ∨ hgState c n = 2)
  | none => decide (hgState c n = 1)
/-- PCS_LOCK `d` tc ago (R449). -/
def lockAgo (c : Ctl) (n d : Nat) : Bool :=
  (rbit c (hgStat n) 4) != decide (smGet c.hg.lockAt 0 n > c.time.ftc + 1 - d ∧ smGet c.hg.lockAt 0 n ≠ 0)
/-- What a change at instant `t` may make different for the headgates, as it stands before it, the words of the context tables that `ws`
writes among it. Of several changes in one tc the first one's state stands before them. -/
def hgSnap (c : Ctl) (t : Nat) (ws : List Staged) : Ctl :=
  let bits16 (f : Nat → Bool) : Nat := (List.range 16).foldl (fun m n => m + b2n (f n) * 2 ^ n) 0
  let inTab (o : Nat) : Bool := decide (0x800000 ≤ o ∧ o < 0x1000000 ∧ 0x2000 ≤ o % 0x80000 ∧ o % 0x80000 < 0x4000)
  let words := (ws.filter (fun w => inTab w.off)).map (fun w => (w.off, rd c w.off))
  if c.hg.prev.at_ = t then updHg c (fun x => { x with prev := { x.prev with ctx := x.prev.ctx ++ words } })
  else updHg c (fun x => { x with
    older := (x.older ++ [x.prev]).filter (fun h => decide (t < h.at_ + frameTc))
    prev := {
      at_ := t, epoch := c.time.epoch, pass := c.time.pass, passAt := c.time.passAt, on := bits16 (fun n => decide (hgState c n = 1)),
      bank := bits16 (fun n => rbit c (hgBase n + 0x1C) 0), tmo := (List.range 16).map (stnTimeout c), ctx := words } })
/-- What a boundary, or a stop of the epoch, may change for the headgates, as it stands before it. -/
def hgRemember (c : Ctl) (t : Nat) : Ctl := hgSnap c t c.staged
/-- Test 3 of R436, but for the samples. -/
def headOk (f : RxFrame) : Bool :=
  let b := f.body
  let t := fType b
  f.wireOk && decide (b.length ≥ 16) && decide (leAt b 1 1 = 1) && decide (leAt b 2 1 < 64) && zeroAt b 3 1 &&
    decide (fLen b % 4 = 0 ∧ 16 ≤ fLen b ∧ fLen b ≤ 252) &&
    (match t with
     | 0x01 | 0x03 => decide (leAt b 0xE 1 < 16) && zeroAt b 0xF 1 && zeroAt b 0x13 1
     | 0x02 => decide (fLen b = 24)
     | 0x05 => decide (fLen b = 16) && zeroAt b 0xA 2
     | _ => false)
/-- The frame is a DATA or CAL frame, which meets the context table in test 3. -/
def usesCtx (b : Bytes) : Bool := decide (fType b = 1 ∨ fType b = 3)
/-- Test 3 of R436. -/
def formatOk (c : Ctl) (n : Nat) (f : RxFrame) : Bool := headOk f && (!usesCtx f.body || samplesOk (ctxAt c n (fCtx f.body)) f.body)

/-! Dressing (R421, R422). -/
/-- Sample i of a frame, extended (R398, R421). -/
def sampleOf (e : Nat) (b : Bytes) (i : Nat) : Int :=
  let w := bits e 7 4 + 1
  let v := leAt b (0x14 + i * sampleBytes e) (sampleBytes e) % 2 ^ w
  if bitN e 2 then sx w v else (v : Int)
/-- The dressing entry of a channel in the bank in force when parsing started (R418 to R420). -/
def dtEntry (c : Ctl) (n i : Nat) : Nat := (smGet c.hg.dt 0 (n * 65536 + dressBankAt c n * 32768 + i)).toNat
/-- One channel's word, whether it was clamped (R421, R351 to R353). -/
def channelWord (c : Ctl) (n e : Nat) (b : Bytes) (i : Nat) : Word × Bool :=
  let r := sampleOf e b i
  if fType b = 1 ∧ bitN e 1 then
    let d := dtEntry c n (bits e 30 16 + fFirst b + i)
    dress r (sx 20 (bits d 19 0)) (bits d 35 20) (sx 24 (bits d 59 36)) (bitN d 60)
  else (BitVec.ofInt 32 r, false)

/-! Landing (R425 to R435). -/
/-- Bytes of a slot's lines (R427). -/
def slotLines (e : Nat) : Nat := ceilDiv (32 + 4 * bits e 14 8) 64
/-- Slots of a half (R427). -/
def halfSlots (len e : Nat) : Nat := len / (128 * slotLines e)
/-- LAND phases of a router from instant `f` on, `k` of them (R430). -/
def landPhases (c : Ctl) (t : Nat) : Nat → Nat → Nat → List Nat
  | 0, _, _ => []
  | _ + 1, _, 0 => []
  | fuel + 1, f, k + 1 =>
    if nocOwner c t (f % 64) = 0x43 then f :: landPhases c t fuel (f + 1) k else landPhases c t fuel (f + 1) (k + 1)
/-- The record of a frame, 64 bytes a line (R428). -/
def recordBytes (n : Nat) (b : Bytes) (ws : List (Word × Bool)) (ts lpass slot : Nat) (dressed gap : Bool) : Bytes :=
  let kept := (ws.filter (fun w => !(dressed && decide (w.1 = 0x80000000)))).length
  let fl := 16 + b2n gap * 8 + b2n (ws.any (·.2)) * 4 + b2n (decide (fType b = 3)) * 2 + b2n dressed
  let h := leBytes 8 ts ++ leBytes 6 lpass ++ leBytes 2 (1024 * n + fCtx b) ++ leBytes 6 (fEvn b) ++ leBytes 1 (fNch b) ++ leBytes 1 kept ++
    leBytes 2 (fFirst b) ++ leBytes 2 (fSeq b) ++ leBytes 1 fl ++ leBytes 1 (fStn b) ++ leBytes 2 slot
  let body := ws.flatMap (fun w => leBytes 4 w.1.toNat)
  let lines := ceilDiv (32 + 4 * fNch b) 64
  let pad := (64 * lines - 32 - 4 * fNch b) / 4
  h ++ body ++ (List.replicate pad [0x00, 0x00, 0x00, 0x80]).flatten
/-- Admission and the offer of one frame's lines, 4 tc after dressing; the present instant is the offer (R430, R431). Its LPASS outside an epoch,
in which no pass is in progress, is the one of R120. A frame that is not admitted stays among the tc's offers, for one of a lower headgate may
still change what is free (R454). -/
def admitOne (c : Ctl) (n : Nat) (b : Bytes) (e : Nat) (le : LandEnt) (ws : List (Word × Bool)) : Ctl :=
  let t := le.base + (fEvn b % le.cnt) * le.stride
  let now := c.time.ftc
  let land := now + 56
  let lpass := if c.time.epoch = false then 0xFFFFFFFFFFFF
    else if land ≥ nextBoundary c then c.time.pass + (land - c.time.passAt) / passLen c else c.time.pass
  let half := lpass % 2
  let key := ((1024 * n + fCtx b) * 1024 + t) * 2 + half
  let sl := smGet c.hg.slots (0, 0) key
  let slot := if sl.1 = lpass + 1 then sl.2 else 0
  let q := smGet c.hg.lines [] t
  let lines := ceilDiv (32 + 4 * fNch b) 64
  let from_ := (q.foldl (fun m l => max m l.due) now) + 1
  let at_ := landPhases c t (64 * 64) from_ lines
  let lastAt := at_.getLastD land
  let k := n * 64 + fStn b
  let gap := smGet c.hg.gap false k
  let o : LandOffer := { at_ := now, hg := n, tile := t, body := b, entry := e, land := le, words := ws, gap := gap, key := key, old := sl,
                         lands := rd c (hgCnt n 8) }
  let offered (l : List LandOffer) : List LandOffer := l.filter (fun o => decide (o.at_ = now)) ++ [o]
  if slot ≥ halfSlots le.len e ∨ q.length + lines > 32 ∨ at_.length < lines ∨ lastAt ≥ land then
    cnt1 (updHg c (fun x => { x with offers := offered x.offers })) (hgCnt n 8)
  else
    let tsF := now - frameTc
    let ts := stampBack c tsF
    let dressed := decide (fType b = 1) && bitN e 1
    let r := recordBytes n b ws ts lpass slot dressed gap
    let base := le.addr + half * (le.len / 2) + 64 * slotLines e * slot
    let order := (List.range (lines - 1)).map (· + 1) ++ [0]
    let new := (order.zip at_).map (fun p =>
      ({ due := p.2, addr := base + 64 * p.1, data := slice r (64 * p.1) 64, hg := n, first := decide (p.1 = 0), offered := now } : LandLine))
    let fr : Landing := { due := land, hg := n, stn := fStn b, evn := fEvn b, part := le.part, tile := t, ts := ts, tsFtc := tsF,
                          lpass := lpass, cal := decide (fType b = 3) }
    updHg c (fun x => { x with slots := smSet x.slots (0, 0) key (lpass + 1, slot + 1), lines := smSet x.lines [] t (q ++ new),
                               landing := x.landing ++ [fr], gap := smSet x.gap false k false, offers := offered x.offers })
/-- An offer of the present tc is taken back, the last first. -/
def unadmit (c : Ctl) (o : LandOffer) : Ctl :=
  let k := o.hg * 64 + fStn o.body
  updHg (wr c (hgCnt o.hg 8) o.lands) (fun x => { x with
    slots := smSet x.slots (0, 0) o.key o.old,
    lines := smSet x.lines [] o.tile ((smGet x.lines [] o.tile).filter (fun l => !decide (l.hg = o.hg ∧ l.offered = o.at_))),
    landing := x.landing.filter (fun f => !decide (f.hg = o.hg ∧ f.tile = o.tile ∧ f.due = o.at_ + 56)),
    gap := smSet x.gap false k o.gap, offers := x.offers.erase o })
/-- Admission (R431); frames offered to one router in the same tc are admitted in headgate order, whichever command came first (R454). -/
def admitFrame (c : Ctl) (n : Nat) (b : Bytes) (e : Nat) (le : LandEnt) (ws : List (Word × Bool)) : Ctl :=
  let t := le.base + (fEvn b % le.cnt) * le.stride
  let after := c.hg.offers.filter (fun o => decide (o.at_ = c.time.ftc ∧ o.tile = t ∧ o.hg > n))
  let c := admitOne (after.reverse.foldl unadmit c) n b e le ws
  after.foldl (fun c o => admitOne c o.hg o.body o.entry o.land o.words) c
/-- A headgate discards its remaining work, each unit counted in RX_DRAIN: admitted frames before their L, and decisions handed to it. Answers
the units (R62, R64). -/
def hgCut (c : Ctl) (n : Nat) : Ctl × Nat :=
  let sent (e : Pend) : Bool := decide (e.hg = n ∧ e.handAt ≠ none)
  let k := (c.hg.landing.filter (fun f => f.hg = n)).length + (c.dc.pend.filter sent).length
  let c := pendSync (updDc c (fun x => { x with pend := x.pend.filter (fun e => !sent e) })) n
  let drop (l : List LandLine) : List LandLine := l.filter (fun x => x.hg ≠ n)
  (updHg (cntAdd c (hgCnt n 9) 31 k) (fun x =>
    { x with landing := x.landing.filter (fun f => f.hg ≠ n), offers := x.offers.filter (fun o => o.hg ≠ n)
             lines := ⟨(x.lines.entries.map (fun e => (e.1, drop e.2))).filter (fun e => !e.2.isEmpty)⟩ }), k)
/-- An entry of the context table, or of the dressing RAM, is uncorrectable: the frame is dropped and the headgate is in FAULT; one that drains
discards its remaining work, counted (R64, R424). -/
def tableFault (c : Ctl) (n kind entry : Nat) : Ctl :=
  let c := if hgState c n = 2 then (hgCut c n).1 else c
  raise (enterFault (cnt1 c (hgCnt n 5)) (hgStat n)) 0x2207 noPart (unitOf c 3 n) (kind + entry % 32768 * 2 ^ 16)
/-- A correctable error in one of them is reported (R424). -/
def tableFix (c : Ctl) (n kind entry : Nat) : Ctl := raise c 0x2206 noPart (unitOf c 3 n) (kind + entry % 32768 * 2 ^ 16)
/-- Tests 5 to 8 of a DATA or CAL frame (R436). -/
def rxData (c : Ctl) (n : Nat) (b : Bytes) : Ctl :=
  let e := ctxAt c n (fCtx b)
  let first := n * 65536 + dressBankAt c n * 32768 + bits e 30 16 + fFirst b
  let dts := if fType b = 1 ∧ bitN e 1 then (List.range (fNch b)).map (first + ·) else []
  let land := (landEnts (fplan c).landing).find? (fun x => x.ctx = 1024 * n + fCtx b)
  let drop (c : Ctl) (i : Nat) : Ctl := cnt1 c (hgCnt n i)
  if epochAt c = false then drop c 7
  else if bitN e 0 = false ∨ (fType b = 3 ∧ bitN e 3 = false) then drop c 5
  else match land with
    | none => drop c 5
    | some le => match dts.find? (fun i => smGet c.hg.dtBad false i) with
      | some i => tableFault c n 1 i
      | none =>
        let c := dts.foldl (fun c i => if smGet c.hg.dtWeak false i then
            updHg (tableFix c n 1 i) (fun x => { x with dtWeak := smSet x.dtWeak false i false }) else c) c
        let ws := (List.range (fNch b)).map (channelWord c n e b)
        let c := cntAdd c (hgCnt n 10) 31 (ws.filter (·.2)).length
        if ptRuns c le.part = false then drop (cnt1 c (ptDrop le.part)) 6 else admitFrame c n b e le ws
/-- A frame that has passed test 2 runs tests 3 and 4 and is consumed or goes on (R436, R437). A DATA or CAL frame meets its context entry in
test 3, whatever drops it later (R424). -/
def rxTests (c : Ctl) (n : Nat) (f : RxFrame) : Ctl :=
  let b := f.body
  let t := fType b
  let ck := n * 1024 + fCtx b
  let meets := headOk f && usesCtx b
  if meets && smGet c.hg.ctxBad false ck then tableFault c n 0 (fCtx b)
  else
    let c := if meets && smGet c.hg.ctxWeak false ck then
        updHg (tableFix c n 0 (fCtx b)) (fun x => { x with ctxWeak := smSet x.ctxWeak false ck false })
      else c
    if formatOk c n f = false then cnt1 c (hgCnt n 3)
    else
      let s := fStn b
      let k := n * 64 + s
      if stnState c n s ≠ 1 then
        let c := cnt1 c (hgCnt n 4)
        if t = 2 ∧ stnState c n s = 2 ∧ smGet c.hg.absNote false k = false then
          raise (updHg c (fun x => { x with absNote := smSet x.absNote false k true })) 0x4204 noPart (unitOf c 3 n) s
        else c
      else
        let c := stnSeq c n s (fSeq b)
        match t with
        | 0x02 =>
          let c := setFld c (hgStn n s 3) 31 16 (leAt b 0xE 2)
          updHg c (fun x => { x with heard := smSet x.heard false k true, lastEvn := smSet x.lastEvn 0 k (leAt b 8 6) })
        | 0x05 => raise c 0x0202 noPart (unitOf c 3 n) (s + leAt b 8 2 * 2 ^ 16 + leAt b 0xC 4 * 2 ^ 32)
        | _ => rxData c n b
/-- A received frame runs the tests of R436 in their order, 349 tc after its last codeword whatever its TYPE (R391, R423). A command of one TYPE
takes frames of that TYPE, and those whose TYPE cannot be told or is none; one with no bytes brings the codewords after which no frame came
(R390). A frame whose last codeword ended before a BLK reset is discarded with the headgate's queue (R451). -/
def rxFrame (typ n : Nat) (fec : FecSeen) (raw : Bytes) (c : Ctl) : Ctl :=
  let f := rxWire c n raw
  let t := fType f.body
  let known := decide (t ≥ 1 ∧ t ≤ 5)
  let locked := lockAgo c n parseTc
  if (rbit c (hgBase n + 8) 8 = false ∧ locked = false) ∨ (known ∧ t ≠ typ) ∨
      (smGet c.hg.resetAt 0 n ≠ 0 ∧ c.time.ftc + 1 < smGet c.hg.resetAt 0 n + frameTc) then c
  else
    let c := cntAdd c (hgCnt n 1) 31 fec.uncorr
    if raw.isEmpty then c
    else if fec.hit = true ∨ locked = false ∨ f.crcOk = false then cnt1 c (hgCnt n 2)
    else
      let c := cnt1 c (hgCnt n 0)
      if onAt c n = false then cnt1 c (hgCnt n 9) else rxTests c n f
/-- The first landing line queued at a tile is written in its LAND phase (R430). -/
def landLine (cm : CM) (t : Nat) : CM :=
  match smGet cm.1.hg.lines [] t with
  | [] => cm
  | l :: r =>
    match reach cm.1 l.due with
    | some c => rxWrite (updHg c (fun x => { x with lines := smSet x.lines [] t r }), cm.2) t l.addr l.data
    | none => cm
/-- PCS_LOCK changes (R389, R390, R449). -/
def pcsLock (n : Nat) (lock cut : Bool) (c : Ctl) : Ctl :=
  let lock := lock && rbit c (hgBase n + 8) 8
  if rbit c (hgStat n) 4 = lock then c
  else
    let c := if lock = false ∧ cut = true then cnt1 c (hgCnt n 2) else c
    let c := updHg c (fun x => { x with lockAt := smSet x.lockAt 0 n (c.time.ftc + 1) })
    raise (setBit c (hgStat n) 4 lock) 0x4201 noPart (unitOf c 3 n) (b2n lock)
/-- HGn_PHY is written: without LANE_EN the lanes lose lock (R389). Whether a frame is in progress then, which counts in RX_CRC, is free: the
write does not say it (R390, Assumption 73). -/
def phyWritten (n : Nat) (c : Ctl) : Ctl :=
  if rbit c (hgBase n + 8) 8 ∨ rbit c (hgStat n) 4 = false then c
  else
    let (c, k) := drawFree c
    pcsLock n false (Config.freeBit k) c
/-- The drain has nothing left that the model holds: no admitted frame before its L; of frames that still stand in the parser the row that ends
the drain knows, for it comes after them (R61, R440, Assumption 36). -/
def hgIdle (c : Ctl) (n : Nat) : Bool := !(c.hg.landing.any (fun f => f.hg = n))
/-- A headgate begins to drain: NOTICE DRAINING to every ACTIVE station (R440). -/
def hgDrain (c : Ctl) (n : Nat) : Ctl := foldUp 64 (fun c s => if stnState c n s = 1 then hgNotice c n s 3 else c) c
/-- Its prerequisites (R439). -/
def hgReady (c : Ctl) (n : Nat) : Bool :=
  rbit c (hgBase n + 8) 8 && (!rbit c (hgCtrl n) 1 ||
    (decide (rd c (hgBase n + 0x18) ≠ 0) && decide (rd c (hgBase n + 0x10) ≠ 0 ∨ rd c (hgBase n + 0x14) ≠ 0)))
/-- A BLK reset: registers and stations, queued frames and unwritten lines; the context table and the dressing banks stay (R451). LANE_EN falls
with the registers, and PCS_LOCK with it (R389). -/
def hgReset (c : Ctl) (n : Nat) : Ctl :=
  let c := pcsLock n false false c
  let c := resetRegs c (hgBase n) (hgBase n + 0x2000)
  let mine (k : Nat) : Bool := decide (k / 64 = n)
  let drop (l : List LandLine) : List LandLine := l.filter (fun x => x.hg ≠ n)
  updHg c (fun x => { x with landing := x.landing.filter (fun f => f.hg ≠ n), lines := ⟨(x.lines.entries.map (fun e => (e.1, drop e.2))).filter (fun e => !e.2.isEmpty)⟩,
                             heard := smClear x.heard mine, seqSet := smClear x.seqSet mine, gap := smClear x.gap mine,
                             absNote := smClear x.absNote mine, absDue := smClear x.absDue mine, absAt := smClear x.absAt mine,
                             txq := x.txq.filter (fun r => r.hg ≠ n), txFree := smSet x.txFree 0 n 0,
                             resetAt := smSet x.resetAt 0 n (c.time.ftc + 1), offers := x.offers.filter (fun o => o.hg ≠ n), txSeq := smClear x.txSeq mine, lastEvn := smClear x.lastEvn mine })

/-- A context entry that has been written holds a good word (R424). -/
def ctxFresh (c : Ctl) (off : Nat) : Ctl :=
  let w := off % 0x80000
  if 0x800000 ≤ off ∧ off < 0x1000000 ∧ 0x2000 ≤ w ∧ w < 0x4000 then
    let k := (off - 0x800000) / 0x80000 * 1024 + (w - 0x2000) / 8
    updHg c (fun x => { x with ctxWeak := smSet x.ctxWeak false k false, ctxBad := smSet x.ctxBad false k false })
  else c

/-! The commands. -/
/-- PCS_LOCK of a headgate changes (R389). -/
def execPcsLock (hg : Nat) (lock cut : Bool) (s : State) : Out := onCtl (fun c => whenAlive c (pcsLock hg lock cut)) s
/-- A DATA frame, at the instant of the offer of its lines: 349 tc after its last codeword (R391, R423, R430, R436). -/
def execDataFrame (hg : Nat) (fec : FecSeen) (raw : Bytes) (s : State) : Out := onCtl (fun c => whenAlive c (rxFrame 0x01 hg fec raw)) s
/-- A CAL frame (R417, R421, R436). -/
def execCalFrame (hg : Nat) (fec : FecSeen) (raw : Bytes) (s : State) : Out := onCtl (fun c => whenAlive c (rxFrame 0x03 hg fec raw)) s
/-- A HEARTBEAT from a station, 349 tc after its last codeword as for every TYPE (R406, R407, R423). -/
def execHeartbeat (hg : Nat) (fec : FecSeen) (raw : Bytes) (s : State) : Out := onCtl (fun c => whenAlive c (rxFrame 0x02 hg fec raw)) s
/-- A NOTICE from a station (R400). -/
def execNotice (hg : Nat) (fec : FecSeen) (raw : Bytes) (s : State) : Out := onCtl (fun c => whenAlive c (rxFrame 0x05 hg fec raw)) s
/-- A DECISION from a station is dropped (R397). -/
def execDecisionReceived (hg : Nat) (fec : FecSeen) (raw : Bytes) (s : State) : Out := onCtl (fun c => whenAlive c (rxFrame 0x04 hg fec raw)) s
/-- A landing line is written (R430). -/
def execLandingLineWrite (t : Nat) (s : State) : Out := onAll (fun cm => if alive cm.1 then landLine cm t else cm) s
/-- A write of a station's EN (R404). -/
def execStationEn (hg stn : Nat) (en : Bool) (s : State) : Out := onCtl (fun c => if regsServed c then stnEn hg stn en c else c) s
/-- A write of REJOIN (R408). -/
def execRejoin (hg stn : Nat) (s : State) : Out := onCtl (fun c => if regsServed c then stnRejoin hg stn c else c) s
/-- A silent station becomes ABSENT (R405). -/
def execStationAbsent (hg stn : Nat) (s : State) : Out := onCtl (fun c => whenAlive c (stnAbsent hg stn)) s

end Sys2Proof.Machine
end

