-- ==== Sys2Proof/Machine/Decisions.lean ====
section
/-! DEFINITION. The decision merger: pending entries, verdicts, decisions, the deadline guard and DECISION frames (R455 to R498). -/
namespace Sys2Proof.Machine

/-! Registers. -/
def dcGm (p : Nat) : Nat := 0x10104 + 16 * p
def dcLatch (p : Nat) : Nat := 0x10108 + 16 * p
/-- Counters of a partition: 0 TRUE, 1 MISSING, 2 PARTIAL, 3 HOLE, 4 LATE, 5 STOP, 6 LATE_VERDICT, 7 ORPHAN, 8 GM_LATE, 9 GM_DROP,
10 DROP_HG, 11 TRACK_FULL. -/
def dcCnt (p x : Nat) : Nat := 0x12000 + 64 * p + 4 * x
/-- EXPECT and the latched K and DEFAULT_DEC of a partition (R463). -/
def dcExpect (c : Ctl) (p : Nat) : Nat := fld c (dcCfg p) 15 8
def dcK (c : Ctl) (p : Nat) : Nat := fld c (dcLatch p) 6 0
def dcDefault (c : Ctl) (p : Nat) : Bool := rbit c (dcLatch p) 8
/-- K and DEFAULT_DEC are latched at the boundary at which a partition becomes ON (R463). -/
def dcLatchNow (c : Ctl) (p : Nat) : Ctl := wr c (dcLatch p) (defaultDec c p % 2 * 2 ^ 8 + params c p 0 1 % 128)

/-! Pending entries (R459 to R462). -/
/-- A landed DATA frame joins its entry or creates one (R459, R460). An event decided already is a new one (R498). -/
def pendAdd (c : Ctl) (f : Landing) : Ctl :=
  if c.dc.pend.any (fun e => e.hg = f.hg ∧ e.stn = f.stn ∧ e.evn = f.evn ∧ e.part = f.part ∧ e.handAt = none) then c
  else if pendCount c f.hg ≥ 4096 then
    let c := cnt1 c (dcCnt f.part 11)
    if smGet c.dc.fullNote false f.hg then c
    else raise (updDc c (fun x => { x with fullNote := smSet x.fullNote false f.hg true })) 0x3241 f.part (unitOf c 8 0) f.hg
  else
    let e : Pend := { hg := f.hg, stn := f.stn, evn := f.evn, part := f.part, ts := f.ts, tsFtc := f.tsFtc, lpass := f.lpass,
                      k := dcK c f.part }
    pendSync (updDc c (fun x => { x with pend := x.pend ++ [e] })) f.hg
/-- The frame whose L comes first. -/
def firstLanding (l : List Landing) : Option Landing :=
  l.foldl (fun m f => match m with | some g => if f.due < g.due then some f else m | none => some f) none
/-- A frame's landing instant (R429, R432, R446, R459). -/
def landingInstant (c : Ctl) : Ctl :=
  match firstLanding c.hg.landing with
  | none => c
  | some f => match reach c f.due with
    | none => c
    | some c =>
    let c := updHg c (fun x => { x with landing := x.landing.erase f })
    let c := rxArrive c f.tile 7
    if f.cal then c else pendAdd c f

/-! Verdicts (R455 to R458, R461, R465, R467, R495). -/
/-- An entry is the one a reference of a partition names (R461). -/
def pendHit (p ref : Nat) (e : Pend) : Bool :=
  decide (e.part = p ∧ e.hg = bits ref 31 28 ∧ e.stn = bits ref 27 22 ∧ e.evn % 2 ^ 22 = bits ref 21 0)
/-- Combines a contribution of `n` verdicts with an entry (R465). -/
def pendJoin (e : Pend) (n : Nat) (acc : Bool) (tag : Nat) (hole : Bool) : Pend :=
  { e with count := e.count + n, orAcc := e.orAcc || acc, andAcc := e.andAcc && acc, tag := e.tag ||| tag, hole := e.hole || hole }
/-- Changes the first element that satisfies `q`. -/
def updFirst {α : Type} (q : α → Bool) (f : α → α) : List α → List α
  | [] => []
  | a :: r => if q a then f a :: r else a :: updFirst q f r
/-- A contribution reaches the entry a reference names: it is combined, or counted as LATE_VERDICT or ORPHAN (R461, R465, R467). -/
def contribute (c : Ctl) (p ref n : Nat) (acc : Bool) (tag : Nat) (hole : Bool) : Ctl :=
  match c.dc.pend.find? (pendHit p ref) with
  | some e =>
    if e.handAt = none then updDc c (fun x => { x with pend := updFirst (pendHit p ref) (fun e => pendJoin e n acc tag hole) x.pend })
    else cnt1 c (dcCnt p 6)
  | none => if c.dc.gone.any (pendHit p ref) then cnt1 c (dcCnt p 6) else cnt1 c (dcCnt p 7)
/-- A verdict for another Plezor's event joins this pass's partial of its reference (R469). -/
def gatherAdd (c : Ctl) (home p ref : Nat) (acc : Bool) (tag : Nat) (hole : Bool) : Ctl :=
  let q (g : Partial) : Bool := decide (g.home = home ∧ g.part = p ∧ g.ref = ref)
  let and_ := rbit c (dcCfg p) 7
  if c.dc.gather.any q then
    updDc c (fun x => { x with gather := updFirst q (fun g =>
      { g with count := satU 8 (g.count + 1), acc := if and_ then g.acc && acc else g.acc || acc, tag := g.tag ||| tag,
               hole := g.hole || hole }) x.gather })
  else updDc c (fun x => { x with gather := x.gather ++ [{ home, part := p, ref, count := 1, acc, tag, hole }] })
/-- A verdict at the merger (R456, R457, R461, R469). In a bench fabric global merge is idle. -/
def verdict (c : Ctl) (w : DecWord) : Ctl :=
  let p := w.part
  let v := w.verdict
  let home := bits v 31 16
  if p ≥ 32 then c
  else if bits v 7 2 ≠ 0 then cnt1 c (dcCnt p 7)
  else if grantFlag c p 2 ∧ home ≠ plezorId c then
    if bench c then cnt1 c (dcCnt p 7) else gatherAdd c home p w.ref (bitN v 0) (bits v 15 8) (bitN v 1)
  else contribute c p w.ref 1 (bitN v 0) (bits v 15 8) (bitN v 1)
/-- The DECW word that reaches the merger first. -/
def firstDecw (l : List DecWord) : Option DecWord :=
  l.foldl (fun m f => match m with | some g => if f.due < g.due then some f else m | none => some f) none
/-- A DECW word arrives, 8 tc after its issue (R271, R458). -/
def verdictArrival (c : Ctl) : Ctl :=
  match firstDecw c.noc.decw with
  | none => c
  | some w => match reach c w.due with
    | none => c
    | some c => verdict { c with noc := { c.noc with decw := c.noc.decw.erase w } } w
/-- A merge parcel arrives at its home (R470, R474, R496). -/
def mergeIn (c : Ctl) (b : Bytes) : Ctl :=
  let p := leAt b 4 1 % 32
  let late := decide (boundaryOf c (leAt b 6 6) + dcWait c p < c.time.ftc)
  foldUp (min (leAt b 5 1) 30) (fun c i =>
    let o := 0x10 + 8 * i
    if late then cnt1 c (dcCnt p 8)
    else contribute c p (leAt b o 4) (leAt b (o + 6) 1) (bitN (leAt b (o + 4) 1) 0) (leAt b (o + 5) 1) (bitN (leAt b (o + 4) 1) 1)) c

/-! Decisions (R464, R466, R476 to R478, R488, R490, R494). -/
/-- The entry receives an answer: its REASON, which is counted when it is a default, and its scheduled hand-off. -/
def answer (c : Ctl) (e : Pend) (reason : Nat) (acc : Bool) (tag at_ pass : Nat) : Ctl :=
  let c := if reason = 0 then c else cnt1 c (dcCnt e.part reason)
  let e' := { e with reason := reason, accept := acc, tag := tag, handAt := some at_, dpass := pass % 2 ^ 48 }
  updDc c (fun x => { x with pend := updFirst (fun y => decide (y = e)) (fun _ => e') x.pend })
/-- The decision and REASON of R466. -/
def decideEntry (c : Ctl) (e : Pend) : Ctl :=
  let at_ := decideFtc c e
  let d := dcDefault c e.part
  let x := dcExpect c e.part
  let pass := c.time.pass
  let hole := e.hole || (decide (e.count < x) && decide (smGet c.dc.holeAt 0 e.part > dueFtc c e))
  if hole then answer c e 3 d 0 (at_ + 50) pass
  else if e.count = 0 then answer c e 1 d 0 (at_ + 50) pass
  else if e.count < x then answer c e 2 d 0 (at_ + 50) pass
  else answer c e 0 (if rbit c (dcCfg e.part) 7 then e.andAcc else e.orAcc) e.tag (at_ + 50) pass
/-- Every entry whose due release the boundary is, is closed; those without GMERGE that the guard leaves are decided (R464, R468). -/
def dueRelease (c : Ctl) : Ctl :=
  if c.time.epoch = false then c
  else
    let due := c.dc.pend.filter (fun e => e.closed = none ∧ e.handAt = none ∧ e.lpass + e.k + 1 ≤ c.time.pass)
    due.foldl (fun c e =>
      let e' := { e with closed := some (boundaryOf c (e.lpass + e.k + 1)) }
      let c := updDc c (fun x => { x with pend := updFirst (fun y => decide (y = e)) (fun _ => e') x.pend })
      if grantFlag c e.part 2 ∨ guarded c e' then c else decideEntry c e') c
/-- The smallest of some instants. -/
def soonest (l : List Nat) : Option Nat := l.foldl (fun m t => match m with | some u => some (min u t) | none => some t) none
/-- The closed entries of GMERGE partitions whose WAIT ends first are decided (R464, R466). -/
def globalDecision (c : Ctl) : Ctl :=
  let wait := c.dc.pend.filter (fun e => e.closed.isSome ∧ e.handAt = none ∧ guarded c e = false)
  match soonest (wait.map (decideFtc c)) with
  | none => c
  | some t => match reach c t with
    | none => c
    | some c =>
    (wait.filter (fun e => decideFtc c e = t)).foldl decideEntry c
/-- The guard decides the entries whose G comes first (R477). -/
def guardDefault (c : Ctl) : Ctl :=
  let late := c.dc.pend.filter (fun e => e.handAt = none ∧ guarded c e)
  match soonest (late.map (fun e => (guardFtc c e).getD 0)) with
  | none => c
  | some t => match reach c t with
    | none => c
    | some c =>
    (late.filter (fun e => guardFtc c e = some t)).foldl
      (fun c e => answer c e 4 (dcDefault c e.part) 0 (max t c.time.ftc) c.time.pass) c
/-- Every pending entry is decided at an epoch stop (R490). The partials that the stop's boundary gathers have no slot to leave in (R469,
R471): they are dropped. -/
def dcStop (c : Ctl) : Ctl :=
  let at_ := c.time.ftc + 50
  let c := c.dc.gather.foldl (fun c g => cnt1 c (dcCnt g.part 9)) c
  let c := updDc c (fun x => { x with gather := [], parcels := [] })
  (c.dc.pend.filter (fun e => e.handAt = none)).foldl (fun c e => answer c e 5 (dcDefault c e.part) 0 at_ c.time.pass) c

/-! The DECISION frame (R480 to R484). -/
/-- One entry of a DECISION frame (R480). -/
def decBytes (e : Pend) : Bytes :=
  leBytes 6 e.evn ++ leBytes 1 e.tag ++ leBytes 1 (b2n e.accept * 128 + e.reason * 16) ++ leBytes 1 e.part ++ leBytes 1 (satU 8 e.count) ++
    zeroBytes 2
/-- TSPEC and body of a DECISION frame (R480). -/
def decBody (es : List Pend) (dpass : Nat) : Bytes := leBytes 6 dpass ++ leBytes 1 es.length ++ [0] ++ es.flatMap decBytes
/-- Puts an entry before the first whose EVN is not smaller. -/
def insEvn (e : Pend) : List Pend → List Pend
  | [] => [e]
  | f :: r => if e.evn ≤ f.evn then e :: f :: r else f :: insEvn e r
/-- Entries in ascending EVN; equal ones keep their order. -/
def byEvn : List Pend → List Pend
  | [] => []
  | e :: r => insEvn e (byEvn r)
/-- When a decided entry can be handed over: at its scheduled hand-off, or when its headgate's pipeline is free (R482). -/
def handFtc (c : Ctl) (e : Pend) : Nat := max (e.handAt.getD 0) (smGet c.hg.txFree 0 e.hg)
/-- An order of hand-offs: instant, headgate, scheduled instant, station (R481, R482). -/
def handKey (c : Ctl) (e : Pend) : Nat := ((handFtc c e * 16 + e.hg) * 2 ^ 64 + e.handAt.getD 0) * 64 + e.stn
/-- The next DECISION frame is handed to its headgate and transmitted, or counted (R410, R440, R441, R481 to R484). -/
def handoff (c : Ctl) : Ctl :=
  match (soonest ((c.dc.pend.filter (fun e => e.handAt.isSome)).map (handKey c))).bind (fun key =>
    c.dc.pend.find? (fun e => e.handAt.isSome ∧ handKey c e = key)) with
  | none => c
  | some e =>
    let es := (byEvn (c.dc.pend.filter (fun x => x.handAt.isSome ∧ handKey c x = handKey c e))).take 19
    let n := e.hg
    let s := e.stn
    let t := handFtc c e
    match reach c t with
    | none => c
    | some c =>
    let c := txRun c n
    let kept := es.filter (fun e => e.reason = 4)
    let c := updDc c (fun x => { x with pend := x.pend.filter (fun e => !es.contains e), gone := x.gone ++ kept })
    let c := pendSync c n
    if hgState c n ≠ 1 then es.foldl (fun c e => cnt1 c (dcCnt e.part 10)) c
    else if stnState c n s = 2 then cnt1 c (hgCnt n 12)
    else if stnState c n s ≠ 1 then cnt1 c (hgCnt n 13)
    else
      let c := es.foldl (fun c e => if e.reason = 0 then cnt1 c (dcCnt e.part 0) else c) c
      hgSend c n s 0x04 (decBody es ((es.head?.map (·.dpass)).getD 0)) t
/-- What a boundary forgets: the reports of the pass (R460). The entries that the guard decided stay known (R467). -/
def dcForget (c : Ctl) : Ctl := updDc c (fun x => { x with fullNote := {} })
/-- A BLK reset of a headgate removes its entries (R492). -/
def dcHgReset (c : Ctl) (n : Nat) : Ctl :=
  let mine := c.dc.pend.filter (fun e => e.hg = n)
  let c := mine.foldl (fun c e => cnt1 c (dcCnt e.part 10)) c
  pendSync (updDc c (fun x => { x with pend := x.pend.filter (fun e => e.hg ≠ n) })) n

/-! The commands. -/
/-- A landing instant (R429). -/
def execLandingInstant (s : State) : Out := onCtl (fun c => whenAlive c landingInstant) s
/-- A verdict arrives (R461). -/
def execVerdictArrival (s : State) : Out := onCtl (fun c => whenAlive c verdictArrival) s
/-- The due releases of a boundary (R464). -/
def execDueRelease (s : State) : Out := onCtl (fun c => whenAlive c dueRelease) s
/-- A decision after WAIT (R466). -/
def execGlobalDecision (s : State) : Out := onCtl (fun c => whenAlive c globalDecision) s
/-- A guard instant (R477). -/
def execGuardDefault (s : State) : Out := onCtl (fun c => whenAlive c guardDefault) s
/-- A hand-off (R481). -/
def execDecisionHandoff (s : State) : Out := onCtl (fun c => whenAlive c handoff) s

end Sys2Proof.Machine
end

