-- ==== Sys2Proof/Machine/Crypto.lean ====
section
/-! DEFINITION. XTS-AES-256 under IEEE 1619, by which pool lines are stored (R579). Assumption 20: the standard itself, which the
manual names and does not print. -/
namespace Sys2Proof.Machine

/-- Doubling in GF(2^8) of AES. -/
def gf2 (b : Nat) : Nat := if b ≥ 128 then (2 * b) ^^^ 0x11B else 2 * b
/-- Multiplication in GF(2^8), `n` bits of the first factor from bit 0 up. -/
def gfMulN : Nat → Nat → Nat → Nat
  | 0, _, _ => 0
  | n + 1, a, b => (if a % 2 = 1 then b else 0) ^^^ gfMulN n (a / 2) (gf2 b)
/-- Multiplication in GF(2^8). -/
def gfMul (a b : Nat) : Nat := gfMulN 8 a b
/-- The 254th power, which is the inverse, with 0 for 0. -/
def gfInv (a : Nat) : Nat :=
  let a2 := gfMul a a
  let a4 := gfMul a2 a2
  let a8 := gfMul a4 a4
  let a16 := gfMul a8 a8
  let a32 := gfMul a16 a16
  let a64 := gfMul a32 a32
  gfMul (gfMul (gfMul a2 a4) (gfMul a8 a16)) (gfMul (gfMul a32 a64) (gfMul a64 a64))
/-- A byte rotated left by `n` bits. -/
def rotl8 (b n : Nat) : Nat := (b <<< n) % 256 + b >>> (8 - n)
/-- The S-box. -/
def aesSub (a : Nat) : Nat :=
  let b := gfInv a
  b ^^^ rotl8 b 1 ^^^ rotl8 b 2 ^^^ rotl8 b 3 ^^^ rotl8 b 4 ^^^ 0x63
/-- The inverse S-box. -/
def aesInvSub (a : Nat) : Nat := gfInv (rotl8 a 1 ^^^ rotl8 a 3 ^^^ rotl8 a 6 ^^^ 0x05)
/-- Exclusive or of two lists of bytes. -/
def xorL (a b : List Nat) : List Nat := List.zipWith (· ^^^ ·) a b
/-- The 60 words of the key schedule of a 32-byte key. -/
def aesKey (key : List Nat) : List (List Nat) :=
  let w0 := (List.range 8).map (fun i => (key.drop (4 * i)).take 4)
  (List.range 52).foldl (fun w k =>
    let i := k + 8
    let t := w.getD (i - 1) []
    let t := if i % 8 = 0 then xorL ((t.drop 1 ++ t.take 1).map aesSub) [2 ^ (i / 8 - 1), 0, 0, 0]
      else if i % 8 = 4 then t.map aesSub else t
    w ++ [xorL (w.getD (i - 8) []) t]) w0
/-- Round key `r`, 16 bytes. -/
def roundKey (w : List (List Nat)) (r : Nat) : List Nat := ((w.drop (4 * r)).take 4).flatten
/-- Bytes picked by their old places. -/
def permL (p : Nat → Nat) (b : List Nat) : List Nat := (List.range 16).map (fun i => b.getD (p i) 0)
/-- The shift of rows. -/
def shiftRows (b : List Nat) : List Nat := permL (fun i => i % 4 + 4 * ((i / 4 + i % 4) % 4)) b
/-- The inverse shift of rows. -/
def invShiftRows (b : List Nat) : List Nat := permL (fun i => i % 4 + 4 * ((i / 4 + 4 - i % 4) % 4)) b
/-- The mix of columns with the given first row of factors. -/
def mixWith (f : List Nat) (b : List Nat) : List Nat :=
  (List.range 16).map (fun i =>
    (List.range 4).foldl (fun s k => s ^^^ gfMul (f.getD ((k + 4 - i % 4) % 4) 0) (b.getD (4 * (i / 4) + k) 0)) 0)
/-- AES-256 of one block of 16 bytes. -/
def aesEnc (w : List (List Nat)) (b : List Nat) : List Nat :=
  let s := xorL b (roundKey w 0)
  let s := (List.range 13).foldl (fun s r =>
    xorL (mixWith [2, 3, 1, 1] (shiftRows (s.map aesSub))) (roundKey w (r + 1))) s
  xorL (shiftRows (s.map aesSub)) (roundKey w 14)
/-- The inverse of AES-256. -/
def aesDec (w : List (List Nat)) (b : List Nat) : List Nat :=
  let s := (invShiftRows (xorL b (roundKey w 14))).map aesInvSub
  let s := (List.range 13).foldl (fun s r =>
    (invShiftRows (mixWith [14, 11, 13, 9] (xorL s (roundKey w (13 - r))))).map aesInvSub) s
  xorL s (roundKey w 0)
/-- The low `n` bytes of a number. -/
def natBytes (n v : Nat) : List Nat := (List.range n).map (fun i => bits v (8 * i + 7) (8 * i))
/-- Multiplication by alpha in GF(2^128), little-endian (IEEE 1619). -/
def xtsAlpha (t : Nat) : Nat := if bitN t 127 then (2 * t) % 2 ^ 128 ^^^ 0x87 else 2 * t
/-- The tweak of block `j` of the data unit. -/
def xtsTweak : Nat → Nat → Nat
  | 0, t => t
  | j + 1, t => xtsAlpha (xtsTweak j t)
/-- A number of bytes. -/
def bytesNat : List Nat → Nat
  | [] => 0
  | b :: r => b + 256 * bytesNat r
/-- `n` blocks from block `j` of the data unit whose number is `unit`, under a 64-byte key: Key1 in bytes 0 to 31 encrypts the
data, Key2 in bytes 32 to 63 the tweak (R579). -/
def xtsBlocks (dec : Bool) (key : Nat) (unit j : Nat) (data : List Nat) (n : Nat) : List Nat :=
  let w1 := aesKey (natBytes 32 key)
  let w2 := aesKey (natBytes 32 (key / 2 ^ 256))
  let t0 := bytesNat (aesEnc w2 (natBytes 16 unit))
  (List.range n).flatMap (fun i =>
    let t := natBytes 16 (xtsTweak (j + i) t0)
    let x := xorL ((data.drop (16 * i)).take 16) t
    xorL (if dec then aesDec w1 x else aesEnc w1 x) t)
/-- One beat of 32 bytes at a DM address, as stored (R579): the data unit is the line. -/
def xtsBeat (dec : Bool) (key a data : Nat) : Nat :=
  bytesNat (xtsBlocks dec key (bits a 39 6) (a / 32 % 2 * 2) (natBytes 32 data) 2)

end Sys2Proof.Machine
end

