-- ==== Sys2Proof/Machine/DeviceMemory.lean ====
section
/-! DEFINITION. Device memory, its errors and repairs, and the near-memory engines (R499 to R549). -/
namespace Sys2Proof.Machine

/-! CXL event records (R553). -/
/-- The CXL timestamp: its base and the time since it was set, in ns; 0 when it was never set. -/
def cxlTime (c : Ctl) : Nat :=
  match c.pool.tsAt with
  | some t => c.pool.tsBase + (c.time.ftc - t) * 4 / 5
  | none => 0
/-- Adds a record to a log of a host identity: 64 records, a further one is lost and counted. On LOCAL_HOST's logs the interrupt
policy's byte of the log sends an MSI-X message (Assumption 21). -/
def cxlLog (c : Ctl) (h log : Nat) (r : CxlRec) : Ctl :=
  let k := h * 8 + log
  let l := smGet c.pool.logs [] k
  if l.length ≥ 64 then { c with pool := { c.pool with overflow := smUpd c.pool.overflow 0 k (· + 1) } }
  else
    let c := { c with pool := { c.pool with logs := smSet c.pool.logs [] k (l ++ [{ r with ts := cxlTime c }]) } }
    let pol := bits c.pool.policy (8 * log + 7) (8 * log)
    if h = fld c 0x20000 13 8 ∧ pol % 4 = 1 then emit c (.msix 0 (pol / 16)) else c

/-! Host-range entries and granules (R557, PO_GT_g). -/
/-- VALID, RO, SHARED, SR, HOST, FIRST and COUNT of a host-range entry. -/
def hrtValid (e : Nat) : Bool := bitN e 63
def hrtRo (e : Nat) : Bool := bitN e 62
def hrtShared (e : Nat) : Bool := bitN e 61
def hrtSr (e : Nat) : Nat := bits e 59 54
def hrtHost (e : Nat) : Nat := bits e 53 48
def hrtFirst (e : Nat) : Nat := bits e 9 0
def hrtCount (e : Nat) : Nat := bits e 41 32 + 1
/-- The entry covers granule `g`. -/
def hrtCovers (e g : Nat) : Bool := decide (hrtFirst e ≤ g ∧ g < hrtFirst e + hrtCount e)
/-- The VALID entries, with their numbers. -/
def hrtEntries (c : Ctl) : List (Nat × Nat) := c.pool.hrt.entries.filter (fun e => hrtValid e.2)
/-- The VALID entries of a host identity. -/
def hrtOf (c : Ctl) (h : Nat) : List (Nat × Nat) := (hrtEntries c).filter (fun e => hrtHost e.2 = h)
def gtHost (c : Ctl) (g : Nat) : Nat := bits (smGet c.pool.gt 0 g) 5 0
/-- The endpoint is in endpoint-fatal state (R631). -/
def poolIsFatal (c : Ctl) : Bool := rbit c 0x20014 0
/-- Puts a granule in a state; in endpoint-fatal state the states are frozen (R645). -/
def setGt (c : Ctl) (g st sr host : Nat) : Ctl :=
  if poolIsFatal c then c
  else { c with pool := { c.pool with gt := smSet c.pool.gt 0 g (st * 2 ^ 16 + sr % 64 * 2 ^ 8 + host % 64) } }
/-- State codes of a granule. -/
def gNONPOOL : Nat := 0
def gOFFERED : Nat := 3
def gMAPPED : Nat := 4
def gRELEASING : Nat := 6
def gQUARANTINE : Nat := 7
def gBROKEN : Nat := 8

/-! Descriptors (R521, R522, R524, R525). -/
/-- Fields of a descriptor. -/
def dOp (d : Bytes) : Nat := leAt d 0 1
def dRedop (d : Bytes) : Nat := leAt d 1 1
def dStype (d : Bytes) : Nat := leAt d 2 1
def dNotify (d : Bytes) : Nat := leAt d 3 1
def dLen (d : Bytes) : Nat := leAt d 4 4
def dSrc (d : Bytes) : Nat := leAt d 8 8
def dDst (d : Bytes) : Nat := leAt d 0x10 8
def dPattern (d : Bytes) : Nat := leAt d 0x18 8
def dTile (d : Bytes) : Nat := leAt d 0x20 2
def dCmpl (d : Bytes) : Nat := leAt d 0x24 4
def dTag (d : Bytes) : Nat := leAt d 0x28 4
/-- A completion record, and an arrival, are asked for. -/
def dRec (d : Bytes) : Bool := bitN (dNotify d) 7
def dCnt (d : Bytes) : Bool := bitN (dNotify d) 6
/-- EXACT_ADD whose source elements are INT32 or FP32: the destination is 8 times as long (R522). -/
def dWide (d : Bytes) : Bool := decide (dOp d = 4 ∧ dRedop d = 1 ∧ dStype d < 2)
/-- The destination's length (R522). -/
def dDstLen (d : Bytes) : Nat := if dWide d then 8 * dLen d else dLen d
/-- The source, and the destination, lie in device memory. -/
def srcDm (d : Bytes) : Bool := decide (dOp d ≠ 1 ∧ dOp d ≠ 6)
def dstDm (d : Bytes) : Bool := decide (dOp d ≠ 5)
/-- DM addresses of the beats of a range on a pseudo-channel, rising. -/
def beatsOn (q a n : Nat) : List Nat := ((List.range (n / 32)).map (fun i => a + 32 * i)).filter (fun x => pchOf x = q)
/-- The numbers of two rising lists, rising and each once, for as many steps as their lengths allow. -/
def unionUp : Nat → List Nat → List Nat → List Nat
  | _, [], t => t
  | _, s, [] => s
  | 0, _, _ => []
  | n + 1, a :: s, b :: t =>
    if a < b then a :: unionUp n s (b :: t) else if a = b then a :: unionUp n s t else b :: unionUp n (a :: s) t
/-- The beats an operation reads on a pseudo-channel, rising (R532). -/
def readBeats (d : Bytes) (q : Nat) : List Nat :=
  let s := if srcDm d then beatsOn q (dSrc d) (dLen d) else []
  let t := if dOp d = 3 ∨ dOp d = 4 then beatsOn q (dDst d) (dDstLen d) else []
  unionUp (s.length + t.length) s t
/-- The beats an operation writes on a pseudo-channel, rising. -/
def writeBeats (d : Bytes) (q : Nat) : List Nat :=
  if dOp d = 3 ∨ dOp d = 5 then [] else beatsOn q (dDst d) (dDstLen d)
/-! Beats of device memory (R500 to R515). -/
/-- The DM address of an offset of a pseudo-channel (R501). -/
def dmAddr (q off : Nat) : Nat :=
  bits off 28 22 * 2 ^ 31 + q / 64 * 2 ^ 28 + bits off 21 8 * 2 ^ 14 + q % 64 * 2 ^ 8 + off % 2 ^ 8
/-- HB_PCH_FAILw. -/
def hbFail (q : Nat) : Nat := 0x5040 + 4 * (q / 32)
/-- A pseudo-channel is failed. -/
def pchFailed (c : Ctl) (q : Nat) : Bool := rbit c (hbFail q) (q % 32)
/-- A pseudo-channel of the stack of granule `g` is failed. -/
def granFailed (c : Ctl) (g : Nat) : Bool := (List.range 64).any (fun i => pchFailed c (64 * (g % 8) + i))
/-- An operation in progress that touches the pseudo-channel will report STATUS 0x04 (R545). -/
def hurtOp (q : Nat) (o : NmeOp) : NmeOp :=
  if o.status = 0 ∧ o.fin = none ∧ (readBeats o.desc q ++ writeBeats o.desc q) ≠ [] then { o with hurt := true } else o
/-- A pseudo-channel becomes failed: its bit, its event, with `note` the Failure records of the hosts with entries on its stack, and FREE
granules of the stack become BROKEN (R513, R565, R626, R629). A failed one stays so. -/
def pchFails (note : Bool) (c : Ctl) (q why : Nat) : Ctl :=
  if pchFailed c q then c
  else
    let c := setBit c (hbFail q) (q % 32) true
    let c := foldUp 32 (fun c p => { c with nme := { c.nme with ops := smUpd c.nme.ops [] p (·.map (hurtOp q)) } }) c
    let c := { c with nme := { c.nme with fixes := c.nme.fixes.filter (fun a => pchOf a ≠ q) } }
    let c := raise c 0x2283 noPart (unitBlock c 0x0A) (q + why * 2 ^ 9)
    let s := q / 64
    let c := (if note then hrtEntries c else []).foldl (fun c e =>
      if (List.range (hrtCount e.2)).any (fun i => (hrtFirst e.2 + i) % 8 = s) then
        cxlLog c (hrtHost e.2) 2 { kind := 0, what := 3, dpa := hrtFirst e.2 * 2 ^ 28, len := hrtCount e.2 * 2 ^ 28, comp := q }
      else c) c
    foldUp 1024 (fun c g => if g % 8 = s ∧ gtState c g = gFREE then setGt c g gBROKEN 0 0 else c) c
/-- A pseudo-channel fails by itself. -/
def failPch (c : Ctl) (q why : Nat) : Ctl := pchFails true c q why
/-- A stack fails as a whole: each of its pseudo-channels fails, with one record per entry (R513, R630). -/
def failStack (c : Ctl) (s why : Nat) : Ctl :=
  match ((List.range 64).map (64 * s + ·)).filter (fun q => !pchFailed c q) with
  | [] => c
  | q :: r => r.foldl (fun c q => pchFails false c q why) (pchFails true c q why)
/-- Data of a beat as stored. -/
def dmBeat (m : Mem) (a : Nat) : BitVec 256 := BitVec.ofNat 256 (readLe m.dm a 32)
/-- A beat read: a failed pseudo-channel delivers poison; a correctable error is corrected in the data and counted, with one CORR
event per pseudo-channel and pass; the first read of an uncorrectable beat is counted, recorded and reported, and every such read may fail
the pseudo-channel (R509, R510, R513, R514). -/
def dmRead (cm : CM) (a : Nat) : CM × BitVec 256 × Bool :=
  let (c, m) := cm
  let q := pchOf a
  let b := a / 32
  if pchFailed c q then (cm, 0, true)
  else if smGet m.poison false b then (cm, dmBeat m a, true)
  else if smGet m.badBeat false b then
    let c :=
      if smGet c.nme.seen false b then c
      else
        let own := granOwner c (bits a 37 28)
        let c := { c with nme := { c.nme with seen := smSet c.nme.seen false b true } }
        let c := wr64 (cnt1 c 0x5014) 0x5020 (a % 2 ^ 40)
        raise c 0x2282 (partOf own) (unitBlock c 0x0A) (a % 2 ^ 40 + own * 2 ^ 40)
    let c := { c with nme := { c.nme with unc := smUpd c.nme.unc 0 q (· + 1) } }
    let thr := fld c 0x5028 15 0
    let c := if thr ≠ 0 ∧ smGet c.nme.unc 0 q ≥ thr then failPch c q 1 else c
    ((c, m), dmBeat m a, true)
  else if smGet m.weakBeat false b then
    let c := cnt1 c 0x5010
    let c := if smGet c.nme.corr false q then c
      else raise { c with nme := { c.nme with corr := smSet c.nme.corr false q true } } 0x2281 noPart (unitBlock c 0x0A) q
    ((c, m), dmBeat m a, false)
  else (cm, dmBeat m a, false)
/-- A beat written, with data or with the poison code: its code is replaced; on a failed pseudo-channel it is dropped and counted
(R511, R514). A patrol rewrite of the beat is dropped (R519). -/
def dmWrite (cm : CM) (a : Nat) (d : BitVec 256) (psn : Bool) : CM :=
  let (c, m) := cm
  let b := a / 32
  if pchFailed c (pchOf a) then (cnt1 c 0x5018, m)
  else
    ({ c with nme := { c.nme with seen := smSet c.nme.seen false b false, fixes := c.nme.fixes.filter (· ≠ 32 * b) } },
     { m with dm := writeBytes m.dm (32 * b) (leBytes 32 d.toNat), poison := smSet m.poison false b psn,
              badBeat := smSet m.badBeat false b false, weakBeat := smSet m.weakBeat false b false })
/-- Where slot `s` of the pass in progress starts (R140, R141). -/
def slotStart (c : Ctl) (s : Nat) : Nat := c.time.passAt + 16 * s
/-- FTC from which a slot of a pseudo-channel can still serve: neither past nor used (R141, R532). -/
def slotFree (c : Ctl) (q : Nat) : Nat := max c.time.ftc (smGet c.nme.slotNext 0 q)
/-- The start of a slot of a pseudo-channel that serves `owner`: slot `s` of this pass, neither past nor used, while a frame plan is in
force; the first instant that no earlier transfer takes otherwise, unless the stack is in self-refresh (R148). -/
def slotFor (c : Ctl) (q s owner : Nat) : Option Nat :=
  if inForce c then
    if q < 512 ∧ s < hslots c ∧ hbmOwner c q s = owner ∧ slotStart c s ≥ slotFree c q then some (slotStart c s) else none
  else if pchAsleep c q then none else some (slotFree c q)
/-- The start of the owner's next slot of a pseudo-channel in the pass in progress (R141, R148). -/
def nextSlot (c : Ctl) (q owner : Nat) : Option Nat :=
  if inForce c then (List.range (hslots c)).findSome? (fun s => slotFor c q s owner) else slotFor c q 0 owner
/-- The slot of a pseudo-channel that starts at `t` is used: FTC has come to it. -/
def useSlot (c : Ctl) (q t : Nat) : Ctl :=
  let c := advanceTo c t
  { c with nme := { c.nme with slotNext := smSet c.nme.slotNext 0 q (t + 16) } }

/-! Checks (R524, R525). -/
/-- STATUS 0x01 (R524). -/
def badFormat (d : Bytes) : Bool :=
  let op := dOp d
  let red := decide (op = 4)
  let tl := decide (op = 5 ∨ op = 6)
  decide (op = 0 ∨ op > 6) || (if red then decide (dRedop d = 0 ∨ dRedop d > 9) else decide (dRedop d ≠ 0)) ||
  (if red && decide (dRedop d = 1) then decide (dStype d > 2) else decide (dStype d ≠ 0)) ||
  decide (bits (dNotify d) 5 3 ≠ 0) || decide (dNotify d % 8 > 5) ||
  decide (dLen d % 64 ≠ 0 ∨ dLen d < 64 ∨ dLen d > 2 ^ 28) ||
  (decide (op = 1) && decide (dSrc d ≠ 0)) || (decide (op ≠ 1) && decide (dPattern d ≠ 0)) ||
  (!tl && decide (dTile d ≠ 0)) || decide (leAt d 0x22 2 ≠ 0) || !(d.drop 0x2C).all (fun b => decide (b = 0)) ||
  decide (dSrc d % 64 ≠ 0) || decide (dDst d % 64 ≠ 0) || (dRec d && decide (dCmpl d % 64 ≠ 0))
/-- Every granule that `n` bytes from DM address `a` touch. -/
def granules (a n : Nat) : List Nat := (List.range ((a + n - 1) / 2 ^ 28 + 1 - a / 2 ^ 28)).map (a / 2 ^ 28 + ·)
/-- A range obeys R525: the partition's granules, or, for a COPY's destination, granted shared regions. -/
def rangeOk (c : Ctl) (p : Nat) (copyDst : Bool) (a n : Nat) : Bool :=
  decide (a + n ≤ 2 ^ 38) && (granules a n).all (fun g => decide (granOwner c g = p) ||
    (copyDst && decide (granOwner c g = 0x40 ∧ gtState c g = gSHARED) && bitN (srMask c p) (gtSr c g)))
/-- STATUS 0x02 (R524, R525). -/
def badRange (c : Ctl) (p : Nat) (d : Bytes) : Bool :=
  let tmOk (a n : Nat) : Bool := decide (a + n ≤ 2 ^ 19)
  (srcDm d && !rangeOk c p false (dSrc d) (dLen d)) || (dstDm d && !rangeOk c p (decide (dOp d = 2)) (dDst d) (dDstLen d)) ||
  (decide (dOp d = 5) && !tmOk (dDst d) (dLen d)) || (decide (dOp d = 6) && !tmOk (dSrc d) (dLen d)) ||
  (decide (dOp d = 5 ∨ dOp d = 6) && decide (tileOwner c (dTile d) ≠ p)) || (dRec d && !tmOk (dCmpl d) 64)
/-- STATUS 0x03 (R524): only where both ranges lie in device memory can they share a byte. -/
def badOverlap (d : Bytes) : Bool := decide (dOp d = 2 ∨ dOp d = 4) && meets (dSrc d) (dLen d) (dDst d) (dDstLen d)
/-- The STATUS of a refusal; 0 for an operation that runs (R524). -/
def descStatus (c : Ctl) (p : Nat) (d : Bytes) : Nat :=
  if badFormat d then 1 else if badRange c p d then 2 else if badOverlap d then 3 else 0

/-! Acceptance (R523, R526). -/
/-- Stores the operations of a partition. -/
def putOps (c : Ctl) (p : Nat) (l : List NmeOp) : Ctl := { c with nme := { c.nme with ops := smSet c.nme.ops [] p l } }
/-- Adds to NME k's busy count for a partition (R535). -/
def nmeBusy (c : Ctl) (p k n : Nat) : Ctl := { c with nme := { c.nme with busy := smUpd c.nme.busy 0 (p * 256 + k) (· + n) } }
/-- In order of acceptance, simultaneous ones by lead (R530). -/
def insertOp (o : NmeOp) (l : List NmeOp) : List NmeOp :=
  l.filter (fun x => decide (x.acc < o.acc ∨ (x.acc = o.acc ∧ x.lead ≤ o.lead))) ++ [o] ++
  l.filter (fun x => !decide (x.acc < o.acc ∨ (x.acc = o.acc ∧ x.lead ≤ o.lead)))
/-- The lead accepts a descriptor: the tile's credit returns, 8 tc count for the lead, a failed check is reported and counted, and
its end stands (R523, R526, R535). -/
def acceptOp (c : Ctl) (h : NmeHand) : Ctl :=
  let st := descStatus c h.part h.desc
  let c := updTile c h.tile (fun x => { x with nmeq := x.nmeq - 1 })
  let c := { c with noc := { c.noc with nmeq := c.noc.nmeq.erase h } }
  let o : NmeOp := { num := c.nme.count, tile := h.tile, part := h.part, lead := h.nme, desc := h.desc, acc := c.time.ftc, accTs := stamp c, status := st,
                     fin := if st = 0 then none else some (c.time.ftc + 8),
                     finTs := if st = 0 then 0 else stampAt c (c.time.ftc + 8) }
  let c := { c with nme := { c.nme with count := c.nme.count + 1 } }
  let c := nmeBusy (putOps c h.part (insertOp o (nmeOps c h.part))) h.part h.nme 8
  if st = 0 then c
  else raise (cnt1 c (0x6104 + 16 * h.part)) 0x52C1 h.part (unitOf c 1 h.nme) (st + dTag h.desc * 2 ^ 32)
/-- The oldest descriptor handed to an NME for a partition is accepted, 24 tc after its NMEQ or later, if the lead queue has room and
its OP is `op`; an OP that names no operation is accepted under any row, and refused (R523, R524). -/
def acceptNext (op nme p : Nat) (c : Ctl) : Ctl :=
  match c.noc.nmeq.find? (fun h => h.nme = nme ∧ h.part = p) with
  | none => c
  | some h =>
    if ((nmeOps c p).filter (fun o => o.lead = nme)).length < 8 ∧ (dOp h.desc = op ∨ dOp h.desc = 0 ∨ dOp h.desc > 6) then
      match reach c h.due with | some c => acceptOp c h | none => c
    else c

/-! Beats of an operation (R530 to R532). -/
/-- A beat already read. -/
def beatOf (o : NmeOp) (a : Nat) : Option BeatIn := smGet o.beats none (a / 32)
/-- When the beat read at `a` is at the NME of pseudo-channel `q` (R531). -/
def readyAt (o : NmeOp) (a q : Nat) : Option Nat :=
  (beatOf o a).map (fun b => b.slot + 40 + (if pchOf a / 2 = q / 2 then 0 else 24))
/-- The source beat that the destination beat at `a` depends on. -/
def srcOf (d : Bytes) (a : Nat) : Nat :=
  let i := (a - dDst d) / 32
  dSrc d + 32 * (if dWide d then i / 8 else i)
/-- The later of two instants, when both are known. -/
def later (a b : Option Nat) : Option Nat := match a, b with | some x, some y => some (max x y) | _, _ => none
/-- A destination is a pool line, and is encrypted. -/
def toPool (c : Ctl) (a : Nat) : Bool := decide (granOwner c (bits a 37 28) = 0x40)
/-- When the destination beat at `a` can be written (R531, R533). -/
def writeReady (c : Ctl) (o : NmeOp) (a : Nat) : Option Nat :=
  let d := o.desc
  let q := pchOf a
  match dOp d with
  | 1 => some (o.acc + 8)
  | 2 => (readyAt o (srcOf d a) q).map (fun t => if toPool c a then t + 16 else t)
  | 4 => (later (readyAt o (srcOf d a) q) (readyAt o a q)).map (· + 12)
  | 6 => (smGet o.lines none ((a - dDst d) / 64)).map (fun l => l.1 + 24)
  | _ => none
/-- An FP32 or INT32 source element into an exact value: the value, the status bits, whether the sum left the range (R338 to
R341, R528). -/
def exactAdd (stype : Nat) (old : BitVec 256) (v : Nat) : BitVec 256 × Nat :=
  if stype = 0 then
    let (r, f) := wPut (wInt old + sx 32 v * ((2 ^ 128 : Nat) : Int)); (r, if f ≠ 0 then 8 else 0)
  else
    let (x, s, _) := wTerm32 v
    let (r, f) := wPut (wInt old + x); (r, s ||| (if f ≠ 0 then 8 else 0))
/-- A 32-byte destination beat of REDUCE and its FLAGS (R528, R529). -/
def reduceBeat (d : Bytes) (a : Nat) (src old : BitVec 256) : BitVec 256 × Nat :=
  if dRedop d = 1 then
    if dStype d < 2 then
      let i := (a - dDst d) / 32 % 8
      exactAdd (dStype d) old (bits src.toNat (32 * i + 31) (32 * i))
    else
      let (r, f) := wPut (wInt old + wInt src); (r, if f ≠ 0 then 8 else 0)
  else
    let w (v : BitVec 256) (i : Nat) := bits v.toNat (32 * i + 31) (32 * i)
    (BitVec.ofNat 256 (packLanes ((List.range 8).map (fun i => redWord (dRedop d - 2) (w old i) (w src i)))), 0)
/-- The key of a shared region. -/
def srKey (c : Ctl) (r : Nat) : Nat := (smGet c.pool.keys 0 (64 + r)).toNat
/-- What is written at destination beat `a`: data, whether the poison code, FLAGS (R512, R527, R528). -/
def writeValue (c : Ctl) (o : NmeOp) (a : Nat) : BitVec 256 × Bool × Nat :=
  let d := o.desc
  let src := (beatOf o (srcOf d a)).getD ⟨0, false, 0⟩
  match dOp d with
  | 1 => (BitVec.ofNat 256 (dPattern d * (1 + 2 ^ 64 + 2 ^ 128 + 2 ^ 192)), false, 0)
  | 2 =>
    if src.poison then (src.data, true, 0)
    else if toPool c a then (BitVec.ofNat 256 (xtsBeat false (srKey c (gtSr c (bits a 37 28))) a src.data.toNat), false, 0)
    else (src.data, false, 0)
  | 4 =>
    let old := (beatOf o a).getD ⟨0, false, 0⟩
    if src.poison ∨ old.poison then (old.data, true, 0)
    else let (r, f) := reduceBeat d a src.data old.data; (r, false, f)
  | _ =>
    let l := (smGet o.lines none ((a - dDst d) / 64)).getD (0, 0)
    (BitVec.ofNat 256 (l.2.toNat >>> (256 * ((a - dDst d) / 32 % 2))), false, 0)
/-- Reads one beat into an operation. -/
def readInto (t : Nat) (r : CM × NmeOp) (a : Nat) : CM × NmeOp :=
  let (cm, v, psn) := dmRead r.1 a
  (cm, { r.2 with beats := smSet r.2.beats none (a / 32) (some ⟨t, psn, v⟩) })
/-- Writes one beat of an operation. A COPY into a failed line of a shared region reports it, whenever the pseudo-channel failed (R628). -/
def writeFrom (r : CM × NmeOp) (a : Nat) : CM × NmeOp :=
  let (v, psn, f) := writeValue r.1.1 r.2 a
  let lost := decide (dOp r.2.desc = 2) && toPool r.1.1 a && pchFailed r.1.1 (pchOf a)
  (dmWrite r.1 a v psn, { r.2 with written := smSet r.2.written false (a / 32) true, flags := r.2.flags ||| f, hurt := r.2.hurt || lost })
/-- The beats written so far cover the destination. -/
def allWritten (o : NmeOp) : Bool := decide (o.written.entries.length ≥ dDstLen o.desc / 32)
/-- The beats of both ranges of a COMPARE are read. -/
def allRead (o : NmeOp) : Bool :=
  (List.range (dLen o.desc / 32)).all (fun i => (beatOf o (dSrc o.desc + 32 * i)).isSome && (beatOf o (dDst o.desc + 32 * i)).isSome)
/-- The operation ends at an instant (R534). -/
def endOp (c : Ctl) (o : NmeOp) (t : Nat) : NmeOp := { o with fin := some t, finTs := stampAt c t }
/-- The end of a COMPARE: 4 tc after its last beat is at the lead (R534). -/
def compareEnd (o : NmeOp) : Nat :=
  (o.beats.entries.map (fun e => match e.2 with
    | some b => b.slot + 40 + (if pchOf (32 * e.1) / 2 = o.lead then 0 else 24)
    | none => 0)).foldl max 0 + 4
/-- The operation still has to read or write on the pseudo-channel (R530). -/
def busyOn (o : NmeOp) (q : Nat) : Bool :=
  decide (o.status = 0) && o.fin.isNone &&
    ((readBeats o.desc q).any (fun a => (beatOf o a).isNone) || (writeBeats o.desc q).any (fun a => !smGet o.written false (a / 32)))
/-- A slot of partition `p` on pseudo-channel `q` that starts at `t` serves the operation: it writes up to 15 ready beats, else it
reads up to 15 (R502a, R532). -/
def slotOp (cm : CM) (o : NmeOp) (q t : Nat) : CM × NmeOp × Bool :=
  if t < o.acc + 8 then (cm, o, false)
  else
    let ws := (writeBeats o.desc q).filter (fun a => !smGet o.written false (a / 32) &&
      (match writeReady cm.1 o a with | some r => decide (r ≤ t) | none => false))
    if ws.isEmpty then
      let rs := (readBeats o.desc q).filter (fun a => (beatOf o a).isNone)
      if rs.isEmpty then (cm, o, false)
      else
        let r := (rs.take 15).foldl (readInto t) (cm, o)
        let o := r.2
        (r.1, if dOp o.desc = 3 ∧ allRead o = true then endOp cm.1 o (compareEnd o) else o, true)
    else
      let r := (ws.take 15).foldl writeFrom (cm, o)
      (r.1, if allWritten r.2 then endOp cm.1 r.2 (t + 16) else r.2, true)
/-- Counts the slot interval for the NME once (R535). -/
def slotBusy (c : Ctl) (p q t : Nat) : Ctl :=
  let k := p * 256 + q / 2
  if smGet c.nme.lastSlot 0 k = t + 1 then c
  else nmeBusy { c with nme := { c.nme with lastSlot := smSet c.nme.lastSlot 0 k (t + 1) } } p (q / 2) 16
/-- An operation of a partition has gone on; what befell it meanwhile stays (R545). -/
def stepOp (c : Ctl) (p : Nat) (o : NmeOp) : Ctl :=
  putOps c p ((nmeOps c p).map (fun x => if x.num = o.num then { o with hurt := o.hurt || x.hurt } else x))
/-- One slot of a partition on a pseudo-channel (R530, R532). -/
def slotTransfer (cm : CM) (p q s : Nat) : CM :=
  match slotFor cm.1 q s p, (nmeOps cm.1 p).find? (busyOn · q) with
  | some t, some o =>
    let r := slotOp (useSlot cm.1 q t, cm.2) o q t
    if r.2.2 then
      (slotBusy (stepOp r.1.1 p r.2.1) p q t, r.1.2)
    else cm
  | _, _ => cm

/-! Tile lines of TLOAD and TSTORE (R533). -/
/-- The tile-memory address of an operation's line `i`. -/
def lineAddr (d : Bytes) (i : Nat) : Nat := (if dOp d = 5 then dDst d else dSrc d) + 64 * i
/-- When line `i` of an operation is ready, if it is and is still to be moved (R533). -/
def lineReady (o : NmeOp) (i : Nat) : Option Nat :=
  if (smGet o.lines none i).isSome ∨ o.status ≠ 0 then none
  else if dOp o.desc = 6 then some (o.acc + 8)
  else if dOp o.desc = 5 then
    let f (a : Nat) : Option Nat := (beatOf o a).map (fun b => b.slot + 64)
    later (f (dSrc o.desc + 64 * i)) (f (dSrc o.desc + 64 * i + 32))
  else none
/-- The lines of a tile that may move at instant `t`: readiness, address, operation and line. -/
def linesReady (c : Ctl) (tl t : Nat) : List (Nat × Nat × NmeOp × Nat) :=
  ((nmeOps c (tileOwner c tl)).filter (fun o => decide (dTile o.desc = tl ∧ (dOp o.desc = 5 ∨ dOp o.desc = 6)))).flatMap (fun o =>
    (List.range (dLen o.desc / 64)).filterMap (fun i =>
      match lineReady o i with
      | some r => if r ≤ t then some (r, lineAddr o.desc i, o, i) else none
      | none => none))
/-- The first in order of readiness, ties by address. -/
def firstLine (l : List (Nat × Nat × NmeOp × Nat)) : Option (NmeOp × Nat) :=
  (l.foldl (fun (b : Option (Nat × Nat × NmeOp × Nat)) e => match b with
    | none => some e
    | some x => if e.1 < x.1 ∨ (e.1 = x.1 ∧ e.2.1 < x.2.1) then some e else b) none).map (·.2.2)
/-- The data of a line read from tile memory by a TSTORE, through the receive port (R257); an uncorrectable word reads as free bytes
(Assumption 22). -/
def tstoreLine (cm : CM) (tl a : Nat) : CM × BitVec 512 :=
  let cm := eccRead (rxUse cm.1 tl a false, cm.2) tl a 64
  let r := (List.range 8).foldl (fun (r : Ctl × Bytes) i =>
    if smGet cm.2.badWord false (wordAt tl (a / 8 + i)) then let (c, b) := freeBytes 8 r.1; (c, r.2 ++ b)
    else (r.1, r.2 ++ readBytes cm.2.tm (tmAt tl (a + 8 * i)) 8)) (cm.1, [])
  ((r.1, cm.2), BitVec.ofNat 512 (leNat r.2))
/-- A beat of a TLOAD line into tile memory; a poisoned one leaves its words uncorrectable (R512). -/
def tloadBeat (cm : CM) (tl a : Nat) (b : BeatIn) : CM :=
  if b.poison then
    if tileTakes cm.1 tl then
      (rxUse cm.1 tl a true, { cm.2 with badWord := (List.range 4).foldl (fun w i => smSet w false (wordAt tl (a / 8 + i)) true) cm.2.badWord })
    else cm
  else rxWrite cm tl a (leBytes 32 b.data.toNat)
/-- Moves line `i` of an operation at instant `t`, at which FTC stands. -/
def moveLine (cm : CM) (tl t : Nat) (o : NmeOp) (i : Nat) : CM :=
  let c := updTile cm.1 tl (fun x => { x with phaseAt := t + 1 })
  let a := lineAddr o.desc i
  let put (cm : CM) (o' : NmeOp) : CM := (stepOp cm.1 o.part o', cm.2)
  if dOp o.desc = 6 then
    let (cm, v) := tstoreLine (c, cm.2) tl a
    put cm { o with lines := smSet o.lines none i (some (t, v)) }
  else
    let b (k : Nat) : BeatIn := (beatOf o (dSrc o.desc + 64 * i + 32 * k)).getD ⟨0, true, 0⟩
    let cm := tloadBeat (tloadBeat (c, cm.2) tl a (b 0)) tl (a + 32) (b 1)
    let o' := { o with lines := smSet o.lines none i (some (t, 0)) }
    put cm (if o'.lines.entries.length ≥ dLen o.desc / 64 then endOp cm.1 o' (t + 1) else o')
/-- The first phase of a partition at a router from `f` on: any instant while no frame plan is in force (R148). -/
def phaseFrom (c : Ctl) (r p f : Nat) : Option Nat := if inForce c then firstPhase c r p f else some f
/-- One line moves in the tile's next owned phase (R533). -/
def tileLine (cm : CM) (tl : Nat) : CM :=
  let p := tileOwner cm.1 tl
  if p < 32 then
    let starts := (linesReady cm.1 tl (2 ^ 64)).map (·.1)
    let f := max (max (cm.1.time.ftc) (tile cm.1 tl).phaseAt) (starts.foldl min (2 ^ 64))
    if starts.isEmpty then cm
    else match phaseFrom cm.1 tl p f with
      | some t =>
        (match firstLine (linesReady cm.1 tl t), reach cm.1 t with
         | some (o, i), some c => moveLine (c, cm.2) tl t o i
         | _, _ => cm)
      | none => cm
  else cm

/-! Completion (R536, R537). -/
/-- The lines in which the two ranges of a COMPARE differ, or hold poison (R512, R546). -/
def mismatches (o : NmeOp) : List Nat :=
  (List.range (dLen o.desc / 64)).filter (fun i => (List.range 2).any (fun k =>
    match beatOf o (dSrc o.desc + 64 * i + 32 * k), beatOf o (dDst o.desc + 64 * i + 32 * k) with
    | some x, some y => x.poison || y.poison || decide (x.data ≠ y.data)
    | _, _ => true))
/-- The lowest poisoned beat read, as a DM address. -/
def firstPoison (o : NmeOp) : Option Nat :=
  ((o.beats.entries.find? (fun e => match e.2 with | some b => b.poison | none => false))).map (fun e => 32 * e.1)
/-- STATUS of the record: a refusal's, POISON or OK (R536). -/
def opStatus (o : NmeOp) : Nat := if o.status ≠ 0 then o.status else if o.hurt || (firstPoison o).isSome then 4 else 0
/-- The completion record (R536). -/
def cmplRecord (o : NmeOp) : Bytes :=
  let mm := if dOp o.desc = 3 ∧ o.status = 0 then mismatches o else []
  leBytes 4 (dTag o.desc) ++ leBytes 1 (opStatus o) ++ leBytes 1 (dOp o.desc) ++ leBytes 1 o.flags ++ leBytes 1 o.lead ++
    leBytes 8 o.accTs ++ leBytes 8 o.finTs ++ leBytes 4 (satU 32 mm.length) ++
    leBytes 4 (match mm with | [] => 0xFFFFFFFF | i :: _ => 64 * i) ++
    leBytes 8 ((firstPoison o).getD 0xFFFFFFFFFFFFFFFF) ++ zeroBytes 24
/-- The state at the phase of an operation's record, and the phase: the first of the partition at the tile's router at least 32 tc after the
end that no other write of the tile takes (R536, R1172). -/
def recordAt (c : Ctl) (o : NmeOp) : Option (Ctl × Nat) :=
  (phaseFrom c o.tile o.part (max (o.fin.getD 0 + 32) (tile c o.tile).phaseAt)).bind (fun t => (reach c t).map (fun c => (c, t)))
/-- The record and the arrival of an operation that has ended, in their phase; a record whose CMPL_ADDR lies outside tile memory is not written
(R536, R548). -/
def putRecord (cm : CM) (o : NmeOp) : CM :=
  match recordAt cm.1 o with
  | none => cm
  | some (c, t) =>
    let c := updTile { c with nme := { c.nme with recs := c.nme.recs.erase o } } o.tile (fun x => { x with phaseAt := t + 1 })
    let cm := if dRec o.desc ∧ dCmpl o.desc + 64 ≤ 2 ^ 19 then rxWrite (c, cm.2) o.tile (dCmpl o.desc) (cmplRecord o) else (c, cm.2)
    (if dCnt o.desc then rxArrive cm.1 o.tile (dNotify o.desc % 8) else cm.1, cm.2)
/-- An operation completes at its end: its counts in the pass in which it ends, its place free; its record and arrival follow, in this pass or
the next (R523, R536, R537). -/
def completeOp (cm : CM) (p : Nat) (o : NmeOp) (e : Nat) : CM :=
  match reach cm.1 e with
  | none => cm
  | some c =>
    let c := if o.status = 0 then cnt1 c (0x6100 + 16 * p) else c
    let c := if opStatus o = 4 then cnt1 c (0x6108 + 16 * p) else c
    let c := putOps c p ((nmeOps c p).erase o)
    if dRec o.desc || dCnt o.desc then putRecord ({ c with nme := { c.nme with recs := c.nme.recs ++ [o] } }, cm.2) o else (c, cm.2)
/-- Completes the operation of a partition that ended first, once no record of an earlier one can be written. -/
def completeNext (cm : CM) (p : Nat) : CM :=
  match cm.1.nme.recs.find? (fun o => decide (o.part = p) && (recordAt cm.1 o).isSome) with
  | some o => putRecord cm o
  | none =>
  let done := (nmeOps cm.1 p).filterMap (fun o => o.fin.map (fun e => (e, o)))
  match done.foldl (fun (b : Option (Nat × NmeOp)) x => match b with
    | none => some x
    | some y => if x.1 < y.1 then some x else b) none with
  | some (e, o) => completeOp cm p o e
  | none => cm
/-- A PART reset cancels a partition's operations and its waiting descriptors, and the records of those that ended with them (R226, R541,
Assumption 87). -/
def cancelOps (c : Ctl) (p : Nat) : Ctl :=
  let c := putOps { c with nme := { c.nme with recs := c.nme.recs.filter (fun o => o.part ≠ p) } } p []
  let mine := c.noc.nmeq.filter (fun h => h.part = p)
  let c := mine.foldl (fun c h => updTile c h.tile (fun x => { x with nmeq := x.nmeq - 1 })) c
  { c with noc := { c.noc with nmeq := c.noc.nmeq.filter (fun h => h.part ≠ p) } }

/-! Repair and patrol (R516 to R519). -/
/-- A write of GO: a repair starts while FALLBACK is 1 and none runs; otherwise it is discarded (R517). -/
def startRepair (hard : Bool) (q bank row : Nat) (c : Ctl) : Ctl :=
  let c := setFld c 0x5090 17 0 row
  let c := setBit (setFld (setFld c 0x5094 13 9 bank) 0x5094 8 0 q) 0x5094 30 hard
  if rbit c 0x5098 0 then discard c 0x5094 0
  else if rbit c rPlStat 4 = false then discard (setFld c 0x5098 3 1 3) 0x5094 0
  else { (setFld (setBit c 0x5098 0 true) 0x5098 3 1 0) with nme := { c.nme with repairing := (q, bank, row, hard) } }
/-- The repair ends with a RESULT and the spares left. The contents of the repaired row are undefined: the manual does not place
a row among the offsets of its pseudo-channel, so both the place and the 64 bytes are free values (R516, Assumption 23). -/
def endRepair (cm : CM) (result spares : Nat) : CM :=
  let c := cm.1
  if rbit c 0x5098 0 then
    let c := setFld (setFld (setBit c 0x5098 0 false) 0x5098 3 1 result) 0x5098 15 8 spares
    if result = 1 then
      let c := { c with nme := { c.nme with repairs := c.nme.repairs ++ [c.nme.repairing] } }
      let (c, n) := drawFree c
      let off := Config.freeNat n % 2 ^ 23 * 64
      let (c, b) := freeBytes 64 c
      let a := dmAddr c.nme.repairing.1 off
      (c, { cm.2 with dm := writeBytes cm.2.dm a b })
    else (c, cm.2)
  else cm
/-- The pseudo-channel takes no part in the walk: it is failed, or its stack is in self-refresh. That a walk goes on without the sleeping
ones is a DESIGN CHOICE (Assumption 62). -/
def patrolSkips (c : Ctl) (q : Nat) : Bool := pchFailed c q || pchAsleep c q
/-- The beats at scrub position `pos` on a pseudo-channel: a slot's worth (R502a, R518). -/
def patrolBeats (q pos : Nat) : List Nat :=
  (List.range 15).filterMap (fun i => if pos + i < 2 ^ 24 then some (dmAddr q (32 * (pos + i))) else none)
/-- Each beat is read, with what a read corrects and finds. -/
def dmReads (cm : CM) (l : List Nat) : CM := l.foldl (fun cm a => (dmRead cm a).1) cm
/-- Each beat is rewritten with its corrected data. -/
def dmRewrites (cm : CM) (l : List Nat) : CM := l.foldl (fun cm a => dmWrite cm a (dmBeat cm.2 a) false) cm
/-- CULV slot `s` of pseudo-channel `q`, which the culvert leaves unused: the rewrites due there, else the beats at HB_SCRUB_POS, once
(R518). -/
def patrolOn (s : Nat) (cm : CM) (q : Nat) : CM :=
  match (if patrolSkips cm.1 q then none else slotFor cm.1 q s 0x41) with
  | none => cm
  | some t =>
    let due := (cm.1.nme.fixes.filter (fun a => pchOf a = q)).take 15
    if due ≠ [] then dmRewrites (useSlot cm.1 q t, cm.2) due
    else if bitN cm.1.nme.walked q then cm
    else
      let as := patrolBeats q (rd cm.1 0x5084)
      let weak := as.filter (fun a => smGet cm.2.weakBeat false (a / 32) && !smGet cm.2.badBeat false (a / 32) &&
        !smGet cm.2.poison false (a / 32))
      let cm := dmReads (useSlot cm.1 q t, cm.2) as
      ({ cm.1 with nme := { cm.1.nme with fixes := cm.1.nme.fixes ++ weak, walked := cm.1.nme.walked ||| 1 <<< q } }, cm.2)
/-- The walk goes on when every pseudo-channel that takes part has been read at HB_SCRUB_POS (R518). -/
def patrolOnward (c : Ctl) : Ctl :=
  if c.nme.walked ≠ 0 ∧ (List.range 512).all (fun q => bitN c.nme.walked q || patrolSkips c q) = true then
    let pos := rd c 0x5084
    { (wr c 0x5084 (if pos + 15 ≥ 2 ^ 24 then 0 else pos + 15)) with nme := { c.nme with walked := 0 } }
  else c
/-- Slot `s` of every pseudo-channel whose slot it is. -/
def patrolAll (cm : CM) (s : Nat) : CM := (List.range 512).foldl (patrolOn s) cm
/-- One patrol step in slot `s` (R518). -/
def patrol (cm : CM) (s : Nat) : CM :=
  if rbit cm.1 0x5080 0 && inForce cm.1 then (patrolOnward (patrolAll cm s).1, (patrolAll cm s).2) else cm

/-! The commands. -/
/-- FILL is accepted at its lead (R523, R524, R527). -/
def execFill (nme p : Nat) (s : State) : Out := onCtl (fun c => whenAlive c (acceptNext 1 nme p)) s
/-- COPY is accepted at its lead (R523, R524, R527). -/
def execCopy (nme p : Nat) (s : State) : Out := onCtl (fun c => whenAlive c (acceptNext 2 nme p)) s
/-- COMPARE is accepted at its lead (R523, R524, R527). -/
def execCompare (nme p : Nat) (s : State) : Out := onCtl (fun c => whenAlive c (acceptNext 3 nme p)) s
/-- REDUCE is accepted at its lead (R523, R524, R528). -/
def execReduce (nme p : Nat) (s : State) : Out := onCtl (fun c => whenAlive c (acceptNext 4 nme p)) s
/-- TLOAD is accepted at its lead (R523, R524, R527). -/
def execTload (nme p : Nat) (s : State) : Out := onCtl (fun c => whenAlive c (acceptNext 5 nme p)) s
/-- TSTORE is accepted at its lead (R523, R524, R527). -/
def execTstore (nme p : Nat) (s : State) : Out := onCtl (fun c => whenAlive c (acceptNext 6 nme p)) s
/-- Does something to control state and memories only while the blocks run. -/
def onAlive (f : CM → CM) (s : State) : Out := onAll (fun cm => if alive cm.1 then f cm else cm) s
/-- A slot of the partition on a pseudo-channel (R530 to R532). -/
def execNmeSlotTransfer (p q slot : Nat) (s : State) : Out := onAlive (fun cm => if p < 32 then slotTransfer cm p q slot else cm) s
/-- A tile line of TLOAD or TSTORE (R533). -/
def execNmeTileLine (t : Nat) (s : State) : Out := onAlive (fun cm => tileLine cm t) s
/-- An operation completes (R536, R537). -/
def execNmeCompletion (p : Nat) (s : State) : Out := onAlive (fun cm => completeNext cm p) s
/-- A pseudo-channel becomes failed, or, numbered from 512 on, a stack as a whole (R513, R630). -/
def execPchFailed (q why : Nat) (s : State) : Out :=
  onServed (fun c => if q < 512 then failPch c q why else if q < 520 then failStack c (q - 512) why else c) s
/-- A soft repair is asked for (R516, R517). -/
def execSoftRepair (q bank row : Nat) (s : State) : Out := onCtl (fun c => whenAlive c (startRepair false q bank row)) s
/-- A hard repair is asked for (R516, R517). -/
def execHardRepair (q bank row : Nat) (s : State) : Out := onCtl (fun c => whenAlive c (startRepair true q bank row)) s
/-- The repair ends (R516). -/
def execRepairDone (result spares : Nat) (s : State) : Out := onAlive (fun cm => endRepair cm result spares) s
/-- One step of the patrol scrub (R518, R519). -/
def execPatrolScrub (slot : Nat) (s : State) : Out := onAlive (fun cm => patrol cm slot) s

end Sys2Proof.Machine
end

