-- ==== Sys2Proof/Machine/LinkCode.lean ====
section
/-! DEFINITION. The code of a link's lane: RS(544,514) codewords, alignment markers and scrambling (R650 to R653). -/
namespace Sys2Proof.Machine

/-! The field GF(2^10) and the code (R650). IEEE 802.3 Clause 91, which R650 names, builds the field on x^10 + x^3 + 1 and takes the powers
0 to 29 of its primitive element as the roots of the generator; the first line bit of a symbol is its least significant bit, and the first
symbol is the coefficient of the highest power: PRESUMED, from that standard (Assumption 65). -/
/-- Doubles an element. -/
def symDouble (a : Nat) : Nat := if a ≥ 512 then (2 * a) ^^^ 0x409 else 2 * a
/-- The product of two elements. -/
def symMul (a b : Nat) : Nat :=
  if a = 0 then 0
  else (List.range 10).foldl (fun r i => if bitN b (9 - i) then symDouble r ^^^ a else symDouble r) 0
/-- A power of an element. -/
def symPow (a : Nat) : Nat → Nat
  | 0 => 1
  | n + 1 => symMul a (symPow a n)
/-- The inverse of an element other than 0: its power 1,022, as the product of its squarings 1 to 9. -/
def symInv (a : Nat) : Nat :=
  ((List.range 9).foldl (fun (p : Nat × Nat) _ => let s := symMul p.1 p.1; (s, symMul p.2 s)) (a, 1)).2
/-- The generator polynomial without its leading 1, highest power first. -/
def rsGen : List Nat :=
  ((List.range 30).foldl (fun (g : List Nat) (j : Nat) =>
    let a := symPow 2 j
    g.headD 0 :: List.zipWith (fun x y => y ^^^ symMul a x) g (g.tail ++ [0])) [1]).tail
/-- The 30 parity symbols of a message, highest power first. -/
def rsParity (msg : List Nat) : List Nat :=
  msg.foldl (fun (r : List Nat) (m : Nat) =>
    let k := m ^^^ r.headD 0
    List.zipWith (fun x y => x ^^^ symMul k y) (r.tail ++ [0]) rsGen) (List.replicate 30 0)
/-- The value of a polynomial, highest power first. -/
def symEval (p : List Nat) (x : Nat) : Nat := p.foldl (fun a c => symMul x a ^^^ c) 0
/-- The 30 syndromes of 544 symbols. -/
def rsSyndromes (r : List Nat) : List Nat := (List.range 30).map (fun j => symEval r (symPow 2 j))
/-- The search for the error locator: locator and the one before, lowest power first; its length; steps since; the discrepancy then. -/
structure RsSearch where
  loc : List Nat := [1]
  old : List Nat := [1]
  len : Nat := 0
  gap : Nat := 1
  disc : Nat := 1
/-- Adds two polynomials, lowest power first. -/
def symAdd (a b : List Nat) : List Nat := (List.range (max a.length b.length)).map (fun i => a.getD i 0 ^^^ b.getD i 0)
/-- One step of the search, at syndrome `n`. -/
def rsStep (s : List Nat) (b : RsSearch) (n : Nat) : RsSearch :=
  let d := (List.range (b.len + 1)).foldl (fun a i => a ^^^ symMul (b.loc.getD i 0) (if i ≤ n then s.getD (n - i) 0 else 0)) 0
  if d = 0 then { b with gap := b.gap + 1 }
  else
    let k := symMul d (symInv b.disc)
    let loc := symAdd b.loc (List.replicate b.gap 0 ++ b.old.map (symMul k))
    if 2 * b.len ≤ n then { loc := loc, old := b.loc, len := n + 1 - b.len, gap := 1, disc := d }
    else { b with loc := loc, gap := b.gap + 1 }
/-- The 544 symbols with up to 15 of them corrected, and whether any was; none when they lie within 15 of no codeword (R650, R653). -/
def rsDecode (r : List Nat) : Option (List Nat × Bool) :=
  let s := rsSyndromes r
  if s.all (· = 0) then some (r, false)
  else
    let b := (List.range 30).foldl (rsStep s) {}
    let loc := b.loc.take (b.len + 1)
    -- the error evaluator: syndromes times locator, modulo x^30
    let om := (List.range 30).map (fun i => (List.range (i + 1)).foldl (fun a j => a ^^^ symMul (loc.getD j 0) (s.getD (i - j) 0)) 0)
    let fix := (List.range 544).map (fun i =>
      let x := symPow 2 (543 - i)
      let xi := symInv x
      if symEval loc.reverse xi = 0 then
        let slope := (List.range loc.length).foldl (fun a j => if j % 2 = 1 then a ^^^ symMul (loc.getD j 0) (symPow xi (j - 1)) else a) 0
        symMul x (symMul (symEval om.reverse xi) (symInv slope))
      else 0)
    let v := (r.zip fix).map (fun x => x.1 ^^^ x.2)
    if b.len ≤ 15 ∧ (fix.filter (· ≠ 0)).length = b.len ∧ (rsSyndromes v).all (· = 0) then some (v, true) else none

/-! Bits and symbols of a codeword: 5,140 data bits, then 300 parity bits (R650). -/
/-- `k` bits of a number, the least significant first. -/
def bitsOf (v k : Nat) : List Bool := (List.range k).map (bitN v)
/-- The number whose bits these are, the least significant first. -/
def ofBits (l : List Bool) : Nat := l.foldr (fun b a => 2 * a + b2n b) 0
/-- The 544 symbols of a codeword, in the order of the line. -/
def codeSyms (w : LinkCode) : List Nat := (List.range 544).map (fun i => w.toNat / 2 ^ (10 * i) % 1024)
/-- The codeword of these symbols. -/
def symsCode (l : List Nat) : LinkCode := BitVec.ofNat 5440 (l.foldr (fun s a => 1024 * a + s % 1024) 0)
/-- The codeword of 5,140 data bits. -/
def codeword (data : List Bool) : LinkCode :=
  let m := (List.range 514).map (fun i => ofBits ((data.drop (10 * i)).take 10))
  symsCode (m ++ rsParity m)
/-- The codeword that a received one is decoded to, and whether anything was corrected (R653). -/
def decodeCode (w : LinkCode) : Option (LinkCode × Bool) := (rsDecode (codeSyms w)).map (fun r => (symsCode r.1, r.2))

/-! Markers and scrambling (R651). -/
/-- Codewords from one marker to the next. -/
def markEvery : Nat := 1024
/-- The alignment marker that link `l` sends, with its count. -/
def alignMarker (l count : Nat) : Nat := 0x9E4B17D26C35 * 2 ^ 16 + count % 256 * 2 ^ 8 + l % 32
/-- A word is an alignment marker, of whatever count and link. -/
def isMarker (v : Nat) : Bool := decide (v / 2 ^ 16 = 0x9E4B17D26C35) && decide (bits v 7 5 = 0)
/-- One step of the PRBS31 generator, whose next output bit is bit 0 of its state: the sequence a(n) = a(n − 28) + a(n − 31). -/
def prbsNext (s : Nat) : Nat := s / 2 + (s ^^^ (s / 8)) % 2 * 2 ^ 30
/-- The state after `n` steps. -/
def prbsSkip : Nat → Nat → Nat
  | 0, s => s
  | n + 1, s => prbsSkip n (prbsNext s)
/-- The next `n` output bits. -/
def prbsBits : Nat → Nat → List Bool
  | 0, _ => []
  | n + 1, s => bitN s 0 :: prbsBits n (prbsNext s)
/-- Data bits of codeword `i` after a marker, that of the marker being 0, before its first scrambled bit; how many of its data bits are
scrambled; and where among the scrambled bits since the marker the first stands. -/
def markBits (i : Nat) : Nat := if i % markEvery = 0 then 64 else 0
def bodyBits (i : Nat) : Nat := 5140 - markBits i
def bodyFrom (i : Nat) : Nat := if i % markEvery = 0 then 0 else 5140 * (i % markEvery) - 64
/-- The scrambling bits of codeword `i`; the state is all ones at the first bit after the marker (R651). -/
def scrambler (i : Nat) : List Bool := prbsBits (bodyBits i) (prbsSkip (bodyFrom i) (2 ^ 31 - 1))
/-- Scrambles or descrambles bits of codeword `i`. -/
def scramble (i : Nat) (l : List Bool) : List Bool := (l.zip (scrambler i)).map (fun x => x.1 != x.2)

/-! The transmit stream (R652): the data bits but for the markers are bytes, each sent from its least significant bit on. -/
/-- Stream bits from one marker to the next. -/
def markBody : Nat := 5140 * markEvery - 64
/-- The number of the codeword in which a stream bit goes. -/
def codeOfBit (m : Nat) : Nat := m / markBody * markEvery + (m % markBody + 64) / 5140
/-- The stream bit at which codeword `j` begins. -/
def codeFrom (j : Nat) : Nat := j / markEvery * markBody + bodyFrom j
/-- A byte of the stream in which frames stand, each with the place of its first byte, between fill bytes of 0. -/
def streamByte (fs : List (Nat × Bytes)) (b : Nat) : Byte :=
  match fs.find? (fun f => f.1 ≤ b ∧ b < f.1 + f.2.length) with | some f => f.2.getD (b - f.1) 0 | none => 0
/-- Codeword `j` of link `l` over a stream (R650 to R652). -/
def txCode (l : Nat) (fs : List (Nat × Bytes)) (j : Nat) : LinkCode :=
  let m0 := codeFrom j
  let plain := (List.range (bodyBits j)).map (fun i => bitN (streamByte fs ((m0 + i) / 8)).toNat ((m0 + i) % 8))
  codeword ((bitsOf (alignMarker l (j / markEvery)) 64).take (markBits j) ++ scramble j plain)

/-! The two ends of a link. -/
/-- A link's streams. -/
def strm (c : Ctl) (l : Nat) : LinkStream := smGet c.lk.stream {} l
/-- A link's streams changed. -/
def updStrm (c : Ctl) (l : Nat) (f : LinkStream → LinkStream) : Ctl :=
  { c with lk := { c.lk with stream := smSet c.lk.stream {} l (f (strm c l)) } }
/-- Frames of which a byte goes in codeword `j` or a later one. -/
def framesFrom (fs : List (Nat × Bytes)) (j : Nat) : List (Nat × Bytes) :=
  fs.filter (fun f => j ≤ codeOfBit (8 * (f.1 + f.2.length) - 1))
/-- The codewords from number `a` to below `b` that hold a byte of a frame. -/
def frameCodes (fs : List (Nat × Bytes)) (a b : Nat) : List Nat :=
  (fs.flatMap (fun f => let j := codeOfBit (8 * f.1); (List.range (codeOfBit (8 * (f.1 + f.2.length) - 1) + 1 - j)).map (j + ·))).eraseDups.filter
    (fun j => a ≤ j ∧ j < b)
/-- The place of a stream bit among the line's bits. -/
def lineOf (m : Nat) : Nat := let j := codeOfBit m; 5440 * j + markBits j + (m - codeFrom j)
/-- The instant at which a byte of the stream leaves, in 1/85 tc: a line bit lasts 2/85 tc (R650). -/
def leavesAt (s : LinkStream) (b : Nat) : Nat := s.refAt + 2 * (lineOf (8 * b) - s.refLine)
/-- The first byte position that leaves at or after an instant, in 1/85 tc, and after the frame before (R662). -/
def posAt (s : LinkStream) (t : Nat) : Nat :=
  let x := s.refLine + ceilDiv (t - s.refAt) 2
  let j := x / 5440
  let o := x % 5440 - markBits j
  max s.txPos (ceilDiv (if o < bodyBits j then codeFrom j + o else codeFrom (j + 1)) 8)
/-- Where the frame whose slot starts at FTC `t` stands in a link's stream, and when it departs, in 1/16 tc (R662). -/
def framePlace (c : Ctl) (l t : Nat) : Nat × Nat :=
  let b := posAt (strm c l) (85 * t)
  (b, leavesAt (strm c l) b * 16 / 85)
/-- A frame joins the transmit stream at byte `pos`, after fill bytes; the codewords that are then complete go out, but for those of fill bytes
alone (R650 to R652, R662, Assumption 66). -/
def streamFrame (c : Ctl) (l pos : Nat) (frame : Bytes) : Ctl :=
  let s := strm c l
  let j := codeOfBit (8 * pos)
  let fs := s.txPend ++ [(pos, frame)]
  let c := (frameCodes fs s.txCode j).foldl (fun c i => emit c (.linkCode l (txCode l fs i))) c
  updStrm c l (fun s => { s with txPos := pos + frame.length, txCode := j, txPend := framesFrom fs j })
/-- A link begins to train: its transmit stream begins in a codeword, and after a marker, that nothing fixes, and its receiver has no
codeword alignment (R655, Assumption 66). -/
def streamStart (c : Ctl) (l : Nat) : Ctl :=
  let (c, n) := drawFree c
  let pos := Config.freeNat n
  let (c, k) := drawFree c
  updStrm c l (fun _ => { txPos := pos, txCode := codeOfBit (8 * pos), refLine := lineOf (8 * pos), refAt := 85 * c.time.ftc + Config.freeNat k % 85 })
/-- Codeword alignment: the receiver has found two markers 1,024 codewords apart. What stands beside the second in its codeword is not read
(R651, R655). -/
def streamAlign (c : Ctl) (l : Nat) : Ctl :=
  updStrm c l (fun s => { s with rxCode := 2, rxPend := List.replicate (bodyBits 0) none, rxMiss := 0, rxBad := [] })
/-- A codeword arrives at an aligned receiver: the stream bits that it holds, none when it is uncorrectable; a marker missing where one is due;
the latest 64 codewords (R651 to R653, R692). -/
def rxOneCode (s : LinkStream) (w : LinkCode) : LinkStream :=
  let i := s.rxCode - 1
  let d := decodeCode w
  let body := match d with
    | some v => (scramble i ((bitsOf v.1.toNat 5140).drop (markBits i))).map some
    | none => List.replicate (bodyBits i) none
  let good := match d with | some v => isMarker (v.1.toNat % 2 ^ 64) | none => false
  { s with rxCode := (i + 1) % markEvery + 1, rxPend := s.rxPend ++ body,
           rxMiss := if markBits i = 0 then s.rxMiss else if good then 0 else s.rxMiss + 1, rxBad := (d.isNone :: s.rxBad).take 64 }
/-- What a receiver reads: how many codewords it corrected and how many it could not; the next frame, if all its bits stand in codewords
that it decoded; and its first ten bytes, with the sideband, if theirs do. -/
structure RxRead where
  ctl : Ctl
  corr : Nat
  uncorr : Nat
  frame : Option Bytes
  head : Option Bytes
  deriving DecidableEq, Repr
/-- `n` bytes that begin a list of stream bits, if all these bits are known. -/
def bytesRead (bs : List (Option Bool)) (n : Nat) : Option Bytes :=
  let w := bs.take (8 * n)
  if w.length = 8 * n ∧ w.all Option.isSome then
    some ((List.range n).map (fun i => BitVec.ofNat 8 (ofBits (((w.drop (8 * i)).take 8).map (fun b => b.getD false)))))
  else none
/-- The codewords that ended since the frame before arrive, and the next frame stands in their stream after `fill` bytes (R650 to R653). A
receiver without codeword alignment reads nothing. -/
def streamRead (c : Ctl) (l fill : Nat) (codes : List LinkCode) : RxRead :=
  let s := strm c l
  if s.rxCode = 0 then ⟨c, 0, 0, none, none⟩
  else
    let s := codes.foldl rxOneCode s
    let d := codes.map decodeCode
    let bs := s.rxPend.drop (8 * fill)
    ⟨updStrm c l (fun _ => { s with rxPend := s.rxPend.drop (8 * (fill + 266)) }),
     (d.filter (fun x => match x with | some v => v.2 | none => false)).length, (d.filter Option.isNone).length, bytesRead bs 266, bytesRead bs 10⟩

end Sys2Proof.Machine
end

