-- ==== Sys2Proof/Machine/Time.lean ====
section
/-! DEFINITION. Fabric time: time messages, measurement, the discipline filter and the lock states (R89 to R115). -/
namespace Sys2Proof.Machine

/-- FTC with its fraction, in 1/16 tc. -/
def ftc16 (c : Ctl) : Nat := c.time.ftc * 16 + c.time.frac
/-- The Plezor is the time root: ROLE is 1 or the profile is bench (R90, R103). -/
def isRoot (c : Ctl) : Bool := bench c || rbit c rTimCtrl 0
/-- Its depth in the tree: 0 at the root of a bench fabric. -/
def myDepth (c : Ctl) : Nat := fld c rTimCtrl 23 20
/-- LOCK (R101): 0 FREE, 1 ACQUIRE, 2 TRACK, 3 LOCKED, 4 HOLDOVER, 5 LOST. -/
def lockOf (c : Ctl) : Nat := fld c rTimStat 6 4
/-- Sets LOCK; a new state starts its counts anew. -/
def setLock (c : Ctl) (v : Nat) : Ctl :=
  let c := setFld c rTimStat 6 4 v
  { c with time := { c.time with inCnt := 0, outCnt := 0 } }
/-- The active upstream link: UP_ALT while ON_ALT is 1 (R106). -/
def upLink (c : Ctl) : Nat := if rbit c rTimStat 7 then fld c rTimCtrl 14 10 else fld c rTimCtrl 8 4
/-- The path asymmetry of the active upstream, in 1/64 tc (R95). -/
def upAsym (c : Ctl) : Int := if rbit c rTimStat 7 then sx 16 (fld c rUpAsym 31 16) else sx 16 (fld c rUpAsym 15 0)
/-- STATE of a link is ON. -/
def linkOn (c : Ctl) (l : Nat) : Bool := decide (fld c (lkStat l) 1 0 = 1)
/-- STATE of a link is ON or DRAINING: it sends and answers time messages (R94, R138). -/
def linkTimes (c : Ctl) (l : Nat) : Bool := decide (fld c (lkStat l) 1 0 = 1 ∨ fld c (lkStat l) 1 0 = 2)
/-- The DIGEST of the armed epoch record; 0 when not armed (R92, R93). -/
def digest (c : Ctl) : Nat :=
  if rbit c rTimCtrl 16 then
    crc32c (leBytes 8 (rd64 c rEpochAt) ++ leBytes 8 (rd64 c rEpochFirst) ++ leBytes 8 (passLen c))
  else 0
/-- A time message's payload (R91). -/
def timePayload (c : Ctl) (kind body : Nat) : Nat := kind * 2 ^ 52 + myDepth c * 2 ^ 48 + body % 2 ^ 48
/-- Sends a time message on a link; SBKIND 1 is TIME (R667). -/
def sendTime (c : Ctl) (l kind body : Nat) : Ctl := sbSend c l 1 (timePayload c kind body)
/-- Sends a STAMP on a link; its T1 is filled in as its frame departs (R92, R669). -/
def sendStamp (c : Ctl) (l : Nat) : Ctl :=
  let q := smGet c.time.seq 0 l
  let c := sendTime c l 1 (q * 2 ^ 44)
  { c with time := { c.time with seq := smSet c.time.seq 0 l ((q + 1) % 16) } }
/-- A TIME word as its frame departs at `t`, in 1/16 tc: the T1 of a STAMP, which the Plezor keeps, the RES of an ECHO in whole tc, whose
rounding is left open, and the FTC_HI of a COARSE (R91, R92, Assumption 5). -/
def timeDepart (c : Ctl) (l : Nat) (w : SbWord) (t : Nat) : Ctl × Nat :=
  match bits w.payload 55 52 with
  | 1 =>
    let q := bits w.payload 47 44
    ({ c with time := { c.time with sentT1 := smSet c.time.sentT1 0 (l * 16 + q) t } }, setBits w.payload 43 0 t)
  | 2 =>
    let d := t - w.echo.getD t
    let up := if d % 16 = 0 then false else Config.freeBit c.free
    ({ c with free := c.free + 1 }, setBits w.payload 43 20 (d / 16 + b2n up))
  | 3 => (c, setBits w.payload 47 0 (t / 16 / 2 ^ 16))
  | _ => (c, w.payload)
/-- One time-message interval: every link that is ON or draining sends a STAMP, a COARSE and an EPOCH; a member counts the
intervals without an ECHO (R94, R106). PLEN is TIM_PASS_LEN / 64 while no epoch is armed too: DESIGN CHOICE, for R92 gives only DIGEST then
(Assumption 50). -/
def timeInterval (c : Ctl) : Ctl :=
  let c := foldUp 32 (fun c l =>
    if linkTimes c l then
      let c := sendStamp c l
      let c := sendTime c l 3 0
      sendTime c l 4 ((passLen c / 64) % 2 ^ 16 * 2 ^ 32 + digest c)
    else c) c
  { c with time := { c.time with echoMiss := if c.time.echoSeen then 0 else c.time.echoMiss + 1, echoSeen := false,
                                 priMiss := if c.time.priSeen then 0 else c.time.priMiss + 1, priSeen := false } }

/-- A time message of the active upstream that a member heeds: its DEPTH is one less than the member's; another DEPTH there
raises a NOTE (R100). Answers the state and whether the message is heeded. -/
def heed (c : Ctl) (l depth : Nat) : Ctl × Bool :=
  if isRoot c ∨ l ≠ upLink c then (c, false)
  else if depth + 1 = myDepth c then (c, true)
  else (raise c 0x3081 noPart (unitOf c 2 l) (l % 32 + depth % 16 * 2 ^ 8), false)

/-- Rounds a quotient that the manual does not round: exact, or one of its two neighbours (Assumption 5). -/
def openDiv (c : Ctl) (x : Int) (d : Nat) : Ctl × Int :=
  if x % (d : Int) = 0 then (c, x / (d : Int))
  else let (c, n) := drawFree c; (c, x / (d : Int) + (if Config.freeBit n then 1 else 0))
/-- The value congruent to `v` modulo `m` that lies nearest to `e`. -/
def nearestMod (e : Int) (v m : Nat) : Int :=
  let r := ((v : Int) - e) % (m : Int)
  if 2 * r ≥ (m : Int) then e + r - (m : Int) else e + r
/-- In ACQUIRE, while the epoch is not running, FTC is loaded once from the upstream's FTC_HI, T1 and the measured delay, as soon
as all three are known (R102). The links' streams go on as they are, on the new FTC. -/
def tryLoad (c : Ctl) : Ctl :=
  if lockOf c = 1 ∧ c.time.epoch = false ∧ c.time.stepped = false then
    match c.time.coarse, c.time.upStamp, c.time.delay with
    | some hi, some (t1, at16), some d =>
      let (c, d16) := openDiv c d 8
      let full := nearestMod ((hi * 2 ^ 20 : Nat) : Int) t1 (2 ^ 44)
      let now := full + d16 + ((ftc16 c : Int) - (at16 : Int))
      let v := ux 68 now
      let moved (s : LinkStream) : LinkStream := { s with refAt := ((s.refAt : Int) + 85 * (((v / 16 : Nat) : Int) - (c.time.ftc : Int))).toNat }
      { c with time := { c.time with ftc := v / 16 % 2 ^ 64, frac := v % 16, stepped := true },
               lk := { c.lk with sent := {}, stream := ⟨c.lk.stream.entries.map (fun e => (e.1, moved e.2))⟩ } }
    | _, _, _ => c
  else c

/-- A STAMP arrives: t2 is recorded and an ECHO waits to answer it, in a contained Plezor too (R137); the active upstream's T1 is kept for the
load of FTC (R92, R94, R102). -/
def stampIn (c : Ctl) (l depth seq t1 : Nat) : Ctl :=
  let t2 := ftc16 c
  let c := if linkTimes c l then
      sbSend c l 1 (timePayload c 2 (seq % 16 * 2 ^ 44 + t2 % 2 ^ 20)) (some t2)
    else c
  let (c, ok) := if alive c then heed c l depth else (c, false)
  if ok then tryLoad { c with time := { c.time with upStamp := some (t1 % 2 ^ 44, t2) } } else c
/-- A COARSE arrives (R101, R102). -/
def coarseIn (c : Ctl) (l depth hi : Nat) : Ctl :=
  let (c, ok) := heed c l depth
  if ok then
    let c := { c with time := { c.time with coarse := some (hi % 2 ^ 48) } }
    let c := if lockOf c = 0 then
        let c := setLock c 1
        { c with time := { c.time with stepped := false } }
      else c
    tryLoad c
  else c
/-- An EPOCH message arrives: the latest PLEN and DIGEST of the active upstream (R112). -/
def epochIn (c : Ctl) (l depth plen dig : Nat) : Ctl :=
  let (c, ok) := heed c l depth
  if ok then { c with time := { c.time with epochRx := some (plen % 2 ^ 16, dig % 2 ^ 32) } } else c

/-- Discipline constants: kp and ki in 10^-6 ppm per tc (R99). -/
def bwK (bw : Nat) : Int × Int :=
  match bw with
  | 0 => (500000, 2000)
  | 1 => (250000, 500)
  | 2 => (125000, 125)
  | _ => (62500, 30)
/-- One update of the filter; `err` in 1/128 tc, the correction in 10^-6/128 ppm (R97, R98). -/
def discipline (c : Ctl) (err : Int) : Ctl :=
  let (kp, ki) := bwK (fld c rTimCtrl 19 18)
  let acc := c.time.acc + ki * err
  let want := clampI (-25600000000) 25600000000 (acc + kp * err)
  let corr := c.time.corr + clampI (-12800000) 12800000 (want - c.time.corr)
  let c := { c with time := { c.time with acc := acc, corr := corr } }
  let (c, f) := openDiv c (corr * 512) 1000000
  wr c rTimFreq (ux 32 f)
/-- The lock state after an update with |offset| in 1/128 tc (R101). -/
def lockUpdate (c : Ctl) (a : Nat) : Ctl :=
  let tc : Nat := 128
  match lockOf c with
  | 1 => if a ≤ 16 * tc then setLock c 2 else c
  | 2 =>
    if a ≤ tc then
      if c.time.inCnt + 1 ≥ 64 then setLock c 3 else { c with time := { c.time with inCnt := c.time.inCnt + 1 } }
    else { c with time := { c.time with inCnt := 0 } }
  | 3 =>
    if a > 2 * tc then
      if c.time.outCnt + 1 ≥ 4 then setLock c 2 else { c with time := { c.time with outCnt := c.time.outCnt + 1 } }
    else { c with time := { c.time with outCnt := 0 } }
  | 4 => if a ≤ 16 * tc then setLock c 2 else c
  | _ => c
/-- An ECHO arrives: delay and offset (R96), the filter (R97), which FREE does not have, and the lock state (R101); an offset measured before
FTC is loaded in ACQUIRE moves no lock state (R102, Assumption 52). Answers the state and whether the offset ends fabric time: beyond 16 tc
while the epoch runs (R109). -/
def echoIn (c : Ctl) (l depth seq res t2 : Nat) : Ctl × Bool :=
  let c := if isRoot c = false ∧ rbit c rTimStat 7 = true ∧ l = fld c rTimCtrl 8 4 ∧ depth + 1 = myDepth c then
      { c with time := { c.time with priMiss := 0, priSeen := true } }
    else c
  let (c, ok) := heed c l depth
  if ok then
    let c := { c with time := { c.time with echoSeen := true, echoMiss := 0 } }
    let t1 : Int := (smGet c.time.sentT1 0 (l * 16 + seq % 16) : Nat)
    let t4 : Int := (ftc16 c : Nat)
    let a := upAsym c
    let d := 4 * (t4 - t1 - 16 * ((res % 2 ^ 24 : Nat) : Int)) - a
    let c := { c with time := { c.time with delay := some d } }
    let est := t1 + d / 8 + sx 32 (rd c rTimOffset)
    let t2f := nearestMod est (t2 % 2 ^ 20) (2 ^ 20)
    let off := 8 * (t2f - t1) - d - 2 * a
    let (c, o16) := openDiv c off 8
    let c := wr c rTimOffset (ux 32 o16)
    let c := if lockOf c = 0 then c else discipline c off
    if c.time.epoch ∧ off.natAbs > 16 * 128 then (c, true)
    else if lockOf c = 1 ∧ c.time.epoch = false ∧ c.time.stepped = false then (tryLoad c, false)
    else (lockUpdate c off.natAbs, false)
  else (c, false)

/-- The member takes the alternate or the primary as its upstream, without stepping FTC (R106, R110). -/
def takeUp (c : Ctl) (alt : Bool) : Ctl :=
  let c := setBit c rTimStat 7 alt
  { c with time := { c.time with echoMiss := 0, echoSeen := false, upStamp := none, coarse := none, delay := none, epochRx := none,
                                 priMiss := 4, priSeen := false } }
/-- The other upstream can take the place of the one that is lost. The alternate needs its link ON (R106). The primary needs its link ON and an
ECHO on it in one of the latest 4 intervals: DESIGN CHOICE, for R107 and R110 do not say what makes an upstream usable (Assumption 67). -/
def otherUsable (c : Ctl) : Bool :=
  if rbit c rTimStat 7 then linkOn c (fld c rTimCtrl 8 4) && decide (c.time.priMiss < 4) else linkOn c (fld c rTimCtrl 14 10)
/-- The upstream is lost when its link leaves ON or after 4 intervals without an ECHO: the other upstream takes its place if it is
usable, or LOCK becomes HOLDOVER (R106, R107, R110). A member in FREE stays there, with no NOTE: DESIGN CHOICE, for its state table leads from
FREE to ACQUIRE alone (R101, Assumption 51). -/
def upstreamLost (c : Ctl) : Ctl :=
  let onAlt := rbit c rTimStat 7
  if isRoot c = false ∧ (linkOn c (upLink c) = false ∨ c.time.echoMiss ≥ 4) then
    if rbit c rTimCtrl 15 ∧ otherUsable c = true then takeUp c (!onAlt)
    else if lockOf c = 1 ∨ lockOf c = 2 ∨ lockOf c = 3 then
      let c := setLock c 4
      let c := { c with time := { c.time with holdPasses := 0 } }
      raise c 0x3082 noPart (unitBlock c 0x02) (rd c rTimFreq)
    else c
  else c

/-- The first condition of R112 that fails, as START_FAIL; 0 when all hold. -/
def startFail (c : Ctl) : Nat :=
  if fplanOn c = false then 1
  else if isRoot c = false ∧ lockOf c ≠ 3 then 2
  else if isRoot c = false ∧ c.time.epochRx ≠ some (passLen c / 64, digest c) then 3
  else if c.time.armAt + 64 > rd64 c rEpochAt then 4
  else if rd64 c rEpochFirst > 0xFFFFFFFFFFFE then 5
  else if rd64 c rEpochAt % 64 ≠ 0 then 6
  else 0
/-- The epoch does not start: ARM returns to 0, START_FAIL records why, a CONT event in tc `f` (R113). -/
def failStart (c : Ctl) (f v : Nat) : Ctl :=
  let c := { c with plan := { c.plan with finalDone := false } }
  raiseAt (setFld (setBit c rTimCtrl 16 false) rTimStat 11 8 v) (stampAt c f) 0x3084 noPart (unitBlock c 0x02) v
/-- A write that sets ARM: it arms, or fails at once when it comes later than 64 tc before TIM_EPOCH_AT; while the epoch runs it
changes nothing and raises a NOTE. ARM takes effect 8 tc after its write's acceptance (R42, R111, R113, R114, R131). A write of 1 while ARM is
1 and no epoch runs changes nothing: DESIGN CHOICE, for the rules do not say that it arms anew (Assumption 49). -/
def armEpoch (c : Ctl) : Ctl :=
  if c.time.epoch then raise c 0x1001 noPart (unitBlock c 0x02) rTimCtrl
  else if rbit c rTimCtrl 16 then c
  else
    let c := { c with plan := { c.plan with finalDone := false } }
    let c := setFld (setBit c rTimCtrl 16 true) rTimStat 11 8 0
    let c := { c with time := { c.time with armAt := c.time.ftc + 8 } }
    if c.time.armAt + 64 > rd64 c rEpochAt then failStart c c.time.armAt (startFail c) else c

end Sys2Proof.Machine
end

