-- ==== Sys2Proof/Machine/Links.lean ====
section
/-! DEFINITION. The links and the fabric: training, frames and sidebands, parcels, forwarding, link reductions, route tables, failures
and detours (R649 to R712). -/
namespace Sys2Proof.Machine

/-! Registers and state. -/
/-- Counters of a link: 0 TX_PARCELS, 1 RX_PARCELS, 2 FEC_CORR, 3 FEC_UNCORR, 4 FORMAT, 5 HOLE_RX, 6 EMPTY_RX, 7 UNCLAIMED, 8 LATE_RX,
9 STARVE, 10 CONFLICT, 11 FWD_DROP, 12 TX_DROP, 13 SLUICE_OVR, 14 SB_SLOW, 15 SB_MISMATCH. -/
def lkCount (c : Ctl) (l i : Nat) : Ctl := cnt1 c (lkCnt l i)
/-- STATE and LINK of a link. -/
def lkState (c : Ctl) (l : Nat) : Nat := fld c (lkStat l) 1 0
def lkStep (c : Ctl) (l : Nat) : Nat := fld c (lkStat l) 10 8
def setStep (c : Ctl) (l v : Nat) : Ctl := setFld c (lkStat l) 10 8 v
/-- The links' hidden state changed. -/
def updLk (c : Ctl) (f : LkSt → LkSt) : Ctl := { c with lk := f c.lk }
/-- The link sends and receives: its STATE is ON or DRAINING. -/
def lkLive (c : Ctl) (l : Nat) : Bool := decide (l < 32) && (decide (lkState c l = 1) || decide (lkState c l = 2))
/-- Its unit, for an event. -/
def unitLk (c : Ctl) (l : Nat) : Nat := unitOf c 2 l
/-- The start offset of slot k (R661). -/
def slotOff (k : Nat) : Nat := 160 * k / 3
/-- The first slot whose start offset is at least `o`. -/
def slotFrom (o : Nat) : Nat :=
  let j := 3 * o / 160
  if slotOff j ≥ o then j else if slotOff (j + 1) ≥ o then j + 1 else j + 2
/-- The pass of the latest occurrence of slot `k` that has begun. -/
def slotPass (c : Ctl) (k : Nat) : Nat :=
  if c.time.passAt + slotOff k ≤ c.time.ftc then c.time.pass else c.time.pass - 1
def lslotStart (c : Ctl) (n k : Nat) : Nat := boundaryOf c n + slotOff k
/-- The pass of the occurrence of slot `k` that is dealt with `lim` tc after its start: the earliest one for which that instant has not gone by and
for which it is not `done`, given as pass + 1; else the latest that has begun. A pass shorter than `lim` begins the slot anew before (R691). -/
def slotDue (c : Ctl) (k lim done : Nat) : Nat :=
  let n := slotPass c k
  (([n - 2, n - 1].filter (fun m => decide (m < n))).find? (fun m => decide (done ≤ m ∧ c.time.ftc ≤ lslotStart c m k + lim))).getD n
/-- The owner of a link slot in pass `n`, under the frame plan in force then (R706). -/
def slotOwner (c : Ctl) (l k n : Nat) : Nat :=
  if n < c.lk.newFrom then (if l < 32 ∧ k < lslots c then tab c.lk.oldLink (lslots c * l + k) else 0xFF) else linkOwner c l k

/-! Transfers and their alternatives (R173, R174, R696, R699). -/
/-- The alternative of a partition for a failure: the first of two that name it, DESIGN CHOICE, for R174 does not say which applies
(Assumption 70). -/
def altFor (c : Ctl) (p id l : Nat) : Option (List Bytes) :=
  match partPlan c p with
  | some q => ((altsOf q.detour).find? (fun a => a.1 = id ∧ a.2.1 = l)).map (·.2.2.1)
  | none => none
/-- D of a partition; the least value when its plan has no DETOUR (Assumption 28). -/
def detourD (c : Ctl) (p : Nat) : Nat :=
  match partPlan c p with | some q => (if q.detour.length < 8 then 2 else leAt q.detour 0 1) | none => 2
/-- An order of switches: boundary, FAIL_ID, FAIL_LINK (R699). -/
def switchKey (d : Detoured) : Nat := (d.sw * 2 ^ 16 + d.id) * 32 + d.link
/-- Puts a switch in its place among others. -/
def insSwitch (d : Detoured) : List Detoured → List Detoured
  | [] => [d]
  | e :: r => if switchKey d < switchKey e then d :: e :: r else e :: insSwitch d r
/-- An entry of LK_FAIL is VALID. -/
def failValid (c : Ctl) (e : Nat) : Bool := rbit c (lkFail e) 31
/-- FAIL_ID, FAIL_LINK and P_fail of an entry. -/
def failId (c : Ctl) (e : Nat) : Nat := fld c (lkFail e) 15 0
def failLink (c : Ctl) (e : Nat) : Nat := fld c (lkFail e) 20 16
def failPass (c : Ctl) (e : Nat) : Nat := rd c (lkFail e + 4) + 2 ^ 32 * fld c (lkFail e + 8) 15 0
/-- The pass at whose boundary a partition switches for a failure, and whether the boundary P_fail + D has passed when it was recorded (R696,
R697). One recorded while no epoch ran, in no pass of the epoch, is switched to at the first boundary of the epoch. -/
def switchAt (c : Ctl) (p e : Nat) : Nat × Bool :=
  let due := failPass c e + detourD c p
  let r := smGet c.lk.failRec 0 e
  let f := rd64 c rEpochFirst % 2 ^ 48
  if r = 0 then (if due ≤ f ∨ failPass c e = 2 ^ 48 - 1 then (f, true) else (due, false))
  else if r - 1 ≥ due then (r, true) else (due, false)
/-- The switches of partition `p` that hold in pass `n`: those made, and those due by its boundary (R696). -/
def switches (c : Ctl) (p n : Nat) : List Detoured :=
  let made := c.lk.switched.filter (fun d => d.part = p ∧ d.sw ≤ n)
  let due := (List.range 32).filterMap (fun e =>
    let d : Detoured := ⟨p, failId c e, failLink c e, failPass c e, (switchAt c p e).1, true⟩
    if failValid c e && decide (d.sw ≤ n) && !(c.lk.switched.any (fun x => x.part = p ∧ x.id = d.id ∧ x.link = d.link ∧ x.pfail = d.pfail)) then some d
    else none)
  made ++ due
/-- The transfer entries of a partition in pass `n`, with the alternatives that hold (R696, R699). Of an alternative's entries with one XFER_ID
the first replaces the transfer: DESIGN CHOICE without effect, for code 0x3C refuses them unless all cancel it (R174, R176, Assumption 70). -/
def xfers (c : Ctl) (p n : Nat) : List Bytes :=
  match partPlan c p with
  | none => []
  | some q =>
    let sw := (switches c p n).foldl (fun l d => insSwitch d l) []
    sw.foldl (fun es d =>
      let alt := (altFor c p d.id d.link).getD []
      es.map (fun e => (alt.find? (fun a => leAt a 0 2 = leAt e 0 2)).getD e)) (pieces 32 q.xfer)
/-- Fields of a transfer entry. -/
def xId (e : Bytes) : Nat := leAt e 0 2
def xDir (e : Bytes) : Bool := bitN (leAt e 3 1) 0
def xReduce (e : Bytes) : Bool := bitN (leAt e 3 1) 1
def xFwd (e : Bytes) : Bool := bitN (leAt e 3 1) 2
def xSlot (e : Bytes) : Nat := leAt e 4 2
def xTile (e : Bytes) : Nat := leAt e 10 2 % 1024
def xPeer (e : Bytes) : Nat := leAt e 12 2
/-- The tile memory address of the parcel in slot `k`. -/
def xAddr (e : Bytes) (k : Nat) : Nat := (leAt e 16 4 + (k - xSlot e) * leAt e 20 4) % 2 ^ 19
/-- An entry acts in slot `k` of link `l` in pass `n` (R674, R679, R681). -/
def xActs (l k n : Nat) (e : Bytes) : Bool :=
  decide (leAt e 2 1 = l ∧ xSlot e ≤ k ∧ k < xSlot e + leAt e 6 2 ∧ leAt e 8 1 ≠ 0 ∧ n % leAt e 8 1 = leAt e 9 1)
/-- The entries that act, of one direction. -/
def acting (c : Ctl) (p l k n : Nat) (dir : Bool) : List Bytes :=
  (xfers c p n).filter (fun e => xActs l k n e && decide (xDir e = dir))
/-- The entry with the lowest XFER_ID (R677, R703). -/
def lowest (l : List Bytes) : Option Bytes :=
  l.foldl (fun m e => match m with | some f => if xId e < xId f then some e else m | none => some e) none

/-! Sidebands of frames (R656, R665, R669). -/
/-- One bit step of the CRC of the sideband. -/
def crc8Bit (c : Nat) : Nat := if c ≥ 128 then (2 * c % 256) ^^^ 0x07 else 2 * c
/-- SBCRC of eight bytes (R665). -/
def crc8 (bs : Bytes) : Nat :=
  bs.foldl (fun c b => crc8Bit (crc8Bit (crc8Bit (crc8Bit (crc8Bit (crc8Bit (crc8Bit (crc8Bit (c ^^^ b.toNat))))))))) 0xFF
/-- An IDENT payload (R656). -/
def identPayload (c : Ctl) (l : Nat) (down nack : Bool) : Nat :=
  b2n down * 2 ^ 50 + b2n nack * 2 ^ 49 + b2n (smGet c.lk.acked false l) * 2 ^ 48 + plezorId c * 2 ^ 32 + l * 2 ^ 24 +
    fld c rGlbFabric 31 16
/-- The first waiting word of a kind. -/
def sbFirst (q : List SbWord) (k : Nat) : Option SbWord := q.find? (fun w => w.kind = k)
/-- The kind of the next sideband of a link, in the order of R669 under its three rules: the code, or 0 for IDLE. A stamp that could hold DBG
back for 8 frames, with TRIG between its words, begins after DBG; FAIL words alone can still hold DBG back longer. `down`: a frame that carries
IDENT with DOWN. -/
def sbKind (c : Ctl) (l : Nat) (down : Bool) : Nat :=
  let q := smGet c.lk.sb [] l
  let has (k : Nat) : Bool := (sbFirst q k).isSome
  let mid := decide (smGet c.lk.stampMid 0 l ≠ 0) && has 3
  let gap := smGet c.lk.dbgGap 0 l
  if has 4 ∧ gap ≥ 7 ∧ mid = false then 4
  else if has 2 ∧ smGet c.lk.lastTrig false l = false then 2
  else if has 5 then 5
  else if mid then 3
  else if down ∨ lkStep c l = 3 ∨ (lkStep c l > 3 ∧ smGet c.lk.identGap 0 l ≥ 63) then 6
  else if has 3 then (if has 4 ∧ gap ≥ 2 then 4 else 3)
  else if has 1 then 1
  else if has 4 then 4
  else 0
/-- The sideband of the frame that departs at `t`, in 1/16 tc, as a 64-bit number (R667, R669). -/
def takeSb (c : Ctl) (l t : Nat) (down : Bool) : Ctl × Nat :=
  let q := smGet c.lk.sb [] l
  let k := sbKind c l down
  let trigs := q.filter (fun w => w.kind = 2)
  let w : Option SbWord := if k = 6 ∨ k = 0 then none else sbFirst q k
  let rest := if k = 2 then q.filter (fun w => w.kind ≠ 2) else match w with | some w => q.erase w | none => q
  let dbg := rest.any (fun w => w.kind = 4)
  let mid := smGet c.lk.stampMid 0 l
  let c := updLk c (fun x => { x with
    sb := smSet x.sb [] l rest
    lastTrig := smSet x.lastTrig false l (decide (k = 2))
    dbgGap := smSet x.dbgGap 0 l (if k = 4 ∨ dbg = false then 0 else smGet x.dbgGap 0 l + 1)
    identGap := smSet x.identGap 0 l (if k = 6 then 0 else smGet x.identGap 0 l + 1)
    stampMid := smSet x.stampMid 0 l (if k = 3 then (mid + 1) % 3 else mid)
    downSent := smSet x.downSent false l (smGet x.downSent false l || (down && decide (k = 6))) })
  match k, w with
  | 0, _ => (c, 0)
  | 6, _ => (c, 6 * 2 ^ 60 + identPayload c l down false)
  | 2, some w =>
    let ch := trigs.foldl (fun a w => a ||| bits w.payload 15 0) 0
    (c, 2 * 2 ^ 60 + setBits w.payload 15 0 ch)
  | 1, some w => let (c, v) := timeDepart c l w t; (c, 1 * 2 ^ 60 + v)
  | 4, some w =>
    -- the first word of a request is sent now (R973)
    let c := match c.db.relay with
      | some r => if r.sent = none ∧ r.first = w.payload then { c with db := { c.db with relay := some { r with sent := some c.time.ftc } } } else c
      | none => c
    (c, 4 * 2 ^ 60 + w.payload % 2 ^ 56)
  | k, some w => (c, k * 2 ^ 60 + w.payload % 2 ^ 56)
  | _, none => (c, 0)
/-- A frame of 266 bytes (R663). -/
def frameBytes (kind nib sb : Nat) (pay : Bytes) : Bytes :=
  let s := leBytes 8 sb
  leBytes 1 (kind * 16 + nib % 16) ++ leBytes 1 (crc8 s) ++ s ++ padTo 256 pay

/-! Failure (R692 to R695, R701, R708). -/
/-- What a link that leaves ON loses: its waiting words, its parcels and its training. -/
def lkDrop (c : Ctl) (l : Nat) : Ctl :=
  let mine (k : Nat) : Bool := decide (k / 1024 = l)
  let c := updStrm (setStep c l 0) l (fun s => { s with txPend := [] })
  updLk c (fun x => { x with
    sb := smSet x.sb [] l [], lastTrig := smSet x.lastTrig false l false, dbgGap := smSet x.dbgGap 0 l 0
    identGap := smSet x.identGap 0 l 0, stampMid := smSet x.stampMid 0 l 0, acked := smSet x.acked false l false
    mayUp := smSet x.mayUp 0 l 0, measAt := smSet x.measAt 0 l 0, measN := smSet x.measN 0 l 0, downSent := smSet x.downSent false l false
    work := x.work.filter (fun w => w.link ≠ l), tx := smClear x.tx mine, got := smClear x.got mine
    rx := smClear x.rx (fun k => decide (k / 8 = l)) })
/-- Parcels held for delivery that are discarded: each counts in UNCLAIMED (R62, R704). Answers how many. -/
def lkHeld (c : Ctl) (l : Nat) : Nat :=
  (c.lk.rx.entries.filter (fun e => decide (e.1 / 8 = l) && (match e.2 with | some b => decide (b.kind = 2 ∨ b.kind = 3) | none => false))).length
def lkDiscard (c : Ctl) (l : Nat) : Ctl :=
  updLk (cntAdd c (lkCnt l 7) 31 (lkHeld c l)) (fun x => { x with rx := smClear x.rx (fun k => decide (k / 8 = l)), work := x.work.filter (fun w => w.link ≠ l) })
/-- All the work that a link still has is discarded, each unit counted (R62, R64): parcels held in UNCLAIMED, frames to be forwarded on it in
FWD_DROP, parcels still to be sent in TX_DROP. Answers how many units. -/
def lkCut (c : Ctl) (l : Nat) : Ctl × Nat :=
  let fw := (c.lk.fwd.filter (fun f => f.link = l)).length
  let tx := (c.lk.tx.entries.filter (fun e => decide (e.1 / 1024 = l) && e.2.isSome)).length + (c.dc.parcels.filter (fun m => m.1 = l)).length
  let k := lkHeld c l + fw + tx
  let c := cntAdd (cntAdd (lkDiscard c l) (lkCnt l 11) 31 fw) (lkCnt l 12) 31 tx
  let c := updLk c (fun x => { x with fwd := x.fwd.filter (fun f => f.link ≠ l), tx := smClear x.tx (fun k => decide (k / 1024 = l)) })
  (updDc c (fun x => { x with parcels := x.parcels.filter (fun m => m.1 ≠ l) }), k)
/-- The link enters FAULT with its CAUSE and one event; one that drains discards its remaining work, counted (R64, R1044). -/
def lkFault (c : Ctl) (l cause code detail : Nat) : Ctl :=
  let c := if lkState c l = 2 then (lkCut c l).1 else c
  let c := setFld (enterFault c (lkStat l)) (lkStat l) 15 12 cause
  lkDrop (raise c code noPart (unitLk c l) detail) l
/-- A FAIL word (R668). -/
def failPayload (id l pf : Nat) : Nat := id % 2 ^ 16 * 2 ^ 40 + l % 32 * 2 ^ 35 + pf % 2 ^ 32
/-- A link is UP. -/
def lkUp (c : Ctl) (l : Nat) : Bool := lkLive c l && decide (lkStep c l = 5)
/-- Records a failure and sends FAIL on every UP link but one; a full table records nothing (R693 to R695). -/
def recordFail (c : Ctl) (id l pf : Nat) (here : Bool) (except : Nat) : Ctl :=
  match (List.range 32).find? (fun e => failValid c e = false) with
  | none => raise c 0x4086 noPart (unitBlock c 0x02) (id % 2 ^ 16 + l % 32 * 2 ^ 16 + pf % 2 ^ 32 * 2 ^ 32)
  | some e =>
    let c := wr c (lkFail e) (2 ^ 31 + b2n here * 2 ^ 30 + l % 32 * 2 ^ 16 + id % 2 ^ 16)
    let c := wr (wr c (lkFail e + 4) (pf % 2 ^ 32)) (lkFail e + 8) (pf / 2 ^ 32 % 2 ^ 16)
    let c := updLk c (fun x => { x with failRec := smSet x.failRec 0 e (if c.time.epoch then c.time.pass + 1 else 0) })
    foldUp 32 (fun c o => if o ≠ except ∧ lkUp c o then sbSend c o 5 (failPayload id l pf) else c) c
/-- A link's receiving end declares failure (R692, R693); before UP it is a training fault (R708). -/
def declareFail (c : Ctl) (l cause : Nat) : Ctl :=
  if lkLive c l = false ∨ lkStep c l = 0 then c
  else if lkStep c l ≠ 5 then lkFault c l 1 0x0003 1
  else
    let id := smGet c.lk.lastId 0 l - 1
    let c := if cause = 8 then lkFault c l 8 0x43CB 0 else lkFault c l cause 0x43CA cause
    recordFail c (id % 2 ^ 16) (id / 2 ^ 16) (passNo c) true l
/-- A detection of R692 but DOWN: 5 loss of lock or signal, which has lasted for at most 64 tc, 6 uncorrectable codewords among the latest 64,
7 two markers in a row missing. -/
def linkFailure (l why n : Nat) (c : Ctl) : Ctl :=
  match why with
  | 5 => if n ≤ 64 then declareFail c l 5 else c
  | 6 => if ((strm c l).rxBad.filter id).length ≥ fld c rLkCfg 7 0 then declareFail c l 6 else c
  | 7 => if (strm c l).rxMiss ≥ 2 then declareFail c l 7 else c
  | _ => c
/-- A received FAIL (R694, R707). -/
def failIn (l pay : Nat) (c : Ctl) : Ctl :=
  let id := bits pay 55 40
  let fl := bits pay 39 35
  let pf := ux 48 (nearestMod ((passNo c : Nat) : Int) (pay % 2 ^ 32) (2 ^ 32))
  if lkLive c l = false ∨ lkStep c l < 3 then c
  else if (List.range 32).any (fun e => failValid c e && decide (failId c e = id ∧ failLink c e = fl ∧ failPass c e = pf)) then c
  else recordFail c id fl pf false l

/-! Training (R654 to R659). -/
/-- The prerequisites of a link (R654). -/
def lkReady (c : Ctl) (l : Nat) : Bool := !bench c && rbit c (lkPeer l) 0
/-- STATE has become ON: training begins (R655). -/
def lkStart (c : Ctl) (l : Nat) : Ctl :=
  let c := setFld (lkDrop c l) (lkStat l) 15 12 0
  updLk (streamStart (setStep c l 1) l) (fun x => { x with trainAt := smSet x.trainAt 0 l c.time.ftc, owed := smSet x.owed 0 l 0 })
/-- One step of training ends. -/
def trainStep (l old new : Nat) (c : Ctl) : Ctl := if lkLive c l = true ∧ lkStep c l = old then setStep c l new else c
/-- Two markers 1,024 codewords apart end ALIGN (R651, R655). -/
def alignEnds (m : MarkersSeen) (c : Ctl) : Ctl :=
  if lkLive c m.link = true ∧ lkStep c m.link = 2 ∧ m.gap = markEvery ∧ isMarker m.first.toNat = true ∧ isMarker m.second.toNat = true then
    streamAlign (setStep c m.link 3) m.link
  else c
/-- A received IDENT (R656, R657, R692): one that is not accepted puts the link in FAULT, and its next frame carries NACK. -/
def identIn (l pay : Nat) (c : Ctl) : Ctl :=
  if lkLive c l = false ∨ lkStep c l < 3 then c
  else
    let id := bits pay 47 32
    let li := bits pay 28 24
    let c := wr c (lkSeen l) (id * 2 ^ 16 + li * 2 ^ 8 + 1)
    if bitN pay 49 then lkFault c l 3 0x43C3 0
    else if id ≠ fld c (lkPeer l) 31 16 ∨ li ≠ fld c (lkPeer l) 12 8 ∨ bits pay 15 0 ≠ fld c rGlbFabric 31 16 then
      let nack := identPayload c l false true
      updLk (lkFault c l 2 0x43C2 (id + li * 2 ^ 16)) (fun x => { x with owed := smSet x.owed 0 l (nack + 1) })
    else
      let c := updLk c (fun x => { x with acked := smSet x.acked false l true, lastId := smSet x.lastId 0 l (id + li * 2 ^ 16 + 1) })
      if bitN pay 50 then declareFail c l 8
      else if bitN pay 48 then
        (if lkStep c l = 3 then updLk (trainStep l 3 4 c) (fun x => { x with measAt := smSet x.measAt 0 l (c.time.ftc + 1), measN := smSet x.measN 0 l 0 }) else c)
      else c
/-- The sixteen exchanges of MEASURE end: t4 − t1 and t3 − t2 of each, in 1/16 tc (R658). -/
def measured (l : Nat) (ex : List (Nat × Nat)) (c : Ctl) : Ctl :=
  if lkLive c l = false ∨ lkStep c l ≠ 4 then c
  else
    let sum : Int := ex.foldl (fun a x => a + ((x.1 : Int) - (x.2 : Int))) 0
    let (c, mean) := openDiv c sum 32
    let c := wr c (lkDelay l) (ux 16 mean)
    if sum > 32 * 960 then lkFault c l 4 0x0003 4
    else updLk c (fun x => { x with mayUp := smSet x.mayUp 0 l (1 + if c.time.epoch then firstPassAfter c c.time.ftc else 0) })
/-- The link becomes UP: at once, or at its pass boundary while the epoch runs (R655). -/
def linkUpNow (l : Nat) (c : Ctl) : Ctl :=
  let m := smGet c.lk.mayUp 0 l
  if lkLive c l = true ∧ lkStep c l = 4 ∧ m ≠ 0 ∧ (c.time.epoch = false ∨ m ≤ c.time.pass + 1) then
    updLk (setStep c l 5) (fun x => { x with mayUp := smSet x.mayUp 0 l 0, notUp := smSet x.notUp 0 l 0 })
  else c
/-- 25 ms after EN took effect, a link that is not UP fails (R659). -/
def trainTimeout (l : Nat) (c : Ctl) : Ctl :=
  if lkState c l = 1 ∧ lkStep c l ≠ 5 then
    match reach c (smGet c.lk.trainAt 0 l + 31250000) with
    | some c => lkFault c l 1 0x0003 1
    | none => c
  else c

/-! Routes (R687 to R689). -/
/-- The link an entry gives, at a boundary: its number plus 1, or 0. -/
def chooseLink (c : Ctl) (v : Nat) : Nat :=
  let pri := bits v 19 15
  if bitN v 31 = false then 0
  else if lkUp c pri ∨ smGet c.lk.notUp 0 pri < fld c rLkCfg 15 8 then pri + 1
  else
    let d := [(30, bits v 14 10), (29, bits v 9 5), (28, bits v 4 0)]
    match d.find? (fun x => bitN v x.1 && lkUp c x.2) with | some x => x.2 + 1 | none => 0
/-- The offset of route entry `i`. -/
def routeReg (i : Nat) : Nat := if i < 256 then lkGrt i else lkMrt (i - 256)
/-- The entry that routes to a Plezor (R688). -/
def routeOf (c : Ctl) (d : Nat) : Nat := if d / 256 % 256 ≠ plezorId c / 256 then d / 256 % 256 else 256 + d % 256
/-- The link toward a Plezor in this pass; while the epoch is not running, as a boundary would choose it now. -/
def routeTo (c : Ctl) (d : Nat) : Option Nat :=
  let i := routeOf c d
  let v := if c.time.epoch then smGet c.lk.routes 0 i else chooseLink c (rd c (routeReg i))
  if v = 0 then none else some (v - 1)
/-- Every entry chooses its link for the new pass (R689). -/
def routeSelect (c : Ctl) : Ctl :=
  let c := foldUp 32 (fun c l => updLk c (fun x => { x with notUp := smSet x.notUp 0 l (if lkUp c l then 0 else smGet x.notUp 0 l + 1) })) c
  let regs := (smKeys c.regs).filter (fun o => decide (lkGrt 0 ≤ o ∧ o < lkMrt 256))
  let e := regs.map (fun o => (if o < lkMrt 0 then (o - lkGrt 0) / 4 else 256 + (o - lkMrt 0) / 4, chooseLink c (rd c o)))
  updLk c (fun x => { x with routes := e.foldl (fun m y => smSet m 0 y.1 y.2) {} })

/-! Gathering (R469 to R473). -/
/-- A partial in a merge parcel (R470). -/
def partialBytes (g : Partial) : Bytes :=
  leBytes 4 g.ref ++ leBytes 1 (b2n g.hole * 2 + b2n g.acc) ++ leBytes 1 g.tag ++ leBytes 1 g.count ++ [0]
/-- A merge parcel (R470). -/
def mergeBytes (c : Ctl) (p home : Nat) (gs : List Partial) : Bytes :=
  padTo 256 (leBytes 2 home ++ leBytes 2 (plezorId c) ++ leBytes 1 p ++ leBytes 1 gs.length ++ leBytes 6 c.time.pass ++ zeroBytes 4 ++
    gs.flatMap partialBytes)
/-- Pieces of at most `n` elements. -/
def chunks {α : Type} (n : Nat) (l : List α) : List (List α) := (List.range (ceilDiv l.length n)).map (fun i => (l.drop (n * i)).take n)
/-- Puts a number in its place, once. -/
def insNat (a : Nat) : List Nat → List Nat
  | [] => [a]
  | b :: r => if a < b then a :: b :: r else if a = b then b :: r else b :: insNat a r
/-- The partials of the pass that ended become parcels for the slots of the pass that begins (R469, R471, R472). -/
def gatherNow (c : Ctl) : Ctl :=
  let gs := c.dc.gather
  let c := updDc c (fun x => { x with gather := [], parcels := [] })
  foldUp 32 (fun c p =>
    let mine := gs.filter (fun g => g.part = p)
    let homes := mine.foldl (fun l g => insNat g.home l) []
    let s0 := fld c (dcGm p) 9 0
    let noLink := mine.filter (fun g => routeTo c g.home = none)
    let c := cntAdd c (dcCnt p 9) 31 noLink.length
    foldUp 32 (fun c l =>
      let ps := (homes.filter (fun h => routeTo c h = some l)).flatMap
        (fun h => (chunks 30 (mine.filter (fun g => g.home = h))).map (fun x => (h, x)))
      let slots := ((List.range (fld c (dcGm p) 19 16)).map (s0 + ·)).filter (fun k => linkOwner c l k = p)
      let sent := (slots.zip ps).map (fun x => (l, x.1, mergeBytes c p x.2.1 x.2.2))
      let lost := (ps.drop slots.length).foldl (fun n x => n + x.2.length) 0
      cntAdd (updDc c (fun x => { x with parcels := x.parcels ++ sent })) (dcCnt p 9) 31 lost) c) c

/-! Sending parcels (R674 to R677, R681, R702). -/
/-- The next four owned phases of a partition at a router from `f` on. -/
def nextPhases (c : Ctl) (t p : Nat) : Nat → Nat → List Nat
  | 0, _ => []
  | n + 1, f => match firstPhase c t p f with | some a => a :: nextPhases c t p n (a + 1) | none => []
/-- A parcel of an earlier slot, or of the same slot on a lower link, still has lines of tile `t` to read in time: it is served first (R675). -/
def parcelBefore (c : Ctl) (l k n t : Nat) : Bool :=
  (List.range 4).any (fun j => (List.range 32).any (fun x =>
    let p := linkOwner c x (k - j)
    let read := match smGet c.lk.tx none (x * 1024 + (k - j)) with | some b => (if b.pass = n then b.data.length else 0) | none => 0
    decide (j ≤ k ∧ (0 < j ∨ x < l) ∧ p < 32 ∧ read < 256 ∧ c.time.ftc + 32 ≤ lslotStart c n (k - j)) &&
      (match lowest ((acting c p x (k - j) n false).filter (fun e => !xFwd e)) with | some e => decide (xTile e = t) | none => false)))
/-- The next line of the transmit parcel of slot `k` of link `l` is read, in the slot's next pass (R675). -/
def parcelLineRead (l k : Nat) (cm : CM) : CM :=
  let c := cm.1
  let n := if c.time.passAt + slotOff k ≥ c.time.ftc then c.time.pass else c.time.pass + 1
  let s := lslotStart c n k
  let p := linkOwner c l k
  let key := l * 1024 + k
  let old := match smGet c.lk.tx none key with | some b => if b.pass = n then b else ⟨n, [], 0, false⟩ | none => ⟨n, [], 0, false⟩
  match lowest ((acting c p l k n false).filter (fun e => !xFwd e)) with
  | none => cm
  | some e =>
    let t := xTile e
    let a := xAddr e k + old.data.length
    if c.time.epoch = false ∨ p ≥ 32 ∨ k ≥ lslots c ∨ old.data.length ≥ 256 ∨ parcelBefore c l k n t then cm
    else match (firstPhase c t p (max (max (s - 160) c.time.ftc) (max (tile c t).phaseAt old.lastAt))).bind (fun f => (reach c f).map (f, ·)) with
      | none => cm
      | some (f, c) =>
        let c := rxUse (updTile c t (fun x => { x with phaseAt := f + 1 })) t a false
        let hit := eccBad cm.2 t a 64
        let c := match hit with
          | some _ => raise c 0x23C5 noPart (unitLk c l) (t + a % 2 ^ 19 * 2 ^ 13)
          | none => c
        let r := if hit.isSome then (c, cm.2) else eccRead (c, cm.2) t a 64
        let b : TxBuf := { old with data := old.data ++ readBytes cm.2.tm (tmAt t a) 64, lastAt := f, bad := old.bad || hit.isSome }
        (updLk r.1 (fun x => { x with tx := smSet x.tx none key (some b) }), r.2)
/-- What a link sends in a slot of the epoch: PKIND, payload, the senders that lose, whether the parcel starved (R472, R676, R677). A forwarded
frame is judged by the partition that forwards it, in the slot's own pass (R702). -/
def slotContent (c : Ctl) (l k n : Nat) : Nat × Bytes × Nat × Bool :=
  let p := linkOwner c l k
  let runs := ptPasses c p
  let sends (f : FwdFrame) : Nat := if ptPasses c f.part then f.kind else 4
  let merge := c.dc.parcels.find? (fun x => x.1 = l ∧ x.2.1 = k)
  let fw := c.lk.fwd.filter (fun f => f.link = l ∧ f.slot = k ∧ f.pass = n)
  let tx := if p < 32 then (acting c p l k n false).filter (fun e => !xFwd e) else []
  let lose := b2n merge.isSome + fw.length + tx.length - 1
  match merge, fw, tx with
  | some m, _, _ => (if runs then 3 else 4, m.2.2, lose, false)
  | none, f :: _, _ => (sends f, f.data, lose, false)
  | none, [], _ :: _ =>
    match smGet c.lk.tx none (l * 1024 + k) with
    | some b =>
      if b.pass ≠ n ∨ b.data.length < 256 ∨ b.lastAt + 32 > lslotStart c n k then (4, [], lose, true)
      else (if b.bad ∨ runs = false then 4 else 2, b.data, lose, false)
    | none => (4, [], lose, true)
  | none, [], [] => (1, [], 0, false)
/-- A link in MEASURE sends a STAMP every 1,024 tc, sixteen of them, in the format of R92 (R655). -/
def measStamp (c : Ctl) (l s : Nat) : Ctl :=
  let n := smGet c.lk.measN 0 l
  if lkStep c l = 4 ∧ n < 16 ∧ smGet c.lk.measAt 0 l - 1 + 1024 * n ≤ s then
    updLk (sendStamp c l) (fun x => { x with measN := smSet x.measN 0 l (n + 1) })
  else c
/-- One frame at slot start `s` joins the stream at the first byte that leaves from then on (R662). -/
def putFrame (c : Ctl) (l slot nib kind s sb : Nat) (pay : Bytes) : Ctl :=
  let f := frameBytes kind nib sb pay
  emit (streamFrame c l (framePlace c l s).1 f) (.linkFrame l slot f)
/-- Sends one frame at slot start `s` (R662, Assumption 27). A HOLE carries bytes that nothing defines. -/
def sendFrame (c : Ctl) (l slot nib kind s : Nat) (down : Bool) (pay : Bytes) : Ctl :=
  let c := measStamp c l s
  let (c, sb) := takeSb c l (framePlace c l s).2 down
  let (c, pay) := if kind = 4 then freeBytes 256 c else (c, pay)
  let c := if kind = 2 ∨ kind = 3 then lkCount c l 0 else c
  putFrame c l slot nib kind s sb pay
/-- The frame of slot start `s` of a link in FAULT: the IDENT that it owes, before the squelch (R657). -/
def lastFrame (c : Ctl) (l slot nib s : Nat) : Ctl :=
  let w := smGet c.lk.owed 0 l
  if w = 0 then c else putFrame (updLk c (fun x => { x with owed := smSet x.owed 0 l 0 })) l slot nib 1 s (6 * 2 ^ 60 + (w - 1)) []
/-- The buffer of a slot becomes free. -/
def freeBuffer (c : Ctl) (l k n : Nat) : Ctl :=
  match smGet c.lk.rx none (l * 8 + k % 8) with
  | some b => if b.pass = n ∧ b.slot = k then updLk c (fun x => { x with rx := smSet x.rx none (l * 8 + k % 8) none }) else c
  | none => c
/-- The next slot of a link begins: one frame leaves (R661, R662, R674 to R677, R693). A link that is OFF or in FAULT sends none, and the
parcel of its slot is dropped and counted, as is one for a slot after the pass of a drain (R54, R60, R693). A draining link's last frames carry
IDENT with DOWN: those of the pass's last slot, of later slots, and every one outside the epoch: DESIGN CHOICE, for R701 does not say which the
last are (Assumption 81). -/
def parcelTransmit (l : Nat) (c : Ctl) : Ctl :=
  let f := max c.time.ftc (smGet c.lk.sent 0 l)
  let k := if c.time.epoch then slotFrom (f - c.time.passAt) else slotFrom f
  let s := (if c.time.epoch then c.time.passAt else 0) + slotOff k
  if l ≥ 32 ∨ (lkState c l = 0 ∧ c.time.epoch = false) ∨ (c.time.epoch ∧ k ≥ lslots c) then c
  else
    let c := advanceTo (updLk c (fun x => { x with sent := smSet x.sent 0 l (s + 1) })) s
    let n := c.time.pass
    let slot := if c.time.epoch then k else 0
    let (kind, pay, lose, starve) := if c.time.epoch then slotContent c l k n else (1, [], 0, false)
    let sentOn (f : FwdFrame) : Bool := decide (f.link = l ∧ f.slot = k ∧ f.pass ≤ n)
    let c := (c.lk.fwd.filter sentOn).foldl (fun c f => freeBuffer c f.inLink f.inSlot f.inPass) c
    let c := updLk c (fun x => { x with tx := smSet x.tx none (l * 1024 + slot) none, fwd := x.fwd.filter (fun f => !sentOn f) })
    let c := updDc c (fun x => { x with parcels := if c.time.epoch then x.parcels.filter (fun m => ¬(m.1 = l ∧ m.2.1 = k)) else x.parcels })
    let late := c.time.epoch && lkLive c l && !lkTakes c l n
    let c := if (lkState c l = 0 ∨ lkState c l = 3 ∨ late) ∧ kind ≠ 1 then lkCount c l 12 else c
    let down := decide (lkState c l = 2) && (late || !c.time.epoch || decide (k + 1 = lslots c))
    if lkState c l = 0 then c
    else if lkState c l = 3 then lastFrame c l slot k s
    else if lkStep c l ≠ 5 ∨ late then sendFrame c l slot k 1 s down []
    else
      let c := if starve then lkCount c l 9 else c
      sendFrame (cntAdd c (lkCnt l 10) 31 lose) l slot k kind s down pay

/-! Receiving (R664, R666, R670, R673, R682, R686, R705). -/
/-- SB_SLOW, SB_MISMATCH and reserved kinds of a frame's sideband, with the frame's first ten bytes as FEC gave them, none when their codeword is
uncorrectable; the word's action is a command of its own (R667, R670, Assumption 83). -/
def sbChecks (c : Ctl) (l : Nat) (head : Option Bytes) (early : Bytes) : Ctl :=
  let good := head.isSome
  let e := slice early 1 8
  let f := slice (head.getD []) 2 8
  let ok := decide (crc8 e = leAt early 0 1)
  let c := if ok then
      (if good ∧ e ≠ f then raise (lkCount c l 15) 0x43C4 noPart (unitLk c l) (leAt e 7 1 / 16) else c)
    else if good then lkCount c l 14 else c
  let w := if ok then e else f
  if (ok ∨ good) ∧ leAt w 7 1 / 16 > 6 then lkCount c l 4 else c
/-- The merge slots of a GMERGE partition take in slot `k` (R682). -/
def mergeSlot (c : Ctl) (p k : Nat) : Bool :=
  grantFlag c p 2 && decide (fld c (dcGm p) 9 0 ≤ k ∧ k < fld c (dcGm p) 9 0 + fld c (dcGm p) 19 16)
/-- A hole in a merge slot, delivered at `t`, is reported to the merger (R466, R682). -/
def mergeHole (c : Ctl) (k t : Nat) : Ctl :=
  foldUp 32 (fun c p => if mergeSlot c p k then updDc c (fun x => { x with holeAt := smSet x.holeAt 0 p (t + 1) }) else c) c
/-- The receive buffer of a slot takes a parcel; an older one still held loses its remaining lines (R686). -/
def takeBuffer (c : Ctl) (l : Nat) (b : RxBuf) : Ctl :=
  let key := l * 8 + b.slot % 8
  let c := match smGet c.lk.rx none key with
    | some o =>
      if o.pass = b.pass ∧ o.slot = b.slot then c
      else
        let c := updLk c (fun x => { x with done := smSet x.done 0 (l * 1024 + o.slot) (o.pass + 1)
                                            work := x.work.filter (fun w => ¬(w.link = l ∧ w.slot = o.slot ∧ w.pass = o.pass)) })
        raise (lkCount c l 13) 0x43C9 (partOf o.part) (unitLk c l) o.slot
    | none => c
  updLk c (fun x => { x with rx := smSet x.rx none key (some b) })
/-- A received frame, at the instant it is checked, with the codewords corrected and uncorrectable since the frame before; its first byte
reached the balls `ago`, in 1/16 tc, before; none when it is lost with a codeword (R653, R666). A parcel that reaches a link that is OFF, or one
that drains for a slot after the pass of its drain, or before it is UP, is dropped and counted in UNCLAIMED (R60); so is one that arrives once the
epoch has stopped (R704). -/
def linkFrame (l ago corr uncorr : Nat) (frame head : Option Bytes) (early : Bytes) (c : Ctl) : Ctl :=
  let raw := frame.getD []
  let kind := leAt raw 0 1 / 16
  let parcel := decide (kind = 2 ∨ kind = 3)
  if lkLive c l = false ∨ lkStep c l < 3 then
    (if l < 32 ∧ (lkState c l = 0 ∨ lkState c l = 2) ∧ parcel then lkCount c l 7 else c)
  else
    let c := cntAdd (cntAdd c (lkCnt l 2) 31 corr) (lkCnt l 3) 31 uncorr
    let c := sbChecks c l head early
    let at_ := ftc16 c - ago
    let want (n k : Nat) : Nat := 16 * (lslotStart c n k + 20) + fld c (lkDelay l) 15 0
    let fits (n k : Nat) : Bool := decide (at_ ≤ want n k + 256 ∧ want n k ≤ at_ + 256 ∧ k < lslots c)
    if frame.isNone then c
    else if kind = 0 ∨ kind > 4 then lkCount c l 4
    else if c.time.epoch = false then (if parcel ∧ (lkState c l = 2 ∨ lkStep c l = 5) then lkCount c l 7 else c)
    else
      let nib := leAt raw 0 1 % 16
      let spots := (List.range (lslots c)).filter (fun k => decide (k % 16 = nib))
      let hit := match spots.find? (fits c.time.pass) with
        | some k => some (c.time.pass, k)
        | none => (spots.find? (fits (c.time.pass - 1))).map (fun k => (c.time.pass - 1, k))
      match hit with
      | none => lkCount c l 4
      | some (n, k) =>
        if lkStep c l ≠ 5 then (if parcel ∧ lkState c l = 2 then lkCount c l 7 else c)
        else if lkTakes c l n = false then (if parcel then lkCount c l 7 else c)
        else
          let s := lslotStart c n k
          let key := l * 1024 + k
          let late := decide (c.time.ftc > s + 288)
          let c := if late then lkCount c l 8 else c
          let c := updLk c (fun x => { x with got := smSet x.got (0, 0) key (n + 1, if late then 0 else kind) })
          if late ∨ kind = 1 ∨ kind = 4 then c
          else
            let b : RxBuf := ⟨n, k, kind, slotOwner c l k n, slice raw 10 256⟩
            takeBuffer (lkCount c l 1) l b
/-- The codewords that ended since the link's frame before arrive, and the next frame in their stream, after `fill` fill bytes, is checked
(R650 to R653, R666); `crc` and `early` are its SBCRC and its sideband as they came, before decoding (R670). -/
def frameRead (l ago fill : Nat) (crc : Byte) (early : Bytes) (codes : List LinkCode) (c : Ctl) : Ctl :=
  let r := streamRead c l fill codes
  linkFrame l ago r.corr r.uncorr r.frame r.head (crc :: early) r.ctl
/-- What stands in a slot: the kind of the frame (0 lost or late) and its parcel. -/
def slotGot (c : Ctl) (l k n : Nat) : Nat × Bytes :=
  let g := smGet c.lk.got (0, 0) (l * 1024 + k)
  if g.1 ≠ n + 1 then (0, [])
  else match smGet c.lk.rx none (l * 8 + k % 8) with
    | some b => if b.pass = n ∧ b.slot = k then (b.kind, b.data) else (g.2, [])
    | none => (g.2, [])
/-- The hole pattern of a link and slot (R680). -/
def holeBytes (l k : Nat) : Bytes := (List.replicate 64 (leBytes 4 (0xFFC00000 + 1024 * l + k))).flatten
/-- A hole is counted and reported (R660, R680). -/
def holeCount (c : Ctl) (p l k : Nat) : Ctl :=
  let c := setFld c (lkHole p) 30 0 (satU 31 (fld c (lkHole p) 30 0 + 1))
  if smGet c.lk.holeNote false p ∨ (lkState c l = 1 ∧ lkStep c l ≠ 5) then c
  else raise (updLk c (fun x => { x with holeNote := smSet x.holeNote false p true })) 0x43C6 p (unitLk c l) (k + l * 2 ^ 16)
/-- One 64-byte line of a reduction: the result and how many exact sums left their range (R683, R684). -/
def reduceLine (op : Nat) (src old : Bytes) : Bytes × Nat :=
  if op = 1 then
    let one (i : Nat) : BitVec 256 × Nat := wPut (wInt (BitVec.ofNat 256 (leAt old (32 * i) 32)) + wInt (BitVec.ofNat 256 (leAt src (32 * i) 32)))
    let a := one 0
    let b := one 1
    (leBytes 32 a.1.toNat ++ leBytes 32 b.1.toNat, b2n (decide (a.2 ≠ 0)) + b2n (decide (b.2 ≠ 0)))
  else ((List.range 16).flatMap (fun i => leBytes 4 (redWord (op - 2) (leAt old (4 * i) 4) (leAt src (4 * i) 4))), 0)
/-- Exact sums that left their range are counted and reported (R684). -/
def wofCount (c : Ctl) (p l k n : Nat) : Ctl :=
  if n = 0 then c
  else
    let c := cntAdd c (lkWof p) 31 n
    if smGet c.lk.wofNote false p then c
    else raise (updLk c (fun x => { x with wofNote := smSet x.wofNote false p true })) 0x53C7 p (unitLk c l) (k + l * 2 ^ 16)
/-- A destination line of a REDUCE entry is read through the receive port in the present tc: the line, none when it is uncorrectable, with its
event (R683, R684). -/
def reduceRead (cm : CM) (p l t a : Nat) : CM × Option Bytes :=
  let c := rxUse cm.1 t a false
  match eccBad cm.2 t a 64 with
  | some _ => ((raise c 0x23C8 p (unitLk c l) t, cm.2), none)
  | none =>
    let cm := eccRead (c, cm.2) t a 64
    (cm, some (readBytes cm.2.tm (tmAt t a) 64))
/-- One line is written in the present tc: the parcel's, or with REDUCE the combination with the line read before; one that was uncorrectable
then stays as it is (R678, R683, R684). -/
def deliverLine (cm : CM) (p l k t a op : Nat) (old : Option (Option Bytes)) (src : Bytes) : CM :=
  match old with
  | none => rxWrite cm t a src
  | some none => (rxUse cm.1 t a true, cm.2)
  | some (some o) =>
    let (v, n) := reduceLine op src o
    let cm := rxWrite cm t a v
    (wofCount cm.1 p l k n, cm.2)
/-- Puts an access in its place among others, by its instant. -/
def insAccess (a : Nat × Bool × Nat) : List (Nat × Bool × Nat) → List (Nat × Bool × Nat)
  | [] => [a]
  | b :: r => if a.1 < b.1 then a :: b :: r else b :: insAccess a r
/-- The accesses that a delivery has still to make from instant `f` on: their tc, whether they write, the line. Lines are written in the first owned
phases; with REDUCE each is read in one of them and written in the first owned phase at least 12 tc later that is free (R678, R683). -/
def accesses (c : Ctl) (w : RxWork) (f : Nat) : List (Nat × Bool × Nat) :=
  let t := xTile w.entry
  if w.red = false then ((nextPhases c t w.part w.left.length f).zip w.left).map (fun x => (x.1, true, x.2))
  else
    let toRead := w.left.filter (fun i => !(w.reads.any (fun r => r.1 = i)))
    let rs := (nextPhases c t w.part toRead.length f).zip toRead
    let readAt := w.reads.map (fun r => (r.2.1, r.1)) ++ rs
    let ws := readAt.foldl (fun (acc : List (Nat × Nat)) r =>
      match (nextPhases c t w.part 16 (max f (r.1 + 12))).find? (fun x => !(rs.any (fun y => y.1 = x)) && !(acc.any (fun y => y.1 = x))) with
      | some x => acc ++ [(x, r.2)]
      | none => acc) []
    (rs.map (fun x => (x.1, false, x.2)) ++ ws.map (fun x => (x.1, true, x.2))).foldl (fun l a => insAccess a l) []
/-- One access of a delivery, in the present tc. -/
def accessNow (w : RxWork) (wr : Bool) (i : Nat) (cm : CM) : CM × RxWork :=
  let t := xTile w.entry
  let a := xAddr w.entry w.slot + 64 * i
  let f := cm.1.time.ftc
  let cm := (updTile cm.1 t (fun x => { x with phaseAt := max x.phaseAt (f + 1) }), cm.2)
  if wr then
    let old := if w.red then some ((w.reads.find? (fun r => r.1 = i)).bind (fun r => r.2.2)) else none
    (deliverLine cm w.part w.link w.slot t a (leAt w.entry 14 1) old (slice w.src (64 * i) 64), { w with left := w.left.erase i })
  else
    let r := reduceRead cm w.part w.link t a
    (r.1, { w with reads := w.reads ++ [(i, f, r.2)] })
/-- The accesses of a delivery that come before the next boundary, with the flits that are due between them (R678, R683, R1172). -/
def accessAll : List (Nat × Bool × Nat) → RxWork → CM → CM × RxWork
  | [], w, cm => (cm, w)
  | x :: r, w, cm =>
    match reach cm.1 x.1 with
    | none => (cm, w)
    | some c =>
      let q := accessNow w x.2.1 x.2.2 (lateFlits (c, cm.2))
      accessAll r q.2 q.1
/-- A delivery goes on, as far as the next boundary: with its last line the tile's counter 6 counts and the receive buffer is free (R678, R683,
R686). -/
def deliverOn (w : RxWork) (cm : CM) : CM :=
  let t := xTile w.entry
  let r := accessAll (accesses cm.1 w (max (max w.from_ cm.1.time.ftc) (tile cm.1 t).phaseAt)) w cm
  let c := r.1.1
  let others := c.lk.work.filter (fun x => ¬(x.link = w.link ∧ x.slot = w.slot))
  if r.2.left.isEmpty then
    (freeBuffer (rxArrive (updLk c (fun x => { x with work := others })) t 6) w.link w.slot w.pass, r.1.2)
  else (updLk c (fun x => { x with work := others ++ [r.2] }), r.1.2)
/-- A parcel is delivered and its lines written (R678 to R684, R703): one whose lines run past a boundary goes on after it. -/
def parcelDelivery (l k : Nat) (cm : CM) : CM :=
  let key := l * 1024 + k
  let n := slotDue cm.1 k 312 (smGet cm.1.lk.done 0 key)
  let t0 := lslotStart cm.1 n k + 312
  match cm.1.lk.work.find? (fun w => w.link = l ∧ w.slot = k) with
  | some w => if cm.1.time.epoch then deliverOn w cm else cm
  | none =>
  if cm.1.time.epoch = false ∨ l ≥ 32 ∨ k ≥ lslots cm.1 ∨ smGet cm.1.lk.done 0 key > n then cm
  else match reach cm.1 t0 with
    | none => cm
    | some c =>
      let got := slotGot c l k n
      let kind := got.1
      let p := slotOwner c l k n
      let home := decide (kind = 3 ∧ leAt got.2 0 2 = plezorId c)
      let acts := if p < 32 then acting c p l k n true else []
      let ent := lowest (acts.filter (fun e => !xFwd e))
      let fwd := acts.any xFwd
      if fwd && ent.isNone && !home then cm
      else
        let c := updLk c (fun x => { x with done := smSet x.done 0 key (n + 1) })
        let c := if kind = 0 ∨ kind = 4 then mergeHole c k t0 else c
        let c := if home then mergeIn c got.2 else c
        let free := if kind = 2 then lkCount (freeBuffer c l k n) l 7 else freeBuffer c l k n
        match ent with
        | none => (if fwd then freeBuffer c l k n else free, cm.2)
        | some e =>
          if ptPasses c p = false then (free, cm.2)
          else
            let hole := decide (kind ≠ 2)
            let c := if kind = 0 then lkCount c l 5 else if kind = 1 then lkCount c l 6 else c
            let c := if hole then holeCount c p l k else c
            deliverOn ⟨l, k, n, p, e, if hole then holeBytes l k else got.2, xReduce e && !hole, t0, [0, 1, 2, 3], []⟩ (c, cm.2)
/-- A frame to be forwarded whose output slot lies in the pass in progress takes its link from the routes, or is dropped and counted on the link it
came in on (R681, R702, R711). -/
def fwdRoute (c : Ctl) (f : FwdFrame) : Ctl :=
  let lost (c : Ctl) : Ctl := freeBuffer (lkCount c f.inLink 11) f.inLink f.inSlot f.inPass
  match routeTo c f.peer with
  | none => lost c
  | some x =>
    if f.peer = plezorId c ∨ lkUp c x = false ∨ lkTakes c x f.pass = false ∨ linkOwner c x f.slot ≠ f.part then lost c
    else updLk c (fun y => { y with fwd := y.fwd ++ [{ f with link := x }] })
/-- At a boundary the frames whose output slots lie in the pass that begins are forwarded under its plans and routes (R702). -/
def fwdOpen (c : Ctl) : Ctl :=
  let now := c.lk.fwd.filter (fun f => decide (f.link = 32 ∧ f.pass ≤ c.time.pass))
  now.foldl fwdRoute (updLk c (fun y => { y with fwd := y.fwd.filter (fun f => !now.contains f) }))
/-- A received frame is forwarded, at its release (R681, R682, R702, R711): a merge parcel toward its HOME, another by the FWD entry with the lowest
XFER_ID. What a receive entry takes of the slot is still delivered. -/
def parcelForward (l k : Nat) (c : Ctl) : Ctl :=
  let key := l * 1024 + k
  let n := slotDue c k 288 (max (smGet c.lk.done 0 key) (smGet c.lk.passed 0 key))
  let t0 := lslotStart c n k + 288
  if c.time.epoch = false ∨ l ≥ 32 ∨ k ≥ lslots c ∨ smGet c.lk.done 0 key > n ∨ smGet c.lk.passed 0 key > n then c
  else match reach c t0 with
    | none => c
    | some c =>
      let (kind, data) := slotGot c l k n
      let merge := decide (kind = 3 ∧ leAt data 0 2 ≠ plezorId c)
      let home := decide (kind = 3 ∧ leAt data 0 2 = plezorId c)
      let own := slotOwner c l k n
      let acts := if own < 32 then acting c own l k n true else []
      let keeps := merge || acts.any (fun e => !xFwd e)
      let dest := if merge then some (leAt data 0 2, leAt data 4 1)
        else if home then none
        else (lowest (acts.filter xFwd)).map (fun e => (xPeer e, own))
      match dest with
      | none => c
      | some (peer, p) =>
        let c := updLk c (fun x => if keeps then { x with passed := smSet x.passed 0 key (n + 1) }
                                   else { x with done := smSet x.done 0 key (n + 1) })
        let c := if kind = 0 ∨ kind = 4 then mergeHole c k (lslotStart c n k + 312) else c
        let o := if k + 6 ≥ lslots c then (k + 6 - lslots c, n + 1) else (k + 6, n)
        let f : FwdFrame := ⟨32, o.1, o.2, if kind = 0 then 4 else kind, data, p, peer, l, k, n⟩
        if kind = 1 then c
        else if o.2 > c.time.pass then updLk c (fun y => { y with fwd := y.fwd ++ [f] })
        else fwdRoute c f

/-! Detours (R696 to R700). -/
/-- The link of this Plezor at an end of a failed link (R698). -/
def endOf (c : Ctl) (e : Nat) : Option Nat :=
  if failId c e = plezorId c then some (failLink c e)
  else if rbit c (lkFail e) 30 then
    (List.range 32).find? (fun l => fld c (lkPeer l) 31 16 = failId c e ∧ fld c (lkPeer l) 12 8 = failLink c e)
  else none
/-- One partition and one failure at a boundary: it switches, or lacks an alternative on a link it uses (R696 to R698). -/
def detourOne (c : Ctl) (p e : Nat) : Ctl :=
  let id := failId c e
  let l := failLink c e
  let pf := failPass c e
  let (sw, late) := switchAt c p e
  let made := c.lk.switched.any (fun d => d.part = p ∧ d.id = id ∧ d.link = l ∧ d.pfail = pf)
  if failValid c e = false ∨ made ∨ c.time.pass < sw then c
  else
    let has := (altFor c p id l).isSome
    let c := updLk c (fun x => { x with switched := x.switched ++ [⟨p, id, l, pf, sw, has⟩] })
    if has then
      if late then raise c 0x43CC p (unitPart c p) (id + l * 2 ^ 16 + sw % 2 ^ 32 * 2 ^ 32) else c
    else match endOf c e with
      | some x => if (List.range (lslots c)).any (fun k => linkOwner c x k = p) then raise c 0x43CD p (unitLk c x) (id + l * 2 ^ 16) else c
      | none => c
/-- An epoch starts: failures recorded before it belong to none of its passes, and the switches made hold from its first pass on (R697). -/
def lkEpoch (c : Ctl) : Ctl := updLk c (fun x => { x with failRec := {}, switched := x.switched.map (fun d => { d with sw := 0 }) })
/-- Every switch due at the boundary (R696). -/
def detourSwitch (c : Ctl) : Ctl :=
  if c.time.epoch then foldUp 32 (fun c p => foldUp 32 (fun c e => detourOne c p e) c) c else c
/-- CLR of an entry of LK_FAIL commits: it is invalid, and its alternatives no longer apply (R700). -/
def failClear (e : Nat) (c : Ctl) : Ctl :=
  if failValid c e then
    let gone (d : Detoured) : Bool := decide (d.id = failId c e ∧ d.link = failLink c e ∧ d.pfail = failPass c e)
    let c := updLk c (fun x => { x with switched := x.switched.filter (fun d => !gone d), failRec := smSet x.failRec 0 e 0 })
    wr (wr (wr c (lkFail e) 0) (lkFail e + 4) 0) (lkFail e + 8) 0
  else c

/-! What boundaries, drains, stops and resets do to the links. -/
/-- A boundary's reports of the pass end (R680, R684). -/
def lkForget (c : Ctl) : Ctl := updLk c (fun x => { x with holeNote := {}, wofNote := {} })
/-- A draining link has nothing left: IDENT with DOWN has gone out, no word but a time message waits, no parcel is held or to be forwarded on it
(R61, R138, R701). -/
def lkIdle (c : Ctl) (l : Nat) : Bool :=
  smGet c.lk.downSent false l && (smGet c.lk.sb [] l).all (fun w => decide (w.kind = 1)) && c.lk.rx.entries.all (fun e => decide (e.1 / 8 ≠ l)) && c.lk.fwd.all (fun f => decide (f.link ≠ l))
/-- The drain of a link ends, after its last frames have carried IDENT with DOWN (R701). -/
def lkDown (c : Ctl) (l : Nat) : Ctl := lkDrop c l
/-- The epoch stops: parcels still to be delivered are discarded (R704). -/
def lkStop (c : Ctl) : Ctl :=
  let c := foldUp 32 (fun c l => lkDiscard c l) c
  updDc (updLk c (fun x => { x with fwd := [], work := [], tx := {}, got := {}, done := {}, passed := {}, sent := {}, newFrom := 0 })) (fun x => { x with parcels := [] })
/-- A BLK reset of a link (R709). -/
def lkReset (c : Ctl) (l : Nat) : Ctl :=
  let c := lkDrop c l
  let c := resetRegs c (lkBase l) (lkBase l + 0x100)
  updLk c (fun x => { x with stream := smSet x.stream {} l {}, trainAt := smSet x.trainAt 0 l 0, lastId := smSet x.lastId 0 l 0, sent := smSet x.sent 0 l 0, owed := smSet x.owed 0 l 0, fwd := x.fwd.filter (fun f => f.link ≠ l) })
/-- A PART reset clears the partition's counts and its switches follow its plan (R226, LK_Pn_HOLE). -/
def lkPartReset (c : Ctl) (p : Nat) : Ctl :=
  updLk (wr (wr c (lkHole p) 0) (lkWof p) 0) (fun x => { x with switched := x.switched.filter (fun d => d.part ≠ p) })

/-! The commands. -/
/-- ADAPT ends (R655). -/
def execAdaptComplete (l : Nat) (s : State) : Out := onCtl (fun c => whenAlive c (trainStep l 1 2)) s
/-- ALIGN ends (R655). -/
def execAlignComplete (m : MarkersSeen) (s : State) : Out := onCtl (fun c => whenAlive c (alignEnds m)) s
/-- An IDENT arrives (R657). -/
def execIdent (l pay : Nat) (s : State) : Out := onCtl (fun c => whenAlive c (identIn l pay)) s
/-- MEASURE ends (R658). -/
def execMeasureComplete (l : Nat) (ex : List (Nat × Nat)) (s : State) : Out := onCtl (fun c => whenAlive c (measured l ex)) s
/-- A link becomes UP (R655). -/
def execLinkUp (l : Nat) (s : State) : Out := onCtl (fun c => whenAlive c (linkUpNow l)) s
/-- Training takes too long (R659). -/
def execTrainTimeout (l : Nat) (s : State) : Out := onCtl (fun c => whenAlive c (trainTimeout l)) s
/-- A transmit line is read (R675). -/
def execParcelLineRead (l k : Nat) (s : State) : Out := onAll (fun cm => if alive cm.1 then parcelLineRead l k cm else cm) s
/-- A frame leaves (R674). -/
def execParcelTransmit (l : Nat) (s : State) : Out := onCtl (fun c => whenLinks c (parcelTransmit l)) s
/-- A frame arrives (R666). -/
def execLinkFrame (l ago fill : Nat) (crc : Byte) (early : Bytes) (codes : List LinkCode) (s : State) : Out :=
  onCtl (fun c => whenAlive c (frameRead l ago fill crc early codes)) s
/-- A parcel is delivered (R678). -/
def execParcelDelivery (l k : Nat) (s : State) : Out := onAll (fun cm => if alive cm.1 then parcelDelivery l k cm else cm) s
/-- A frame is forwarded (R681). -/
def execParcelForward (l k : Nat) (s : State) : Out := onCtl (fun c => whenAlive c (parcelForward l k)) s
/-- A FAIL arrives (R694). -/
def execFail (l pay : Nat) (s : State) : Out := onCtl (fun c => whenAlive c (failIn l pay)) s
/-- A link fails (R692). -/
def execLinkFailure (l why n : Nat) (s : State) : Out := onCtl (fun c => whenAlive c (linkFailure l why n)) s
/-- Partitions switch (R696). -/
def execDetourSwitch (s : State) : Out := onCtl (fun c => whenAlive c detourSwitch) s

end Sys2Proof.Machine
end

