-- ==== Sys2Proof/Machine/Trig.lean ====
section
/-! DEFINITION. The sine of a rational part of a turn, for the demodulator and for the table of R369, and π. -/
namespace Sys2Proof.Machine

/-- ⌊π · 2^128⌋. -/
def pi128 : Int := 1069028584064966747859680373161870783300
/-- Terms of the sine series of `x`, with `t` the present term and `n` its degree; in 2^-128. -/
def sinTerms (x2 : Int) : Nat → Int → Nat → Int → Int
  | 0, _, _, acc => acc
  | k + 1, t, n, acc =>
    let t' := -(t * x2 / 2 ^ 128) / (((n + 1) * (n + 2) : Nat) : Int)
    sinTerms x2 k t' (n + 2) (acc + t')
/-- sin(2π · a / b) in 2^-128, for `a` at most a quarter of `b`. -/
def sinQuarter (a b : Nat) : Int :=
  let x := 2 * pi128 * (a : Int) / (b : Int)
  sinTerms (x * x / 2 ^ 128) 20 x 1 x
/-- sin(2π · a / b) in 2^-128. -/
def sinTurn (a b : Nat) : Int :=
  let r := 4 * (a % b)
  if r ≤ b then sinQuarter (a % b) b
  else if r ≤ 2 * b then sinQuarter (2 * b - r) (4 * b)
  else if r ≤ 3 * b then -sinQuarter (r - 2 * b) (4 * b)
  else -sinQuarter (4 * b - r) (4 * b)
/-- cos(2π · a / b) in 2^-128. -/
def cosTurn (a b : Nat) : Int := sinTurn (4 * a + b) (4 * b)

end Sys2Proof.Machine
end

