-- ==== Sys2Proof/Machine/Spindle.lean ====
section
/-! DEFINITION. The spindle: demodulation, the tracking observer, conversion faults, angle stamps, the latch input, encoder emulation and
capture (R366 to R373, R713 to R772). -/
namespace Sys2Proof.Machine

/-! Registers. -/
/-- An offset of the SP block. -/
def sp (o : Nat) : Nat := 0x40000 + o
def rSpStat : Nat := sp 0x04
def rSpCfg : Nat := sp 0x10
/-- Spindle counters: 0 FAULTS, 1 LATCH_OVF, 2 STAMP_REPLACED, 3 STAMP_RX, 4 STAMP_STALE, 5 STAMP_IGNORED. -/
def spCount (c : Ctl) (i : Nat) : Ctl := cnt1 c (sp (0xA0 + 4 * i))
/-- An offset of the EE block. -/
def ee (o : Nat) : Nat := 0x28000 + o
/-- STATE of the spindle, and OBS: 0 ACQ, 1 TRACK, 2 HOLD. -/
def spState (c : Ctl) : Nat := fld c rSpStat 1 0
def spObs (c : Ctl) : Nat := fld c rSpStat 9 8
def setObs (c : Ctl) (v : Nat) : Ctl := setFld c rSpStat 9 8 v
/-- VALID, E_VALID, MT_VALID (R728). -/
def spValid (c : Ctl) : Bool := rbit c rSpStat 4
def spEValid (c : Ctl) : Bool := rbit c rSpStat 5
def spMtValid (c : Ctl) : Bool := rbit c rSpStat 6
/-- Pole pairs, DIR_INV, DIV, DCOMP, MULTITURN (R716, R727). -/
def spP (c : Ctl) : Nat := fld c rSpCfg 2 0 + 1
/-- The electrical cycle index, below p: always 0 with p = 1 (R727). -/
def spE (c : Ctl) : Nat := c.sp.e % spP c
def spDir (c : Ctl) : Bool := rbit c rSpCfg 8
def spDiv (c : Ctl) : Nat := fld c (sp 0x08) 13 0
def spDcomp (c : Ctl) : Nat := spDiv c * 25 + 400
def spMt (c : Ctl) : Nat := fld c (sp 0x44) 15 0
/-- A signed or unsigned constant of 24 bits. -/
def spQ (c : Ctl) (o : Nat) : Int := sx 24 (rd c (sp o))
def spU (c : Ctl) (o : Nat) : Int := ((rd c (sp o) % 2 ^ 24 : Nat) : Int)
/-- The spindle's hidden state changed. -/
def updSp (c : Ctl) (f : SpSt → SpSt) : Ctl := { c with sp := f c.sp }
/-- Its unit, for an event. -/
def unitSp (c : Ctl) : Nat := unitOf c 4 0
/-- The excitation is at full amplitude and STATE is ON: conversion runs. -/
def converting (c : Ctl) : Bool := decide (c.sp.exc = 2 ∧ spState c = 1)
/-- The next instant of a grid of `g` tc after the latest one, whose FTC + 1 is `last`. -/
def nextGrid (c : Ctl) (g last : Nat) : Nat :=
  let t := c.time.ftc
  if t % g = 0 ∧ last ≠ t + 1 then t else (t / g + 1) * g
/-- FTC moves forward to an instant that may coincide with the boundary that ends the pass (R760). -/
def reachGrid (c : Ctl) (t : Nat) : Option Ctl :=
  if c.time.epoch ∧ (t > nextBoundary c ∨ (c.time.phase ≠ 0 ∧ t > c.time.ftc)) then none else some (advanceTo c t)

/-! Demodulation (R366, R367, R715). -/
/-- Shifts 16 modulator bits into a history of 12,512, the earliest first. -/
def shiftBits (h b : Nat) : Nat := (foldUp 16 (fun h i => h * 2 + b2n (bitN b i)) h) % 2 ^ 12512
/-- The sums of x · sin and x · cos over the latest `div` cycles, in 2^-128: age `j` stands at cycle `cyc − j`. -/
def demodSums (div cyc phase h : Nat) : Int × Int :=
  foldUp div (fun (a : Int × Int) j =>
    let m := ((cyc + 2 * div - j) % div * 65536 + (65536 - phase) * div) % (div * 65536)
    let s := sinTurn m (div * 65536)
    let k := cosTurn m (div * 65536)
    if bitN h j then (a.1 + s, a.2 + k) else (a.1 - s, a.2 - k)) (0, 0)
/-- A sum as a Q1.23 sample (R715). -/
def demodQ (div : Nat) (x : Int) : Int := satS 24 (rneDiv (x * 2 ^ 24) (((div * 2 ^ 128 : Nat)) : Int))
/-- Counts a fault's condition: how long it has held, and been absent (R734, R735). -/
def faultCount (c : Ctl) (i : Nat) (b : Bool) : Ctl :=
  updSp c (fun x => { x with faultN := smSet x.faultN 0 i (if b then smGet x.faultN 0 i + 1 else 0),
                             clearN := smSet x.clearN 0 i (if b then 0 else smGet x.clearN 0 i + 1) })
/-- Takes an entry of the capture buffer, every DEC-th of them (R759). -/
def captTake (c : Ctl) (ws : List Nat) : Ctl :=
  if c.sp.captSkip ≠ 0 then updSp c (fun x => { x with captSkip := x.captSkip - 1 })
  else
    let n := c.sp.captN
    let c := (ws.zip [0, 4, 8, 12]).foldl (fun c x => wr c (sp (0x10000 + 16 * n + x.2)) x.1) c
    let c := updSp c (fun x => { x with captN := n + 1, captSkip := fld c (sp 0x90) 23 8 - 1 })
    if n + 1 ≥ 4096 then setFld c (sp 0x90) 30 29 2 else c
/-- A capture of a mode is running: 0 RAW, 1 ANGLE. -/
def capturing (c : Ctl) (mode : Nat) : Bool := rbit c (sp 0x90) 29 && decide (fld c (sp 0x90) 0 0 = mode)
/-- The correction of R367, each step rounded once by nearest even and saturated. -/
def correct (c : Ctl) (sm cm : Int) : Int × Int :=
  let s := satS 24 (sm - spQ c 0x14)
  let c1 := satS 24 (rneShift ((cm - spQ c 0x18) * spU c 0x1C) 22)
  (s, satS 24 (rneShift (2 * (c1 * spU c 0x20) - s * spQ c 0x24) 23))
/-- AMP of SP_EXC. -/
def spAmp (c : Ctl) : Nat := fld c (sp 0x08) 31 16
/-- The excitation has passed its next positive-going zero crossing, cycle 0 of its phase: AMP as it stood there is in force (R714). -/
def ampCross (c : Ctl) : Ctl :=
  let x := c.sp.pairAt - 1 + 50 * (max 1 (spDiv c) - c.sp.cyc)
  if c.sp.pairAt ≠ 0 ∧ c.sp.exc ≠ 0 ∧ x ≤ c.time.ftc ∧ c.sp.crossAt ≠ x + 1 then
    let a := if x < c.sp.ampFrom then c.sp.ampOld else spAmp c
    let d := updSp c (fun y => { y with amp := a, crossAt := x + 1 })
    if a ≠ c.sp.amp ∧ c.sp.exc = 2 then emit d (.pin 5 a) else d
  else c
/-- A sample pair: 16 modulator bits of each channel, the earliest in bit 0 (R715). -/
def samplePair (sb cb : Nat) (c : Ctl) : Ctl :=
  match reachGrid c (nextGrid c 800 c.sp.pairAt) with
  | none => c
  | some c =>
    let c := ampCross c
    let div := max 1 (spDiv c)
    let cyc := (c.sp.cyc + 16) % div
    let hs := shiftBits c.sp.sBits sb
    let hc := shiftBits c.sp.cBits cb
    let ph := rd c (sp 0x0C) % 65536
    let (si, sq) := demodSums div cyc ph hs
    let (ci, cq) := demodSums div cyc ph hc
    let sm := demodQ div si
    let cm := demodQ div ci
    let (s, k) := correct c sm cm
    let c := updSp c (fun x => { x with
      sBits := hs, cBits := hc, cyc := cyc, pairAt := c.time.ftc + 1
      sm := sm, cm := cm, sq := demodQ div sq, cq := demodQ div cq, s := s, c := k })
    let c := if capturing c 0 then captTake c (([c.sp.sm, c.sp.cm, c.sp.sq, c.sp.cq]).map (ux 32)) else c
    if converting c then
      let lo : Int := ((fld c (sp 0x2C) 15 0 * 256 : Nat) : Int)
      let hi : Int := ((fld c (sp 0x2C) 31 16 * 256 : Nat) : Int)
      let p := s * s + k * k
      let tooBig := decide (p > hi * hi) || decide (sm.natAbs ≥ 8220836) || decide (cm.natAbs ≥ 8220836)
      faultCount (faultCount c 0 (decide (p < lo * lo))) 1 tooBig
    else c

/-! The observer (R369 to R373, R718 to R729). -/
/-- Entry `i` of the quarter-wave table (R369). -/
def sinTable (i : Nat) : Int := if i ≥ 4096 then 2 ^ 23 - 1 else rneShift (sinTurn i 16384) 105
/-- The sine over a quarter, of a 22-bit angle up to and with 2^22 (R369). -/
def quarterSin (r : Nat) : Int :=
  let i := r / 1024
  sinTable i + rneShift ((sinTable (i + 1) - sinTable i) * (((r % 1024 : Nat)) : Int)) 10
/-- The observer's sine of a 24-bit angle, by symmetry (R369): in the quadrants that run backward the angle is mirrored, not i and f, DESIGN
CHOICE, for the rule says only 'the usual symmetries' (Assumption 80). -/
def obsSin (a : Nat) : Int :=
  let r := a % 2 ^ 22
  match a / 2 ^ 22 % 4 with
  | 0 => quarterSin r
  | 1 => quarterSin (2 ^ 22 - r)
  | 2 => -quarterSin r
  | _ => -quarterSin (2 ^ 22 - r)
/-- ε in 2^-31: exact from the products, rounded once (R370). An error beyond Q1.31 neither saturates nor wraps before GNORM, and θ̂ is the
state without its low 16 bits: both DESIGN CHOICE, for R370 and R369 do not say (Assumptions 78, 79). -/
def obsEps (s c : Int) (th : Nat) : Int :=
  let a := th / 2 ^ 16
  rneShift (s * obsSin (a + 2 ^ 22) - c * obsSin a) 15
/-- en in 2^-31 (R719, R720). -/
def obsEn (c : Ctl) : Int := satS 32 (rneShift (obsEps c.sp.s c.sp.c c.sp.th * spU c 0x28) 22)
/-- k1 · δ in 2^-40 revolution, for natural frequency 125 · 2^bw Hz; δ is en / 2π (R719, R721). -/
def k1Delta (bw : Nat) (en : Int) : Int := rneDiv (en * (((125 * 2 ^ bw * 524288 : Nat)) : Int)) 100000000
/-- k2 · δ in 2^-36 revolution. -/
def k2Delta (bw : Nat) (en : Int) : Int :=
  let f : Int := ((125 * 2 ^ bw * 512 : Nat) : Int)
  rneDiv (en * 64 * pi128 * f * f) (10 ^ 16 * 2 ^ 128)
/-- |δ| exceeds `n` / 2^16 revolution. -/
def deltaOver (en : Int) (n : Nat) : Bool := decide ((en.natAbs : Int) * 2 ^ 16 * 2 ^ 128 > (n : Int) * 2 * pi128 * 2 ^ 31)
/-- The compensated state of the latest update: the sum is rounded (R723). -/
def compState (c : Ctl) : Int := rneDiv ((c.sp.th : Int) * 400 + c.sp.w * ((spDcomp c : Nat) : Int)) 400
/-- The state advanced by `d` tc (R723). -/
def advState (c : Ctl) (d : Nat) : Nat := ux 40 (rneDiv (compState c * 400 + c.sp.w * (d : Int)) 400)
/-- h[i] (R372). -/
def harm (c : Ctl) (i : Nat) : Int := sx 16 (rd c (sp (0x20000 + 4 * (i % 256))))
/-- θd of a state (R371, R372, R724). -/
def elecOf (c : Ctl) (st : Nat) : Nat :=
  let th := ux 24 (rneShift (st : Int) 16)
  let i := th / 2 ^ 16
  let h := harm c i + rneShift ((harm c (i + 1) - harm c i) * ((th / 256 % 256 : Nat) : Int)) 8
  let tc := if rbit c rSpCfg 9 then ux 24 ((th : Int) - h) else th
  if spDir c then (2 ^ 24 - tc) % 2 ^ 24 else tc
/-- The mechanical angle of θd and an electrical cycle index (R373). -/
def mechOf (c : Ctl) (e thd : Nat) : Nat := (e * 2 ^ 24 + thd) / spP c % 2 ^ 24
/-- The reported speed, 24 bits signed (R726). -/
def spSpeed (c : Ctl) : Int :=
  let v := rneDiv (c.sp.w * 100000000) (((2 ^ 33 * spP c : Nat)) : Int)
  satS 24 (if spDir c then -v else v)
/-- The flags of R728: VALID, E_VALID, MT_VALID from bit 0. -/
def spFlags (c : Ctl) : Nat := b2n (spValid c) + 2 * b2n (spEValid c) + 4 * b2n (spMtValid c)
/-- θd and the mechanical angle at instant `t`: advanced while VALID, else of the latest update (R723, R741, R763). -/
def anglesAt (c : Ctl) (t : Nat) : Nat × Nat :=
  let thd := elecOf c (advState c (if spValid c then t + 1 - c.sp.updAt else 0))
  (thd, mechOf c (spE c) thd)
/-- e and MULTITURN follow θd (R725). -/
def trackTurns (c : Ctl) (thd : Nat) : Ctl :=
  let old := c.sp.thd
  let d := sx 24 (thd + 2 ^ 24 - old)
  let p := spP c
  let c := updSp c (fun x => { x with e := spE c })
  let c := if d > 0 ∧ thd < old then
      if c.sp.e + 1 ≥ p then setFld (updSp c (fun x => { x with e := 0 })) (sp 0x44) 15 0 (spMt c + 1)
      else updSp c (fun x => { x with e := x.e + 1 })
    else if d < 0 ∧ thd > old then
      if c.sp.e = 0 then setFld (updSp c (fun x => { x with e := p - 1 })) (sp 0x44) 15 0 (spMt c + 65535)
      else updSp c (fun x => { x with e := x.e - 1 })
    else c
  updSp c (fun x => { x with thd := thd })
/-- e and MULTITURN are loaded, and both are known (R729 to R732). -/
def loadTurns (c : Ctl) (e mt : Nat) : Ctl :=
  setFld (setFld (updSp c (fun x => { x with e := e })) (sp 0x44) 15 0 mt) rSpStat 6 5 3
/-- The signed difference of two mechanical angles. -/
def mechDiff (a b : Nat) : Int := sx 24 (a + 2 ^ 24 - b % 2 ^ 24)
/-- The first entry to TRACK restores e and MULTITURN from a valid keep record (R732, R733, R1090, R1091). -/
def restoreTurns (c : Ctl) (m : Mem) : Ctl × Mem :=
  let tol := fld c (sp 0x58) 21 0
  let res (c : Ctl) (v : Nat) : Ctl × Mem := (setFld c (sp 0x58) 23 22 v, consume m)
  if c.sp.tracked ∨ tol = 0 then (updSp c (fun x => { x with tracked := true }), m)
  else
    let c := updSp c (fun x => { x with tracked := true })
    match validBank m with
    | none => res c 3
    | some b =>
      let at_ (o n : Nat) : Nat := readLe m.keep (bankAt b + o) n
      let fl := at_ 0x2E 2
      if consumed m b ≠ 0 ∨ bitN fl 2 = false ∨ bits fl 6 4 + 1 ≠ spP c ∨ bitN fl 7 ≠ spDir c then res c 3
      else
        let rec_ := at_ 0x20 4 % 2 ^ 24
        let far (e : Nat) : Nat := (mechDiff (mechOf c e c.sp.thd) rec_).natAbs
        let e := (List.range (spP c)).foldl (fun b e => if far e < far b then e else b) 0
        let d := mechDiff (mechOf c e c.sp.thd) rec_
        if d.natAbs ≤ tol then
          let turn := ((rec_ : Int) + d) / 2 ^ 24
          res (loadTurns c e (ux 16 ((at_ 0x2C 2 : Nat) + turn))) 1
        else res (raise c 0x6402 noPart (unitSp c) (ux 32 d)) 2
/-- VALID falls, and with it what R729 clears. -/
def loseAngle (c : Ctl) : Ctl :=
  let c := setBit (setBit c rSpStat 4 false) rSpStat 6 false
  if spP c > 1 then setBit c rSpStat 5 false else c
/-- The observer enters ACQ (R722, R770). -/
def enterAcq (c : Ctl) : Ctl := updSp (loseAngle (setObs c 0)) (fun x => { x with acqN := 0, inWin := 0 })
/-- The observer enters HOLD. -/
def enterHold (c : Ctl) : Ctl := loseAngle (setObs c 2)

/-! Encoder emulation (R753 to R758). -/
/-- N of R753. -/
def eeN (c : Ctl) : Nat := 4 * (fld c (ee 0) 31 16 + 1)
/-- SRC 1: the electrical angle. -/
def eeElec (c : Ctl) : Bool := rbit c (ee 0) 1
/-- The source angle is valid (R757). -/
def eeValid (c : Ctl) : Bool := spValid c && (eeElec c || decide (spP c = 1) || spEValid c)
/-- The target at instant `t` (R753). -/
def eeTarget (c : Ctl) (t : Nat) : Nat :=
  let a := anglesAt c t
  (if eeElec c then a.1 else a.2) * eeN c / 2 ^ 24
/-- The lag, signed (R756). -/
def eeLag (c : Ctl) (target : Nat) : Int :=
  let n := eeN c
  let d := (target + n - rd c (ee 0x10) % n) % n
  if 2 * d ≥ n then (d : Int) - (n : Int) else (d : Int)
/-- P is set to the target with no edges. -/
def eeSet (c : Ctl) (target : Nat) : Ctl := setBit (wr (wr c (ee 0x10) target) (ee 0x14) 0) (ee 0x0C) 2 false
/-- A jump is counted (R756, R757). -/
def eeJump (c : Ctl) : Ctl := setFld (hwBit c (ee 0x0C) 3) (ee 0x18) 30 0 (satU 31 (fld c (ee 0x18) 30 0 + 1))
/-- HOLD follows the validity of the source angle (R757). -/
def eeHold (c : Ctl) : Ctl :=
  if rbit c (ee 0) 0 = false then c
  else if eeValid c = false then setBit c (ee 0x0C) 1 true
  else if rbit c (ee 0x0C) 1 then eeJump (eeSet (setBit c (ee 0x0C) 1 false) (eeTarget c c.time.ftc))
  else c
/-- ENC_A, ENC_B and ENC_Z of a position, in bits 0 to 2 (R754, R755). -/
def encLevels (c : Ctl) (p : Nat) : Nat :=
  let ab := match p % 4 with | 0 => 0 | 1 => 1 | 2 => 3 | _ => 2
  let n := eeN c
  let z := (p + n - rd c (ee 4) % n) % n
  ab + 4 * b2n (decide (z ≤ fld c (ee 0) 3 2))
/-- One count at the next MOTCLK cycle that MIN_GAP allows (R754 to R757, R761). -/
def encoderCount (c : Ctl) : Ctl :=
  if rbit c (ee 0) 0 = false then c
  else
    let from_ := max c.time.ftc (if c.sp.edgeAt = 0 then 0 else c.sp.edgeAt - 1 + 10 * fld c (ee 0) 15 8)
    match reachGrid c (ceilDiv from_ 10 * 10) with
    | none => c
    | some c =>
      let c := eeHold c
      if eeValid c = false then c
      else
        let t := eeTarget c c.time.ftc
        let lag := eeLag c t
        let n := eeN c
        if lag = 0 then eeSet c t
        else if 4 * lag.natAbs ≥ n then raise (eeJump (eeSet c t)) 0x6442 noPart (unitSp c) (ux 32 lag)
        else
          let c := if lag.natAbs > rd c (ee 8) % 2 ^ 18 ∧ rbit c (ee 0x0C) 4 = false then
              raise (hwBit c (ee 0x0C) 4) 0x6441 noPart (unitSp c) (ux 32 lag)
            else c
          let p := if lag > 0 then (rd c (ee 0x10) + 1) % n else (rd c (ee 0x10) + n - 1) % n
          let c := wr c (ee 0x10) p
          let l := eeLag c t
          let c := setBit (wr c (ee 0x14) (ux 32 l)) (ee 0x0C) 2 (decide (l.natAbs > 1))
          emit (updSp c (fun x => { x with edgeAt := c.time.ftc + 1 })) (.pin 2 (encLevels c p))
/-- A write of RUN (R758). -/
def encoderRun (on : Bool) (c : Ctl) : Ctl :=
  let was := rbit c (ee 0) 0
  let c := setBit (setBit c (ee 0) 0 on) (ee 0x0C) 0 on
  if on = true ∧ was = false then
    if eeValid c then eeSet (setBit c (ee 0x0C) 1 false) (eeTarget c c.time.ftc) else setBit c (ee 0x0C) 1 true
  else c

/-! The update (R718 to R732, R760). -/
/-- The snapshot takes the spindle's latest update (R1080, R1088). -/
def snapSpindle (c : Ctl) : Ctl :=
  if snapShut c then c
  else
    let live := decide (fld c (sp 0x5C) 7 4 ≠ 0)
    let fl := spFlags c + 8 * b2n live + 16 * (spP c - 1) + 128 * b2n (spDir c) + 256 * b2n (decide (spState c = 1))
    let b := leBytes 8 (stamp c) ++ leBytes 4 (rd c (sp 0x40)) ++ leBytes 4 (rd c (sp 0x48)) ++ leBytes 4 (rd c (sp 0x4C)) ++
      leBytes 2 (spMt c) ++ leBytes 2 fl
    { c with snap := { c.snap with sp := b } }
/-- The observer's step, unless it is held (R719, R722). -/
def obsStep (c : Ctl) : Ctl :=
  let en := obsEn c
  let c := updSp c (fun x => { x with en := en })
  if spObs c = 2 then c
  else
    let acq := decide (spObs c = 0)
    let bw := if acq && decide (c.sp.acqN < 512) then 5 else fld c rSpCfg 6 4
    let w := satS 32 (c.sp.w + k2Delta bw en)
    let th := ux 40 ((c.sp.th : Int) + 16 * w + k1Delta bw en)
    let win := if deltaOver en 256 then 0 else c.sp.inWin + 1
    updSp c (fun x => { x with w := w, th := th, acqN := if acq then x.acqN + 1 else x.acqN, inWin := if acq then win else 0 })
/-- ACQ ends in TRACK (R722, R729, R732). -/
def acqEnd (c : Ctl) (m : Mem) : Ctl × Mem :=
  if spObs c = 0 ∧ c.sp.acqN ≥ 512 ∧ c.sp.inWin ≥ 64 then
    let c := setBit (setObs c 1) rSpStat 4 true
    let c := if spP c = 1 then setBit c rSpStat 5 true else c
    restoreTurns c m
  else (c, m)
/-- What HOME and SP_SET load, in that order (R730, R731, R762); a capture that homing waits for (R812). -/
def obsLoads (c : Ctl) : Ctl :=
  let ld (c : Ctl) (o : Option (Nat × Nat)) : Ctl := match o with | some (e, mt) => loadTurns c e mt | none => c
  let got := c.sp.homeLoad.isSome
  let c := updSp (ld (ld c c.sp.homeLoad) c.sp.setLoad) (fun x => { x with homeLoad := none, setLoad := none })
  if got then { c with ce := { c.ce with homeGot := true } } else c
/-- The observer moves on by one update, and the turns follow the advanced angle `st` (R718). -/
def obsTurns (c : Ctl) : Ctl :=
  let c := obsStep c
  let c := updSp c (fun x => { x with updAt := c.time.ftc + 1 })
  trackTurns c (elecOf c (advState c 0))
/-- What an update shows and reports once its turns stand; `st` the advanced state (R718). -/
def obsShow (st : Nat) (c : Ctl) : Ctl :=
  let c := obsLoads c
  let c := if converting c then
      let sp5 := decide (((c.sp.w.natAbs * 100000000 : Nat)) > rd c (sp 0x30) % 8192 * 512 * 2 ^ 36)
      let tr := decide (spObs c = 1) && deltaOver c.sp.en (rd c (sp 0x34) % 32768)
      faultCount (faultCount c 2 tr) 3 sp5
    else c
  let thd := c.sp.thd
  let c := wr (wr c (sp 0x40) (spE c * 2 ^ 24 + mechOf c (spE c) thd)) (sp 0x48) thd
  let c := wr c (sp 0x4C) (ux 32 (spSpeed c))
  let c := if capturing c 1 then
      captTake c [ux 24 (rneShift (st : Int) 16), ux 32 c.sp.en, ux 32 c.sp.w, c.time.ftc % 2 ^ 32]
    else c
  snapSpindle (eeHold c)
/-- An observer update (R718). -/
def observerUpdate (cm : CM) : CM :=
  match reachGrid cm.1 (nextGrid cm.1 6400 cm.1.sp.updAt) with
  | none => cm
  | some c =>
    let st := advState (obsStep c) 0
    let r := acqEnd (obsTurns c) cm.2
    (obsShow st r.1, r.2)

/-! Faults (R734, R735, R770). -/
/-- Counts to a fault: sample pairs or updates (R734). -/
def faultNeed (i : Nat) : Nat := match i with | 0 => 8 | 1 => 8 | 2 => 4 | _ => 1
/-- A conversion fault's condition has held for its count (R734): 0 LOS, 1 OVERRANGE, 2 TRACK, 3 OVERSPEED. -/
def convFault (i : Nat) (c : Ctl) : Ctl :=
  if i < 4 ∧ converting c = true ∧ rbit c (sp 0x5C) (4 + i) = false ∧ smGet c.sp.faultN 0 i ≥ faultNeed i then
    let c := hwBit (setBit c (sp 0x5C) (4 + i) true) (sp 0x5C) i
    let c := enterHold (spCount c 0)
    eeHold (raise c 0x6401 noPart (unitSp c) (fld c (sp 0x5C) 7 4))
  else c
/-- A conversion fault's condition has been absent for 64 counts: its live bit clears and the observer enters ACQ (R722, R735). -/
def convFaultEnd (i : Nat) (c : Ctl) : Ctl :=
  if i < 4 ∧ rbit c (sp 0x5C) (4 + i) = true ∧ smGet c.sp.clearN 0 i ≥ 64 then
    let c := setBit c (sp 0x5C) (4 + i) false
    if converting c then enterAcq c else c
  else c

/-! Enable and drain (R738 to R740). -/
/-- The prerequisites (R738). -/
def spReady (c : Ctl) : Bool :=
  decide (1000 ≤ spDiv c ∧ spDiv c ≤ 12500 ∧ fld c (sp 0x08) 31 16 ≠ 0 ∧ 0x200000 ≤ rd c (sp 0x28) % 2 ^ 24 ∧ rd c (sp 0x28) % 2 ^ 24 ≤ 0x800000)
/-- The tc of a ramp (R739). -/
def rampTc (c : Ctl) : Nat := 32 * spDiv c * 50
/-- STATE has become ON: the excitation ramps up (R739). -/
def spStart (c : Ctl) : Ctl := updSp (enterHold c) (fun x => { x with exc := 1, rampEnd := c.time.ftc + rampTc c, amp := spAmp c, faultN := {}, clearN := {} })
/-- STATE has become DRAINING: the excitation ramps down (R722, R729, R739). -/
def spDrain (c : Ctl) : Ctl := eeHold (updSp (enterHold c) (fun x => { x with exc := 3, rampEnd := c.time.ftc + rampTc c }))
/-- The excitation stops at once (R740, R766, R767). -/
def spOff (c : Ctl) : Ctl :=
  eeHold (emit (setFld (enterHold (updSp c (fun x => { x with exc := 0, faultN := {}, clearN := {} }))) (sp 0x5C) 7 4 0) (.pin 5 0))
/-- The drain is at its end. -/
def spIdle (c : Ctl) : Bool := decide (c.sp.exc = 0)
/-- A ramp ends (R722, R739). -/
def rampOver (c : Ctl) : Ctl :=
  if c.sp.exc = 1 ∨ c.sp.exc = 3 then
    match reachGrid c c.sp.rampEnd with
    | none => c
    | some c =>
      let c := ampCross c
      if c.sp.exc = 1 then enterAcq (emit (updSp c (fun x => { x with exc := 2 })) (.pin 5 c.sp.amp))
      else emit (updSp c (fun x => { x with exc := 0 })) (.pin 5 0)
  else c
/-- A BLK reset (R767). -/
def spReset (c : Ctl) : Ctl :=
  let c := resetRegs (resetRegs c (sp 0) (sp 0x20000)) (ee 0) (ee 0x1000)
  let x := c.sp
  let y : SpSt := { sBits := x.sBits, cBits := x.cBits, tracked := x.tracked, relayed := x.relayed, written := x.written, seq := x.seq,
                    relayAt := x.relayAt, windowAt := x.windowAt, stamp := x.stamp }
  emit (emit { c with sp := y } (.pin 5 0)) (.pin 2 0)

/-! SP_SET, HOME, capture. -/
/-- A write of SP_SET: fields, and with GO the load of R730. An e not below p is rejected. -/
def spSet (v fn : Nat) (c : Ctl) : Ctl :=
  if bitN v 31 = true ∧ spValid c = false then discard c (sp 0x50) fn
  else
    let c := setFld c (sp 0x50) 15 0 v
    let c := if bits v 18 16 < spP c then setFld c (sp 0x50) 18 16 (bits v 18 16) else c
    if bitN v 31 then updSp c (fun x => { x with setLoad := some (fld c (sp 0x50) 18 16, fld c (sp 0x50) 15 0) }) else c
/-- A HOME edge (R731). -/
def homeEdge (falling : Bool) (c : Ctl) : Ctl :=
  if rbit c (sp 0x54) 31 = true ∧ spValid c = true ∧ rbit c (sp 0x54) 30 = falling then
    let c := setBit c (sp 0x54) 31 false
    updSp c (fun x => { x with homeLoad := some (fld c (sp 0x54) 18 16 % spP c, fld c (sp 0x54) 15 0) })
  else c
/-- A write of SP_CAPT_CTRL: its fields, and with GO the start of a capture; a GO while BUSY alone is discarded (R23, R759). -/
def captGo (v fn : Nat) (c : Ctl) : Ctl :=
  let busy := rbit c (sp 0x90) 29
  let c := if bits v 23 8 ≠ 0 then setFld c (sp 0x90) 23 8 (bits v 23 8) else c
  let c := setFld c (sp 0x90) 0 0 v
  if bitN v 31 = true ∧ busy = true then discard c (sp 0x90) fn
  else if bitN v 31 then updSp (setFld c (sp 0x90) 30 29 1) (fun x => { x with captN := 0, captSkip := 0 }) else c

/-! Latch input (R750 to R752). -/
/-- A SPINDLE_LATCH edge, at the first sample of the new level; the edge instant precedes it by the input delay of 20 tc (R1153). -/
def latchEdge (rising : Bool) (c : Ctl) : Ctl :=
  let w := rd c (sp 0x70)
  if bitN w 0 = false ∨ bitN w (if rising then 1 else 2) = false then c
  else if c.sp.latch.length ≥ 16 then spCount (hwBit c (sp 0x74) 8) 1
  else
    let t := c.time.ftc / 10 * 10 - 20
    let (thd, mech) := anglesAt c t
    let fl := b2n (spValid c) * 4 + b2n (spEValid c) * 2 + b2n (spMtValid c)
    let e := (stampBack c t, b2n rising * 2 ^ 31 + fl * 2 ^ 28 + mech, spMt c * 2 ^ 16 + thd / 256)
    let c := updSp c (fun x => { x with latch := x.latch ++ [e] })
    setFld c (sp 0x74) 4 0 c.sp.latch.length
/-- A write of POP (R752). -/
def latchPop (c : Ctl) : Ctl :=
  let put (c : Ctl) (a b d e : Nat) : Ctl := wr (wr (wr (wr c (sp 0x80) a) (sp 0x84) b) (sp 0x88) d) (sp 0x8C) e
  match c.sp.latch with
  | [] => put c 0 0 0 0
  | (ts, d2, d3) :: r =>
    let c := updSp c (fun x => { x with latch := r })
    put (setFld c (sp 0x74) 4 0 r.length) (ts % 2 ^ 32) (ts / 2 ^ 32) d2 d3

/-! Angle stamps (R741 to R749, R771, R772). -/
/-- The stamp of the pass that begins (R741, R744). -/
def latchStamp (c : Ctl) : Ctl :=
  let (thd, mech) := anglesAt c c.time.passAt
  let st : AngleStamp := {
    pass := c.time.pass % 2 ^ 48, source := plezorId c, angle := mech, speed := ux 24 (spSpeed c), mt := spMt c
    status := spFlags c + 8 * b2n (decide (fld c (sp 0x5C) 7 4 ≠ 0)), elec := thd }
  updSp c (fun x => { x with stamp := some st })
/-- SRC, MASTER, RELAY_DIV, STALE_MAX. -/
def spSrc (c : Ctl) : Bool := rbit c (sp 0x60) 0
def spMaster (c : Ctl) : Bool := rbit c (sp 0x60) 1
/-- The newer of two stamps. -/
def newer (a b : Option AngleStamp) : Option AngleStamp :=
  match a, b with
  | some x, some y => if y.pass ≥ x.pass then some y else some x
  | none, y => y
  | x, none => x
/-- The stamp that this pass's windows hold (R743, R745, R772). -/
def stampFor (c : Ctl) : Option AngleStamp :=
  if spSrc c then
    if bench c ∨ rbit c rStampIn 5 = false then none
    else newer c.sp.written (((c.sp.relayed.filter (fun x => decide (x.2 + 16 ≤ c.time.passAt))).map (fun x => some x.1)).foldl newer none)
  else c.sp.stamp
/-- The stamp window's 64 bytes (R743 to R745, R771). -/
def stampBytes (c : Ctl) (o : Option AngleStamp) : Bytes :=
  let n := c.time.pass % 2 ^ 48
  let rel := b2n (spSrc c)
  match o with
  | none => leBytes 6 (2 ^ 48 - 1) ++ zeroBytes 12 ++ leBytes 2 (16 * rel) ++ zeroBytes 4 ++ leBytes 4 0xFFFFFFFF ++ zeroBytes 4 ++ leBytes 6 n ++ zeroBytes 26
  | some s =>
    let age := satU 32 (n - s.pass)
    let status := s.status % 16 + 16 * rel + 32 * b2n (decide (age > fld c (sp 0x60) 31 16))
    leBytes 6 s.pass ++ leBytes 2 s.source ++ leBytes 4 s.angle ++ leBytes 4 (ux 32 (sx 24 s.speed)) ++ leBytes 2 s.mt ++ leBytes 2 status ++
      leBytes 4 (if spSrc c then 0 else s.elec) ++ leBytes 4 age ++ zeroBytes 4 ++ leBytes 6 n ++ zeroBytes 26
/-- Partition p receives stamps: its tile (R213, R742). -/
def stampTile (c : Ctl) (p : Nat) : Option Nat :=
  let t := params c p 6 2
  if grantFlag c p 0 ∧ (partPlan c p).isSome ∧ t < 1024 ∧ ptPasses c p = true then some t else none
/-- The windows of the pass are written, each in the first SYS phase at least 16 tc after the boundary (R743). -/
def stampWindows (cm : CM) : CM :=
  let c := cm.1
  if c.time.epoch = false ∨ c.sp.windowAt = c.time.pass + 1 then cm
  else
    let o := stampFor c
    let future := match o with | some s => decide (s.pass > c.time.pass % 2 ^ 48) | none => false
    let c := if future then spCount c 4 else c
    let c := updSp c (fun x => { x with windowAt := c.time.pass + 1, written := if spSrc c then o else x.written })
    let b := stampBytes c o
    foldUp 32 (fun cm p =>
      match stampTile cm.1 p with
      | none => cm
      | some t => match firstPhase cm.1 t 0x44 (cm.1.time.passAt + 16) with
        | none => cm
        | some f => rxWrite (advanceTo cm.1 f, cm.2) t (params cm.1 p 8 4 % 2 ^ 19) b) (c, cm.2)
/-- The three words of a stamp (R668). -/
def stampWords (s : AngleStamp) : List Nat :=
  let q := s.seq % 64 * 2 ^ 48
  [q + s.pass, 2 ^ 54 + q + s.angle * 2 ^ 24 + s.speed, 2 * 2 ^ 54 + q + s.source * 2 ^ 32 + s.mt * 2 ^ 16 + s.status]
/-- A stamp waits on a link; it replaces one whose first word has not been sent (R748). -/
def stampSend (c : Ctl) (l : Nat) (s : AngleStamp) : Ctl :=
  let q := smGet c.lk.sb [] l
  let mid := smGet c.lk.stampMid 0 l
  let mine := q.filter (fun w => w.kind = 3)
  let kept := mine.take (if mid = 0 then 0 else 3 - mid)
  let lost := mine.length - kept.length
  let c := if lost > 0 then spCount c 2 else c
  updLk c (fun x => { x with sb := smSet x.sb [] l (q.filter (fun w => w.kind ≠ 3) ++ kept ++ (stampWords s).map (fun v => ⟨3, v, none⟩)) })
/-- A stamp goes out on every UP link of LK_STAMP_OUT (R672). -/
def stampOut (c : Ctl) (s : AngleStamp) : Ctl :=
  foldUp 32 (fun c l => if bitN (rd c rStampOut) l && lkUp c l then stampSend c l s else c) c
/-- A master sends the stamp of the pass (R746, R747). -/
def stampRelay (c : Ctl) : Ctl :=
  match c.sp.stamp with
  | none => c
  | some s =>
    let div := max 1 (fld c (sp 0x60) 15 8)
    if c.time.epoch = false ∨ spMaster c = false ∨ s.pass ≠ c.time.pass % 2 ^ 48 ∨ c.time.pass % div ≠ 0 ∨ c.sp.relayAt = c.time.pass + 1 then c
    else
      let q := c.sp.seq
      let c := updSp c (fun x => { x with seq := (q + 1) % 64, relayAt := c.time.pass + 1 })
      stampOut c { s with seq := q }
/-- A stamp of three words. -/
def stampOf (ws : List Nat) : AngleStamp :=
  let w (i : Nat) : Nat := ws.getD i 0
  { pass := bits (w 0) 47 0, seq := bits (w 0) 53 48, angle := bits (w 1) 47 24, speed := bits (w 1) 23 0, source := bits (w 2) 47 32,
    mt := bits (w 2) 31 16, status := bits (w 2) 15 0 }
/-- A STAMP word arrives (R672, R712, R746, R747). One out of sequence is discarded, and the words before it with it: DESIGN CHOICE, for R712 does
not say what becomes of them, and they could wait for ever (Assumption 82). -/
def stampWord (l pay : Nat) (c : Ctl) : Ctl :=
  if lkLive c l = false ∨ lkStep c l < 3 then c
  else if spMaster c then spCount c 5
  else if fld c rStampIn 4 0 ≠ l then lkCount c l 4
  else if rbit c rStampIn 5 = false then c
  else
    let got := c.lk.stampIn
    let i := bits pay 55 54
    let inSeq := decide (i = got.length) && (got.isEmpty || decide (bits (got.headD 0) 53 48 = bits pay 53 48))
    if inSeq = false then
      let c := lkCount c l 4
      updLk c (fun x => { x with stampIn := [] })
    else if i < 2 then updLk c (fun x => { x with stampIn := got ++ [pay] })
    else
      let s := stampOf (got ++ [pay])
      let c := updLk c (fun x => { x with stampIn := [] })
      let c := updSp (spCount c 3) (fun x => { x with relayed := x.relayed ++ [(s, c.time.ftc)] })
      stampOut c s
/-- What a boundary does to the spindle: the stamp of the new pass; relayed stamps older than the ones that count are forgotten. -/
def spBoundary (c : Ctl) : Ctl :=
  updSp (latchStamp c) (fun x => { x with relayed := x.relayed.drop (x.relayed.length - 8) })

/-! The commands. -/
/-- A sample pair (R715), with the constants in force at its instant (R42, R717). -/
def execSamplePair (sb cb : Nat) (s : State) : Out :=
  onCtl (fun c => whenAlive c (inEffectAt (nextGrid c 800 c.sp.pairAt) (samplePair sb cb))) s
/-- An observer update (R719), with the fields in force at its instant (R42, R722). -/
def execObserverUpdate (s : State) : Out :=
  onAll (fun cm => if alive cm.1 then inEffectAll (nextGrid cm.1 6400 cm.1.sp.updAt) observerUpdate cm else cm) s
/-- A conversion fault (R734). -/
def execConversionFault (i : Nat) (s : State) : Out := onCtl (fun c => whenAlive c (convFault i)) s
/-- A conversion fault ends (R735). -/
def execConversionFaultEnd (i : Nat) (s : State) : Out := onCtl (fun c => whenAlive c (convFaultEnd i)) s
/-- A ramp ends (R739). -/
def execExcitationRampEnd (s : State) : Out := onCtl (fun c => whenAlive c rampOver) s
/-- A write of SP_SET (R730). -/
def execSpSet (v : Word) (s : State) : Out := onCtl (fun c => whenAlive c (spSet v.toNat 0)) s
/-- A HOME edge (R731). -/
def execHomeEdge (falling : Bool) (s : State) : Out := onCtl (fun c => whenAlive c (homeEdge falling)) s
/-- The stamp windows of the pass (R743). -/
def execStampWindowWrite (s : State) : Out := onAll (fun cm => if alive cm.1 then stampWindows cm else cm) s
/-- A master relays its stamp (R746). -/
def execStampRelay (s : State) : Out := onCtl (fun c => whenAlive c stampRelay) s
/-- A STAMP word arrives (R672). -/
def execStampWord (l pay : Nat) (s : State) : Out := onCtl (fun c => whenAlive c (stampWord l pay)) s
/-- An edge at SPINDLE_LATCH (R751). -/
def execLatchEdge (rising : Bool) (s : State) : Out := onCtl (fun c => whenAlive c (latchEdge rising)) s
/-- A write of POP (R752). -/
def execLatchPop (s : State) : Out := onCtl (fun c => whenAlive c latchPop) s
/-- One count of the encoder emulator (R754). -/
def execEncoderCount (s : State) : Out := onCtl (fun c => whenAlive c encoderCount) s
/-- A write of RUN (R758). -/
def execEncoderRun (on : Bool) (s : State) : Out := onCtl (fun c => whenAlive c (encoderRun on)) s
/-- A write of SP_CAPT_CTRL (R759). -/
def execSpindleCapture (v : Word) (s : State) : Out := onCtl (fun c => whenAlive c (captGo v.toNat 0)) s

end Sys2Proof.Machine
end

