-- ==== Sys2Proof/Machine/CeLoops.lean ====
section
/-! DEFINITION. What a sample of the control engine computes: scaling, biquad sections, loops, feed-forward and the set-point
generator (R355 to R365, R780 to R799, R805, R806). -/
namespace Sys2Proof.Machine

/-! Registers. -/
/-- An offset of the CE block. -/
def ce (o : Nat) : Nat := 0x80000 + o
def rCeCtrl : Nat := ce 0x000
def rCeStat : Nat := ce 0x004
def rCeMode : Nat := ce 0x00C
def rCeScale : Nat := ce 0x010
def rCeOpen : Nat := ce 0x014
/-- The engine's hidden state changed. -/
def updCe (c : Ctl) (f : CeSt → CeSt) : Ctl := { c with ce := f c.ce }
/-- Its unit, for an event. -/
def unitCe (c : Ctl) : Nat := unitOf c 5 0
/-- MSTATE (R808). -/
def mstate (c : Ctl) : Nat := fld c rCeStat 2 0
/-- RUN or STOPPING. -/
def moving (c : Ctl) : Bool := decide (mstate c = 2 ∨ mstate c = 3)
/-- A signed or unsigned field of a register. -/
def ceS (c : Ctl) (w o : Nat) : Int := sx w (rd c (ce o))
def ceU (c : Ctl) (w o : Nat) : Int := ((rd c (ce o) % 2 ^ w : Nat) : Int)
/-- N (R773), in tc the sample period, and the shifts of CE_SCALE. -/
def ceN (c : Ctl) : Nat := fld c rCeCtrl 12 8 + 1
def cePeriod (c : Ctl) : Nat := ceN c * 6400
def accSh (c : Ctl) : Nat := fld c rCeScale 28 24
def spdSh (c : Ctl) : Nat := fld c rCeScale 20 16
def posSh (c : Ctl) : Nat := fld c rCeScale 4 0
/-- UNIDIR. -/
def unidir (c : Ctl) : Bool := rbit c rCeCtrl 25
/-- LIMIT_FWD_N and LIMIT_REV_N are asserted. -/
def limFwd (c : Ctl) : Bool := rbit c rCeStat 8
def limRev (c : Ctl) : Bool := rbit c rCeStat 9
/-- Fields of CE_LOOPx_CFG. -/
def lpCfg (x : Nat) : Nat := ce (0x20 + 16 * x)
def lpEn (c : Ctl) (x : Nat) : Bool := rbit c (lpCfg x) 0
def lpFb (c : Ctl) (x : Nat) : Nat := fld c (lpCfg x) 5 4
def lpCasc (c : Ctl) (x : Nat) : Bool := rbit c (lpCfg x) 7
def lpSrc (c : Ctl) (x : Nat) : Nat := fld c (lpCfg x) 9 8
def lpNsec (c : Ctl) (x : Nat) : Nat := fld c (lpCfg x) 3 1 + 1
/-- The words of section `s` of loop `x` in coefficient RAM (R784). -/
def coefAt (x s : Nat) : Nat := ce (0x20000 + 0x200 * x + 64 * s)
/-- Saturation to Q1.31. -/
def q31 (v : Int) : Int := satS 32 v
/-- A product with a gain in (M, K) form at `o`, rounded once and saturated (R357, R365). -/
def gain (c : Ctl) (o : Nat) (x : Int) : Int :=
  q31 (rneShift (x * ceS c 32 o * (((2 ^ (sx 5 (rd c (ce (o + 4))) + 16).toNat : Nat)) : Int)) 47)

/-! Inputs and scaling (R780, R781). -/
/-- v, a speed with 24 fraction bits, r_a as Q1.31, each rounded once. -/
def vQ (c : Ctl) : Int := q31 (c.ce.v * 2 ^ spdSh c)
def rvQ (c : Ctl) : Int := q31 (rneShift (c.ce.rv * 2 ^ spdSh c) 24)
def raQ (c : Ctl) : Int := q31 (rneShift (c.ce.ra * 2 ^ accSh c) 24)
/-- (r_p − pos) as Q1.31. -/
def posErr (c : Ctl) : Int :=
  q31 (rneShift (sx 64 (c.ce.rp + 2 ^ 64 - c.ce.pos % 2 ^ 40 * 2 ^ 24) * 2 ^ posSh c) 24)
/-- An auxiliary input as Q1.31. -/
def auxQ (c : Ctl) (i : Nat) : Int := ((fld c (ce 0x110) (16 * i + 11) (16 * i) : Nat) - 2048 : Int) * 2 ^ 20
/-- The feedback of loop `x` fails the condition FEEDBACK (R809). -/
def feedbackBad (c : Ctl) (x : Nat) : Bool :=
  match lpFb c x with
  | 0 => !spValid c || (decide (spP c > 1) && !spEValid c)
  | 1 => !spValid c
  | _ => false

/-! Biquad sections (R356 to R364). -/
/-- M and K of a coefficient. -/
def coefM (c : Ctl) (a j : Nat) : Int := sx 32 (rd c (a + 8 * j))
def coefK (c : Ctl) (a j : Nat) : Int := sx 5 (rd c (a + 8 * j + 4))
/-- A right shift rounded under RND: 0 nearest even, 1 toward zero. -/
def rndShift (rnd : Bool) (x : Int) (n : Nat) : Int := if rnd then x.tdiv (((2 ^ n : Nat)) : Int) else rneShift x n
/-- A mantissa of exponent `e` at exponent `f`: left shifts exact, right shifts rounded. -/
def toExp (rnd : Bool) (m e f : Int) : Int := if e ≥ f then m * (((2 ^ (e - f).toNat : Nat)) : Int) else rndShift rnd m (f - e).toNat
/-- Whether a saturation changed a value. -/
def sat31 (v : Int) : Int × Bool := (q31 v, decide (q31 v ≠ v))
/-- Section `k` = 8 × loop + number. -/
def sec (c : Ctl) (k : Nat) : SecSt := smGet c.ce.secs {} k
def setSec (c : Ctl) (k : Nat) (v : SecSt) : Ctl := updCe c (fun x => { x with secs := smSet x.secs {} k v })
/-- OVF of a loop (R785). -/
def ovf (c : Ctl) (x : Nat) (b : Bool) : Ctl := if b then hwBit c rCeStat (28 + x) else c
/-- A FIX section: its output (R359 to R361). -/
def fixStep (c : Ctl) (x s : Nat) (u : Int) : Ctl × Int :=
  let a := coefAt x s
  let t := sec c (8 * x + s)
  let term (j : Nat) (v : Int) : Int := v * coefM c a j * (((2 ^ (coefK c a j + 16).toNat : Nat)) : Int)
  let acc := term 0 u + term 1 t.x1 + term 2 t.x2 - term 3 t.y1 - term 4 t.y2
  let ef := rbit c (a + 40) 2
  let acc := if ef then acc + t.res else acc
  let raw := if ef then acc / 2 ^ 47 else rndShift (rbit c (a + 40) 1) acc 47
  let (y, o) := sat31 raw
  let res := if ef && !o then acc - y * 2 ^ 47 else 0
  (ovf (setSec c (8 * x + s) { t with x1 := u, x2 := t.x1, y1 := y, y2 := t.y1, res := res }) x o, y)
/-- The least exponent at which each value, a mantissa with its exponent, lies below half of full scale (R363 step 3). -/
def bfpExp (vs : List (Int × Int)) : Int :=
  let ok (i : Nat) : Bool := vs.all (fun v => decide (v.1.natAbs * 2 ^ (v.2 + 100).toNat < 2 ^ (i + 98)))
  match (List.range 64).find? ok with | some i => (i : Int) - 32 | none => 31
/-- A BFP section on a mantissa with its exponent (R362, R363). -/
def bfpStep (c : Ctl) (x s : Nat) (m ei : Int) : Ctl × Int × Int :=
  let a := coefAt x s
  let t := sec c (8 * x + s)
  let rnd := rbit c (a + 40) 1
  let ea := max t.es ei
  let al (v : Int) : Int := toExp rnd v t.es ea
  let u := toExp rnd m ei ea
  let p := u * coefM c a 0 + al t.x1 * coefM c a 1 + al t.x2 * coefM c a 2 - al t.y1 * coefM c a 3 - al t.y2 * coefM c a 4
  let ep := ea + coefK c a 0 - 31
  let es := bfpExp [(p, ep), (u, ea), (al t.x1, ea), (al t.y1, ea)]
  let (y, o1) := sat31 (toExp rnd p ep es)
  let (x1, o2) := sat31 (toExp rnd u ea es)
  let (x2, o3) := sat31 (toExp rnd (al t.x1) ea es)
  let (y2, o4) := sat31 (toExp rnd (al t.y1) ea es)
  (ovf (setSec c (8 * x + s) { x1 := x1, x2 := x2, y1 := y, y2 := y2, res := 0, es := es }) x (o1 || o2 || o3 || o4), y, es)
/-- A mantissa at exponent 0 (R364). -/
def toZero (c : Ctl) (x s : Nat) (m e : Int) : Ctl × Int :=
  let (y, o) := sat31 (toExp (rbit c (coefAt x s + 40) 1) m e 0)
  (ovf c x o, y)
/-- One section, in its mode; its input and output with their exponents. A FIX section after a BFP one receives that one's output at exponent 0,
rounded under the earlier section's RND and saturated: DESIGN CHOICE, for R363 does not say what it receives (Assumption 77). -/
def secStep (x : Nat) (cm : Ctl × Int × Int) (s : Nat) : Ctl × Int × Int :=
  let (c, m, e) := cm
  if rbit c (coefAt x s + 40) 0 then bfpStep c x s m e
  else
    let (c, u) := toZero c x (s - 1) m e
    let (c, y) := fixStep c x s u
    (c, y, 0)
/-- The cascade of loop `x` on its error: its last section's output (R356, R364). -/
def cascade (c : Ctl) (x : Nat) (u : Int) : Ctl × Int :=
  let (c, m, e) := foldUp (lpNsec c x) (secStep x) (c, u, 0)
  toZero c x (lpNsec c x - 1) m e
/-- Sets the y histories of the last section of loop `x` to a Q1.31 value (R783, R788). -/
def setLastY (c : Ctl) (x : Nat) (v : Int) : Ctl :=
  let s := lpNsec c x - 1
  let a := coefAt x s
  let t := sec c (8 * x + s)
  if rbit c (a + 40) 0 then
    let (w, o) := sat31 (toExp (rbit c (a + 40) 1) v 0 t.es)
    ovf (setSec c (8 * x + s) { t with y1 := w, y2 := w }) x o
  else setSec c (8 * x + s) { t with y1 := v, y2 := v }
/-- Sets a section's histories to Q1.31 values, with residue 0 (R361, R810). -/
def presetSec (c : Ctl) (x s : Nat) (u y : Int) : Ctl :=
  let a := coefAt x s
  if rbit c (a + 40) 0 then
    let es := bfpExp [(u, 0), (y, 0)]
    let at_ (v : Int) : Int := q31 (toExp (rbit c (a + 40) 1) v 0 es)
    setSec c (8 * x + s) ⟨at_ u, at_ u, at_ y, at_ y, 0, es⟩
  else setSec c (8 * x + s) ⟨u, u, y, y, 0, -32⟩
/-- Clears the histories and residues of a loop (R792). -/
def clearLoop (c : Ctl) (x : Nat) : Ctl := foldUp 8 (fun c s => setSec c (8 * x + s) {}) c

/-! Loops (R782, R783, R810). -/
/-- y and e of a loop. -/
def lpY (c : Ctl) (x : Nat) : Int := smGet c.ce.y 0 x
def lpE (c : Ctl) (x : Nat) : Int := smGet c.ce.err 0 x
def setY (c : Ctl) (x : Nat) (v : Int) : Ctl := updCe c (fun t => { t with y := smSet t.y 0 x v })
/-- The auto-tune runs on loop `x` (R856). -/
def tuneOn (c : Ctl) (x : Nat) : Bool := decide (c.ce.tune.run = 1 ∧ c.ce.tune.loop = x)
/-- Loop `x` is computed at this sample (R790, R856). -/
def computed (c : Ctl) (x : Nat) : Bool := moving c && lpEn c x && !bitN c.ce.openMask x && !tuneOn c x
/-- Loop `x` is an output loop. -/
def isOutput (c : Ctl) (x : Nat) : Bool :=
  computed c x && !(List.range 4).any (fun z => computed c z && lpCasc c z && decide (lpSrc c z = x))
/-- Where and into which loop d goes (R844). -/
def injPt (c : Ctl) : Nat := fld c (ce 0x140) 9 8
def injLoop (c : Ctl) : Nat := fld c (ce 0x140) 5 4
/-- DST of the trim (R802). -/
def trimDst (c : Ctl) : Nat := fld c (ce 0xE0) 2 0
/-- The error of loop `x`, one exact sum saturated (R782, R802, R844). -/
def loopErr (c : Ctl) (x : Nat) : Int :=
  let p := match lpFb c x with
    | 0 => posErr c
    | 1 => (if rbit c (lpCfg x) 6 then rvQ c else 0) - vQ c
    | 2 => -auxQ c 0
    | _ => -auxQ c 1
  let y := if lpCasc c x then lpY c (lpSrc c x) else 0
  let t := if (trimDst c = 1 ∧ lpFb c x = 1) ∨ (trimDst c = 2 ∧ lpFb c x = 0) then c.ce.trimApp else 0
  let d := if (injPt c = 1 ∨ injPt c = 2) ∧ injLoop c = x then c.ce.d else 0
  q31 (p + y + sx 32 (rd c (lpCfg x + 4)) + t + d)
/-- The preset H (R810). -/
def presetH (c : Ctl) : Int := q31 (gain c 0x84 (vQ c) + ceS c 32 0x70)
/-- Loop `x` at a flying start: its histories and its output (R810). -/
def loopPreset (c : Ctl) (x : Nat) : Ctl :=
  let e := lpE c x
  let h := if rbit c (lpCfg x) 10 then presetH c else 0
  let n := lpNsec c x
  setY (foldUp n (fun c s => presetSec c x s e (if s + 1 = n then h else e)) c) x h
/-- Loop `x` computed: its clamped output, and its last section's histories where the clamp acts (R783, R788). -/
def loopRun (c : Ctl) (x : Nat) : Ctl :=
  let (c, y) := cascade c x (lpE c x)
  let z := clampI (sx 32 (rd c (lpCfg x + 8))) (sx 32 (rd c (lpCfg x + 12))) y
  setY (if z = y then c else setLastY c x z) x z
/-- Loop `x` at a sample; `skip`: it keeps its state (R824). -/
def ceLoopStep (skip : Nat → Bool) (c : Ctl) (x : Nat) : Ctl :=
  let c := if lpEn c x && moving c then updCe c (fun t => { t with err := smSet t.err 0 x (loopErr c x) }) else c
  if computed c x = false ∨ skip x = true then c
  else if c.ce.fly then loopPreset c x
  else loopRun c x

/-! Feed-forward (R805, R806). -/
/-- A grain table's value at a mechanical angle, in 2^-31. -/
def grain (c : Ctl) (base th : Nat) : Int :=
  let g (i : Nat) : Int := sx 16 (rd c (ce (base + 4 * (i % 1024))))
  let i := th / 2 ^ 14 % 1024
  (g i + rneShift ((g (i + 1) - g i) * ((th / 16 % 1024 : Nat) : Int)) 10) * 2 ^ 16
/-- φ. -/
def fricPhi (c : Ctl) : Int :=
  let db := ceU c 24 0x90
  if db = 0 then q31 (if c.ce.rv > 0 then 2 ^ 31 else if c.ce.rv < 0 then -2 ^ 31 else 0)
  else q31 (clampI (-2 ^ 31) (2 ^ 31) (rneDiv (c.ce.rv * 2 ^ 31) (db * 2 ^ 24)))
/-- ff. -/
def feedForward (c : Ctl) : Int :=
  let cog := if rbit c (ce 0x8C) 0 then q31 (grain c 0x10000 c.ce.mech) else 0
  let fric := if rbit c (ce 0x8C) 1 then q31 (rneShift (q31 (grain c 0x11000 c.ce.mech) * fricPhi c) 31) else 0
  q31 (gain c 0x74 (rvQ c) + gain c 0x7C (raQ c) + cog + fric)

/-! The set-point generator (R793 to R799). -/
/-- V_MAX, A_MAX as r_v and r_a count, J_MAX. -/
def vMax (c : Ctl) : Int := ceU c 24 0xA4 * 2 ^ 24
def aMax (c : Ctl) : Int := ceU c 24 0xA8 * 2 ^ 24
def jMax (c : Ctl) : Int := ceU c 32 0xAC
/-- One sample of acceleration in speed, and of speed in position, each rounded once (R793). -/
def dvOf (c : Ctl) (ra : Int) : Int := rneDiv (ra * 131072 * ((ceN c : Nat) : Int)) 100000000
def dpOf (c : Ctl) (rv : Int) : Int := rneDiv (rv * 2097152 * ((ceN c : Nat) : Int)) 100000000
/-- r_a moves to its command under J_MAX. -/
def jerkTo (c : Ctl) (ra acmd : Int) : Int :=
  if jMax c = 0 then acmd
  else
    let q := rneDiv (jMax c * 8192 * 2 ^ 24 * ((ceN c : Nat) : Int)) 100000000
    ra + clampI (-q) q (acmd - ra)
/-- Sign. -/
def sgn (x : Int) : Int := if x > 0 then 1 else if x < 0 then -1 else 0
/-- r_p advances by `d`. -/
def movePos (c : Ctl) (d : Int) : Ctl := updCe c (fun t => { t with rp := ux 64 ((t.rp : Int) + d) })
/-- The speed part of RAMP toward `vt`, which carries 24 fraction bits (R794). -/
def rampSpeed (c : Ctl) (vt : Int) : Ctl :=
  let rv := c.ce.rv
  let ra := c.ce.ra
  let dv := vt - rv
  let near := if jMax c = 0 then decide (dv = 0) else decide ((dv.natAbs : Int) * jMax c * 2 ^ 21 ≤ ra * ra)
  let ra := jerkTo c ra (if near then 0 else sgn dv * aMax c)
  let rvn := rv + dvOf c ra
  let stop := decide (dv ≠ 0 ∧ sgn (vt - rvn) ≠ sgn dv)
  updCe c (fun t => { t with rv := if stop then vt else rvn, ra := if stop then 0 else ra })
/-- A speed target within V_MAX, on a unidirectional axis not backward, and with limits as R817 has them. -/
def speedTarget (c : Ctl) (v : Int) : Int :=
  let v := clampI (-(vMax c)) (vMax c) v
  let v := if unidir c ∧ v < 0 then 0 else v
  let v := if limFwd c ∧ v > 0 then 0 else v
  if limRev c ∧ v < 0 then 0 else v
/-- RAMP (R794). -/
def rampStep (c : Ctl) (v : Int) : Ctl :=
  let c := rampSpeed c (speedTarget c v)
  movePos c (dpOf c c.ce.rv)
/-- d_s of R795 as a fraction in 2^-48 revolution. -/
def stopDist (c : Ctl) : Int × Int :=
  let j := jMax c
  let a := ceU c 24 0xA8
  let rv := c.ce.rv
  let ra := c.ce.ra
  if j = 0 then (8 * rv * rv, a * 2 ^ 24)
  else
    let vd := j * 2 ^ 21
    let vn := rv * vd + ra * (ra.natAbs : Int)
    (8 * vn * vn * j + (vn.natAbs : Int) * a * 128 * vd * a * 2 ^ 24, vd * vd * a * 2 ^ 24 * j)
/-- A target is taken (R796). -/
def takeTarget (c : Ctl) : Ctl :=
  let p := rd c (ce 0xB0) + 2 ^ 32 * fld c (ce 0xB4) 7 0
  if c.ce.tgt = some p then c
  else
    let (n, d) := stopDist c
    let x := -(-((c.ce.rp : Int) * d + n) / (d * 2 ^ 24))
    let fwd := ux 40 (x + (((p : Int) - x) % 2 ^ 24))
    setBit (updCe c (fun t => { t with tgt := some p, pEff := if unidir c then fwd else p })) rCeStat 12 false
/-- The speed with an acceleration still to be taken off, ahead of and behind which TRAJ brakes: whether it brakes for distance `d`. -/
def mustBrake (c : Ctl) (d : Int) : Bool :=
  let (n, q) := stopDist c
  decide (c.ce.rv * d < 0) || decide (n ≥ (d.natAbs : Int) * q)
/-- The distance from r_p to p_eff (R795). -/
def trajDist (c : Ctl) : Int := sx 64 (c.ce.pEff * 2 ^ 24 + 2 ^ 64 - c.ce.rp)
/-- TRAJ (R795). A target that a limit forbids is not pursued (R817). -/
def trajStep (c : Ctl) : Ctl :=
  let c := takeTarget c
  let d := trajDist c
  if (limFwd c ∧ d > 0) ∨ (limRev c ∧ d < 0) then rampStep c 0
  else
    let rv := c.ce.rv
    let acmd := if mustBrake c d then -(sgn rv * aMax c) else if (rv.natAbs : Int) < vMax c then sgn d * aMax c else 0
    let ra := jerkTo c c.ce.ra acmd
    let rvn := clampI (-(vMax c)) (vMax c) (rv + dvOf c ra)
    let cross := decide (rv ≠ 0 ∧ sgn rvn ≠ sgn rv)
    let c := updCe c (fun t => { t with rv := if cross then 0 else rvn, ra := if cross then 0 else ra })
    let c := movePos c (dpOf c c.ce.rv)
    if ((trajDist c).natAbs : Int) ≤ ceU c 24 0xB8 * 2 ^ 24 ∧ (c.ce.rv.natAbs : Int) ≤ ceU c 24 0xBC * 2 ^ 24 then
      setBit (updCe c (fun t => { t with rp := t.pEff * 2 ^ 24, rv := 0, ra := 0 })) rCeStat 12 true
    else c
/-- θ_T at the present instant (R798). -/
def thetaT (c : Ctl) : Nat :=
  let dt := (c.time.ftc + 2 ^ 64 - rd64 c rEpochAt % 2 ^ 64) % 2 ^ 64
  (rd c (ce 0xC8) % 2 ^ 24 + rd64 c (ce 0xC0) * dt % 2 ^ 64 / 2 ^ 40) % 2 ^ 24
/-- s_L as r_v counts (R798). -/
def lockSpeed (c : Ctl) : Int := rneDiv (sx 64 (rd64 c (ce 0xC0)) * 1250000000) (2 ^ 28)
/-- PLOCK (R798). -/
def plockStep (c : Ctl) : Ctl :=
  let sl := lockSpeed c
  let at_ := decide (c.ce.rv = sl) && decide (speedTarget c sl = sl)
  let e := sx 24 (thetaT c + 2 ^ 24 - c.ce.rp / 2 ^ 24 % 2 ^ 24)
  let slew := ceU c 16 0xCC
  let c := rampSpeed c (speedTarget c sl)
  movePos c (dpOf c c.ce.rv + (if at_ then clampI (-slew) slew e * 2 ^ 24 else 0))
/-- LOCKED (R798). -/
def lockWatch (c : Ctl) (on : Bool) : Ctl :=
  let far := (sx 24 (thetaT c + 2 ^ 24 - c.ce.mech % 2 ^ 24)).natAbs
  let ok := on && decide (far ≤ rd c (ce 0xD0) % 2 ^ 24)
  let n := if ok then min 64 (c.ce.lockN + 1) else 0
  setBit (updCe c (fun t => { t with lockN := n })) rCeStat 13 (decide (n ≥ 64))
/-- The speed of CE_V_TGT and of CE_HOME_V, as r_v counts. -/
def vTgt (c : Ctl) : Int := ceS c 24 0xA0 * 2 ^ 24
def homeV (c : Ctl) : Int := ceS c 24 0xD4 * 2 ^ 24
/-- The mode the generator runs: CE_MODE.SPG, but RAMP in STOPPING, while homing, and where PLOCK has stopped (R811, R812, R834). -/
def spgMode (c : Ctl) : Nat :=
  if mstate c = 3 ∨ c.ce.home ≠ 0 then 0
  else if fld c rCeMode 11 10 = 2 ∧ c.ce.plockOff.isSome then 0
  else fld c rCeMode 11 10
/-- The speed RAMP moves to. -/
def rampTarget (c : Ctl) : Int :=
  if mstate c = 3 then 0
  else match c.ce.home with
    | 0 => if fld c rCeMode 11 10 = 2 then c.ce.plockOff.getD 0 else vTgt c
    | 1 => homeV c
    | _ => 0
/-- The generator follows the measurement. -/
def followStep (c : Ctl) : Ctl := updCe c (fun t => { t with rp := t.pos * 2 ^ 24, rv := t.v * 2 ^ 24, ra := 0 })
/-- One sample of the generator (R793 to R799). -/
def generator (c : Ctl) : Ctl :=
  if moving c = false ∨ c.ce.fly = true then lockWatch (followStep c) false
  else match spgMode c with
    | 1 => lockWatch (trajStep c) false
    | 2 => lockWatch (plockStep (updCe c (fun t => { t with tgt := none }))) true
    | _ =>
      let c := if mstate c = 3 then c else updCe c (fun t => { t with tgt := none })
      lockWatch (rampStep c (rampTarget c)) false

end Sys2Proof.Machine
end

