-- ==== Sys2Proof/Machine/ControlEngine.lean ====
section
/-! DEFINITION. The control engine and its tuning tools: arming, samples, commands, selection and output, misses, hardware inputs,
trim, injection, capture, auto-tune and the oscillation detector (R773 to R873). -/
namespace Sys2Proof.Machine

/-! Registers, states and faults. -/
/-- Counters: 0 MISS, 1 FAULTS, 2 REFUSED, 3 TRIM_TMO, 4 LIMIT. -/
def ceCount (c : Ctl) (i : Nat) : Ctl := cnt1 c (ce (0x120 + 4 * i))
/-- STOP_N and MOT_FAULT_N are low. -/
def stopLow (c : Ctl) : Bool := rbit c rCeStat 10
def mfaultLow (c : Ctl) : Bool := rbit c rCeStat 11
/-- MOT_EN takes a level; STOP_N low holds it low (R815). -/
def setMot (c : Ctl) (b : Bool) : Ctl :=
  let b := b && !stopLow c
  let c := setBit c rCeStat 6 b
  if c.ce.mot = b then c else emit (updCe c (fun t => { t with mot := b })) (.pin 3 (b2n b))
/-- The balls in the chain as the TAP drives them; STOP_N low holds MOT_EN low (R1152, R1158, R1159). -/
def tapDrive (c : Ctl) : Ctl :=
  { c with outs := .chain c.db.ir (if stopLow c then setBits c.db.bsr 22 22 0 else c.db.bsr) :: c.outs }
/-- AOUT takes a code (R775). -/
def setAout (c : Ctl) (v : Nat) : Ctl := if c.ce.aout = v then c else emit (updCe c (fun t => { t with aout := v })) (.pin 4 v)
/-- The injection generator ends (R840, R846). -/
def injEnd (c : Ctl) : Ctl :=
  if rbit c (ce 0x140) 29 then updCe (hwBit (setBit c (ce 0x140) 29 false) (ce 0x140) 28) (fun t => { t with inj := { t.inj with stop := false }, d := 0 }) else c
/-- MSTATE changes (R804, R808, R846). -/
def setMstate (c : Ctl) (m : Nat) : Ctl :=
  let old := mstate c
  let c := setFld c rCeStat 2 0 m
  let c := if m ≠ 5 then setFld c rCeStat 19 16 0 else c
  let c := if old = 2 ∧ m ≠ 2 then injEnd c else c
  if m = 2 ∨ m = 3 then c
  else updCe (setFld c rCeStat 15 15 0) (fun t => { t with safeHeld := false, trimApp := 0, lpOn := false, lpWon := false, lpOut := 0,
                                                           home := 0, fly := false })
/-- FAULT with a cause: 1 CONFIG, 2 MISS, 3 STOP, 4 DRIVE, 5 LIMITS, 6 OSC, 7 SAVE, 8 CHIP. The first six raise an event (R777, R815). -/
def ceFault (c : Ctl) (cause : Nat) : Ctl :=
  let c := setFld (setMstate c 5) rCeStat 19 16 cause
  let c := updCe (ceCount c 1) (fun t => { t with capt := { t.capt with fault := true } })
  let c := if cause ≤ 6 then raise c 0x6481 noPart (unitCe c) cause else c
  settled (fireSrc c srcCeFault)
/-- A loop's computation time (R774): 20 tc, and 40 or 60 for each section. -/
def loopCost (c : Ctl) (x : Nat) : Nat :=
  20 + foldUp (lpNsec c x) (fun n s => n + (if rbit c (coefAt x s + 40) 0 then 60 else 40)) 0
/-- The timing conditions (R777). -/
def ceTimingOk (c : Ctl) : Bool :=
  let loops := (List.range 4).filter (lpEn c)
  let endC := 180 + (loops.map (loopCost c)).foldl (· + ·) 0
  let outI := 10 * fld c (ce 0x104) 9 0
  let d := rd c (ce 0x100)
  let tail := if bitN d 16 then 10 * bits d 7 0 else 280 * bits d 15 8
  decide (endC ≤ outI) && decide (outI + tail ≤ cePeriod c) && loops.all (fun x => !lpCasc c x || decide (lpSrc c x < x))
/-- The outputs take their OFF levels (R779). -/
def ceOffLevels (c : Ctl) : Ctl := setAout (setMot (updCe c (fun t => { t with outDue := none })) false) 0
/-- ARM takes effect (R777, R779). -/
def ceArm (on : Bool) (c : Ctl) : Ctl :=
  let was := rbit c rCeCtrl 0
  let c := setBit c rCeCtrl 0 on
  if on = true ∧ was = false then if ceTimingOk c then setMstate c 1 else ceFault c 1
  else if on = false then ceOffLevels (setMstate c 0)
  else c
/-- A register of the block was written: a sample less than 8 tc later uses the word before (R776). -/
def ceWrote (c : Ctl) (o old : Nat) : Ctl := noteWrite c o old 0xFFFFFFFF
/-- Coefficient RAM and the configuration of loop `x` may be written (R791, R856). -/
def coefWritable (c : Ctl) (x : Nat) : Bool :=
  bitN (rd c rCeOpen) x || tuneOn c x || decide (mstate c ≤ 1 ∨ mstate c = 5)

/-! Commands (R809 to R813, R835). -/
/-- START_ERR of a start in direction `dir`, or 0 (R809). -/
def startErr (c : Ctl) (spg : Nat) (dir : Int) : Nat :=
  let v := c.ce.v
  if stopLow c ∨ mfaultLow c then 2
  else if (List.range 4).any (fun x => lpEn c x && !bitN (rd c rCeOpen) x && feedbackBad c x) then 3
  else if rbit c rCeCtrl 27 ∧ spMtValid c = false ∧ (spg = 1 ∨ spg = 2) then 4
  else if spg = 2 ∧ c.time.epoch = false then 5
  else if unidir c ∧ (dir < 0 ∨ (v < 0 ∧ (v.natAbs : Int) > ceU c 24 0xBC)) then 6
  else if (dir > 0 ∧ limFwd c) ∨ (dir < 0 ∧ limRev c) then 7
  else 0
/-- The commanded direction of a generator mode (R799, R809). -/
def commandedDir (c : Ctl) (spg : Nat) : Int :=
  match spg with
  | 1 => if unidir c then 1 else sx 40 (rd c (ce 0xB0) + 2 ^ 32 * fld c (ce 0xB4) 7 0 + 2 ^ 40 - c.ce.pos % 2 ^ 40)
  | 2 => lockSpeed c
  | _ => if unidir c ∧ vTgt c < 0 then 0 else vTgt c
/-- A refused start (R809, R827). -/
def refuseStart (c : Ctl) (e : Nat) : Ctl := raise (ceCount (setFld c rCeStat 23 20 e) 2) 0x6484 noPart (unitCe c) e
/-- A flying start into a state (R810). -/
def flyInto (c : Ctl) (m : Nat) : Ctl := updCe (setMstate c m) (fun t => { t with fly := true })
/-- START at its sample (R809). -/
def doStart (c : Ctl) : Ctl :=
  if mstate c ≠ 1 then setFld c rCeStat 23 20 1
  else
    let spg := fld c rCeMode 11 10
    match startErr c spg (commandedDir c spg) with
    | 0 => updCe (flyInto (setFld c rCeStat 23 20 0) 2) (fun t => { t with plockOff := none, tgt := none })
    | e => refuseStart c e
/-- HOME at its sample (R812). -/
def doHome (c : Ctl) : Ctl :=
  let v := homeV c
  let m := mstate c
  if (m ≠ 1 ∧ m ≠ 2) ∨ v = 0 ∨ (unidir c = true ∧ v < 0) then refuseStart c 6
  else
    let go (c : Ctl) : Ctl :=
      updCe (setBit (setBit c rCeStat 14 false) (sp 0x54) 31 true)
        (fun t => { t with home := 1, homeGot := false, homeWords := (rd c rCeMode, rd c (ce 0xA0)), tgt := none })
    if m = 2 then go c
    else match startErr c 0 v with
      | 0 => go (updCe (flyInto (setFld c rCeStat 23 20 0) 2) (fun t => { t with plockOff := none }))
      | e => refuseStart c e
/-- CLR_FAULT at its sample (R813). -/
def doClrFault (c : Ctl) : Ctl :=
  if mstate c = 5 ∧ stopLow c = false ∧ mfaultLow c = false ∧ ceTimingOk c = true then setMstate c 1 else c
/-- A command at its sample: 1 START, 2 STOP, 3 QSTOP, 4 CLR_FAULT, 5 HOME. -/
def doCmd (c : Ctl) (op : Nat) : Ctl :=
  match op with
  | 1 => doStart c
  | 2 => if mstate c = 2 then setMstate c 3 else c
  | 3 => if mstate c = 2 ∨ mstate c = 3 ∨ mstate c = 4 then setMstate c 1 else c
  | 4 => doClrFault c
  | _ => doHome c
/-- The command that acts at this sample (R776). -/
def ceCommands (c : Ctl) : Ctl :=
  let t := c.time.ftc
  let due := c.ce.cmds.filter (fun m => decide (m.2 + 8 ≤ t))
  let c := updCe c (fun x => { x with cmds := x.cmds.filter (fun m => !decide (m.2 + 8 ≤ t)) })
  if due.any (fun m => decide (m.1 = 3)) then doCmd c 3
  else match due.getLast? with | some m => doCmd c m.1 | none => c
/-- A write of CE_CMD is accepted (R776, R835). -/
def ceCommand (op : Nat) (c : Ctl) : Ctl :=
  if mstate c = 4 ∧ (op = 2 ∨ op = 3) then setMstate c 1
  else if 1 ≤ op ∧ op ≤ 5 then updCe c (fun t => { t with cmds := t.cmds ++ [(op, c.time.ftc)] })
  else c

/-! What a sample judges first (R817, R826, R827, R834). -/
/-- A halt by Fliwell, and its release. -/
def ceHalts (c : Ctl) : Ctl :=
  if c.db.ceHalted then
    if moving c then let m := mstate c; updCe (setMstate c 4) (fun t => { t with left := m }) else c
  else if mstate c = 4 then
    let spg := fld c rCeMode 11 10
    match startErr c spg (if c.ce.left = 3 then 0 else commandedDir c spg) with
    | 0 => flyInto c c.ce.left
    | e => refuseStart (setMstate c 1) e
  else c
/-- Both limits in motion (R817); an epoch stop during PLOCK (R834). -/
def ceGuards (c : Ctl) : Ctl :=
  let c := if moving c ∧ limFwd c ∧ limRev c then ceFault c 5 else c
  if mstate c = 2 ∧ c.time.epoch = false ∧ spgMode c = 2 then
    raise (updCe c (fun t => { t with plockOff := some t.rv })) 0x6487 noPart (unitCe c) 0
  else c
/-- The stages of homing (R812). -/
def ceHoming (c : Ctl) : Ctl :=
  match c.ce.home with
  | 1 =>
    let fwd := decide (homeV c > 0)
    if (fwd && limFwd c) || (!fwd && limRev c) then
      raise (updCe (setBit c (sp 0x54) 31 false) (fun t => { t with home := 3 })) 0x6485 noPart (unitCe c) (b2n (!fwd))
    else if c.ce.homeGot then updCe c (fun t => { t with home := 2 }) else c
  | 3 => if c.ce.rv = 0 ∧ (rd c rCeMode, rd c (ce 0xA0)) ≠ c.ce.homeWords then updCe c (fun t => { t with home := 0 }) else c
  | _ => c
/-- After the generator: STOPPING ends in SAFE, homing ends (R811, R812). -/
def ceAfterGen (c : Ctl) : Ctl :=
  if mstate c = 3 ∧ c.ce.rv = 0 ∧ (c.ce.v.natAbs : Int) ≤ ceU c 24 0xBC then setMstate c 1
  else if c.ce.home = 2 ∧ c.ce.rv = 0 then updCe (setBit c rCeStat 14 true) (fun t => { t with home := 3 })
  else c

/-! The plan trim port (R800 to R804). -/
/-- The latch at a pass boundary (R800). -/
def ceTrimLatch (c : Ctl) : Ctl :=
  match c.noc.trim with
  | some w =>
    let c := { c with noc := { c.noc with trim := none } }
    updCe (wr (wr c (ce 0xF4) w.toNat) (ce 0xFC) 0) (fun t => { t with trimOn := true })
  | none => wr c (ce 0xFC) (satU 8 (rd c (ce 0xFC) + 1))
/-- A request of age TMO is withdrawn (R801). -/
def trimTimeout (c : Ctl) : Ctl :=
  let tmo := fld c (ce 0xE0) 15 8
  if c.ce.trimOn = false ∨ rd c (ce 0xFC) < tmo then c
  else
    let c := updCe c (fun t => { t with trimOn := false })
    let c := if trimDst c = 4 then c else wr c (ce 0xF4) 0
    let p := match (List.range 32).find? (fun p => grantFlag c p 1) with | some p => p | none => noPart
    raise (ceCount c 3) 0x6483 p (unitCe c) tmo
/-- A value moves toward another by at most TRIM_RATE. -/
def trimMove (c : Ctl) (x target : Int) : Int :=
  let r := ceU c 32 0xE8
  q31 (x + clampI (-r) r (target - x))
/-- The applied trim of a sample (R802, R804). -/
def trimStep (c : Ctl) : Ctl :=
  let m := ceU c 32 0xE4
  let dst := trimDst c
  let t := if moving c = true ∧ 1 ≤ dst ∧ dst ≤ 3 then trimMove c c.ce.trimApp (clampI (-m) m (ceS c 32 0xF4)) else 0
  updCe c (fun x => { x with trimApp := t, tout := if dst = 3 then t else 0 })
/-- LOOP_P at a sample (R803, R804). -/
def candStep (c : Ctl) : Ctl :=
  let on := moving c && c.ce.trimOn && decide (trimDst c = 4)
  let from_ := if c.ce.lpOn && c.ce.lpWon then c.ce.lpOut else q31 (c.ce.u - c.ce.ff)
  let out := if on then trimMove c from_ (clampI (ceS c 32 0xEC) (ceS c 32 0xF0) (ceS c 32 0xF4)) else 0
  let c := updCe c (fun t => { t with lpOn := on, lpOut := out })
  wr c (ce 0xF8) (ux 32 (if trimDst c = 4 then out else c.ce.trimApp))

/-! Injection (R840 to R846). -/
/-- A GO (R840, R841). -/
def injGo (c : Ctl) : Ctl :=
  if mstate c = 2 ∧ rbit c (ce 0x140) 29 = false ∧ c.ce.tune.run = 0 ∧ c.ce.inj.go.isNone = true then
    updCe c (fun t => { t with inj := { t.inj with go := some c.time.ftc } })
  else hwBit c (ce 0x140) 27
/-- A STOP (R840). -/
def injStop (c : Ctl) : Ctl := if rbit c (ce 0x140) 29 then updCe c (fun t => { t with inj := { t.inj with stop := true } }) else c
/-- The generator ends after LEN samples (R840). -/
def injDone (c : Ctl) : Ctl := if c.ce.inj.k ≥ fld c (ce 0x150) 23 0 then injEnd c else c
/-- A GO and a STOP at their sample (R840, R866). -/
def injTurn (c : Ctl) : Ctl :=
  let c := updCe c (fun t => { t with inj := { t.inj with started := false } })
  let c := if c.ce.inj.stop then injEnd c else c
  match c.ce.inj.go with
  | some g =>
    if g + 8 > c.time.ftc then c
    else
      let c := updCe c (fun t => { t with inj := { t.inj with go := none } })
      if mstate c = 2 ∧ c.ce.tune.run = 0 then
        let seed := fld c (ce 0x154) 14 0
        updCe (setFld c (ce 0x140) 29 28 2) (fun t => { t with inj := { t.inj with k := 0, phi := 0, reg := seed, started := true } })
      else hwBit c (ce 0x140) 27
  | none => c
/-- d of a sample, and the generator's step (R842). -/
def injStep (c : Ctl) : Ctl :=
  let len := fld c (ce 0x150) 23 0
  let k := c.ce.inj.k
  if rbit c (ce 0x140) 29 = false ∨ k ≥ len then updCe c (fun t => { t with d := 0 })
  else
    let a := ceS c 32 0x144
    let gen := fld c (ce 0x140) 1 0
    let hold := max 1 (fld c (ce 0x154) 31 16)
    let r := c.ce.inj.reg
    let r := if gen = 2 ∧ k > 0 ∧ k % hold = 0 then (2 * r + b2n (bitN r 14 != bitN r 13)) % 2 ^ 15 else r
    let d := match gen with
      | 2 => q31 (if bitN r 14 then (a.natAbs : Int) else -(a.natAbs : Int))
      | 3 => a
      | _ => q31 (rneShift (a * obsSin (c.ce.inj.phi / 2 ^ 8)) 23)
    let f0 : Int := ((rd c (ce 0x148) : Nat) : Int)
    let f1 : Int := ((rd c (ce 0x14C) : Nat) : Int)
    let df := if gen = 1 then f0 + (f1 - f0) * (k : Int) / ((len : Nat) : Int) else f0
    updCe c (fun t => { t with d := d, inj := { t.inj with k := k + 1, phi := ux 32 ((t.inj.phi : Int) + df), reg := r } })
/-- d where it enters the sum of R787, else 0. -/
def injOut (c : Ctl) : Int := if injPt c = 3 then c.ce.d else 0

/-! Relay auto-tune (R855 to R860). -/
/-- A GO (R855). -/
def tuneGo (c : Ctl) : Ctl := updCe c (fun t => { t with tune := { t.tune with go := some c.time.ftc } })
/-- An ABORT (R859). -/
def tuneAbort (c : Ctl) : Ctl := if c.ce.tune.run = 1 then updCe c (fun t => { t with tune := { t.tune with abort := true } }) else c
/-- A GO at its sample (R855, R856, R866). -/
def tuneTurn (c : Ctl) : Ctl :=
  let c := updCe c (fun t => { t with tune := { t.tune with started := false } })
  match c.ce.tune.go with
  | none => c
  | some g =>
    if g + 8 > c.time.ftc then c
    else
      let c := updCe c (fun t => { t with tune := { t.tune with go := none } })
      let x := fld c (ce 0x180) 7 6
      let mode := rd c rCeMode
      let err := if mstate c ≠ 2 then 5
        else if c.ce.tune.run ≠ 0 ∨ rbit c (ce 0x140) 29 = true then 6
        else if bitN mode 0 = true ∨ bits mode 2 1 ≠ x ∨ lpEn c x = false ∨ bitN (rd c rCeOpen) x = true then 7
        else 0
      if err ≠ 0 then setFld c (ce 0x194) 3 0 err
      else updCe (setFld c (ce 0x194) 4 0 16) (fun t => { t with tune := { run := 1, loop := x, started := true } })
/-- The tune ends at this sample: 1 completion, else a failure status (R857, R859). -/
def tuneEnd (c : Ctl) (st : Nat) : Ctl :=
  let c := updCe c (fun t => { t with tune := { t.tune with run := 2, results := decide (st = 1) } })
  if st = 1 then c else raise (setFld c (ce 0x194) 4 0 st) 0x6488 noPart (unitCe c) st
/-- The relay's output. -/
def relayOut (c : Ctl) : Int :=
  let h := ceU c 32 0x184
  q31 (if c.ce.tune.high then c.ce.tune.bias + h else c.ce.tune.bias - h)
/-- One sample of the relay: its switch and the cycle in progress (R856, R857). -/
def relayStep (c : Ctl) : Ctl :=
  let t := c.ce.tune
  let e := lpE c t.loop
  let eps := ceU c 32 0x188
  let was := t.high
  let bias := if t.started then q31 (c.ce.u - c.ce.ff - c.ce.tout) else t.bias
  let high := if t.started then decide (e ≥ 0) else if e > eps then true else if e < -eps then false else was
  let up := !t.started && high && !was
  let ncyc := fld c (ce 0x180) 5 0
  let meas := up && decide (t.cyc ≥ 3)
  let t := if meas then { t with sumL := t.sumL + t.len, sumPp := t.sumPp + (t.hi - t.lo), sumE := t.sumE + t.sum } else t
  let fin := up && decide (t.cyc = ncyc + 2)
  let t := if up then { t with cyc := t.cyc + 1, len := 0, hi := e, lo := e, sum := 0 } else t
  let t := { t with bias := bias, high := high, n := t.n + 1, len := t.len + 1, hi := max t.hi e, lo := min t.lo e, sum := t.sum + e }
  let c := updCe c (fun x => { x with tune := t })
  if fin then tuneEnd c 1 else c
/-- What ends the tune by failure at this sample (R859). TIMEOUT is an event of its own. -/
def tuneJudge (c : Ctl) (miss : Bool) : Ctl :=
  let t := c.ce.tune
  if t.run ≠ 1 then c
  else if ((lpE c t.loop).natAbs : Int) > ceU c 32 0x18C then tuneEnd c 2
  else if t.n ≥ fld c (ce 0x190) 23 0 then c
  else if miss then tuneEnd c 4
  else if mstate c ≠ 2 then tuneEnd c 5
  else if t.abort then tuneEnd c 8
  else c
/-- MAXS samples without completion (R859). -/
def tuneTimeout (c : Ctl) : Ctl :=
  if c.ce.tune.run = 1 ∧ c.ce.tune.n ≥ fld c (ce 0x190) 23 0 then tuneEnd c 3 else c
/-- PHI: how many of the half steps' sines lie at or below ε / A = `a` / `b` (R858). -/
def tunePhi (a b : Int) : Nat :=
  if a ≥ b then 16384
  else
    let below (p : Nat) : Bool := decide (sinTurn (2 * p + 1) 131072 * b ≤ a * 2 ^ 128)
    foldUp 14 (fun n i => let m := n + 2 ^ (13 - i); if below (m - 1) then m else n) 0
/-- The results (R858). -/
def tuneResults (c : Ctl) : Ctl :=
  let t := c.ce.tune
  if t.results = false then c
  else
    let n : Int := ((fld c (ce 0x180) 5 0 : Nat) : Int)
    let l : Int := ((max 1 t.sumL : Nat) : Int)
    let h := ceU c 32 0x184
    let ku := if t.sumPp = 0 then 0xFFFFFFFF else satU 32 (rneDiv (4 * h * 2 * n * 65536 * 2 ^ 128) (pi128 * t.sumPp)).toNat
    let c := wr c (ce 0x198) (satU 32 (rneDiv (256 * ((t.sumL : Nat) : Int)) (max 1 n)).toNat)
    let c := wr c (ce 0x19C) (ux 32 (q31 (rneDiv t.sumPp (max 1 (2 * n)))))
    let c := wr c (ce 0x1A0) (ux 32 (q31 (rneDiv t.sumE l)))
    let c := wr c (ce 0x1A4) ku
    let c := wr c (ce 0x1A8) (tunePhi (ceU c 32 0x188 * 2 * n) t.sumPp)
    updCe (setFld c (ce 0x194) 4 0 1) (fun x => { x with tune := { x.tune with results := false } })
/-- What the sample after the end does: s is the bias while MSTATE is RUN, and the loop closes or stays open (R860). -/
def tuneAfter (c : Ctl) : Ctl × Option Int :=
  let t := c.ce.tune
  if t.run ≠ 2 then (c, none)
  else
    let c := updCe c (fun x => { x with tune := { x.tune with run := 0 }, osc := { x.osc with side := 0, swings := [], hit := false } })
    let s := if mstate c = 2 then some t.bias else none
    if rbit c (ce 0x180) 9 then (updCe (setBit c rCeOpen t.loop true) (fun x => { x with openMask := x.openMask ||| 2 ^ t.loop }), s)
    else (updCe c (fun x => { x with closing := x.closing ||| 2 ^ t.loop }), s)

/-! Opening and closing (R790, R792, R833). -/
/-- The loops that s depends on: those computed among ACTIVE or MIN_MASK; 4 is LOOP_P (R786, R803). -/
def selectable (c : Ctl) : List Nat :=
  let m := rd c rCeMode
  if bitN m 0 then (List.range 5).filter (fun x => bitN m (4 + x) && (if x = 4 then c.ce.lpOn else computed c x))
  else (List.range 4).filter (fun x => decide (x = bits m 2 1) && computed c x)
/-- CE_LOOP_OPEN takes effect at a sample: the loops that close at it; a flying start where the safe state ends (R790, R792). -/
def openTurn (c : Ctl) : Ctl :=
  let now := fld c rCeOpen 3 0
  let shut := c.ce.openMask &&& (15 ^^^ now)
  let c := updCe c (fun t => { t with openMask := now, closing := shut })
  if c.ce.safeHeld = true ∧ (selectable c).isEmpty = false then updCe c (fun t => { t with safeHeld := false, fly := true }) else c
/-- The histories of the loops that close (R792). -/
def closeLoops (c : Ctl) : Ctl :=
  if moving c = false ∨ c.ce.fly = true then c
  else foldUp 4 (fun c x =>
    if bitN c.ce.closing x = false ∨ lpEn c x = false then c
    else setLastY (clearLoop c x) x (if isOutput c x then q31 (c.ce.u - c.ce.ff - c.ce.tout) else lpY c x)) c

/-! Selection and output (R786 to R789, R824, R836). -/
/-- The least of the outputs, the lowest loop first; its number. -/
def minOut (c : Ctl) (l : List Nat) : Option (Nat × Int) :=
  l.foldl (fun b x =>
    let y := if x = 4 then c.ce.lpOut else lpY c x
    match b with | some (z, w) => if y < w then some (x, y) else some (z, w) | none => some (x, y)) none
/-- The limits of R787 step 2, narrowed by the limit inputs (R817). -/
def outLimits (c : Ctl) : Int × Int :=
  let lo := ceS c 32 0x60
  let hi := ceS c 32 0x64
  (if limRev c then max lo 0 else lo, if limFwd c then min hi 0 else hi)
/-- u from w (R787). -/
def limitOut (c : Ctl) (w : Int) : Int :=
  let (lo, hi) := outLimits c
  let w := clampI lo hi w
  let du := ceU c 32 0x68
  if du = 0 ∨ c.ce.fly = true then w else q31 (clampI (c.ce.u - du) (c.ce.u + du) w)
/-- The back-calculation of the output loops to u (R788, R845). -/
def backCalc (skip : Nat → Bool) (c : Ctl) : Ctl :=
  let v := q31 (c.ce.u - c.ce.ff - c.ce.tout - injOut c)
  foldUp 4 (fun c x => if isOutput c x = true ∧ skip x = false ∧ lpY c x ≠ v then setLastY c x v else c) c
/-- Selection and u of a sample in motion; `forced` stands in for s; `miss` holds u (R786 to R790, R824). -/
def selectOut (skip : Nat → Bool) (forced : Option Int) (miss : Bool) (c : Ctl) : Ctl :=
  let pick := minOut c (selectable c)
  let held := forced.isNone && pick.isNone
  let s := match forced with | some v => v | none => match pick with | some p => p.2 | none => c.ce.s
  let won := forced.isNone && (match pick with | some p => decide (p.1 = 4) | none => false)
  let w := q31 (s + c.ce.ff + c.ce.tout + injOut c)
  let (lo, hi) := outLimits c
  let u := if miss then if limFwd c || limRev c then clampI lo hi c.ce.u else c.ce.u
    else if held then c.ce.u else limitOut c w
  let c := setBit c rCeStat 15 held
  let c := updCe c (fun t => { t with s := s, u := u, lpWon := won, safeHeld := held && rbit c rCeCtrl 24 })
  wr (backCalc skip c) (ce 0x10C) (ux 32 u)

/-! Signals of capture and detector (R847, R861, R862). -/
/-- The signal of a source code, as a signed 32-bit value. -/
def captSig (c : Ctl) (code : Nat) : Int :=
  if 0x08 ≤ code ∧ code ≤ 0x0B then lpE c (code - 8)
  else if 0x0C ≤ code ∧ code ≤ 0x0F then lpY c (code - 12)
  else match code with
    | 0x00 => c.ce.u
    | 0x01 => c.ce.s
    | 0x02 => c.ce.ff
    | 0x03 => c.ce.d
    | 0x04 => rvQ c
    | 0x05 => raQ c
    | 0x06 => vQ c
    | 0x07 => posErr c
    | 0x10 => auxQ c 0
    | 0x11 => auxQ c 1
    | 0x12 => ((c.ce.mech : Nat) : Int)
    | 0x13 => c.ce.trimApp
    | 0x14 => if c.ce.lpOn then c.ce.lpOut else 0
    | 0x15 => if c.ce.tune.run = 1 then relayOut c else 0
    | _ => sx 32 ((c.ce.sampleAt + 2 ^ 64 - 1) % 2 ^ 32)
/-- The oscillation detector at a sample (R861, R862, R864). -/
def oscStep (c : Ctl) : Ctl :=
  let w := rd c (ce 0x1C0)
  if bitN w 0 = false ∨ moving c = false ∨ c.ce.tune.run = 1 then updCe c (fun t => { t with osc := {} })
  else
    let v := captSig c (bits w 5 1)
    let ref := ceS c 32 0x1C8
    let thr := ceU c 32 0x1C4
    let old := c.ce.osc.side
    let side := if v > ref + thr then 1 else if v < ref - thr then 2 else old
    let n := c.ce.osc.n + 1
    let swing := decide (old ≠ 0 ∧ side ≠ old)
    let cnt := bits w 23 16
    let sw := if swing then (n :: c.ce.osc.swings).take cnt else c.ce.osc.swings
    let hit := swing && decide (sw.length ≥ cnt) && decide (n - sw.getLastD n < fld c (ce 0x1CC) 15 0)
    updCe c (fun t => { t with osc := ⟨side, sw, n, hit⟩ })
/-- The detector fires (R862, R863, R870, R871). -/
def oscDetect (c : Ctl) : Ctl :=
  if c.ce.osc.hit = false then c
  else
    let w := rd c (ce 0x1C0)
    let c := cnt1 (hwBit c (ce 0x1C0) 31) (ce 0x1D0)
    let c := raise c 0x6489 noPart (unitCe c) (rd c (ce 0x1D0))
    let c := updCe c (fun t => { t with osc := { t.osc with swings := [], hit := false }, capt := { t.capt with osc := true } })
    match bits w 11 10 with
    | 1 => setFld c rCeOpen 3 0 (fld c rCeOpen 3 0 ||| bits w 15 12)
    | 2 => if moving c then ceFault c 6 else c
    | _ => c

/-! Capture (R848 to R854). -/
/-- A GO (R848, R869). -/
def ceCaptGo (fn : Nat) (c : Ctl) : Ctl :=
  if rbit c (ce 0x160) 29 then discard c (ce 0x160) fn
  else updCe (setFld c (ce 0x160) 29 28 2) (fun t => { t with capt := { go := some c.time.ftc } })
/-- An ABORT (R853). -/
def ceCaptAbort (c : Ctl) : Ctl :=
  if rbit c (ce 0x160) 29 then updCe (setBit c (ce 0x160) 29 false) (fun t => { t with capt := {} }) else c
/-- The trigger holds at this sample (R849, R850). -/
def captTrigger (c : Ctl) (v : Int) : Bool :=
  let w := rd c (ce 0x160)
  let lvl := ceS c 32 0x16C
  match bits w 18 16 with
  | 0 => true
  | 1 => c.ce.inj.started
  | 2 => c.ce.tune.started
  | 3 => decide (v ≥ lvl) && (match c.ce.capt.prev with | some p => decide (p < lvl) | none => false)
  | 4 => decide (v ≤ lvl) && (match c.ce.capt.prev with | some p => decide (p > lvl) | none => false)
  | 5 => bitN c.db.captTrig (bits w 27 24)
  | 6 => c.ce.capt.fault
  | _ => c.ce.capt.osc
/-- PRE. -/
def captPre (c : Ctl) : Nat := fld c (ce 0x168) 13 0
/-- The capture has all its entries (R851). -/
def captFull (c : Ctl) : Bool := match c.ce.capt.trig with | some t => decide (c.ce.capt.n ≥ t + 16384 - captPre c) | none => false
/-- The capture at a sample's output instant (R848, R849, R851, R852). -/
def captStep (c : Ctl) : Ctl :=
  let at_ := c.ce.sampleAt - 1
  let c := match c.ce.capt.go with
    | some g => if g + 8 ≤ at_ then updCe c (fun t => { t with capt := { t.capt with go := none, on := true } }) else c
    | none => c
  let c := if c.ce.capt.on = false ∨ captFull c = true then c
    else
      let sel := rd c (ce 0x164)
      let sig (k : Nat) : Int := captSig c (bits sel (8 * k + 4) (8 * k))
      let n := c.ce.capt.n
      let hold := c.ce.capt.hold || (c.ce.capt.trig.isNone && decide (n ≥ captPre c) && captTrigger c (sig 0))
      let rec_ := decide (c.ce.capt.dist % max 1 (fld c (ce 0x160) 15 0) = 0)
      let v0 := sig 0
      let put (c : Ctl) (k : Nat) : Ctl := wr c (ce (0x40000 + 0x10000 * k + 4 * (n % 16384))) (ux 32 (sig k))
      let trig := rec_ && hold && c.ce.capt.trig.isNone
      let c := if rec_ then foldUp 4 put c else c
      let c := updCe c (fun t => { t with capt := { t.capt with
        dist := t.capt.dist + 1, prev := some v0, hold := hold && !trig, n := if rec_ then n + 1 else n
        trig := if trig then some n else t.capt.trig } })
      if trig then settled (fireSrc (wr64 c (ce 0x170) (stampBack c at_)) 97) else c
  let c := updCe c (fun t => { t with capt := { t.capt with fault := false, osc := false } })
  { c with db := { c.db with captTrig := 0 } }
/-- The capture is complete (R851). -/
def captDone (c : Ctl) : Ctl :=
  if captFull c = false ∨ rbit c (ce 0x160) 29 = false then c
  else
    let first := (c.ce.capt.trig.getD 0 + 16384 - captPre c) % 16384
    updCe (wr (setFld c (ce 0x160) 29 28 1) (ce 0x178) first) (fun t => { t with capt := {} })

/-! The sample and its output (R773 to R776, R818 to R824). -/
/-- The snapshot takes the engine's latest sample (R1080, R1088). -/
def snapEngine (c : Ctl) : Ctl :=
  if snapShut c then c
  else
    let b := leBytes 4 (mstate c + 256 * fld c rCeStat 19 16 + 65536 * fld c rCeMode 11 10) ++ leBytes 4 (ux 32 c.ce.u) ++
      leBytes 8 (c.ce.rp / 2 ^ 24 + c.ce.rp % 2 ^ 24 * 2 ^ 40) ++ leBytes 4 (ux 32 (rneShift c.ce.rv 24))
    { c with snap := { c.snap with ce := b } }
/-- The inputs at t_k (R780): the spindle's latest update and the codes of the auxiliary inputs. -/
def ceInputs (a0 a1 : Nat) (c : Ctl) : Ctl :=
  let m := rd c (sp 0x40) % 2 ^ 24
  let c := setFld (setFld c (ce 0x110) 11 0 a0) (ce 0x110) 27 16 a1
  updCe c (fun t => { t with mech := m, pos := spMt c * 2 ^ 24 + m, v := spSpeed c, fly := false, sampleAt := c.time.ftc + 1 })
/-- Steps 2 to 6 of a sample (R774); `ext`: with CLKSRC 1, the drive's clock lets this sample's frame start (R821). -/
def ceCompute (ext : Bool) (c : Ctl) : Ctl :=
  let c := openTurn c
  let c := ceAfterGen (generator (ceHoming c))
  let (c, forced) := tuneAfter c
  let c := injStep (trimStep c)
  let c := updCe c (fun t => { t with ff := feedForward c })
  let c := closeLoops (candStep c)
  let skip (x : Nat) : Bool := feedbackBad c x
  let miss := moving c && ((List.range 4).any (fun x => computed c x && skip x) || (rbit c (ce 0x100) 16 && !ext))
  let c := foldUp 4 (ceLoopStep skip) c
  let relay := decide (c.ce.tune.run = 1) && moving c
  let c := if relay then relayStep c else c
  let forced := if relay then some (relayOut c) else forced
  let c := if moving c then selectOut skip forced miss c else c
  let c := tuneJudge c miss
  let c := if moving c = false then c
    else if miss then ceCount (setFld (setBit c rCeStat 7 true) rCeStat 26 24 (satU 3 (fld c rCeStat 26 24 + 1))) 0
    else setFld (setBit c rCeStat 7 false) rCeStat 26 24 0
  let c := oscStep c
  updCe c (fun t => { t with outDue := some (t.sampleAt - 1 + 10 * fld c (ce 0x104) 9 0, miss) })
/-- A sample (R773, R774). -/
def ceSample (a0 a1 : Nat) (ext : Bool) (c : Ctl) : Ctl :=
  if rbit c rCeCtrl 0 = false then c
  else match reachGrid c (nextGrid c (cePeriod c) c.ce.sampleAt) with
    | none => c
    | some c =>
      let late := lateAt c c.time.ftc
      let c := earlyRegs c late
      let c := ceGuards (ceCommands (ceHalts (ceInputs a0 a1 c)))
      let c := ceCompute ext (injTurn (tuneTurn c))
      lateRegs (snapEngine c) late

/-- CRC-4 with polynomial x^4 + x + 1 over `n` bits of `v`, the highest first, from 0xF (R819). -/
def crc4 (v : Nat) : Nat → Nat → Nat
  | 0, r => r
  | n + 1, r =>
    let fb := bitN r 3 != bitN v n
    crc4 v n ((2 * r % 16) ^^^ (if fb then 3 else 0))
/-- A DRV frame of 28 bits: START, KIND, EN, CMD, CRC (R819). -/
def drvFrame (kind : Nat) (en : Bool) (cmd : Nat) : Nat :=
  let body := kind * 2 ^ 21 + b2n en * 2 ^ 20 + cmd % 2 ^ 20
  body * 16 + crc4 body 23 15
/-- The outputs are in the safe state (R790, R808). -/
def inSafe (c : Ctl) : Bool := !moving c || c.ce.safeHeld
/-- SAFE_MODE in force: some causes of FAULT use DISABLE (R814). -/
def safeMode (c : Ctl) : Nat :=
  let cause := fld c rCeStat 19 16
  if mstate c = 5 ∧ (cause = 3 ∨ cause = 4 ∨ cause = 5 ∨ cause = 8) then 0 else fld c rCeCtrl 21 20
/-- What the outputs carry: MOT_EN, KIND, value in Q1.31 (R808, R814, R818). -/
def outputSet (c : Ctl) : Bool × Nat × Int :=
  if inSafe c then (decide (safeMode c ≠ 0), 1, if safeMode c = 2 then ceS c 32 0x6C else 0) else (true, 0, c.ce.u)
/-- The output instant (R775, R818 to R824). -/
def outputStep (c : Ctl) : Ctl :=
  match c.ce.outDue with
  | none => c
  | some (t, miss) =>
    match reachGrid c t with
    | none => c
    | some c =>
      let c := updCe c (fun x => { x with outDue := none })
      let (mot, kind, u) := outputSet c
      let u := if rbit c rCeCtrl 26 then q31 (-u) else u
      let c := setMot c mot
      let sel := fld c rCeCtrl 17 16
      let quiet := miss && !inSafe c
      let c := if sel ≠ 0 ∧ quiet = false then setAout c (ux 16 (satS 16 (rneShift u 16))) else c
      let c := if sel ≠ 1 ∧ quiet = false then emit c (.drvFrame (drvFrame kind c.ce.mot (ux 20 (satS 20 (rneShift u 12))))) else c
      captStep c
/-- The output instant of a sample, with the fields in force at its instant (R42, R776). -/
def outputInstant (c : Ctl) : Ctl := match c.ce.outDue with | none => c | some (t, _) => inEffectAt t outputStep c

/-! Hardware inputs, misses, halts of other chapters (R815 to R817, R825, R828). -/
/-- STOP_N at the second sample of its level (R815). -/
def stopInput (low : Bool) (c : Ctl) : Ctl :=
  let c := setBit c rCeStat 10 low
  let c := setMot c c.ce.mot
  let c := if chainHeld c then tapDrive c else c
  if low = true ∧ mstate c ≠ 0 ∧ ¬ (mstate c = 5 ∧ fld c rCeStat 19 16 = 3) then ceFault c 3 else c
/-- MOT_FAULT_N at the second sample of its level (R816). -/
def mfaultInput (low : Bool) (c : Ctl) : Ctl :=
  let c := setBit c rCeStat 11 low
  if low = true ∧ mstate c ≠ 0 ∧ ¬ (mstate c = 5 ∧ fld c rCeStat 19 16 = 4) then ceFault c 4 else c
/-- The limit inputs after their two samples (R817). -/
def limitInput (fwd rev : Bool) (c : Ctl) : Ctl :=
  let one (c : Ctl) (i : Nat) (b : Bool) : Ctl :=
    let was := rbit c rCeStat (8 + i)
    let c := setBit c rCeStat (8 + i) b
    if b = true ∧ was = false ∧ mstate c ≠ 0 then raise (ceCount c 4) 0x6486 noPart (unitCe c) i else c
  let c := one (one c 0 fwd) 1 rev
  if fwd = true ∧ rev = true ∧ moving c = true then ceFault c 5 else c
/-- MISS_MAX misses (R825). -/
def missFault (c : Ctl) : Ctl := if moving c = true ∧ fld c rCeStat 26 24 ≥ fld c (ce 0x108) 2 0 then ceFault c 2 else c
/-- A supply-sag save begins (R828). -/
def ceSave (c : Ctl) : Ctl := if mstate c = 0 then c else ceFault c 7
/-- A CHIP-severity event (R818, R1040). -/
def ceContain (c : Ctl) : Ctl :=
  let c := setMot c false
  if mstate c = 0 ∨ (mstate c = 5 ∧ fld c rCeStat 19 16 = 7) then c else ceFault c 8
/-- A BLK reset (R837, R873). -/
def ceReset (c : Ctl) : Ctl :=
  let c := ceOffLevels c
  let st := rd c rCeStat
  let c := resetRegs c (ce 0) (ce 0x10000)
  let c := { c with ce := { mot := c.ce.mot, aout := c.ce.aout } }
  setFld c rCeStat 11 8 (bits st 11 8)
/-- A loop opens or closes by a write of its bit (R790, R792, R859). -/
def loopBit (x : Nat) (on : Bool) (c : Ctl) : Ctl :=
  let old := rd c rCeOpen
  let c := ceWrote (setBit c rCeOpen x on) rCeOpen old
  if on = false ∧ bitN old x = true ∧ tuneOn c x = true then tuneAbort c else c

/-! The commands. -/
/-- A sample (R774). -/
def execCeSample (a0 a1 : Nat) (ext : Bool) (s : State) : Out := onCtl (fun c => whenAlive c (ceSample a0 a1 ext)) s
/-- ARM takes effect (R777). -/
def execCeArm (on : Bool) (s : State) : Out := onCtl (fun c => whenAlive c (ceArm on)) s
/-- START is accepted (R809). -/
def execStart (s : State) : Out := onCtl (fun c => whenAlive c (ceCommand 1)) s
/-- STOP is accepted (R811). -/
def execStop (s : State) : Out := onCtl (fun c => whenAlive c (ceCommand 2)) s
/-- QSTOP is accepted (R811). -/
def execQstop (s : State) : Out := onCtl (fun c => whenAlive c (ceCommand 3)) s
/-- CLR_FAULT is accepted (R813). -/
def execClrFault (s : State) : Out := onCtl (fun c => whenAlive c (ceCommand 4)) s
/-- HOME is accepted (R812). -/
def execHome (s : State) : Out := onCtl (fun c => whenAlive c (ceCommand 5)) s
/-- STOP_N changes (R815); its path to MOT_EN needs no clock. -/
def execStopN (low : Bool) (s : State) : Out :=
  onCtl (fun c => if alive c then stopInput low c else (let c := setBit c rCeStat 10 low; setMot c c.ce.mot)) s
/-- MOT_FAULT_N changes (R816). -/
def execMotFaultN (low : Bool) (s : State) : Out := onCtl (fun c => if alive c then mfaultInput low c else setBit c rCeStat 11 low) s
/-- The limit inputs change (R817). -/
def execLimitInput (fwd rev : Bool) (s : State) : Out :=
  onCtl (fun c => if alive c then limitInput fwd rev c else setBit (setBit c rCeStat 8 fwd) rCeStat 9 rev) s
/-- MISS_MAX misses (R825). -/
def execMissFault (s : State) : Out := onCtl (fun c => whenAlive c missFault) s
/-- A trim request ages out (R801). -/
def execTrimTimeout (s : State) : Out := onCtl (fun c => whenAlive c trimTimeout) s
/-- A loop opens (R790). -/
def execLoopOpen (x : Nat) (s : State) : Out := onCtl (fun c => whenAlive c (loopBit x true)) s
/-- A loop closes (R792). -/
def execLoopClose (x : Nat) (s : State) : Out := onCtl (fun c => whenAlive c (loopBit x false)) s
/-- An injection GO (R840). -/
def execInjectionGo (s : State) : Out := onCtl (fun c => whenAlive c injGo) s
/-- An injection STOP (R840). -/
def execInjectionStop (s : State) : Out := onCtl (fun c => whenAlive c injStop) s
/-- The injection ends (R840). -/
def execInjectionEnd (s : State) : Out := onCtl (fun c => whenAlive c injDone) s
/-- A capture GO (R848). -/
def execCaptureGo (s : State) : Out := onCtl (fun c => whenAlive c (ceCaptGo 0)) s
/-- A capture ABORT (R853). -/
def execCaptureAbort (s : State) : Out := onCtl (fun c => whenAlive c ceCaptAbort) s
/-- A capture ends (R851). -/
def execCaptureDone (s : State) : Out := onCtl (fun c => whenAlive c captDone) s
/-- An auto-tune GO (R855). -/
def execAutotuneGo (s : State) : Out := onCtl (fun c => whenAlive c tuneGo) s
/-- An auto-tune ABORT (R859). -/
def execAutotuneAbort (s : State) : Out := onCtl (fun c => whenAlive c tuneAbort) s
/-- An auto-tune completes (R858). -/
def execAutotuneComplete (s : State) : Out := onCtl (fun c => whenAlive c tuneResults) s
/-- An auto-tune times out (R859). -/
def execAutotuneTimeout (s : State) : Out := onCtl (fun c => whenAlive c tuneTimeout) s
/-- The oscillation detector fires (R862). -/
def execOscDetect (s : State) : Out := onCtl (fun c => whenAlive c oscDetect) s

end Sys2Proof.Machine
end

