-- ==== Sys2Proof/Machine/Pool.lean ====
section
/-! DEFINITION. The memory pool: host identities, requests, weirs, POOL slots and the endpoint's failures (R550 to R564, R579 to
R590, R595 to R649). -/
namespace Sys2Proof.Machine

/-! Host identities (R554 to R556). -/
/-- PO_HIT_h, low and high word. -/
def hitLo (h : Nat) : Nat := 0x20100 + 8 * h
def hitHi (h : Nat) : Nat := 0x20104 + 8 * h
/-- VALID and DEAD of a host identity. -/
def hostValid (c : Ctl) (h : Nat) : Bool := rbit c (hitLo h) 31
def hostDead (c : Ctl) (h : Nat) : Bool := rbit c (hitLo h) 30
/-- LOCAL_HOST (R555). -/
def localHost (c : Ctl) : Nat := fld c 0x20000 13 8
/-- The host identity of a request (R555). -/
def hostOf (c : Ctl) (spid : Option Nat) : Option Nat :=
  match spid with
  | none => some (localHost c)
  | some x => (List.range 64).find? (fun h => hostValid c h && decide (fld c (hitLo h) 11 0 = x))
/-- HPA_BASE, as an address (R554). -/
def hpaBase (c : Ctl) (h : Nat) : Nat := fld c (hitHi h) 23 0 * 2 ^ 28
/-- The DPA of a host physical address (R554). -/
def dpaOf (c : Ctl) (h hpa : Nat) : Option Nat :=
  if hpa < hpaBase c h ∨ hpa ≥ hpaBase c h + 2 ^ 38 then none else some (hpa - hpaBase c h)
/-- The weir's registers of host identity h. -/
def weCfg (h : Nat) : Nat := 0x18000 + 16 * h
def weTrk (h : Nat) : Nat := 0x18004 + 16 * h
def weTok (h : Nat) : Nat := 0x18008 + 16 * h
def weUsed (h : Nat) : Nat := 0x1800C + 16 * h
def weCnt (h x : Nat) : Nat := 0x18800 + 32 * h + 4 * x
/-- Sum of the trackers that VALID identities reserve, `h` reserving `v` (R586). -/
def trackerSum (c : Ctl) (h v : Nat) : Nat :=
  (List.range 64).foldl (fun n k => n + (if hostValid c k then (if k = h then v else fld c (weTrk k) 14 0) else 0)) 0
/-- VALID set for `h` would take the sum past 16,384 (R586). -/
def overTracked (c : Ctl) (h : Nat) : Bool := !hostValid c h && decide (trackerSum c h 0 + fld c (weTrk h) 14 0 > 16384)
/-- RATE and BURST in force: those written take effect at the next refill (R598). -/
def weRate (c : Ctl) (h : Nat) : Nat := bits (smGet c.pool.weir 0 h) 31 16
def weBurst (c : Ctl) (h : Nat) : Nat := bits (smGet c.pool.weir 0 h) 15 0
/-- The entry that covers granule `g` for host identity `h` (R558). -/
def hrtFind (c : Ctl) (h g : Nat) : Option (Nat × Nat) := (hrtOf c h).find? (fun e => hrtCovers e.2 g)
/-- The request is granted (R558). -/
def granted (c : Ctl) (h d : Nat) (write : Bool) : Bool :=
  match hrtFind c h (bits d 37 28) with
  | some e => !(write && hrtRo e.2)
  | none => false

/-! DevLoad and answers (R590). -/
/-- POOL slots of a stack in a pass. -/
def poolSlots (c : Ctl) (st : Nat) : Nat :=
  (List.range 64).foldl (fun n i => n + ((List.range (hslots c)).filter (fun s => hbmOwner c (64 * st + i) s = 0x40)).length) 0
/-- dl_pool of a stack, by the lines and the POOL slots of the last completed pass; a free value where that pass had no POOL slot on the
stack (R590, Assumption 85). -/
def dlPool (c : Ctl) (st : Nat) : Nat :=
  if inForce c then
    let k := smGet c.pool.carriedLast 0 st
    let n := smGet c.pool.slotsLast 0 st
    let u := k * 256 / (7 * n)
    if n = 0 then (Config.idleLoad k st).val else if u < 128 then 0 else if u < 218 then 1 else if u < 250 then 2 else 3
  else 3
/-- dl_host (R590). -/
def dlHost (c : Ctl) (h : Nat) : Nat :=
  if 4 * rd c (weUsed h) ≥ 3 * rd c (weTrk h) then 3
  else if smGet c.pool.waitedLast false h then 2
  else if 2 * rd c (weTok h) ≥ 16 * weBurst c h then 0
  else 1
/-- Answers a request of a host identity at DPA `d`. -/
def poolAnswer (c : Ctl) (h tag d status : Nat) (data : Bytes) : Ctl :=
  emit c (.cxlAnswer tag status (max (dlPool c (bits d 30 28)) (dlHost c h)) data)
/-- An unmapped access completes: data 0 and poison, or a completion with the data dropped (R559). -/
def unmappedAnswer (c : Ctl) (h tag d : Nat) (write : Bool) : Ctl :=
  if write then poolAnswer c h tag d 2 [] else poolAnswer c h tag d 1 (zeroBytes 64)
/-- An unmapped access of a host identity: counted, with at most one Warning record per pass; a dead host gets none (R559, R621). -/
def denied (c : Ctl) (h tag d : Nat) (write : Bool) : Ctl :=
  let c := cnt1 (unmappedAnswer c h tag d write) (weCnt h 3)
  if hostDead c h ∨ smGet c.pool.warned false h then c
  else cxlLog { c with pool := { c.pool with warned := smSet c.pool.warned false h true } } h 1 { kind := 0, what := 1, dpa := d }
/-- One tracker of a host identity becomes free, or is taken (R586). -/
def freeTracker (c : Ctl) (h : Nat) : Ctl := wr c (weUsed h) (rd c (weUsed h) - 1)
def takeTracker (c : Ctl) (h : Nat) : Ctl := wr c (weUsed h) (rd c (weUsed h) + 1)
/-- A request at the end of its decode: unmapped, an overrun, answered by a dead endpoint, or waiting at its weir (R555, R558, R559, R586, R597, R621, R632, R633); in a CHIP reset and until the port is ready, reads return poison and writes are
dropped (R1066). -/
def poolRequest (c : Ctl) (spid : Option Nat) (hpa tag kind : Nat) (data : BitVec 512) (mask : Nat) : Ctl :=
  let write := decide (kind ≠ 0)
  if c.pwr.perst then c
  else if hostUp c = false then emit c (if write then .cxlAnswer tag 2 0 [] else .cxlAnswer tag 1 0 (zeroBytes 64))
  else match hostOf c spid with
  | none =>
    let c := cnt1 c 0x20008
    emit c (if write then .cxlAnswer tag 2 0 [] else .cxlAnswer tag 1 0 (zeroBytes 64))
  | some h =>
    let d := (dpaOf c h hpa).getD hpa
    if hostDead c h then denied c h tag d write
    else if rd c (weUsed h) ≥ rd c (weTrk h) then cnt1 (unmappedAnswer c h tag d write) (weCnt h 2)
    else match dpaOf c h hpa with
      | none => denied c h tag d write
      | some d =>
        if granted c h d write = false then denied c h tag d write
        else if poolIsFatal c then (if write then poolAnswer c h tag d 2 [] else poolAnswer c h tag d 1 (zeroBytes 64))
        else if kind = 2 ∧ mask % 2 ^ 64 = 0 then poolAnswer c h tag d 2 []
        else
          let r : PoolReq := { tag := tag, host := h, kind := kind, dpa := d / 64 * 64, data := data, mask := mask % 2 ^ 64 }
          let c := takeTracker c h
          { c with pool := { c.pool with waiting := c.pool.waiting ++ [r] } }

/-! Weirs (R585, R587). -/
/-- A request of a host waits at its weir in this pass (R590, WE_h_CNT 5). -/
def markWait (c : Ctl) (h : Nat) : Ctl :=
  if smGet c.pool.waited false h then c
  else cnt1 { c with pool := { c.pool with waited := smSet c.pool.waited false h true } } (weCnt h 5)
/-- Lines a request costs (R585). -/
def reqCost (r : PoolReq) : Nat := if r.kind = 2 then 2 else 1
/-- The oldest waiting request of a host. -/
def oldest (c : Ctl) (h : Nat) : Option PoolReq := c.pool.waiting.find? (fun r => r.host = h)
/-- One refill of every weir: what was written of RATE and BURST is in force from here; a dead host's does not refill (R585, R598, R619). -/
def weirRefill (c : Ctl) : Ctl :=
  let c := advanceTo c c.pool.refillAt
  let c := { c with pool := { c.pool with refillAt := (c.time.ftc / 64 + 1) * 64 } }
  foldUp 64 (fun c h =>
    let c := match oldest c h with
      | some r => if rd c (weTok h) < 16 * reqCost r then markWait c h else c
      | none => c
    let c := { c with pool := { c.pool with weir := smSet c.pool.weir 0 h (rd c (weCfg h)) } }
    if hostDead c h then c
    else wr c (weTok h) (min (rd c (weTok h) + weRate c h) (16 * weBurst c h))) c
/-- The key of the entry that grants a host a granule: its region's, or its own (R579). -/
def keyFor (c : Ctl) (h g : Nat) : Nat :=
  match hrtFind c h g with
  | some e => (smGet c.pool.keys 0 (if hrtShared e.2 then 64 + hrtSr e.2 else h)).toNat
  | none => 0
/-- The lines of a request that has passed (R587). -/
def linesOf (c : Ctl) (r : PoolReq) : List PoolLine :=
  let key := keyFor c r.host (bits r.dpa 37 28)
  let t := c.time.ftc
  match r.kind with
  | 0 => [{ req := r, write := false, key := key, elig := some t }]
  | 1 => [{ req := r, write := true, key := key, elig := some (t + 16) }]
  | _ => [{ req := r, write := false, key := key, elig := some t }, { req := r, write := true, key := key, elig := none }]
/-- The oldest waiting request of a host passes if its tokens suffice; a RATE of 0 passes nothing (R585, R587). -/
def weirPassage (h : Nat) (c : Ctl) : Ctl :=
  match oldest c h with
  | none => c
  | some r =>
    if weRate c h ≠ 0 ∧ rd c (weTok h) ≥ 16 * reqCost r then
      let c := wr c (weTok h) (rd c (weTok h) - 16 * reqCost r)
      { c with pool := { c.pool with waiting := c.pool.waiting.erase r, lines := c.pool.lines ++ linesOf c r } }
    else markWait c h

/-! POOL slots (R563, R588). -/
/-- The oldest eligible line of a host on a pseudo-channel at `t` (R587, R588, R596). -/
def oldestLine (ls : List PoolLine) (h q t : Nat) : Option PoolLine :=
  (ls.zipIdx.find? (fun e =>
    let l := e.1
    decide (l.req.host = h ∧ pchOf l.req.dpa = q) && (match l.elig with | some x => decide (x ≤ t) | none => false) &&
    (l.write || !(ls.take e.2).any (fun w => w.write && decide (w.req.host = h ∧ w.req.dpa = l.req.dpa))))).map (·.1)
/-- One visit of a host: the lines left, the lines taken, and the slot's direction. -/
def visit (q t : Nat) (s : List PoolLine × List PoolLine × Option Bool) (h : Nat) : List PoolLine × List PoolLine × Option Bool :=
  if s.2.1.length ≥ 7 then s
  else match oldestLine s.1 h q t with
    | some l => if s.2.2 = none ∨ s.2.2 = some l.write then (s.1.erase l, s.2.1 ++ [l], some l.write) else s
    | none => s
/-- The lines a POOL slot serves (R588): at most 7 rounds of 64 visits from the rotor. -/
def fillSlot (c : Ctl) (q t : Nat) : List PoolLine × List PoolLine :=
  let rotor := smGet c.pool.rotor 0 q
  let order := (List.range 64).map (fun i => (rotor + i) % 64)
  let r := (List.range 7).foldl (fun s _ => order.foldl (visit q t) s) (c.pool.lines, [], none)
  (r.1, r.2.1)
/-- At most one Failure record per host, pass and kind of loss (R560, R627). -/
def failRec (c : Ctl) (h k d : Nat) : Ctl :=
  if smGet c.pool.failed false (2 * h + k) then c
  else cxlLog { c with pool := { c.pool with failed := smSet c.pool.failed false (2 * h + k) true } } h 2 { kind := 0, what := 2, dpa := d }
/-- Serves a read line at slot start `t`: both beats decrypted, poison if either is (R510, R560, R580, R589). -/
def serveRead (cm : CM) (t : Nat) (l : PoolLine) : CM :=
  let a := l.req.dpa
  let (cm, v0, p0) := dmRead cm a
  let (cm, v1, p1) := dmRead cm (a + 32)
  let pt (v : BitVec 256) (x : Nat) := xtsBeat true l.key x v.toNat
  let psn := p0 || p1
  let d := BitVec.ofNat 512 (pt v0 a + pt v1 (a + 32) * 2 ^ 256)
  let c := cnt1 cm.1 (weCnt l.req.host 0)
  let c := if psn then failRec (cnt1 c (weCnt l.req.host 4)) l.req.host 0 a else c
  ({ c with pool := { c.pool with reads := c.pool.reads ++ [{ line := l, data := d, poison := psn, due := t + 80 }] } }, cm.2)
/-- Serves a write line at slot start `t`: encrypted, both beats written (R511, R580, R589, R627). -/
def serveWrite (cm : CM) (t : Nat) (l : PoolLine) : CM :=
  let a := l.req.dpa
  let ct (x v : Nat) : BitVec 256 := BitVec.ofNat 256 (xtsBeat false l.key x v)
  let lost := pchFailed cm.1 (pchOf a)
  let cm := dmWrite cm a (ct a (l.req.data.toNat % 2 ^ 256)) l.psn
  let cm := dmWrite cm (a + 32) (ct (a + 32) (l.req.data.toNat / 2 ^ 256)) l.psn
  let c := cnt1 cm.1 (weCnt l.req.host 1)
  let c := if lost then failRec c l.req.host 1 a else c
  ({ c with pool := { c.pool with writes := c.pool.writes ++ [{ line := l, due := t + 40 }] } }, cm.2)
/-- The DM address of scrub beat `i` of a granule on a pseudo-channel (R501). -/
def scrubAddr (g q i : Nat) : Nat := g * 2 ^ 28 + bits (32 * i) 21 8 * 2 ^ 14 + q % 64 * 2 ^ 8 + 32 * i % 2 ^ 8
/-- Slots a scrub needs on each pseudo-channel (R563). -/
def scrubSlots : Nat := 8739
/-- One scrub write slot: up to 15 beats of zeros (R563, R565). -/
def scrubSlot (cm : CM) (g q : Nat) : CM :=
  let n := smGet cm.1.pool.scrubDone 0 q
  let cm := (List.range 15).foldl (fun cm k =>
    let i := 15 * n + k
    if i < 131072 then dmWrite cm (scrubAddr g q i) 0 false else cm) cm
  ({ cm.1 with pool := { cm.1.pool with scrubDone := smSet cm.1.pool.scrubDone 0 q (n + 1) } }, cm.2)
/-- A line is on the granule. -/
def lineOn (g : Nat) (l : PoolLine) : Bool := decide (bits l.req.dpa 37 28 = g)
/-- The lowest SCRUB granule of a stack, when none is being scrubbed, is next (R563). -/
def kickScrub (c : Ctl) (st : Nat) : Ctl :=
  if smGet c.pool.scrubbing 0 st = 0 then
    match (List.range 1024).find? (fun g => decide (g % 8 = st ∧ gtState c g = gSCRUB)) with
    | some g => { c with pool := { c.pool with scrubbing := smSet c.pool.scrubbing 0 st (g + 1),
                                               scrubDone := smClearRange c.pool.scrubDone (64 * st) (64 * st + 64) } }
    | none => c
  else c
/-- A granule enters SCRUB. -/
def toScrub (c : Ctl) (g : Nat) : Ctl := kickScrub (setGt c g gSCRUB 0 0) (g % 8)
/-- A granule becomes FREE, or BROKEN on a stack with a failed pseudo-channel (R565). -/
def toFree (c : Ctl) (g : Nat) : Ctl := setGt c g (if granFailed c g then gBROKEN else gFREE) 0 0
/-- A line on the granule is not served yet: it waits for its slot, its data is on the way, or the slot that writes it has not ended, which it
does 24 tc before the write's completion leaves (R589, R610). -/
def granBusy (c : Ctl) (g : Nat) : Bool :=
  c.pool.lines.any (lineOn g) || c.pool.reads.any (fun b => lineOn g b.line) ||
    c.pool.writes.any (fun b => lineOn g b.line && decide (c.time.ftc + 24 < b.due))
/-- Granules unmapped become SCRUB once their last accepted line is served (R610); in endpoint-fatal state they freeze (R645). -/
def closeGranules (c : Ctl) : Ctl :=
  if poolIsFatal c then c
  else (smKeys c.pool.closing).foldl (fun c g =>
    if granBusy c g then c
    else toScrub { c with pool := { c.pool with closing := smSet c.pool.closing false g false } } g) c
/-- The POOL slot is a scrub's: the first of every SCRUB_DIV of its pseudo-channel, while its stack scrubs (R563). -/
def scrubTakes (c : Ctl) (q : Nat) : Bool :=
  decide (smGet c.pool.scrubbing 0 (q / 64) ≠ 0) && decide (smGet c.pool.slotCnt 0 q % fld c 0x20000 7 4 = 0) &&
    decide (smGet c.pool.scrubDone 0 q < scrubSlots) && !poolIsFatal c
/-- One POOL slot of a pseudo-channel (R563, R588). -/
def poolSlot (cm : CM) (q s : Nat) : CM :=
  match slotFor cm.1 q s 0x40 with
  | none => cm
  | some t =>
    let c := closeGranules (useSlot cm.1 q t)
    let scrub := scrubTakes c q
    let c := { c with pool := { c.pool with slotCnt := smUpd c.pool.slotCnt 0 q (· + 1) } }
    if scrub then scrubSlot (c, cm.2) (smGet c.pool.scrubbing 0 (q / 64) - 1) q
    else
      let r := fillSlot c q t
      match r.2 with
      | [] => (c, cm.2)
      | l :: _ =>
        let c := { c with pool := { c.pool with lines := r.1, rotor := smSet c.pool.rotor 0 q ((l.req.host + 1) % 64),
                                                carried := smUpd c.pool.carried 0 (q / 64) (· + r.2.length) } }
        r.2.foldl (fun cm x => if x.write then serveWrite cm t x else serveRead cm t x) (c, cm.2)

/-! Answers (R587, R589). -/
/-- The bytes of `new` where the mask enables them, those of `old` elsewhere. -/
def mergeLine (mask : Nat) (old new : BitVec 512) : BitVec 512 :=
  BitVec.ofNat 512 (leNat ((List.range 64).map (fun i =>
    BitVec.ofNat 8 (bits (if bitN mask i then new.toNat else old.toNat) (8 * i + 7) (8 * i)))))
/-- A page mover's line came back; mover 16 is none: its page was given up (R622). -/
def pmLine (c : Ctl) (m i : Nat) (d : BitVec 512) (psn : Bool) : Ctl :=
  if m ≥ 16 then c
  else { c with pool := { c.pool with pms := smUpd c.pool.pms {} m (fun x => { x with got := smSet x.got none i (some (d, psn)) }) } }
/-- Of the lines on their way, the one due first. -/
def firstBack (l : List PoolBack) : Option PoolBack :=
  l.foldl (fun b e => match b with | none => some e | some x => if e.due < x.due then some e else b) none
/-- The read data due first reaches the endpoint (R587, R589). -/
def poolReadData (c : Ctl) : Ctl :=
  match firstBack c.pool.reads with
  | none => c
  | some b =>
    let c := advanceTo c b.due
    let c := { c with pool := { c.pool with reads := c.pool.reads.erase b } }
    let r := b.line.req
    let c := if r.kind = 2 then
        { c with pool := { c.pool with lines := c.pool.lines.map (fun l =>
            if l.write ∧ l.elig = none ∧ l.req = r then
              { l with req := { r with data := mergeLine r.mask b.data r.data }, elig := some (c.time.ftc + 16), psn := b.poison }
            else l) } }
      else match r.pm with
        | some m => pmLine c m r.idx b.data b.poison
        | none => poolAnswer (freeTracker c r.host) r.host r.tag r.dpa (b2n b.poison) (leBytes 64 b.data.toNat)
    closeGranules c
/-- The write completion due first leaves (R589). -/
def poolWriteDone (c : Ctl) : Ctl :=
  match firstBack c.pool.writes with
  | none => c
  | some b =>
    let c := advanceTo c b.due
    let c := { c with pool := { c.pool with writes := c.pool.writes.erase b } }
    let c := closeGranules c
    let r := b.line.req
    match r.pm with
    | some m => pmLine c m r.idx 0 false
    | none => poolAnswer (freeTracker c r.host) r.host r.tag r.dpa 2 []

/-! Endpoint-fatal (R631 to R634). -/
/-- A request not yet served is answered with poison, or its write is dropped (R632). -/
def fatalAnswer (c : Ctl) (r : PoolReq) : Ctl :=
  match r.pm with
  | some m => pmLine c m r.idx 0 true
  | none =>
    if r.kind = 0 then poolAnswer (freeTracker c r.host) r.host r.tag r.dpa 1 (zeroBytes 64)
    else poolAnswer (freeTracker c r.host) r.host r.tag r.dpa 2 []
/-- The endpoint enters endpoint-fatal state: ERR_FATAL, viral if the host enabled it (a free bit, Assumption 24), one Fatal record
for every host with an entry, and every request not yet served answered, those whose data is on the way among them (R610, R631 to R633). -/
def poolFatal (cause : Nat) (c : Ctl) : Ctl :=
  if poolIsFatal c then c
  else
    let c := setFld (setBit c 0x20014 0 true) 0x20014 3 1 cause
    let c := if cause ≥ 2 then raise c 0x7304 noPart (unitOf c 7 0) cause else c
    let c := emit c (.errMsg 2)
    let (c, n) := drawFree c
    let c := if Config.freeBit n then emit c .viral else c
    let c := foldUp 64 (fun c h => if (hrtOf c h).isEmpty then c else cxlLog c h 3 { kind := 0, what := 4, dpa := 0 }) c
    let rs := c.pool.waiting ++ (c.pool.lines.filter (fun l => l.write || decide (l.req.kind = 0))).map (·.req) ++
      (c.pool.reads.filter (fun b => b.line.req.kind = 0)).map (·.line.req)
    let c := { c with pool := { c.pool with waiting := [], lines := [], reads := [] } }
    rs.foldl fatalAnswer c

/-! The boundary of a pass. -/
/-- A pass is complete: DevLoad follows what it carried (R590). -/
def poolEnd (c : Ctl) : Ctl :=
  { c with pool := { c.pool with
      carriedLast := c.pool.carried, waitedLast := c.pool.waited,
      slotsLast := if fplanOn c then (List.range 8).foldl (fun m st => smSet m 0 st (poolSlots c st)) {} else {} } }
/-- What the endpoint keeps per pass starts anew (R559, R560, R590). -/
def poolPass (c : Ctl) : Ctl :=
  let p := { c.pool with carried := {}, waited := {}, warned := {}, failed := {} }
  let c := { c with pool := p }
  foldUp 64 (fun c h => match oldest c h with
    | some r => if rd c (weTok h) < 16 * reqCost r then markWait c h else c
    | none => c) c

/-! The commands. -/
/-- A read request at the end of its decode (R555, R558, R559). -/
def execPoolRead (spid : Option Nat) (hpa tag : Nat) (s : State) : Out :=
  onCtl (fun c => poolRequest c spid hpa tag 0 0 0) s
/-- A write request at the end of its decode; `mask` the bytes enabled (R555, R558, R559, R597). -/
def execPoolWrite (spid : Option Nat) (hpa tag : Nat) (data : BitVec 512) (mask : Dword) (s : State) : Out :=
  onCtl (fun c => poolRequest c spid hpa tag (if mask.toNat = 2 ^ 64 - 1 then 1 else 2) data mask.toNat) s
/-- The weirs refill (R585). -/
def execWeirRefill (s : State) : Out := onCtl (fun c => whenAlive c weirRefill) s
/-- The oldest waiting request of a host passes its weir (R585, R587). -/
def execWeirPassage (h : Nat) (s : State) : Out := onCtl (fun c => whenAlive c (weirPassage h)) s
/-- A POOL slot (R563, R588). -/
def execPoolSlot (q slot : Nat) (s : State) : Out := onAlive (fun cm => if q < 512 then poolSlot cm q slot else cm) s
/-- Read data arrives at the endpoint (R589), which runs on the bypass path and in containment too (R632). -/
def execPoolReadData (s : State) : Out := onServed poolReadData s
/-- A write completion leaves the endpoint (R589). -/
def execPoolWriteCompletion (s : State) : Out := onServed poolWriteDone s
/-- The endpoint fails (R631, R632). -/
def execEndpointFatal (cause : Nat) (s : State) : Out := onCtl (poolFatal cause) s

end Sys2Proof.Machine
end

