-- ==== Sys2Proof/Machine/Extents.lean ====
section
/-! DEFINITION. The pool's mailboxes, the life cycle of extents, shared regions, keys, and the death of a host (R551 to R578, R581 to
R584, R599 to R624). -/
namespace Sys2Proof.Machine

/-- A mailbox command's answer. -/
def mbAnswer (c : Ctl) (code : MbCode) (out : MbOut) : Ctl := emit c (.mailbox code out)
/-- Success or Invalid Input. -/
def codeOf (ok : Bool) : MbCode := if ok then .success else .invalidInput
/-- An extent in bytes as granules: first and number; none when it is not whole blocks of 256 MiB. -/
def extOf (e : Nat × Nat) : Option (Nat × Nat) :=
  if e.1 % 2 ^ 28 = 0 ∧ e.2 % 2 ^ 28 = 0 ∧ e.2 ≠ 0 ∧ e.1 + e.2 ≤ 2 ^ 38 then some (e.1 / 2 ^ 28, e.2 / 2 ^ 28) else none
/-- The granules of a run. -/
def runOf (first cnt : Nat) : List Nat := (List.range cnt).map (first + ·)
/-- Consecutive granules of a rising list, as runs. -/
def runs : List Nat → List (Nat × Nat)
  | [] => []
  | g :: r =>
    match runs r with
    | (f, n) :: t => if f = g + 1 then (g, n + 1) :: t else (g, 1) :: (f, n) :: t
    | [] => [(g, 1)]
/-- The runs of the granules that satisfy a condition. -/
def runsWhere (p : Nat → Bool) : List (Nat × Nat) := runs ((List.range 1024).filter p)
/-- The Dynamic Capacity log gets a record for an extent. -/
def dcRec (c : Ctl) (h what first cnt : Nat) : Ctl :=
  cxlLog c h 4 { kind := 2, what := what, dpa := first * 2 ^ 28, len := cnt * 2 ^ 28 }
/-- PO_SRr registers. -/
def srBase (r : Nat) : Nat := 0x25000 + 64 * r
/-- The region is defined. -/
def srDef (c : Ctl) (r : Nat) : Bool := rbit c (srBase r) 0
/-- The region's tag. -/
def srTag (c : Ctl) (r : Nat) : Nat := rd64 c (srBase r + 0x10) + 2 ^ 64 * rd64 c (srBase r + 0x18)
/-- Members, and hosts that map read-only. -/
def srMembers (c : Ctl) (r : Nat) : Nat := rd64 c (srBase r + 0x28)
def srRo (c : Ctl) (r : Nat) : Nat := rd64 c (srBase r + 0x20)
/-- Sets or clears a member's bit. -/
def setMember (c : Ctl) (r h : Nat) (b : Bool) : Ctl := wr64 c (srBase r + 0x28) (setBits (srMembers c r) h h (b2n b))
/-- A key slot is LOADED: kind 0 HK, 1 SK (PO_KEY_STAT). -/
def keyLoaded (c : Ctl) (kind slot : Nat) : Bool := rbit c (0x26048 + 8 * kind + 4 * (slot / 32)) (slot % 32)

/-! Commands without an effect on extents (R551, R553). -/
/-- The opcodes of the Command Effects Log (R551). -/
def mbOpcodes : List Nat := [0x0001, 0x0002, 0x0100, 0x0101, 0x0102, 0x0103, 0x0300, 0x0301, 0x0400, 0x0401, 0x4000, 0x4800, 0x4801,
  0x4802, 0x4803, 0x5600, 0x5601, 0x5602, 0x5603, 0x5604, 0x5605, 0xC000]
/-- A host's records of a log (R553). -/
def getRecords (h log : Nat) (c : Ctl) : Ctl :=
  mbAnswer c .success (.recs (smGet c.pool.logs [] (h * 8 + log)) (smGet c.pool.overflow 0 (h * 8 + log)))
/-- The oldest records of a log are cleared, and its overflow count with them. -/
def clearRecords (h log n : Nat) (c : Ctl) : Ctl :=
  let k := h * 8 + log
  mbAnswer { c with pool := { c.pool with logs := smSet c.pool.logs [] k ((smGet c.pool.logs [] k).drop n),
                                          overflow := smSet c.pool.overflow 0 k 0 } } .success .none
/-- Region 0: DPA base, length and block size (R550). -/
def region0 : List Nat := [0, 2 ^ 38, 2 ^ 28]
/-- The extents mapped to a host (R551). -/
def mappedExts (c : Ctl) (h : Nat) : List (Nat × Nat × Nat) :=
  (hrtOf c h).map (fun e => (hrtFirst e.2, hrtCount e.2, if hrtShared e.2 then 2 else 0))
/-- The extents mapped and offered to a host. -/
def allExts (c : Ctl) (h : Nat) : List (Nat × Nat × Nat) :=
  mappedExts c h ++ (c.pool.offers.filter (fun o => o.host = h)).map (fun o => (o.first, o.cnt, 1))

/-! Offers and mapping (R566 to R570, R574, R575). -/
/-- A granule is FREE and its stack is not in self-refresh (R567, R1073). -/
def addable (c : Ctl) (g : Nat) : Bool := decide (gtState c g = gFREE) && !bitN c.pwr.sref (g % 8)
/-- The extents a policy chooses among FREE granules; none when they are short (R567). -/
def chooseExts (c : Ctl) (policy n : Nat) (exts : List (Nat × Nat)) : Option (List (Nat × Nat)) :=
  let free := runsWhere (addable c)
  match policy with
  | 0 =>
    let gs := (List.range 1024).filter (addable c)
    if gs.length < n then none else some (runs (gs.take n))
  | 1 => (free.find? (fun r => decide (r.2 ≥ n))).map (fun r => [(r.1, n)])
  | _ => if exts.all (fun e => (runOf e.1 e.2).all (addable c)) then some exts else none
/-- A named extent list is sound for Prescriptive: whole, FREE, disjoint, of the full length (R567). -/
def prescOk (c : Ctl) (n : Nat) (exts : List (Nat × Nat)) : Bool :=
  decide ((exts.map (·.2)).sum = n) && exts.all (fun e => (runOf e.1 e.2).all (fun g => decide (gtState c g = gFREE))) &&
    decide ((exts.flatMap (fun e => runOf e.1 e.2)).Nodup)
/-- Records an offer per extent, with its Add Capacity record (R566, R574). -/
def offerExts (c : Ctl) (h : Nat) (sh : Option Nat) (exts : List (Nat × Nat)) : Ctl :=
  exts.foldl (fun c e =>
    let c := match sh with
      | none => (runOf e.1 e.2).foldl (fun c g => setGt c g gOFFERED 0 h) c
      | some _ => c
    let c := { c with pool := { c.pool with offers := c.pool.offers ++ [⟨h, e.1, e.2, sh, c.time.ftc⟩] } }
    dcRec c h 5 e.1 e.2) c
/-- The host already holds, or is offered, a granule of the extents; its entries would overlap (R558). -/
def holdsAny (c : Ctl) (h : Nat) (exts : List (Nat × Nat)) : Bool :=
  exts.any (fun e => (runOf e.1 e.2).any (fun g => (hrtFind c h g).isSome ||
    c.pool.offers.any (fun o => decide (o.host = h ∧ o.first ≤ g ∧ g < o.first + o.cnt)) ||
    c.pool.mapping.any (fun o => decide (o.host = h ∧ o.first ≤ g ∧ g < o.first + o.cnt))))
/-- Host-range entries that are free. -/
def hrtFree (c : Ctl) : Nat := 1024 - (hrtEntries c).length
/-- Initiate Dynamic Capacity Add (R566, R567, R574); in S3 it finds no granule (R1074). -/
def initiateAdd (h len policy : Nat) (shared : Bool) (tag : Nat) (exts : List (Nat × Nat)) (c : Ctl) : Ctl :=
  let bad := mbAnswer c .invalidInput .none
  let short := mbAnswer c .resourcesExhausted .none
  let n := len / 2 ^ 28
  let gs := exts.filterMap extOf
  let formOk := decide (len % 2 ^ 28 = 0 ∧ len ≠ 0 ∧ gs.length = exts.length) && (decide (policy ≠ 2) || prescOk c n gs)
  if pwrState c = 3 then short
  else if hostValid c h = false ∨ poolIsFatal c then bad
  else if shared = false then
    if keyLoaded c 0 h = false ∨ policy > 2 ∨ formOk = false then bad
    else match chooseExts c policy n gs with
      | none => short
      | some es => if es.length > hrtFree c then short else mbAnswer (offerExts c h none es) .success .none
  else match (List.range 64).find? (fun r => srDef c r && decide (srTag c r = tag)) with
    | none => bad
    | some r =>
      let held := runsWhere (srHas c r)
      if keyLoaded c 1 r = false then bad
      else if held.isEmpty then
        if policy > 2 ∨ formOk = false then bad
        else match chooseExts c policy n gs with
          | none => short
          | some es =>
            if es.length > hrtFree c then short
            else
              let c := (es.flatMap (fun e => runOf e.1 e.2)).foldl (fun c g => setGt c g gSHARED r 0) c
              mbAnswer (offerExts c h (some r) es) .success .none
      else if policy ≠ 3 ∨ holdsAny c h held then bad
      else if held.length > hrtFree c then short
      else mbAnswer (offerExts c h (some r) held) .success .none
/-- An offer ends without acceptance: a private one's granules become FREE without a scrub (R568, R575). -/
def dropOffer (c : Ctl) (o : Offer) : Ctl :=
  let c := { c with pool := { c.pool with offers := c.pool.offers.erase o } }
  if o.shared = none then (runOf o.first o.cnt).foldl (fun c g => if gtState c g = gOFFERED then toFree c g else c) c else c
/-- The FTC at which an offer's OFFER_TMO has run out; 1 ms is 1,250,000 tc (R569). -/
def offerEnds (c : Ctl) (o : Offer) : Nat := o.made + fld c 0x20000 31 16 * 1250000
/-- An offer is withdrawn, with its record in the fabric manager's view (R569). -/
def expireOffer (c : Ctl) (o : Offer) : Ctl :=
  let c := dropOffer c o
  { c with pool := { c.pool with fmView := c.pool.fmView ++
      [{ kind := 2, what := 8, dpa := o.first * 2 ^ 28, len := o.cnt * 2 ^ 28, ts := cxlTime c }] } }
/-- The offers whose OFFER_TMO has run out by the end of this HCLK cycle are withdrawn (R569, R600). -/
def expireDue (c : Ctl) : Ctl := (c.pool.offers.filter (fun o => offerEnds c o / 2 ≤ c.time.ftc / 2)).foldl expireOffer c
/-- Add Dynamic Capacity Response (R568, R570): the extents accepted wait for their entries, the others offered are declined. An offer that
expires in the same HCLK cycle expires first (R600). -/
def addResponse (h : Nat) (exts : List (Nat × Nat)) (c : Ctl) : Ctl :=
  let c := expireDue c
  let named := exts.map extOf
  let hits (o : Offer) : Bool := decide (o.host = h) && named.contains (some (o.first, o.cnt))
  let mine := c.pool.offers.filter (fun o => o.host = h)
  let ok := named.all (fun e => match e with
    | some x => mine.any (fun o => decide (o.first = x.1 ∧ o.cnt = x.2))
    | none => false)
  let acc := mine.filter hits
  let c := { c with pool := { c.pool with offers := c.pool.offers.filter (fun o => !hits o),
                                          mapping := c.pool.mapping ++ acc.map (fun o => ⟨h, o.first, o.cnt, o.shared, false, c.time.ftc + 64⟩) } }
  let c := (mine.filter (fun o => !hits o)).foldl dropOffer c
  mbAnswer c (codeOf ok) .none
/-- Of the extents that wait, the one due first. -/
def firstExt (l : List ExtWait) : Option ExtWait :=
  l.foldl (fun b e => match b with | none => some e | some x => if e.due < x.due then some e else b) none
/-- Writes a host-range entry into the lowest free place (R557). -/
def putEntry (c : Ctl) (h first cnt : Nat) (sh : Option Nat) (ro : Bool) : Ctl :=
  match (List.range 1024).find? (fun e => !hrtValid (smGet c.pool.hrt 0 e)) with
  | some e =>
    let v := 2 ^ 63 + b2n ro * 2 ^ 62 + b2n sh.isSome * 2 ^ 61 + sh.getD 0 % 64 * 2 ^ 54 + h % 64 * 2 ^ 48 + (cnt - 1) % 1024 * 2 ^ 32 +
      first % 1024
    { c with pool := { c.pool with hrt := smSet c.pool.hrt 0 e v } }
  | none => c
/-- The accepted extent due first receives its entry (R568, R575). -/
def mapNext (c : Ctl) : Ctl :=
  match firstExt c.pool.mapping with
  | none => c
  | some x =>
    let c := advanceTo c x.due
    if hrtFree c = 0 ∨ poolIsFatal c then c
    else
      let c := { c with pool := { c.pool with mapping := c.pool.mapping.erase x } }
      match x.shared with
      | none => (runOf x.first x.cnt).foldl (fun c g => setGt c g gMAPPED 0 x.host) (putEntry c x.host x.first x.cnt none false)
      | some r => setMember (putEntry c x.host x.first x.cnt x.shared (bitN (srRo c r) x.host)) r x.host true
/-- The first offer whose OFFER_TMO has run out is withdrawn (R569). -/
def offerTimeout (c : Ctl) : Ctl :=
  match c.pool.offers with
  | [] => c
  | o :: _ => expireOffer (advanceTo c (offerEnds c o)) o

/-! Release (R571, R576, R599, R601, R607 to R616). -/
/-- The entry of a host that is exactly this extent. -/
def entryOf (c : Ctl) (h first cnt : Nat) : Option (Nat × Nat) :=
  (hrtOf c h).find? (fun e => decide (hrtFirst e.2 = first ∧ hrtCount e.2 = cnt))
/-- An unmap of the extent already waits (R641, R642). -/
def unmapWaits (c : Ctl) (h first cnt : Nat) : Bool :=
  c.pool.unmapping.any (fun x => decide (x.host = h ∧ x.first = first ∧ x.cnt = cnt))
/-- A private extent's granules become RELEASING. -/
def markReleasing (c : Ctl) (first cnt : Nat) : Ctl :=
  (runOf first cnt).foldl (fun c g => if gtState c g = gMAPPED then setGt c g gRELEASING 0 (gtHost c g) else c) c
/-- Starts an unmap, 64 tc from now (R612, R613); answers whether the extent is one the host holds. -/
def startUnmap (c : Ctl) (h first cnt : Nat) (forced : Bool) : Ctl × Bool :=
  match entryOf c h first cnt with
  | some e =>
    if unmapWaits c h first cnt then (c, false)
    else
      let sh := if hrtShared e.2 then some (hrtSr e.2) else none
      let c := if hrtShared e.2 then c else markReleasing c first cnt
      ({ c with pool := { c.pool with unmapping := c.pool.unmapping ++ [⟨h, first, cnt, sh, forced, c.time.ftc + 64⟩] } }, true)
  | none => (c, false)
/-- A KILL of the host was accepted in this HCLK cycle, 64 tc before it takes effect (R619, R641). -/
def killNow (c : Ctl) (h : Nat) : Bool := c.pool.kills.any (fun k => decide (k.1 = h ∧ (k.2 - 64) / 2 = c.time.ftc / 2))
/-- One extent of an Initiate Dynamic Capacity Release (R571, R599, R613 to R615, R623); beside a KILL of the same HCLK cycle a forced one
fails (R641). -/
def initRelease1 (c : Ctl) (h : Nat) (forced : Bool) (x : Nat × Nat) : Ctl × Bool :=
  let gs := runOf x.1 x.2
  let force := forced || hostDead c h
  match c.pool.offers.find? (fun o => decide (o.host = h ∧ o.first = x.1 ∧ o.cnt = x.2)) with
  | some o => (dropOffer c o, true)
  | none =>
    if gs.all (fun g => decide (gtState c g = gQUARANTINE ∧ gtHost c g = h)) then (if force then (gs.foldl toScrub c, true) else (c, false))
    else if force then (if killNow c h then (c, false) else startUnmap c h x.1 x.2 true)
    else match entryOf c h x.1 x.2 with
      | some e =>
        if unmapWaits c h x.1 x.2 then (c, false)
        else (dcRec (if hrtShared e.2 then c else markReleasing c x.1 x.2) h 6 x.1 x.2, true)
      | none => (c, false)
/-- A release of extents, one by one: the state after, and whether every extent was one to release. -/
def eachExt (f : Ctl → Nat × Nat → Ctl × Bool) (exts : List (Nat × Nat)) (c : Ctl) : Ctl × Bool :=
  exts.foldl (fun r e => match extOf e with
    | some x => let y := f r.1 x; (y.1, r.2 && y.2)
    | none => (r.1, false)) (c, true)
/-- Release Dynamic Capacity (R571, R601, R612); one that names a dead host's extents acts as a forced release (R623). -/
def releaseExts (h : Nat) (exts : List (Nat × Nat)) (c : Ctl) : Ctl :=
  let r := eachExt (fun c x => if hostDead c h then initRelease1 c h true x else startUnmap c h x.1 x.2 false) exts c
  mbAnswer r.1 (codeOf r.2) .none
/-- Initiate Dynamic Capacity Release, and its forced form (R571, R613). -/
def initiateRelease (forced : Bool) (h : Nat) (exts : List (Nat × Nat)) (c : Ctl) : Ctl :=
  let r := eachExt (fun c x => if h < 64 then initRelease1 c h forced x else (c, false)) exts c
  mbAnswer r.1 (codeOf (r.2 && !poolIsFatal c)) .none
/-- Requests of a host to granules that are decoded and not accepted complete as unmapped accesses; a page mover's line comes back
poisoned (R608, R622). -/
def cancelWaiting (c : Ctl) (h : Nat) (p : Nat → Bool) : Ctl :=
  let hit (r : PoolReq) : Bool := decide (r.host = h) && p (bits r.dpa 37 28)
  let rs := c.pool.waiting.filter hit
  let c := { c with pool := { c.pool with waiting := c.pool.waiting.filter (fun r => !hit r) } }
  rs.foldl (fun c r => match r.pm with
    | some m => pmLine c m r.idx 0 true
    | none => denied (freeTracker c h) h r.tag r.dpa (decide (r.kind ≠ 0))) c
/-- Removes an entry of a host at the unmap instant (R607 to R611); for a shared extent the host's bit of MEMBERS goes with it (R576, R614). -/
def removeEntry (c : Ctl) (e : Nat × Nat) : Ctl :=
  let h := hrtHost e.2
  let c := { c with pool := { c.pool with hrt := smSet c.pool.hrt 0 e.1 0 } }
  let c := cancelWaiting c h (hrtCovers e.2)
  if hrtShared e.2 then setMember c (hrtSr e.2) h false else c
/-- A private extent's granules wait for their last accepted line and then enter SCRUB (R610). -/
def closeRun (c : Ctl) (first cnt : Nat) : Ctl :=
  closeGranules { c with pool := { c.pool with closing := (runOf first cnt).foldl (fun m g => smSet m false g true) c.pool.closing } }
/-- The unmap due first takes place (R571, R576, R607, R612 to R614). -/
def unmapNext (c : Ctl) : Ctl :=
  match firstExt c.pool.unmapping with
  | none => c
  | some x =>
    let c := advanceTo c x.due
    if poolIsFatal c then c
    else
      let c := { c with pool := { c.pool with unmapping := c.pool.unmapping.erase x } }
      match entryOf c x.host x.first x.cnt with
      | none => c
      | some e =>
        let c := removeEntry c e
        let c := if x.shared = none then closeRun c x.first x.cnt else c
        if x.forced then
          raise (dcRec c x.host 7 x.first x.cnt) 0x7302 noPart (unitOf c 7 0) (x.host + x.first * 2 ^ 16 + (x.cnt - 1) * 2 ^ 32)
        else c
/-- A stack's scrub ends: its granule becomes FREE or BROKEN and the next one starts (R563, R565, R644, R645). -/
def scrubComplete (st : Nat) (c : Ctl) : Ctl :=
  let k := smGet c.pool.scrubbing 0 st
  if k ≠ 0 ∧ poolIsFatal c = false ∧ (List.range 64).all (fun i => decide (smGet c.pool.scrubDone 0 (64 * st + i) ≥ scrubSlots)) then
    let c := toFree { c with pool := { c.pool with scrubbing := smSet c.pool.scrubbing 0 st 0 } } (k - 1)
    kickScrub c st
  else c

/-! The granules of a new frame plan (R561, R562, R617). -/
/-- Every entry that covers the granule loses it at this instant, as by a forced release (R613, R614, R617); what is left of its run keeps its
grant (Assumption 25). -/
def forceOut (c : Ctl) (g : Nat) : Ctl :=
  ((hrtEntries c).filter (fun e => hrtCovers e.2 g)).foldl (fun c e =>
    let h := hrtHost e.2
    let sh := if hrtShared e.2 then some (hrtSr e.2) else none
    let f := hrtFirst e.2
    let n := hrtCount e.2
    let c := { c with pool := { c.pool with hrt := smSet c.pool.hrt 0 e.1 0 } }
    let c := cancelWaiting c h (fun x => decide (x = g))
    let c := if g > f then putEntry c h f (g - f) sh (hrtRo e.2) else c
    let c := if f + n > g + 1 then putEntry c h (g + 1) (f + n - g - 1) sh (hrtRo e.2) else c
    let c := match sh with | some r => setMember c r h false | none => c
    raise (dcRec c h 7 g 1) 0x7302 noPart (unitOf c 7 0) (h + g * 2 ^ 16)) c
/-- The granule lies in a run. -/
def inRun (g first cnt : Nat) : Bool := decide (first ≤ g ∧ g < first + cnt)
/-- What is left of an extent that waits for its unmap when a granule leaves it. -/
def splitWait (g : Nat) (x : ExtWait) : List ExtWait :=
  if inRun g x.first x.cnt then
    (if g > x.first then [{ x with cnt := g - x.first }] else []) ++
      (if x.first + x.cnt > g + 1 then [{ x with first := g + 1, cnt := x.first + x.cnt - g - 1 }] else [])
  else [x]
/-- Offers of a granule, accepted or not, are withdrawn; the other granules of a private one become FREE (R562, R568). -/
def withdrawOn (c : Ctl) (g : Nat) : Ctl :=
  let c := (c.pool.offers.filter (fun o => inRun g o.first o.cnt)).foldl dropOffer c
  let gone := c.pool.mapping.filter (fun x => inRun g x.first x.cnt)
  let c := { c with pool := { c.pool with mapping := c.pool.mapping.filter (fun x => !inRun g x.first x.cnt) } }
  gone.foldl (fun c x => if x.shared = none then
    (runOf x.first x.cnt).foldl (fun c k => if gtState c k = gOFFERED then toFree c k else c) c else c) c
/-- A granule leaves the pool (R562). -/
def leavePool (c : Ctl) (g : Nat) : Ctl :=
  let st := gtState c g
  let c := if smGet c.pool.scrubbing 0 (g % 8) = g + 1 then
      { c with pool := { c.pool with scrubbing := smSet c.pool.scrubbing 0 (g % 8) 0 } } else c
  let c := withdrawOn c g
  let c := { c with pool := { c.pool with closing := smSet c.pool.closing false g false, unmapping := c.pool.unmapping.flatMap (splitWait g) } }
  let c := if st = gMAPPED ∨ st = gRELEASING ∨ st = gSHARED ∨ st = gQUARANTINE then
      raise (forceOut c g) 0x7301 noPart (unitOf c 7 0) (g + st * 2 ^ 16) else c
  kickScrub (setGt c g gNONPOOL 0 0) (g % 8)
/-- The granules follow a change of the frame plan's pool (R561, R562); `isPool` is the new plan's. In endpoint-fatal state they are frozen
(R645). -/
def regrant (c : Ctl) (isPool : Nat → Bool) : Ctl :=
  if poolIsFatal c then c
  else foldUp 1024 (fun c g =>
    let was := decide (gtState c g ≠ gNONPOOL)
    if isPool g && !was then toScrub c g else if was && !isPool g then leavePool c g else c) c

/-! Shared regions and keys (R573, R577, R581 to R583, R602). -/
/-- Setting DEF (R573). -/
def srDefine (r : Nat) (c : Ctl) : Ctl :=
  if srDef c r then c
  else if keyLoaded c 1 r = false ∨ srTag c r = 0 ∨ (List.range 64).any (fun k => srDef c k && decide (srTag c k = srTag c r)) then
    discard c (srBase r) 0
  else setBit c (srBase r) 0 true
/-- Writing DEL (R577). -/
def srDelete (r : Nat) (c : Ctl) : Ctl :=
  if srMembers c r ≠ 0 ∨ c.pool.offers.any (fun o => decide (o.shared = some r)) ∨ c.pool.mapping.any (fun x => decide (x.shared = some r)) then
    discard c (srBase r) 0
  else
    let c := foldUp 1024 (fun c g => if srHas c r g then toScrub c g else c) c
    setBit c (srBase r) 0 false
/-- The words of PO_KEY_DATA, as a number. -/
def keyWords (c : Ctl) : Nat := (List.range 16).foldl (fun n i => n + (smGet c.pool.keyData 0 i).toNat * 2 ^ (32 * i)) 0
/-- Sets a slot's LOADED bit and its key. -/
def setKey (c : Ctl) (kind slot : Nat) (v : Option Nat) : Ctl :=
  let c := setBit c (0x26048 + 8 * kind + 4 * (slot / 32)) (slot % 32) v.isSome
  { c with pool := { c.pool with keys := smSet c.pool.keys 0 (64 * kind + slot) (BitVec.ofNat 512 (v.getD 0)) } }
/-- The key slot is in use (R583). -/
def keyInUse (c : Ctl) (kind slot : Nat) : Bool :=
  if kind = 1 then srDef c slot
  else !(hrtOf c slot).isEmpty || c.pool.gt.entries.any (fun e =>
    let st := bits e.2 19 16
    decide (bits e.2 5 0 = slot) && decide (st = gOFFERED ∨ st = gRELEASING ∨ st = gQUARANTINE))
/-- A key command (R581, R583, R602): OP 1 LOAD, 2 ERASE. -/
def keyCommand (op kind slot : Nat) (c : Ctl) : Ctl :=
  if c.time.ftc < c.pool.keyTill then discard c 0x26040 0
  else
    let c := setFld (setFld (setFld c 0x26040 9 8 op) 0x26040 7 7 kind) 0x26040 5 0 slot
    let k := keyWords c
    let c := { c with pool := { c.pool with keyData := {}, keyTill := c.time.ftc + 64 } }
    let done (c : Ctl) (r : Nat) : Ctl := setFld c 0x26044 2 0 r
    if op = 1 then
      if keyLoaded c kind slot then done c 2
      else if k % 2 ^ 256 = k / 2 ^ 256 ∨ k % 2 ^ 256 = 0 ∨ k / 2 ^ 256 = 0 then done c 3
      else done (setKey c kind slot (some k)) 1
    else if keyInUse c kind slot then done c 4
    else done (setKey c kind slot none) 1

/-! The death of a host (R618 to R624, R641, R646, R647). -/
/-- The host holds an entry or a granule (R646). -/
def hostHolds (c : Ctl) (h : Nat) : Bool :=
  !(hrtOf c h).isEmpty || c.pool.gt.entries.any (fun e =>
    let st := bits e.2 19 16
    decide (bits e.2 5 0 = h) && decide (st = gOFFERED ∨ st = gMAPPED ∨ st = gRELEASING ∨ st = gQUARANTINE))
/-- A KILL takes effect: the host is dead from here (R618, R619, R646, Assumption 84). Page movers stop separately (R622). -/
def killHost (h : Nat) (c : Ctl) : Ctl :=
  let held := hostHolds c h
  let c := setBit c (hitLo h) 30 true
  let c := { c with pool := { c.pool with unmapping := c.pool.unmapping.filter (fun x => x.host ≠ h) } }
  let c := (hrtOf c h).foldl removeEntry c
  let lost := c.pool.mapping.filter (fun x => x.host = h ∧ x.shared = none)
  let c := { c with pool := { c.pool with mapping := c.pool.mapping.filter (fun x => x.host ≠ h) } }
  let c := (c.pool.offers.filter (fun o => o.host = h)).foldl dropOffer c
  let c := lost.foldl (fun c x => (runOf x.first x.cnt).foldl toFree c) c
  let q := (List.range 1024).filter (fun g => decide (gtHost c g = h ∧ (gtState c g = gMAPPED ∨ gtState c g = gRELEASING)) &&
    !smGet c.pool.closing false g)
  let c := q.foldl (fun c g => setGt c g gQUARANTINE 0 h) c
  let c := foldUp 64 (fun c r => setMember c r h false) c
  let c := wr c (weTok h) 0
  if held then raise c 0x7303 noPart (unitOf c 7 0) (h + q.length * 2 ^ 16) else c
/-- A KILL is accepted, to take effect 64 tc later; a forced release of the host accepted in the same HCLK cycle does not act (R619, R641,
R647). -/
def killAccept (h : Nat) (c : Ctl) : Ctl :=
  if hostValid c h = false then discard c 0x2000C 0
  else
    let c := setFld (setFld c 0x2000C 9 8 1) 0x2000C 5 0 h
    let same (x : ExtWait) : Bool := decide (x.host = h ∧ (x.due - 64) / 2 = c.time.ftc / 2) && x.forced
    { c with pool := { c.pool with kills := c.pool.kills ++ [(h, c.time.ftc + 64)], unmapping := c.pool.unmapping.filter (fun x => !same x) } }
/-- A REVIVE (R624, R647). -/
def reviveHost (h : Nat) (c : Ctl) : Ctl :=
  if hostValid c h = false ∨ (hrtOf c h).isEmpty = false ∨
      c.pool.gt.entries.any (fun e => decide (bits e.2 19 16 = gQUARANTINE ∧ bits e.2 5 0 = h)) then discard c 0x2000C 0
  else wr (setBit (setFld (setFld c 0x2000C 9 8 2) 0x2000C 5 0 h) (hitLo h) 30 false) (weTok h) 0

/-! Host identity entries (R555, R556). -/
/-- A change of an entry is discarded while the identity holds an entry or an OFFERED granule. -/
def hitHeld (c : Ctl) (h : Nat) : Bool :=
  !(hrtOf c h).isEmpty || c.pool.gt.entries.any (fun e => decide (bits e.2 19 16 = gOFFERED ∧ bits e.2 5 0 = h))
/-- Another VALID entry has the SPID. -/
def spidTaken (c : Ctl) (h spid : Nat) : Bool :=
  (List.range 64).any (fun k => decide (k ≠ h) && hostValid c k && decide (fld c (hitLo k) 11 0 = spid))
/-- The HDM decoder commits (R555, R556, R586). -/
def hdmCommit (base : Nat) (c : Ctl) : Ctl :=
  let h := localHost c
  let b := base / 2 ^ 28 % 2 ^ 24
  if hitHeld c h ∧ fld c (hitHi h) 23 0 ≠ b then discard c (hitHi h) 0
  else if hostValid c h = false ∧ (spidTaken c h (fld c (hitLo h) 11 0) = true ∨ overTracked c h = true) then setFld c (hitHi h) 23 0 b
  else setBit (setFld c (hitHi h) 23 0 b) (hitLo h) 31 true

/-! The commands. -/
/-- Identify (R551). -/
def execIdentify (s : State) : Out := onHost (fun c => mbAnswer c .success (.nums [rd c 0])) s
/-- Background Operation Status: none (R551). -/
def execBackgroundOperationStatus (s : State) : Out := onHost (fun c => mbAnswer c .success (.nums [0])) s
/-- Get Event Records (R553). -/
def execGetEventRecords (h log : Nat) (s : State) : Out := onHost (getRecords h log) s
/-- Clear Event Records (R553). -/
def execClearEventRecords (h log n : Nat) (s : State) : Out := onHost (clearRecords h log n) s
/-- Get Event Interrupt Policy (R551). -/
def execGetEventInterruptPolicy (s : State) : Out := onHost (fun c => mbAnswer c .success (.nums [c.pool.policy])) s
/-- Set Event Interrupt Policy (R551). -/
def execSetEventInterruptPolicy (pol : Nat) (s : State) : Out :=
  onHost (fun c => mbAnswer { c with pool := { c.pool with policy := pol % 2 ^ 40 } } .success .none) s
/-- Get Timestamp: the timestamp as it runs from the base that was set (R551). -/
def execGetTimestamp (s : State) : Out := onHost (fun c => mbAnswer c .success (.nums [cxlTime c])) s
/-- Set Timestamp (R551). -/
def execSetTimestamp (ns : Nat) (s : State) : Out :=
  onHost (fun c => mbAnswer { c with pool := { c.pool with tsBase := ns % 2 ^ 64, tsAt := some c.time.ftc } } .success .none) s
/-- Get Supported Logs: the Command Effects Log only (R551). -/
def execGetSupportedLogs (s : State) : Out := onHost (fun c => mbAnswer c .success (.nums [0])) s
/-- Get Log (R551). -/
def execGetLog (which : Nat) (s : State) : Out :=
  onHost (fun c => if which = 0 then mbAnswer c .success (.nums mbOpcodes) else mbAnswer c .invalidInput .none) s
/-- Identify Memory Device: static capacity 0, volatile and persistent (R550, R551). -/
def execIdentifyMemoryDevice (s : State) : Out := onHost (fun c => mbAnswer c .success (.nums [0, 0])) s
/-- Get Dynamic Capacity Configuration (R550, R551). -/
def execGetDynamicCapacityConfiguration (_h : Nat) (s : State) : Out := onHost (fun c => mbAnswer c .success (.nums region0)) s
/-- Get Dynamic Capacity Extent List (R551). -/
def execGetDynamicCapacityExtentList (h : Nat) (s : State) : Out :=
  onHost (fun c => mbAnswer c .success (.extents (mappedExts c h))) s
/-- Add Dynamic Capacity Response (R568, R570). -/
def execAddDynamicCapacityResponse (h : Nat) (exts : List (Nat × Nat)) (s : State) : Out := onHost (addResponse h exts) s
/-- The accepted extent due first receives its entry (R568, R575). -/
def execExtentMap (s : State) : Out := onServed mapNext s
/-- Release Dynamic Capacity (R571, R601). -/
def execReleaseDynamicCapacity (h : Nat) (exts : List (Nat × Nat)) (s : State) : Out := onHost (releaseExts h exts) s
/-- Get DCD Info: the regions, the host identities, and region 0 (R550, R551). -/
def execGetDcdInfo (s : State) : Out := onHost (fun c => mbAnswer c .success (.nums ([1, 64] ++ region0))) s
/-- Get Host DC Region Configuration (R551). -/
def execGetHostDcRegionConfiguration (h : Nat) (s : State) : Out :=
  onHost (fun c => mbAnswer c (codeOf (decide (h < 64))) (if h < 64 then .nums region0 else .none)) s
/-- Set DC Region Configuration: 256 MiB blocks for region 0, or Invalid Input (R551). -/
def execSetDcRegionConfiguration (region block : Nat) (s : State) : Out :=
  onHost (fun c => mbAnswer c (codeOf (decide (region = 0 ∧ block = 2 ^ 28))) .none) s
/-- Get DC Region Extent Lists: mapped and offered extents of a host, with the offers withdrawn (R551, R569). -/
def execGetDcRegionExtentLists (h : Nat) (s : State) : Out :=
  onHost (fun c => mbAnswer c .success (.extentLists (allExts c h) c.pool.fmView)) s
/-- Initiate Dynamic Capacity Add (R566, R567, R574). -/
def execInitiateDynamicCapacityAdd (h len policy : Nat) (shared : Bool) (tag : Nat) (exts : List (Nat × Nat)) (s : State) : Out :=
  onHost (initiateAdd h len policy shared tag exts) s
/-- Initiate Dynamic Capacity Release (R571, R599). -/
def execInitiateDynamicCapacityRelease (h : Nat) (exts : List (Nat × Nat)) (s : State) : Out := onHost (initiateRelease false h exts) s
/-- A forced release (R613 to R615). -/
def execForcedRelease (h : Nat) (exts : List (Nat × Nat)) (s : State) : Out := onHost (initiateRelease true h exts) s
/-- The opcode of a command that Host Proxy carries (R551). -/
def innerOp : InnerCmd → Nat
  | .getEventRecords _ => 0x0100
  | .clearEventRecords _ _ => 0x0101
  | .getConfiguration => 0x4800
  | .getExtentList => 0x4801
  | .addResponse _ => 0x4802
  | .release _ => 0x4803
  | .other op => op % 2 ^ 16
/-- The first 8 bytes of a Host Proxy's payload, the lowest first: the host identity in byte 0, the inner opcode in bytes 2 and 3; a payload
with another byte not 0, or whose opcode is not that of the command after it, is no Host Proxy payload: Invalid Input (R552, Assumption 86). -/
def execHostProxy (head : Nat) (cmd : InnerCmd) (s : State) : Out :=
  onHost (fun c =>
    let h := bits head 7 0
    if h > 63 ∨ hostValid c h = false ∨ head ≠ h + innerOp cmd * 2 ^ 16 then mbAnswer c .invalidInput .none
    else match cmd with
      | .getEventRecords log => getRecords h log c
      | .clearEventRecords log n => clearRecords h log n c
      | .getConfiguration => mbAnswer c .success (.nums region0)
      | .getExtentList => mbAnswer c .success (.extents (mappedExts c h))
      | .addResponse exts => addResponse h exts c
      | .release exts => releaseExts h exts c
      | .other _ => mbAnswer c .unsupported .none) s
/-- The oldest offer times out (R569). -/
def execOfferTimeout (s : State) : Out := onServed offerTimeout s
/-- A stack's scrub ends (R565). -/
def execScrubComplete (st : Nat) (s : State) : Out := onServed (fun c => if st < 8 then scrubComplete st c else c) s
/-- DEF is set (R573). -/
def execSrDefine (r : Nat) (s : State) : Out := onServed (srDefine r) s
/-- DEL is written (R577). -/
def execSrDelete (r : Nat) (s : State) : Out := onServed (srDelete r) s
/-- A key is loaded (R581). -/
def execKeyLoad (kind slot : Nat) (s : State) : Out := onServed (keyCommand 1 kind slot) s
/-- A key is erased (R583). -/
def execKeyErase (kind slot : Nat) (s : State) : Out := onServed (keyCommand 2 kind slot) s
/-- A host is revived (R624). -/
def execRevive (h : Nat) (s : State) : Out := onServed (reviveHost h) s
/-- The HDM decoder commits (R555). -/
def execHdmDecoderCommit (base : Nat) (s : State) : Out := onHost (hdmCommit base) s
/-- Any other mailbox opcode (R551). -/
def execUnsupportedMailboxOpcode (_op : Nat) (s : State) : Out := onHost (fun c => mbAnswer c .unsupported .none) s

end Sys2Proof.Machine
end

