-- ==== Sys2Proof/Machine/HostPort.lean ====
section
/-! DEFINITION. The host port: rings, doorbells, dispatch, completions, MSI-X and the load of the resident monitor (R874 to R906, R918
to R928). -/
namespace Sys2Proof.Machine

/-! Rings (R881a, R884, R885). -/
def ringCtrl (fn r : Nat) : Nat := ringBase fn r + 8
/-- The ring exists: a VF has rings 0, 1 and 4, if the VF exists (R878, R881a). -/
def ringIs (c : Ctl) (fn r : Nat) : Bool :=
  decide (r < 5) && (decide (fn = 0) || (decide (fn ≤ c.hi.numVfs ∧ fn ≤ 32) && decide (r = 0 ∨ r = 1 ∨ r = 4)))
/-- Changes the hidden state of a ring. -/
def updRing (c : Ctl) (fn r : Nat) (f : Ring → Ring) : Ctl :=
  { c with hi := { c.hi with rings := smUpd c.hi.rings {} (fn * 8 + r) f } }
/-- RUN, and ERROR. -/
def ringRuns (c : Ctl) (fn r : Nat) : Bool := rbit c (ringCtrl fn r) 29
def ringErr (c : Ctl) (fn r : Nat) : Bool := rbit c (ringStat fn r) 2
/-- The ring works: it runs and is not in ERROR. -/
def ringOk (c : Ctl) (fn r : Nat) : Bool := ringRuns c fn r && !ringErr c fn r
/-- Entries of the ring (R884). -/
def ringSize (c : Ctl) (fn r : Nat) : Nat := 2 ^ fld c (ringCtrl fn r) 28 24
/-- Base address. -/
def ringAddr (c : Ctl) (fn r : Nat) : Nat := rd64 c (ringBase fn r)
/-- A ring enters ERROR (R918). -/
def ringError (c : Ctl) (fn r err : Nat) : Ctl :=
  if ringErr c fn r then c
  else
    let c := setFld (setBit c (ringStat fn r) 2 true) (ringStat fn r) 7 4 err
    raise c 0x44C2 noPart (unitBlock c 0x13) (r + err * 2 ^ 4 + fn * 2 ^ 16)

/-! Completions (R892 to R897). -/
/-- The reference of a command whose function was reset: no completion is written for it (R923). -/
def noRef : CmdRef := { ring := 0xFF }
/-- A command has finished: its completion waits to be written (R901). -/
def complete (c : Ctl) (ref : CmdRef) (gen status result : Nat) : Ctl :=
  if ref.ring = 0xFF then c
  else { c with hi := { c.hi with done := c.hi.done ++ [⟨ref, gen, status, result⟩] } }
/-- Entries free for the device in a completion or event ring (R884). -/
def ringFree (c : Ctl) (fn r : Nat) : Nat :=
  let x := ring c fn r
  let n := ringSize c fn r
  n - 1 - (x.head + n - x.tail) % n
/-- One entry of `b` bytes is put into a completion or event ring; it awaits its signal (R905). -/
def ringPut (c : Ctl) (fn r : Nat) (b : Bytes) (urgent : Bool) : Ctl :=
  let x := ring c fn r
  let n := ringSize c fn r
  let h := (x.head + 1) % n
  let c := emit c (.hostWrite (ringAddr c fn r + x.head * b.length) b)
  let c := setFld c (ringBase fn r + 0x10) 15 0 h
  updRing c fn r (fun x => { x with head := h, phase := if h = 0 then !x.phase else x.phase, pend := x.pend + 1,
                                    oldest := if x.pend = 0 then c.time.ftc else x.oldest, urgent := x.urgent || urgent })
/-- The bytes of a completion (R894). -/
def doneBytes (c : Ctl) (d : Done) : Bytes :=
  let q := ring c d.ref.fn d.ref.ring
  leBytes 2 d.ref.cid ++ leBytes 2 q.head ++ leBytes 1 d.gen ++ leBytes 1 d.status ++ leBytes 1 d.ref.ring ++
    leBytes 1 (b2n (ring c d.ref.fn (d.ref.ring + 1)).phase) ++ leBytes 8 d.result
/-- The first finished command of a submission ring has its completion written, if the completion ring works; its slot was held
from dispatch (R896, R897, R901, R920). -/
def writeDone (fn r : Nat) (c : Ctl) : Ctl :=
  if ringOk c fn (r + 1) = false ∨ ringFree c fn (r + 1) = 0 then c
  else match c.hi.done.find? (fun d => d.ref.fn = fn ∧ d.ref.ring = r) with
    | none => c
    | some d =>
      let c := ringPut c fn (r + 1) (doneBytes c d) (d.ref.irq || decide (d.gen ≠ 0))
      let c := updRing c fn r (fun x => { x with busy := x.busy - 1 })
      { c with hi := { c.hi with done := c.hi.done.erase d } }

/-! MSI-X (R905, R906). -/
/-- A function sends a vector, or marks it pending while it is masked (R906). -/
def msix (c : Ctl) (fn vec : Nat) : Ctl :=
  if smGet c.hi.unmasked false (fn * 4096 + vec) then emit c (.msix fn vec)
  else { c with hi := { c.hi with pba := smSet c.hi.pba false (fn * 4096 + vec) true } }
/-- What R905 does at one instant; COAL_TIME is in units of 1,250 tc. -/
def ringSignal (c : Ctl) (fn r : Nat) : Ctl :=
  let x := ring c fn r
  let w := rd c (ringBase fn r + 0xC)
  let cnt := bits w 15 0
  let tm := bits w 31 16
  if rbit c (ringCtrl fn r) 16 ∧ ringOk c fn r ∧ x.pend > 0 ∧
      (x.pend ≥ max cnt 1 ∨ (tm ≠ 0 ∧ c.time.ftc - x.oldest ≥ tm * 1250) ∨ x.urgent) then
    updRing (msix c fn (fld c (ringCtrl fn r) 10 0)) fn r (fun x => { x with pend := 0, urgent := false })
  else c

/-! Start, stop and reset of a ring (R885, R919, R920, R926). -/
/-- A completion ring discards the completions it holds (R920). -/
def dropHeld (c : Ctl) (fn r : Nat) : Ctl :=
  if r = 1 ∨ r = 3 then
    let mine (d : Done) : Bool := decide (d.ref.fn = fn ∧ d.ref.ring + 1 = r)
    let n := (c.hi.done.filter mine).length
    let c := { c with hi := { c.hi with done := c.hi.done.filter (fun d => !mine d) } }
    updRing c fn (r - 1) (fun x => { x with busy := x.busy - n })
  else c
/-- RUN = 1 on a stopped ring: indices 0, phase 1, LOST 0; on PF0 it is discarded while the monitor is not RUNNING (R883, R885). -/
def ringStart (c : Ctl) (fn r : Nat) : Ctl :=
  if ringIs c fn r = false ∨ ringRuns c fn r then c
  else if fn = 0 ∧ monRuns c = false then discardAs c (ringCtrl fn r) (if fn = 0 then ringCtrl fn r else 0x1008 + 0x40 * r) fn
  else
    let c := setBit (setBit c (ringCtrl fn r) 29 true) (ringStat fn r) 0 true
    let c := wr (wr c (ringBase fn r + 0x20) 0) (ringBase fn r + 0x10) 0
    updRing c fn r (fun x => { x with head := 0, tail := 0, db := 0, phase := true, pend := 0, urgent := false, fetched := [] })
/-- The ring stops with its error cleared; entries read and not dispatched are discarded (R919, R926). -/
def ringHalt (c : Ctl) (fn r : Nat) : Ctl :=
  let c := setBit (setBit c (ringCtrl fn r) 29 false) (ringStat fn r) 0 false
  let c := setFld (setBit c (ringStat fn r) 2 false) (ringStat fn r) 7 4 0
  dropHeld (updRing c fn r (fun x => { x with fetched := [], pend := 0, urgent := false })) fn r
/-- RUN = 0 on a running ring (R926). -/
def ringStop (c : Ctl) (fn r : Nat) : Ctl := if ringIs c fn r && ringRuns c fn r then ringHalt c fn r else c
/-- RESET = 1 (R919). -/
def ringReset (c : Ctl) (fn r : Nat) : Ctl :=
  if ringIs c fn r then
    let c := wr (ringHalt c fn r) (ringBase fn r + 0x10) 0
    updRing c fn r (fun x => { x with head := 0, tail := 0, db := 0 })
  else c

/-! Doorbells (R886 to R890, R918, R928). -/
/-- A doorbell of a ring that does not run is discarded with a NOTE (R889). -/
def doorbellStopped (c : Ctl) (fn r : Nat) : Ctl := raise c 0x14C1 noPart (unitBlock c 0x13) (r + fn * 2 ^ 16)
/-- A submission doorbell, with the entries as the host's memory returns them; a read that fails returns none (R886, R890,
R918). PF0's rings fetch only while the monitor runs (R883). -/
def submit (c : Ctl) (fn r tail : Nat) (entries : List Bytes) : Ctl :=
  if ringIs c fn r = false then c
  else if ringRuns c fn r = false then doorbellStopped c fn r
  else if ringErr c fn r ∨ (ring c fn r).db = tail then c
  else if tail ≥ ringSize c fn r then ringError c fn r 1
  else
    let x := ring c fn r
    let n := ringSize c fn r
    let c := updRing c fn r (fun x => { x with db := tail, tail := tail })
    if fn = 0 ∧ monRuns c = false then c
    else
      let k := (tail + n - x.head) % n
      let got := (entries.take k).map (padTo 64)
      let c := updRing c fn r (fun x => { x with head := (x.head + got.length) % n, fetched := x.fetched ++ got })
      let c := setFld c (ringBase fn r + 0x10) 15 0 (ring c fn r).head
      if got.length < k then ringError c fn r 3 else c
/-- A completion or event doorbell (R886, R918). -/
def ringConsume (c : Ctl) (fn r head : Nat) : Ctl :=
  if ringIs c fn r = false then c
  else if ringRuns c fn r = false then doorbellStopped c fn r
  else if ringErr c fn r ∨ (ring c fn r).db = head then c
  else
    let n := ringSize c fn r
    let x := ring c fn r
    if head ≥ n then ringError c fn r 1
    else if (head + n - x.tail) % n > (x.head + n - x.tail) % n then ringError c fn r 2
    else updRing c fn r (fun x => { x with db := head, tail := head })

/-! Dispatch (R891 to R897, R900, R907, R917). -/
/-- Fields of a submission entry. -/
def eOpc (e : Bytes) : Nat := leAt e 0 1
def eFlags (e : Bytes) : Nat := leAt e 1 1
def eCid (e : Bytes) : Nat := leAt e 2 2
def ePart (e : Bytes) : Nat := leAt e 4 1
/-- AT_PASS or ACT_PASS at an offset: the pass when VALID is 1 (R892). -/
def ePass (e : Bytes) (o : Nat) : Option Nat := let v := leAt e o 8; if bitN v 63 then some (v % 2 ^ 48) else none
/-- The reference of an entry of a ring. -/
def refOf (fn r : Nat) (e : Bytes) : CmdRef := { fn := fn, ring := r, cid := eCid e, irq := bitN (eFlags e) 1 }
/-- The opcodes of R892. -/
def opcodes : List Nat := [0x00, 0x01, 0x10, 0x11, 0x12, 0x20, 0x21, 0x22, 0x23, 0x30, 0x40, 0x50, 0x51, 0x60]
/-- The command is accepted on the function and ring (R892, R893, R917). -/
def accepted (fn r : Nat) (e : Bytes) : Bool :=
  let o := eOpc e
  if r = 2 then decide (o = 0x00 ∨ o = 0x60)
  else
    (match o with
     | 0x10 | 0x11 | 0x50 | 0x51 => decide (fn = 0)
     | 0x12 => decide (fn ≠ 0)
     | 0x60 => false
     | 0x40 => decide (fn = 0 ∨ leAt e 8 1 = 0)
     | _ => true) &&
    (decide (fn = 0) || decide (ePart e = 0))
/-- The parameter bytes that a command uses, as (offset, length) from byte 8 on (R892). -/
def usedBytes (e : Bytes) : List (Nat × Nat) :=
  match eOpc e with
  | 0x01 => [(8, 1), (0x10, 8 * min (leAt e 8 1) 6)]
  | 0x10 => [(8, 8), (0x10, 8), (0x18, 8)]
  | 0x12 => [(8, 8), (0x10, 8)]
  | 0x20 | 0x21 | 0x22 => [(8, 8)]
  | 0x30 => [(8, 6), (0x10, 16)]
  | 0x40 => [(8, 1), (0x10, 8)]
  | 0x50 => [(8, 16), (0x18, 2)]
  | 0x51 => [(8, 16)]
  | 0x60 => [(8, 56)]
  | _ => []
/-- The partition field is used: PF0's partition commands, a dump of scope 0 among them (R891, R893). -/
def usesPart (fn : Nat) (e : Bytes) : Bool :=
  decide (fn = 0) && (decide (0x20 ≤ eOpc e ∧ eOpc e ≤ 0x23) || (decide (eOpc e = 0x40) && decide (leAt e 8 1 = 0)))
/-- A pass field is well formed (R892). -/
def passOk (e : Bytes) (o : Nat) : Bool := decide (bits (leAt e o 8) 62 48 = 0)
/-- Every reserved or unused byte is 0 and every parameter in range (R895). -/
def fieldsOk (fn : Nat) (e : Bytes) : Bool :=
  let o := eOpc e
  let used := usedBytes e
  decide (eFlags e < 4) && zeroAt e 5 3 && (if usesPart fn e then decide (ePart e < 32) else decide (ePart e = 0)) &&
    (List.range 56).all (fun i => used.any (fun u => decide (u.1 ≤ 8 + i ∧ 8 + i < u.1 + u.2)) || decide (leAt e (8 + i) 1 = 0)) &&
    (match o with
     | 0x01 => decide (1 ≤ leAt e 8 1 ∧ leAt e 8 1 ≤ 6)
     | 0x10 => decide (leAt e 8 8 % 64 = 0) && passOk e 0x18
     | 0x20 | 0x21 | 0x22 => passOk e 8
     | 0x40 => decide (leAt e 8 1 ≤ 2) && passOk e 0x10
     | 0x50 => decide (leAt e 8 8 < 2 ^ 48)
     | _ => true)
/-- GEN of an entry (R895). -/
def genOf (fn r : Nat) (e : Bytes) : Nat :=
  if !opcodes.contains (eOpc e) then 1 else if !accepted fn r e then 3 else if !fieldsOk fn e then 2 else 0
/-- The first entry read is dispatched when FENCE and a completion slot allow; a GEN other than DONE completes it at once (R895,
R897, R900, R925). -/
def dispatch (fn r : Nat) (c : Ctl) : Ctl :=
  let x := ring c fn r
  match x.fetched with
  | [] => c
  | e :: rest =>
    if ringOk c fn r = false ∨ (fn = 0 ∧ (monRuns c = false ∨ c.db.coreHalted)) ∨ (bitN (eFlags e) 0 ∧ x.busy ≠ 0) ∨ x.busy ≥ 64 ∨
        (ringOk c fn (r + 1) ∧ ringFree c fn (r + 1) ≤ x.busy) then c
    else
      let g := genOf fn r e
      let c := updRing c fn r (fun x => { x with fetched := rest, busy := x.busy + 1, todo := if g = 0 then x.todo ++ [e] else x.todo })
      if g = 0 then c else complete c (refOf fn r e) g 0 0
/-- The command dispatched first on a ring, when it has this opcode (R900). -/
def takeCmd (c : Ctl) (fn r opc : Nat) : Option (Bytes × Ctl) :=
  match (ring c fn r).todo with
  | e :: rest => if eOpc e = opc ∧ regsServed c = true then some (e, updRing c fn r (fun x => { x with todo := rest })) else none
  | [] => none
/-- The command dispatched first on a ring runs, when it has this opcode. -/
def runCmd (fn r opc : Nat) (f : Ctl → Bytes → CmdRef → Ctl) (c : Ctl) : Ctl :=
  match takeCmd c fn r opc with
  | some (e, c) => f c e (refOf fn r e)
  | none => c

/-! The resident monitor (R881 to R883). -/
/-- GO = 1 of HI_MON_CTRL (R882). -/
def monLoad (c : Ctl) : Ctl :=
  let st := fld c 0x1004 1 0
  if st = 1 ∨ st = 2 then discard c 0x1000 0
  else { (setFld (setFld c 0x1004 1 0 1) 0x1004 11 8 0) with hi := { c.hi with monVer := none } }
/-- The first check of the image that fails, as ERR; none when the image passes (R881, R882). -/
def monErr (img : Option Bytes) : Nat :=
  match img with
  | none => 1
  | some b =>
    let len := leAt b 8 4
    if leAt b 0 4 ≠ 0x4E4D5A50 ∨ leAt b 4 2 ≠ 1 then 2
    else if len % 64 ≠ 0 ∨ len < 128 ∨ len > 524288 ∨ leAt b 0xC 4 ≥ len then 3
    else if crc32c (slice b 0 0x3C) ≠ leAt b 0x3C 4 then 4
    else if crc32c (slice b 64 (len - 64)) ≠ leAt b 0x38 4 then 5
    else if !(zeroAt b 6 2 && zeroAt b 0x18 32) then 6
    else 0
/-- The image has been read and is checked; on success the core starts at ENTRY (R882). -/
def monCheck (img : Option Bytes) (c : Ctl) : Ctl :=
  if fld c 0x1004 1 0 = 1 ∧ c.hi.monVer = none then
    let e := monErr img
    if e = 0 then { c with hi := { c.hi with monVer := some (leAt (img.getD []) 0x10 8) } }
    else setFld (setFld c 0x1004 1 0 3) 0x1004 11 8 e
  else c
/-- The management watchdog starts with its full PERIOD; with PERIOD 0 it does not run (R976). -/
def mwdogLoad (c : Ctl) : Ctl :=
  { c with db := { c.db with mwdog := c.time.ftc } }
/-- The monitor reports ready: STATE becomes RUNNING and its watchdog starts (R882, R976). -/
def monReady (c : Ctl) : Ctl :=
  match c.hi.monVer with
  | some v => if fld c 0x1004 1 0 = 1 then mwdogLoad (wr64 (setFld c 0x1004 1 0 2) 0x1010 v) else c
  | none => c

/-! Function-level resets (R879, R880, R920, R923). -/
/-- A function's ring registers and MSI-X table return to their reset values; the completions its rings hold stay for the new
rings. -/
def resetRings (c : Ctl) (fn : Nat) : Ctl :=
  let c := if fn = 0 then resetRegs c 0x1100 0x1240 else resetRegs c (0x20000000 + 0x1000 * fn) (0x20001000 + 0x1000 * fn)
  let c := foldUp 5 (fun c r => updRing c fn r (fun x => { x with head := 0, tail := 0, db := 0, phase := true, fetched := [], pend := 0,
                                                                  urgent := false })) c
  let k := fn * 4096
  { c with hi := { c.hi with unmasked := smClearRange c.hi.unmasked k (k + 4096), pba := smClearRange c.hi.pba k (k + 4096) } }

/-! The commands. -/
/-- A ring starts (R885). -/
def execRingStart (fn r : Nat) (s : State) : Out := onHost (fun c => ringStart c fn r) s
/-- A ring stops (R926). -/
def execRingStop (fn r : Nat) (s : State) : Out := onHost (fun c => ringStop c fn r) s
/-- A ring is reset (R919). -/
def execRingReset (fn r : Nat) (s : State) : Out := onHost (fun c => ringReset c fn r) s
/-- A submission doorbell (R886, R890). -/
def execSubmissionDoorbell (fn r tail : Nat) (entries : List Bytes) (s : State) : Out :=
  onHost (fun c => if r = 0 ∨ r = 2 then submit c fn r tail entries else c) s
/-- A completion or event doorbell (R886). -/
def execCompletionDoorbell (fn r head : Nat) (s : State) : Out :=
  onHost (fun c => if r = 1 ∨ r = 3 ∨ r = 4 then ringConsume c fn r head else c) s
/-- A dispatch (R897, R900, R907). -/
def execCommandDispatch (fn r : Nat) (s : State) : Out := onServed (fun c => if r = 0 ∨ r = 2 then dispatch fn r c else c) s
/-- NOP (R908). -/
def execNop (fn r : Nat) (s : State) : Out := onCtl (runCmd fn r 0x00 (fun c _ ref => complete c ref 0 0 0)) s
/-- A completion is written (R894, R901). -/
def execCompletionWrite (fn r : Nat) (s : State) : Out := onServed (fun c => if r = 0 ∨ r = 2 then writeDone fn r c else c) s
/-- A ring signals: at once where its count or an urgent entry calls for it, else when its COAL_TIME has passed (R905). -/
def execMsixMessage (fn r : Nat) (s : State) : Out :=
  onCtl (fun c =>
    let x := ring c fn r
    let w := rd c (ringBase fn r + 0xC)
    let due := if x.pend ≥ max (bits w 15 0) 1 ∨ x.urgent ∨ bits w 31 16 = 0 then c.time.ftc else x.oldest + bits w 31 16 * 1250
    if x.pend > 0 then (match reach c due with | some c => ringSignal c fn r | none => c) else c) s
/-- A vector is unmasked; a pending message is sent (R906). -/
def execMsixVectorUnmask (fn vec : Nat) (s : State) : Out :=
  onCtl (fun c =>
    let k := fn * 4096 + vec
    let c := { c with hi := { c.hi with unmasked := smSet c.hi.unmasked false k true } }
    if smGet c.hi.pba false k then emit { c with hi := { c.hi with pba := smSet c.hi.pba false k false } } (.msix fn vec) else c) s
/-- Bus mastering of a function is disabled: its running rings enter ERROR (R918, R924). -/
def busMasterOff (fn : Nat) (c : Ctl) : Ctl := foldUp 5 (fun c r => if ringRuns c fn r then ringError c fn r 4 else c) c
/-- The monitor's load starts (R882). -/
def execMonitorLoad (s : State) : Out := onServed monLoad s
/-- The monitor's image is checked (R881, R882). -/
def execMonitorImageCheck (img : Option Bytes) (s : State) : Out := onServed (monCheck img) s
/-- The monitor is ready (R882). -/
def execMonitorReady (s : State) : Out := onServed monReady s

end Sys2Proof.Machine
end

