-- ==== Sys2Proof/Machine/PageMover.lean ====
section
/-! DEFINITION. The page movers (R591 to R594, R603, R604, R622). -/
namespace Sys2Proof.Machine

/-- PM_m_CTRL, PM_m_STAT and the counters. -/
def pmCtrl (m : Nat) : Nat := 0x19000 + 32 * m
def pmStat (m : Nat) : Nat := 0x19004 + 32 * m
/-- The hidden state of a mover. -/
def pmOf (c : Ctl) (m : Nat) : PmSt := smGet c.pool.pms {} m
/-- Stores it, with QUEUED: the commands that wait. -/
def putPm (c : Ctl) (m : Nat) (x : PmSt) : Ctl :=
  let c := { c with pool := { c.pool with pms := smSet c.pool.pms {} m x } }
  setFld c (pmStat m) 31 16 (x.cmds.length - (if x.page then 1 else 0))
/-- Bytes and lines of a page. -/
def pageBytes (k : PmCmd) : Nat := if k.psize = 0 then 4096 else 65536
def pageLines (k : PmCmd) : Nat := pageBytes k / 64
/-- The DPA, and the host address, of the page that is next. -/
def pageDpa (k : PmCmd) : Nat := k.dpa + k.moved * pageBytes k
def pageHost (k : PmCmd) : Nat := k.haddr + k.moved * pageBytes k
/-- The command of an entry (R591, R892). -/
def pmCmdOf (e : Bytes) (ref : CmdRef) : PmCmd :=
  { ref := ref, dir := leAt e 9 1, host := leAt e 0xA 1, psize := leAt e 0xB 1, npages := leAt e 0xC 2, dpa := leAt e 0x10 8,
    haddr := leAt e 0x18 8 }
/-- The granules a command touches. -/
def pmGranules (k : PmCmd) : List Nat := granules k.dpa (k.npages * pageBytes k)
/-- The mover is ON, and not stopped by a CHIP-severity event, after which STATE keeps what it read (R71). -/
def pmOn (c : Ctl) (m : Nat) : Bool := decide (fld c (pmStat m) 1 0 = 1) && !c.ev.contained
/-- The status of the first check that fails; 0 when all hold (R592); a dead host is granted nothing (R622). -/
def pmCheck (c : Ctl) (fn m : Nat) (k : PmCmd) : Nat :=
  if m > 15 ∨ k.dir > 1 ∨ k.host > 63 ∨ k.psize > 1 ∨ k.npages = 0 ∨ k.npages > 256 ∨ k.dpa % pageBytes k ≠ 0 ∨
      k.haddr % pageBytes k ≠ 0 then 1
  else if fld c (pmCtrl m) 13 8 ≠ (if fn = 0 then 0x3F else fn - 1) ∨ pmOn c m = false then 2
  else if k.dpa + k.npages * pageBytes k > 2 ^ 38 ∨ hostDead c k.host = true ∨ (pmGranules k).any (fun g => (hrtFind c k.host g).isNone) then 3
  else if (decide (k.dir = 1) && (pmGranules k).any (fun g => match hrtFind c k.host g with | some e => hrtRo e.2 | none => false)) ||
      (decide (fn ≠ 0) && (pmGranules k).any (fun g => !(decide (gtState c g = gSHARED) && bitN (srMask c (fn - 1)) (gtSr c g)))) then 4
  else 0
/-- The command in progress ends with a status; the next one waits for its first page. -/
def pmEnd (c : Ctl) (m : Nat) (k : PmCmd) (status : Nat) : Ctl :=
  let x := pmOf c m
  complete (putPm c m { x with cmds := x.cmds.drop 1, page := false, dma := false, got := {} }) k.ref 0 status (k.moved % 512)
/-- The next page of the first command starts: its lines join the weir of its host; a line the host is not granted, and one of a
dead endpoint, comes back poisoned. Of the page's bytes that were to come from host memory those given came; where they fall short a read
failed: the lines they fill move, and the command ends after this page (R593). -/
def pmStart (c : Ctl) (m : Nat) (page : Option Bytes) : Ctl :=
  let x := pmOf c m
  match x.cmds with
  | [] => c
  | k :: _ =>
    if x.page ∨ pmOn c m = false then c
    else
      let b := page.getD []
      let n := if k.dir = 1 then b.length / 64 else pageLines k
      let c := putPm c m { x with page := true, dma := decide (n < pageLines k), got := {} }
      foldUp (pageLines k) (fun c i =>
        let a := pageDpa k + 64 * i
        let r : PoolReq := { tag := 0, host := k.host, kind := k.dir, dpa := a,
                             data := BitVec.ofNat 512 (leAt b (64 * i) 64), mask := 2 ^ 64 - 1, pm := some m, idx := i }
        if decide (i < n) && granted c k.host a (decide (k.dir = 1)) && !poolIsFatal c then
          { c with pool := { c.pool with waiting := c.pool.waiting ++ [r] } }
        else pmLine c m i 0 true) c
/-- PAGE_MOVE (R592, R593, R603, R913). -/
def pageMove (page : Option Bytes) (c : Ctl) (e : Bytes) (ref : CmdRef) : Ctl :=
  let m := leAt e 8 1
  let k := pmCmdOf e ref
  let st := pmCheck c ref.fn m k
  if st ≠ 0 then complete c ref 0 st 0
  else
    let x := pmOf c m
    let c := putPm c m { x with cmds := x.cmds ++ [k] }
    if x.cmds.isEmpty then pmStart c m page else c
/-- The lines of a page go to host memory as writes of the owning function, a poisoned one as a poisoned TLP (R593). -/
def pageOut (c : Ctl) (k : PmCmd) (x : PmSt) : Ctl :=
  foldUp (pageLines k) (fun c i =>
    let (d, psn) := (smGet x.got none i).getD (0, true)
    emit c (.pageWrite k.ref.fn (pageHost k + 64 * i) psn (leBytes 64 d.toNat))) c
/-- Every line of the page in progress has come back: the page is complete, and the next one starts or the command ends (R592,
R593); after a failed read of host memory the command ends, and in a drain the pages left are discarded (R61, R603). With no page in progress, the first command's next page starts. -/
def pageDone (m : Nat) (page : Option Bytes) (c : Ctl) : Ctl :=
  let x := pmOf c m
  match x.cmds with
  | [] => c
  | k :: _ =>
    if x.page = false then pmStart c m page
    else if x.got.entries.length < pageLines k then c
    else if x.dma then pmStart (pmEnd c m k 5) m page
    else
      let c := if k.dir = 0 then pageOut c k x else c
      let psn := decide (k.dir = 0) && x.got.entries.any (fun e => match e.2 with | some v => v.2 | none => false)
      let k' := { k with moved := k.moved + 1, poison := k.poison || psn }
      let c := cnt1 c (pmCtrl m + 8)
      let c := putPm c m { x with cmds := k' :: x.cmds.drop 1, page := false, got := {} }
      if k'.moved ≥ k'.npages then pmStart (pmEnd c m k' (if k'.poison then 6 else 0)) m page
      else if fld c (pmStat m) 1 0 ≠ 1 then pmEnd (cnt1 c (pmCtrl m + 0xC)) m k' 7
      else pmStart c m page
/-- A mover gives up the page in progress: its requests that were not accepted are cancelled, and lines that come back later are
nobody's (R622). -/
def pmAbandon (c : Ctl) (m : Nat) : Ctl :=
  let un (r : PoolReq) : PoolReq := if r.pm = some m then { r with pm := some 16 } else r
  { c with pool := { c.pool with waiting := c.pool.waiting.filter (fun r => r.pm ≠ some m),
                                 lines := c.pool.lines.map (fun l => { l with req := un l.req }),
                                 reads := c.pool.reads.map (fun b => { b with line := { b.line with req := un b.line.req } }),
                                 writes := c.pool.writes.map (fun b => { b with line := { b.line with req := un b.line.req } }) } }
/-- Commands of a mover that satisfy a condition complete with DISCARDED; `cnt` tells whether each counts in the drop counter. -/
def pmDiscard (c : Ctl) (m : Nat) (cnt : Bool) (p : Nat → PmCmd → Bool) : Ctl :=
  let x := pmOf c m
  let tagged := x.cmds.zipIdx
  let gone := tagged.filter (fun e => p e.2 e.1)
  let first := gone.any (fun e => e.2 = 0)
  let c := if first ∧ x.page then pmAbandon c m else c
  let c := putPm c m { cmds := (tagged.filter (fun e => !p e.2 e.1)).map (·.1), page := x.page && !first, dma := x.dma && !first,
                       got := if first then {} else x.got }
  let c := if cnt then cntAdd c (pmCtrl m + 0xC) 31 gone.length else c
  gone.foldl (fun c e => complete c e.1.ref 0 7 (e.1.moved % 512)) c
/-- The commands of a dead host stop when its KILL takes effect (R622). -/
def pmKill (c : Ctl) (h : Nat) : Ctl := foldUp 16 (fun c m => pmDiscard c m false (fun _ k => decide (k.host = h))) c
/-- The unmap instant that comes first: a KILL takes effect, or an extent is unmapped; of two at one tc the KILL comes first (R607, R619,
Assumption 84). -/
def unmapInstant (c : Ctl) : Ctl :=
  match c.pool.kills with
  | [] => unmapNext c
  | (h, due) :: r =>
    if (match firstExt c.pool.unmapping with | some x => decide (x.due < due) | none => false) then unmapNext c
    else
      let c := advanceTo c due
      pmKill (killHost h { c with pool := { c.pool with kills := r } }) h
/-- A drain begins: the commands queued behind the page in progress are discarded (R603). -/
def pmDrain (c : Ctl) (m : Nat) : Ctl :=
  let keep := (pmOf c m).page
  pmDiscard c m true (fun i _ => !(keep && decide (i = 0)))
/-- The drain has ended: no page is in progress (R61). -/
def pmIdle (c : Ctl) (m : Nat) : Bool := !(pmOf c m).page

/-! The commands. -/
/-- PAGE_MOVE (R913). -/
def execPageMove (fn : Nat) (page : Option Bytes) (s : State) : Out := onCtl (runCmd fn 0 0x30 (pageMove page)) s
/-- A page is complete (R593). -/
def execPageDone (m : Nat) (page : Option Bytes) (s : State) : Out := onCtl (fun c => whenAlive c (pageDone m page)) s
/-- A KILL of a host is written (R618, R619). -/
def execKill (h : Nat) (s : State) : Out := onServed (killAccept h) s
/-- The unmap instant that comes first (R607, R619). -/
def execUnmap (s : State) : Out := onServed unmapInstant s

end Sys2Proof.Machine
end

