-- ==== Sys2Proof/Machine/Blocks.lean ====
section
/-! DEFINITION. Blocks with an enable: EN taking effect, drains, pending enables, FAULT (R51 to R74), the partition commands that wait for
them (R910, R911) and the commit of staged writes (R43 to R50). -/
namespace Sys2Proof.Machine

/-! Registers and names of the blocks. -/
def blkCtrl : Blk → Nat
  | .hg n => hgCtrl n
  | .lk n => lkCtrl n
  | .sp => 0x40000
  | .part n => ptCtrl n
  | .pm n => pmCtrl n
def blkStat : Blk → Nat
  | .hg n => hgStat n
  | .lk n => lkStat n
  | .sp => rSpStat
  | .part n => ptStat n
  | .pm n => pmStat n
/-- The number of a block's drain timer. -/
def blkKey : Blk → Nat
  | .hg n => n
  | .lk n => lkDrainKey n
  | .sp => 128
  | .part n => 192 + n
  | .pm n => 256 + n
/-- The block exists. -/
def blkIs : Blk → Bool
  | .hg n => decide (n < 16)
  | .lk n => decide (n < 32)
  | .sp => true
  | .part n => decide (n < 32)
  | .pm n => decide (n < 16)
/-- The unit and the partition that an event about a block names (R1031). -/
def blkUnit (c : Ctl) : Blk → Nat
  | .hg n => unitOf c 3 n
  | .lk n => unitOf c 2 n
  | .sp => unitOf c 4 0
  | .part n => unitPart c n
  | .pm _ => unitOf c 7 0
def blkPart : Blk → Nat
  | .part n => n
  | _ => noPart
/-- STATE of a block (R51). -/
def blkState (c : Ctl) (b : Blk) : Nat := fld c (blkStat b) 1 0
/-- Sets STATE, with EN_PENDING. -/
def setState (c : Ctl) (b : Blk) (st : Nat) (pend : Bool) : Ctl := setFld c (blkStat b) 2 0 (st + 4 * b2n pend)

/-! Partition commands that wait (R910, R911). -/
/-- A partition command completes with its STATUS. -/
def partFin (c : Ctl) (cmd : Option CmdRef) (status result : Nat) : Ctl :=
  match cmd with | some r => complete c r 0 status result | none => c
/-- STATE of a partition has become `st`: the commands that waited for it complete; 0 PART_START, 1 PART_STOP, 2 PART_RESET (R911). -/
def partWake (c : Ctl) (p st : Nat) : Ctl :=
  let ends (k : Nat) : Option Nat :=
    if st = 1 then (if k = 0 then some 0 else if k = 1 then some 5 else none)
    else if st = 0 then (if k = 1 then some 0 else if k = 0 then some 5 else none)
    else if k = 0 then some 1 else none
  let w := (part c p).waiting
  let c := updPart c p (fun x => { x with waiting := w.filter (fun e => (ends e.2.1).isNone) })
  w.foldl (fun c e => match ends e.2.1 with
    | some s => complete c e.1 0 s (if s = 0 then passNo c else 0)
    | none => c) c

/-! What a change of STATE does. -/
/-- A partition has become OFF: its error halt ends, its tiles have no pass (R242). -/
def partOff (c : Ctl) (p : Nat) : Ctl :=
  let c := ptFixHalted (setFld (setBit c (ptStat p) 5 false) (ptStat p) 23 16 0) p
  let dbg := rbit c (ptStat p) 6
  let c := (tilesOf c p).foldl (fun c t => updTile c t (fun x =>
    { x with run := .idle, sendq := [], halted := dbg, exc := false })) c
  let c := updPart c p (fun x => { x with inPass := false, began := false, haltDue := none, fresh := false, kick := false })
  let waits (w : Staged) : Bool := decide (w.off = ptCtrl p ∧ w.lo = 3)
  let c := (c.staged.filter waits).foldl (fun c w => partFin c w.cmd 4 0) c
  partWake { c with staged := c.staged.filter (fun w => !waits w) } p 0
/-- STATE has become ON. -/
def blkStart (c : Ctl) : Blk → Ctl
  | .lk n => lkStart c n
  | .sp => spStart c
  | .part p => partWake (dcLatchNow (updPart c p (fun x => { x with fresh := true, inPass := false, began := false, noLedger := false })) p) p 1
  | _ => c
/-- STATE has become DRAINING (R54). -/
def blkDrain (c : Ctl) : Blk → Ctl
  | .hg n => hgDrain c n
  | .sp => spDrain c
  | .pm n => pmDrain c n
  | _ => c
/-- STATE has become OFF after a drain. -/
def blkOff (c : Ctl) : Blk → Ctl
  | .lk n => lkDown c n
  | .sp => spOff c
  | .part p => partOff c p
  | _ => c
/-- The prerequisites of a block, the power state among them (R64, R207, R1102). -/
def blkReady (c : Ctl) : Blk → Bool
  | .hg n => hgReady c n && decide (pwrState c ≠ 3)
  | .lk n => lkReady c n && decide (pwrState c ≠ 3)
  | .sp => spReady c && decide (pwrState c ≠ 3)
  | .part p => fplanOn c && rbit c (ptPlanStat p) 0 && decide (pwrState c < 2)
  | .pm _ => decide (pwrState c ≠ 3)
/-- A block turns ON, or enters FAULT for want of a prerequisite, with BLOCK_FAULT and cause 0 (R53, R64, R1044). -/
def turnOn (c : Ctl) (b : Blk) : Ctl :=
  if blkReady c b then blkStart (setState c b 1 false) b
  else
    let c := raise (setState c b 3 false) 0x0003 (blkPart b) (blkUnit c b) 0
    match b with | .part p => partWake c p 3 | _ => c
/-- EN takes effect (R36, R53, R54, R57, R58, R63, R65, R72). A contained Plezor's blocks keep their STATE (R71). -/
def enEffect (c : Ctl) (b : Blk) (en0 : Bool) : Ctl :=
  let isLk := match b with | .lk _ => true | _ => false
  let refused := isLk && en0 && bench c
  let c := if refused then raise c 0x13C1 noPart (blkUnit c b) 0 else c
  let en := en0 && !refused
  let c := setBit c (blkCtrl b) 0 en
  if c.ev.contained then c
  else match blkState c b, en with
    | 0, true => turnOn c b
    | 1, false =>
      let c := setState c b 2 false
      blkDrain { c with drainAt := smSet c.drainAt 0 (blkKey b) c.time.ftc } b
    | 2, _ => setBit c (blkStat b) 2 en
    | 3, false =>
      let c := setState c b 0 false
      (match b with | .part p => partOff c p | _ => c)
    | _, _ => c
/-- A block's accepted work is complete (R55, R61). -/
def blkIdle (c : Ctl) : Blk → Bool
  | .hg n => hgIdle c n && c.hg.lines.entries.all (fun e => e.2.all (fun x => x.hg ≠ n)) &&
      c.dc.pend.all (fun e => decide (e.hg ≠ n ∨ e.handAt = none))
  | .lk n => lkIdle c n
  | .sp => spIdle c
  | .part p => !(part c p).inPass && nmeQuiet c p &&
      (List.range 16).all (fun m => (pmOf c m).cmds.all (fun k => k.ref.fn ≠ p + 1))
  | .pm n => pmIdle c n
/-- A drain ends: STATE becomes OFF, or ON when EN_PENDING is 1 (R55, R59). -/
def drainEnd (c : Ctl) (b : Blk) : Ctl :=
  let pend := rbit c (blkStat b) 2
  let c := blkOff (setState { c with drainAt := smSet c.drainAt 0 (blkKey b) 0 } b 0 false) b
  if pend then turnOn c b else c
/-- A drain whose work is complete ends; `at_` tells that it began before the present boundary. -/
def drainTry (c : Ctl) (b : Blk) : Ctl :=
  if blkState c b = 2 ∧ blkIdle c b = true ∧ c.ev.contained = false then drainEnd c b else c
/-- Every block. -/
def allBlks : List Blk :=
  (List.range 16).map .hg ++ (List.range 32).map .lk ++ [.sp] ++ (List.range 32).map .part ++ (List.range 16).map .pm
/-- The drains that end at a boundary: those that began before it (R55). -/
def drainsEnd (c : Ctl) : Ctl :=
  allBlks.foldl (fun c b => if smGet c.drainAt 0 (blkKey b) < c.time.ftc then drainTry c b else c) c
/-- The bound of a block's drain, in tc (R61). -/
def drainBound (c : Ctl) : Blk → Nat
  | .hg _ => 2 * passLen c
  | .lk _ => 2 * passLen c
  | .sp => 20000000
  | .part _ => 4 * passLen c
  | .pm _ => 50000
/-- A block discards its remaining work: each unit counts in its drop counter, a headgate's in RX_DRAIN, a partition's in PTn_DROP. Answers the
units discarded (R62). -/
def blkDiscard (c : Ctl) : Blk → Ctl × Nat
  | .hg n => hgCut c n
  | .lk n =>
    lkCut c n
  | .sp => (c, 0)
  | .part p =>
    let mine (k : PmCmd) : Bool := decide (k.ref.fn = p + 1)
    let pages := foldUp 16 (fun n m => n + ((pmOf c m).cmds.filter mine).length) 0
    let k := (nmeOps c p).length + (c.noc.nmeq.filter (fun h => h.part = p)).length + pages + b2n (part c p).inPass
    let c := foldUp 16 (fun c m => pmDiscard c m false (fun _ k => mine k)) c
    (cntAdd (cancelOps c p) (ptDrop p) 31 k, k)
  | .pm n =>
    let k := (pmOf c n).cmds.length
    (pmDiscard c n true (fun _ _ => true), k)
/-- A PART reset of the block is in progress; its drain has ended (R69). -/
def blkResetting (c : Ctl) : Blk → Bool
  | .part p => (part c p).resetting
  | _ => false
/-- A drain reaches its bound: the block stops at once (R62). -/
def drainTimeout (c : Ctl) (b : Blk) : Ctl :=
  if blkState c b = 2 ∧ c.ev.contained = false ∧ blkResetting c b = false then
    match reach c (smGet c.drainAt 0 (blkKey b) + drainBound c b) with
    | none => c
    | some c =>
      let (c, k) := blkDiscard c b
      let c := raise c 0x0004 (blkPart b) (blkUnit c b) k
      drainEnd c b
  else c

/-! Staged writes (R43 to R50, R205, R218). -/
/-- The block whose EN a staged field is. -/
def enOf (off : Nat) : Option Blk := allBlks.find? (fun b => decide (blkCtrl b = off))
/-- A write of EN takes effect, with the command that wrote it (R911). -/
def enCommit (c : Ctl) (b : Blk) (en : Bool) (cmd : Option CmdRef) : Ctl :=
  match b, cmd with
  | .part p, some r =>
    let st := blkState c b
    if (en = true ∧ (st = 1 ∨ st = 3)) ∨ (en = false ∧ st = 0) then complete (enEffect c b en) r 0 4 0
    else enEffect (updPart c p (fun x => { x with waiting := x.waiting ++ [(r, if en then 0 else 1, c.time.ftc)] })) b en
  | _, _ => enEffect c b en
/-- The watchdog count of a partition is loaded (R209, R222). -/
def wdogLoad (c : Ctl) (p : Nat) : Ctl := setFld c (ptWdog p) 15 0 (wdogOf c p)
/-- A RESUME takes effect: the error halt of cause 0x02 or 0x04 ends; the watchdog count is loaded when no debug halt goes on (R218, R222). In a contained Plezor PTn_STAT holds (R71, R246). -/
def resumeCommit (m : Mem) (c : Ctl) (p : Nat) (cmd : Option CmdRef) : Ctl :=
  let cause := fld c (ptStat p) 23 16
  if rbit c (ptStat p) 5 ∧ (cause = 2 ∨ cause = 4) ∧ c.ev.contained = false then
    let c := ptFixHalted (setFld (setBit c (ptStat p) 5 false) (ptStat p) 23 16 0) p
    let c := if ptHalted c p then c else (tilesOf c p).foldl (fun c t => resumeTile c m t) (wdogLoad c p)
    partFin c cmd 0 (passNo c)
  else partFin c cmd 4 0
/-- A staged write takes effect. -/
def applyStaged (m : Mem) (c : Ctl) (w : Staged) : Ctl :=
  if w.lo = 0 ∧ w.hi = 0 then
    match enOf w.off with
    | some b => enCommit c b (decide (w.val ≠ 0)) w.cmd
    | none => setFld c w.off w.hi w.lo w.val
  else if 0x100000 ≤ w.off ∧ w.off < 0x120000 then resumeCommit m c ((w.off - 0x100000) / 0x1000) w.cmd
  else if 0x14C00 ≤ w.off ∧ w.off < 0x14E00 then failClear ((w.off - 0x14C00) / 16) c
  else ctxFresh (setFld c w.off w.hi w.lo w.val) w.off
/-- Two staged writes of one field. -/
def sameField (a b : Staged) : Bool := decide (a.off = b.off ∧ a.hi = b.hi ∧ a.lo = b.lo)
/-- The writes of a list that take effect: of several to one field the last accepted (R45). -/
def winners : List Staged → List Staged
  | [] => []
  | w :: r => if r.any (sameField w) then winners r else w :: winners r
/-- The writes of a list take effect, EN and RESUME after the others; the commands of the others are superseded (R45, R88, R911). -/
def commitList (m : Mem) (c : Ctl) (l : List Staged) : Ctl :=
  let ws := winners l
  let isEn (w : Staged) : Bool := (enOf w.off).isSome && decide (w.lo = 0 ∨ w.lo = 3)
  let c := (l.filter (fun w => !ws.contains w)).foldl (fun c w => partFin c w.cmd 5 0) c
  let c := (ws.filter (fun w => !isEn w)).foldl (applyStaged m) c
  (ws.filter isEn).foldl (applyStaged m) c
/-- PTn_EN_AT. -/
def enAt (c : Ctl) (p : Nat) : Nat := rd64 c (ptEnAt p) % 2 ^ 48
/-- The partition of a PTn register. -/
def ptOf (off : Nat) : Nat := (off - 0x100000) / 0x1000
/-- A write that waits for PTn_EN_AT is too late: AT_LATE, its event and its command (R206). -/
def atLate (c : Ctl) (p : Nat) (cmd : Option CmdRef) : Ctl :=
  partFin (raise (hwBit c (ptStat p) 8) 0x3181 p (unitPart c p) (enAt c p)) cmd 2 0
/-- A staged write commits at the boundary of pass `n`, which falls at FTC `t` (R43, R48, R49, R205). HOLD does not hold back a write that
waits for PTn_EN_AT: DESIGN CHOICE, for R48 and R205 do not settle it (Assumption 48). -/
def eligible (c : Ctl) (n t : Nat) (w : Staged) : Bool :=
  if w.atEn then decide (enAt c (ptOf w.off) = n)
  else decide (w.acc + 64 ≤ t) && (w.vf || !rbit c rStageCtrl 0)
/-- The staged commits of a boundary (R43, R50). -/
def commitAt (m : Mem) (c : Ctl) (n t : Nat) : Ctl :=
  let l := c.staged.filter (eligible c n t)
  if l.isEmpty then c
  else
    let c := wr64 { c with staged := c.staged.filter (fun w => !l.contains w) } rLastCommit (n % 2 ^ 48)
    commitList m c l
/-- Adds a staged write. -/
def stage (c : Ctl) (w : Staged) : Ctl := { c with staged := c.staged ++ [w] }
/-- A write of a staged field: it waits while the epoch runs and on the bypass path, and otherwise takes effect (R43, R44, R80). -/
def stageField (m : Mem) (c : Ctl) (off hi lo val : Nat) (vf : Bool) : Ctl :=
  let w : Staged := { off := off, hi := hi, lo := lo, val := val, acc := c.time.ftc, vf := vf }
  if stagedWait c then stage c w else applyStaged m (if 0x800000 ≤ off ∧ off < 0x1000000 then hgSnap c c.time.ftc [w] else c) w

/-! Writes of EN (R52, R57, R58, R205 to R208, R1171). -/
/-- Partition `p`'s grant changes in the swap that is pending (R197, R208). -/
def swapChanges (c : Ctl) (p : Nat) : Bool :=
  match c.plan.pending with | some f => !(grantChanges p (fplan c) f).isEmpty | none => false
/-- A write of a partition's EN. -/
def ptEnWrite (m : Mem) (c : Ctl) (p : Nat) (en : Bool) (vf : Bool) (cmd : Option CmdRef) : Ctl :=
  let w : Staged := { off := ptCtrl p, hi := 0, lo := 0, val := b2n en, acc := c.time.ftc, vf := vf, cmd := cmd }
  if (part c p).resetting then partFin c cmd 4 0
  else if en = true ∧ swapChanges c p = true then partFin (raise c 0x1182 p (unitPart c p) 0) cmd 3 0
  else if ptState c p = 2 then enCommit c (.part p) en cmd
  else if rbit c (ptCtrl p) 1 then
    if c.time.epoch ∧ boundaryOf c (enAt c p) < c.time.ftc + 64 then atLate c p cmd else stage c { w with atEn := true }
  else if stagedWait c then stage c w
  else applyStaged m c w
/-- A write of EN of any block. -/
def enWrite (m : Mem) (c : Ctl) (b : Blk) (en vf : Bool) (cmd : Option CmdRef) : Ctl :=
  match b with
  | .part p => ptEnWrite m c p en vf cmd
  | _ => if blkState c b = 2 then enEffect c b en else stageField m c (blkCtrl b) 0 0 (b2n en) vf
/-- A write of RESUME (R218, R219, R241). -/
def resumeWrite (m : Mem) (c : Ctl) (p : Nat) (vf : Bool) (cmd : Option CmdRef) : Ctl :=
  let cause := fld c (ptStat p) 23 16
  let w : Staged := { off := ptCtrl p, hi := 3, lo := 3, val := 1, acc := c.time.ftc, vf := vf, cmd := cmd }
  if rbit c (ptStat p) 5 = false ∨ (cause ≠ 2 ∧ cause ≠ 4) then partFin (raise c 0x1184 p (unitPart c p) cause) cmd 4 0
  else if rbit c (ptCtrl p) 1 then
    if c.time.epoch ∧ boundaryOf c (enAt c p) < c.time.ftc + 64 then atLate c p cmd else stage c { w with atEn := true }
  else if stagedWait c then stage c w
  else applyStaged m c w
/-- The writes of partition `p` that wait for PTn_EN_AT. -/
def atWaits (p : Nat) (w : Staged) : Bool := decide (w.off = ptCtrl p) && w.atEn
/-- A write of PTn_EN_AT has taken effect: waiting writes move with it, or are too late (R239). -/
def enAtMoved (c : Ctl) (p : Nat) : Ctl :=
  let l := c.staged.filter (atWaits p)
  if c.time.epoch ∧ boundaryOf c (enAt c p) < c.time.ftc + 64 then
    l.foldl (fun c w => atLate c p w.cmd) { c with staged := c.staged.filter (fun w => !atWaits p w) }
  else c
/-- AT_EN is written 0: waiting writes commit under R43 from now, or at once while no epoch runs, but on the bypass path (R80, R240, R241). -/
def atEnCleared (m : Mem) (c : Ctl) (p : Nat) : Ctl :=
  if stagedWait c then
    { c with staged := c.staged.map (fun w => if atWaits p w then { w with atEn := false, acc := c.time.ftc } else w) }
  else
    let l := c.staged.filter (atWaits p)
    commitList m { c with staged := c.staged.filter (fun w => !atWaits p w) } l

end Sys2Proof.Machine
end

