-- ==== Sys2Proof/Machine/Partitions.lean ====
section
/-! DEFINITION. Partition resets, the end of a plan load, and tiles that change hands (R185, R186, R193 to R196, R225 to R228, R922). -/
namespace Sys2Proof.Machine

/-! The end of a load (R177, R194, R909, R1173). -/
/-- A load or unload reports: its code and section index are recorded, its command completes; `result` of a success. -/
def loadReport (c : Ctl) (l : Loader) (code sect result : Nat) : Ctl :=
  let c := if l.kind = 2 then setFld c (ptPlanStat l.part) 15 8 code else setFld c rPlStat 15 8 code
  let c := if code = 0 then c else setFld c rPlErrSect 15 0 sect
  complete c l.ref 0 code (if code = 0 then result else sect)
/-- The load or unload in progress ends. -/
def loadEnd (c : Ctl) (code sect result : Nat) : Ctl :=
  let l := c.plan.loader
  let c := if l.kind = 2 then setBit c rPlStat 2 false else setBit (setBit c rPlStat 1 false) rPlStat 3 false
  let c := loadReport c l code sect result
  { c with plan := { c.plan with loader := {}, pending := none } }
/-- A loaded plan of a partition is discarded (R185, R196). -/
def planDrop (c : Ctl) (p : Nat) : Ctl :=
  let c := wr64 (setBit c (ptPlanStat p) 0 false) (ptPlanId p) 0
  { c with plan := { c.plan with loaded := smSet c.plan.loaded none p none } }

/-! Clearing tiles (R185, R226). -/
/-- Bytes of a memory from `lo` to below `hi` are 0. -/
def memZero (m : SMap Byte) (lo hi : Nat) : SMap Byte := smClearRange m lo hi
/-- A tile returns to its reset state: instruction RAM, tile memory, registers, counters, recorded state; its debug registers stay. -/
def clearTile (cm : CM) (t : Nat) : CM :=
  let c := putTile cm.1 t {}
  let c := resetRegs c (tlBase t) (tlBase t + 0x80)
  let m := cm.2
  (c, { m with tm := memZero m.tm (t * 524288) ((t + 1) * 524288), im := memZero m.im (t * 65536) ((t + 1) * 65536),
               badWord := smClearRange m.badWord (t * 65536) ((t + 1) * 65536),
               weakWord := smClearRange m.weakWord (t * 65536) ((t + 1) * 65536),
               badBundle := smClearRange m.badBundle (t * 4096) ((t + 1) * 4096),
               weakBundle := smClearRange m.weakBundle (t * 4096) ((t + 1) * 4096) })

/-! Partition reset (R225 to R228). -/
/-- The partition is in a dump that runs or waits, and that has not lost it to a hold that expired (R1019). -/
def inDump (c : Ctl) (p : Nat) : Bool :=
  ((match c.dump.running with | some d => [d.req] | none => []) ++ c.dump.queue).any (fun r => bitN r.mask p && !bitN r.lost p)
/-- A PART reset begins: drain, staged writes and load end, tiles stop, operations are cancelled (R69, R226, R922). Its page-mover requests go
on, as R604 and R923 say (Assumption 47). In a contained Plezor it does not begin: PTn_STAT holds (R71, R246). -/
def resetBegin (c : Ctl) (p : Nat) : Ctl :=
  if c.ev.contained then c else
  let mine (w : Staged) : Bool := decide (ptBase p ≤ w.off ∧ w.off < ptBase p + 0x1000)
  let c := (c.staged.filter mine).foldl (fun c w => partFin c w.cmd 6 0) c
  let c := { c with staged := c.staged.filter (fun w => !mine w) }
  let w := (part c p).waiting
  let c := (w.filter (fun e => e.2.1 ≠ 2)).foldl (fun c e => complete c e.1 0 6 0) c
  let l := c.plan.loader
  let c := if l.kind = 2 ∧ l.part = p ∧ (l.stage = .checks ∨ l.stage = .writes) then loadEnd c 7 noSect 0 else c
  let c := (tilesOf c p).foldl (fun c t => updTile c t (fun x => { x with run := .idle, sendq := [] })) c
  let c := cancelOps c p
  let c := setBit (setBit c (ptStat p) 2 false) (ptStat p) 7 false
  let c := if ptState c p = 2 then { (setFld c (ptStat p) 1 0 0) with drainAt := smSet c.drainAt 0 (192 + p) 0 } else c
  updPart c p (fun x => { x with resetting := true, heldAt := none, inPass := false, began := false, haltDue := none, waiting := w.filter (fun e => e.2.1 = 2) })
/-- A PART reset is requested; it is held off while the partition is in a dump (R225, R228). -/
def partReset (c : Ctl) (p : Nat) (cmd : Option CmdRef) : Ctl :=
  let c := match cmd with
    | some r => updPart c p (fun x => { x with waiting := x.waiting ++ [(r, 2, c.time.ftc)] })
    | none => c
  if (part c p).resetting ∨ (part c p).heldAt ≠ none ∨ c.ev.contained then c
  else if inDump c p then updPart (setBit c (ptStat p) 7 true) p (fun x => { x with heldAt := some c.time.ftc })
  else resetBegin c p
/-- A PART reset ends: plan, tiles and PART registers are cleared, the partition is OFF; DBG_HALT stays (R226, R227). -/
def resetDone (p : Nat) (cm : CM) : CM :=
  if (part cm.1 p).resetting ∧ cm.1.ev.contained = false then
    let dbg := rbit cm.1 (ptStat p) 6
    let w := (part cm.1 p).waiting
    let ts := tilesOf cm.1 p
    let cm := ts.foldl clearTile cm
    let c := ts.foldl (fun c t => updTile c t (fun x => { x with halted := dbg })) cm.1
    let c := planDrop c p
    let c := resetRegs c (ptBase p) (ptBase p + 0x1000)
    let c := ptFixHalted (setBit c (ptStat p) 6 dbg) p
    let c := resetRegs c (0x6100 + 16 * p) (0x6110 + 16 * p)
    let c := lkPartReset c p
    let c := { c with parts := smSet c.parts {} p {} }
    (w.foldl (fun c e => complete c e.1 0 0 0) c, cm.2)
  else cm
/-- Resets that a dump held off proceed once no dump holds the partition (R228). -/
def heldResets (c : Ctl) : Ctl :=
  foldUp 32 (fun c p => if (part c p).heldAt ≠ none ∧ inDump c p = false then resetBegin c p else c) c

/-! The commands. -/
/-- A write of RESET (R225). -/
def execPartitionReset (p : Nat) (s : State) : Out := onCtl (fun c => if p < 32 ∧ regsServed c then partReset c p none else c) s
/-- A PART reset ends (R226). -/
def execPartResetComplete (p : Nat) (s : State) : Out := onAll (fun cm => if p < 32 ∧ hclkRuns cm.1 then resetDone p cm else cm) s
/-- A write of RESUME (R218, R219). -/
def execResume (p : Nat) (s : State) : Out := onCtlM (fun m c => if p < 32 ∧ regsServed c then resumeWrite m c p false none else c) s
/-- A write of AT_EN (R240). -/
def execAtEn (p : Nat) (on : Bool) (s : State) : Out :=
  onCtlM (fun m c =>
    if p < 32 ∧ (part c p).resetting = false ∧ regsServed c then
      let was := rbit c (ptCtrl p) 1
      let c := setBit c (ptCtrl p) 1 on
      if was = true ∧ on = false then atEnCleared m c p else c
    else c) s
/-- A write of PTn_EN_AT (R239). -/
def execEnAt (p pass : Nat) (s : State) : Out :=
  onCtl (fun c => if p < 32 ∧ (part c p).resetting = false ∧ regsServed c then enAtMoved (wr64 c (ptEnAt p) (pass % 2 ^ 48)) p else c) s

end Sys2Proof.Machine
end

