-- ==== Sys2Proof/Machine/Dumps.lean ====
section
/-! DEFINITION. The dump sequencer: start, records, end, catalogs, resets (R992 to R1029). -/
namespace Sys2Proof.Machine

/-! The region (R999 to R1001). -/
/-- The granules of the latched region, rising (R504, DM_REGION_Gj). -/
def regionGrans (c : Ctl) : List Nat := (List.range 1024).filter (fun g => rbit c (0x4024 + 4 * (g / 32)) (g % 32))
/-- The DM address of a region offset (R1000). -/
def regionAddr (gs : List Nat) (r : Nat) : Nat := gs.getD (r / 2 ^ 28) 0 * 2 ^ 28 + r % 2 ^ 28
/-- The sequencer reaches device memory (R930). -/
def dmUp (c : Ctl) : Bool := tilesUp c && !c.pwr.chip
/-- The beats of bytes of the region; `r` and the length are multiples of 32. -/
def regionBeats (gs : List Nat) (r : Nat) (bs : Bytes) : List (Nat × BitVec 256) :=
  (List.range (bs.length / 32)).map (fun i => (regionAddr gs (r + 32 * i), BitVec.ofNat 256 (leAt bs (32 * i) 32)))
/-- Writes beats one after another. -/
def putBeats (l : List (Nat × BitVec 256)) (cm : CM) : CM := l.foldl (fun cm b => dmWrite cm b.1 b.2 false) cm
/-- While no frame plan is in force, the catalog beats that wait are written at once (R148). -/
def flushCat (cm : CM) : CM :=
  if inForce cm.1 then cm
  else putBeats cm.1.dump.catq ({ cm.1 with dump := { cm.1.dump with catq := [] } }, cm.2)
/-- Bytes of a catalog are written: in CULV slots still to come while a frame plan is in force (R147, R1011). -/
def regionWrite (gs : List Nat) (cm : CM) (r : Nat) (bs : Bytes) : CM :=
  flushCat ({ cm.1 with dump := { cm.1.dump with catq := cm.1.dump.catq ++ regionBeats gs r bs } }, cm.2)
/-- The catalog beats that wait on a pseudo-channel are written in a CULV slot of it, up to 15; the number of beats left for the slot. -/
def catBeats (q : Nat) (cm : CM) : CM × Nat :=
  let l := (cm.1.dump.catq.filter (fun b => pchOf b.1 = q)).take 15
  (putBeats l ({ cm.1 with dump := { cm.1.dump with catq := cm.1.dump.catq.filter (fun b => !l.contains b) } }, cm.2), 15 - l.length)
/-- The lowest region offset that holds `n` bytes clear of every catalog in use (R1001). -/
def placeFor (c : Ctl) (n : Nat) : Option Nat :=
  let used := c.dump.cats.entries.filterMap (·.2)
  let size := (regionGrans c).length * 2 ^ 28
  let fits (o : Nat) : Bool := decide (o + n ≤ size) && used.all (fun u => decide (o + n ≤ u.1 ∨ u.1 + u.2 ≤ o))
  let cands := (1048576 :: used.map (fun u => u.1 + u.2)).filter fits
  cands.foldl (fun b o => match b with | none => some o | some x => some (min x o)) none

/-! Catalogs (R1003, R1004). -/
/-- Entries in a state. -/
def entCount (es : List DumpEnt) (st : Nat) : Nat := (es.filter (fun e => e.state = st)).length
/-- The header of a catalog; STATUS 1 RUNNING, 2 COMPLETE, 3 PARTIAL. -/
def catHead (c : Ctl) (d : Dump) (status : Nat) : Bytes :=
  let r := d.req
  withCrc (leBytes 4 0x48535A50 ++ leBytes 2 1 ++ leBytes 1 status ++ leBytes 1 r.scope ++ leBytes 8 (dumpId r) ++ leBytes 6 r.pass ++
    leBytes 1 r.trigger ++ leBytes 1 (b2n r.mid * 2 + b2n r.late) ++ leBytes 4 r.mask ++ leBytes 2 d.ents.length ++
    leBytes 2 (entCount d.ents 2) ++ leBytes 2 (entCount d.ents 3) ++ leBytes 2 (plezorId c) ++ leBytes 2 r.ev ++ leBytes 2 0 ++
    leBytes 8 d.startTs ++ leBytes 8 d.endTs ++ leBytes 4 0)
/-- The bytes of an entry. -/
def entBytes (e : DumpEnt) : Bytes :=
  leBytes 4 e.unit ++ leBytes 1 e.kind ++ leBytes 1 e.state ++ leBytes 1 e.flags ++ [0] ++ leBytes 8 e.off ++ leBytes 4 e.len ++
    leBytes 4 e.crc ++ leBytes 8 e.ts
/-- The header is written. -/
def writeHead (d : Dump) (status : Nat) (cm : CM) : CM :=
  regionWrite (regionGrans cm.1) cm (65536 * d.cat) (catHead cm.1 d status)
/-- Entry `i` is written. -/
def writeEnt (d : Dump) (cm : CM) (i : Nat) : CM :=
  match d.ents[i]? with
  | some e => regionWrite (regionGrans cm.1) cm (65536 * d.cat + 64 + 32 * i) (entBytes e)
  | none => cm
/-- Every entry is written. -/
def writeEnts (d : Dump) (cm : CM) : CM := (List.range d.ents.length).foldl (writeEnt d) cm
/-- The summary of a dump with a catalog. -/
def dumpSum (c : Ctl) (d : Dump) (state : Nat) : Ctl :=
  putSum c d.seq state d.req d.cat d.startTs d.endTs d.ents.length (entCount d.ents 2) (entCount d.ents 3)
/-- Summaries that wait are written into the keep store (R1020, R1088). -/
def keepNow (cm : CM) : CM :=
  let (c, m) := cm
  if c.dump.sums = [] then cm
  else ({ c with dump := { c.dump with sums := [] } },
    { m with keep := c.dump.sums.foldl (fun k s => writeBytes k (0x3000 + 64 * s.1) (padTo 64 s.2)) m.keep })

/-! Start (R1001, R1005, R1010). -/
/-- The partitions of a scope (R997). -/
def scopeMask (c : Ctl) (r : DumpReq) : Nat :=
  (List.range 32).foldl (fun n p => n + b2n (bitN (if r.scope = 1 then 2 ^ 32 - 1 else r.mask) p && !(tilesOf c p).isEmpty) * 2 ^ p) 0
/-- Lays records out one after another from an offset. -/
def layOut (ts mask : Nat) (mid : Nat → Bool) : Nat → List (Nat × Nat × Nat) → List DumpEnt
  | _, [] => []
  | o, (k, u, n) :: r =>
    { unit := u, kind := k, off := o, len := n, ts := ts, flags := if k = 1 ∧ mid (u % 4096) = true then 4 else 0 } ::
      layOut ts mask mid (o + n) r
/-- The records of a scope in catalog order: kind, unit and length (R1005). -/
def scopeRecs (c : Ctl) (r : DumpReq) (mask : Nat) : List (Nat × Nat × Nat) :=
  let ps := (List.range 32).filter (bitN mask)
  ((List.range 1024).filter (fun t => decide (tileOwner c t < 32) && bitN mask (tileOwner c t))).map (fun t => (1, unitOf c 0 t, 648000)) ++
    ps.map (fun p => (2, unitOf c 0xC p, 8256)) ++ ps.map (fun p => (3, unitOf c 0xC p, 1048704)) ++
    (if r.scope = 1 then (List.range 309).map (blockEnt c) else [])
/-- The RESULT of a DUMP_REQ (R1013). -/
def dumpResult (r : DumpReq) (cat : Nat) : Nat := r.pass % 2 ^ 48 + cat % 16 * 2 ^ 48 + b2n r.late * 2 ^ 52 + b2n r.mid * 2 ^ 53
/-- A DUMP_REQ completes. -/
def dumpFin (c : Ctl) (r : DumpReq) (status cat : Nat) : Ctl := partFin c r.ref status (dumpResult r cat)
/-- The scope is stopped and quiet, and its NME operations are complete (R1010); a contained Plezor waits for neither. -/
def scopeQuiet (c : Ctl) (mask : Nat) : Bool :=
  c.ev.contained || (List.range 32).all (fun p => !bitN mask p ||
    ((tilesOf c p).all (fun t => (tile c t).quiet) && nmeQuiet c p))
/-- The entry belongs to a partition (R1019). -/
def entOfPart (c : Ctl) (p : Nat) (e : DumpEnt) : Bool :=
  if e.kind = 1 then decide (tileOwner c (e.unit % 4096) = p) else decide (e.kind ≤ 3 ∧ e.unit % 4096 = p)
/-- The entries of the partitions that a dump has lost and that are not DONE become LOST (R1019). -/
def loseParts (c : Ctl) (r : DumpReq) (es : List DumpEnt) : List DumpEnt :=
  es.map (fun e => if e.state ≠ 2 ∧ (List.range 32).any (fun p => bitN r.lost p && entOfPart c p e) = true then { e with state := 3 } else e)
/-- The first dump of the queue starts, or finds no catalog or no space (R1001, R1010). -/
def dumpStart (cm : CM) : CM :=
  let c := cm.1
  match c.dump.queue, c.dump.running, c.dump.cut with
  | r0 :: rest, none, none =>
    let mask := scopeMask c r0
    if scopeQuiet c (mask - (mask &&& r0.lost)) = false ∨ dmUp c = false then cm
    else
      let r := { r0 with mask := mask }
      let c := { c with dump := { c.dump with queue := rest } }
      let recs := scopeRecs c r mask
      let total := (recs.map (fun e => e.2.2)).sum
      match (List.range 16).find? (fun i => (smGet c.dump.cats none i).isNone) with
      | none => keepNow (heldResets (dumpFin (lostSum c 5 r) r 3 0), cm.2)
      | some cat =>
        match placeFor c total with
        | none => keepNow (heldResets (dumpFin (lostSum (cnt1 c (rDmCnt 2)) 4 r) r 2 0), cm.2)
        | some base =>
          let mid (t : Nat) : Bool := decide ((tile c t).run = .run ∨ (tile c t).run = .ending)
          let d : Dump :=
            { req := r, cat := cat, ents := loseParts c r (layOut r.ts mask mid base recs), base := base, total := total, startTs := stamp c, startAt := c.time.ftc, seq := c.dump.seq + 1 }
          let c := cnt1 c (rDmCnt 0)
          let c := { c with dump := { c.dump with running := some d, cats := smSet c.dump.cats none cat (some (base, total)), seq := d.seq } }
          keepNow (writeEnts d (writeHead d 1 (dumpSum c d 1, cm.2)))
  | _, _, _ => cm

/-! Records (R1011, R1012). -/
/-- The owner whose slots write an entry's beats on a pseudo-channel: its partition, or 32, the culvert (R1012). -/
def pathOf (c : Ctl) (e : DumpEnt) (q : Nat) : Nat :=
  let p := if e.kind = 1 then tileOwner c (e.unit % 4096) else if e.kind ≤ 3 then e.unit % 4096 else 32
  if p < 32 ∧ (List.range (hslots c)).any (fun s => decide (hbmOwner c q s = p)) then p else 32
/-- The first region offset from `r` on whose beat lies on a pseudo-channel: 256 of every 16,384 bytes of a granule of its stack
(R501, R504). -/
def nextOn (gs : List Nat) (q : Nat) : Nat → Nat → Option Nat
  | 0, _ => none
  | n + 1, r =>
    let j := r / 2 ^ 28
    match gs[j]? with
    | none => none
    | some g =>
      if g % 8 ≠ q / 64 then nextOn gs q n ((j + 1) * 2 ^ 28)
      else
        let w := r % 16384
        let lo := q % 64 * 256
        if w < lo then some (r - w + lo)
        else if w < lo + 256 then some (r - r % 32)
        else
          let r' := r - w + 16384 + lo
          if r' / 2 ^ 28 = j then some r' else nextOn gs q n ((j + 1) * 2 ^ 28)
/-- Progress of an owner on a pseudo-channel. -/
def progOf (d : Dump) (o q : Nat) : Nat := smGet d.prog 0 (o * 512 + q)
/-- The next beat of an entry on a pseudo-channel. -/
def entNext (gs : List Nat) (d : Dump) (o q : Nat) (e : DumpEnt) : Option Nat :=
  match nextOn gs q 1025 (max e.off (progOf d o q)) with
  | some r => if r < e.off + e.len then some r else none
  | none => none
/-- The line of an entry that holds region offset `r` is read: a line of a TILE record crosses its tile's router in the next phase that the
tile's partition holds there, after the line before it; the second half of a line has been read with the first (R147, R1012). The instant of
the phase, when it has come; the words of a block's record use SYS phases of a router that the manual does not name (Assumption 64). -/
def lineRead (c : Ctl) (d : Dump) (e : DumpEnt) (r : Nat) : Option Nat :=
  let t := e.unit % 4096
  if e.kind ≠ 1 ∨ (r - e.off) % 64 ≠ 0 then some c.time.ftc
  else (phaseFrom c t (tileOwner c t) (max d.startAt (smGet d.readAt 0 t))).filter (fun f => decide (f ≤ c.time.ftc))
/-- Every beat of an entry is written. -/
def entWhole (c : Ctl) (gs : List Nat) (d : Dump) (e : DumpEnt) : Bool :=
  (List.range 512).all (fun q => (entNext gs d (pathOf c e q) q e).isNone)
/-- Changes the running dump. -/
def putDump (c : Ctl) (d : Dump) : Ctl := { c with dump := { c.dump with running := some d } }
/-- The tile of a TILE entry has been written from outside since its record began (R1023). -/
def entTouch (c : Ctl) (e : DumpEnt) (b : Bool) : Ctl :=
  if e.kind = 1 then updTile c (e.unit % 4096) (fun x => { x with touched := b }) else c
/-- The CRC of a record as it stands in the region. -/
def recCrc (gs : List Nat) (m : Mem) (e : DumpEnt) : Nat :=
  crc32c ((List.range (e.len / 32)).flatMap (fun i => leBytes 32 (dmBeat m (regionAddr gs (e.off + 32 * i))).toNat))
/-- One beat of owner `o`'s records on pseudo-channel `q`: the lowest that is not written (R532, R1012, R1024). -/
def dumpBeat (o q : Nat) (cm : CM) : CM :=
  match cm.1.dump.running with
  | none => cm
  | some d =>
    let c := cm.1
    let gs := regionGrans c
    let next (e : DumpEnt) : Option (Nat × Nat) := (entNext gs d o q e).bind (fun r => (lineRead c d e r).map (fun f => (r, f)))
    match d.ents.zipIdx.find? (fun e => decide (e.1.state < 2 ∧ pathOf c e.1 q = o) && (next e.1).isSome) with
    | none => cm
    | some (e, i) =>
      match next e with
      | none => cm
      | some (r, f) =>
        let t := e.unit % 4096
        let fresh := decide (e.kind = 1 ∧ (r - e.off) % 64 = 0)
        let d := if fresh then { d with readAt := smSet d.readAt 0 t (f + 1) } else d
        let c := if fresh then rxUse c t 0 false else c
        let c := if e.state = 0 then entTouch c e false else c
        let (line, p0, p1) := recLine c cm.2 d.req (i + 309 - d.ents.length) e ((r - e.off) / 64)
        let half := (r - e.off) % 64 / 32
        let psn := if half = 0 then p0 else p1
        let e1 := { e with state := 1, flags := e.flags ||| (if psn then 2 else 0) }
        let d1 := { d with ents := d.ents.set i e1, prog := smSet d.prog 0 (o * 512 + q) (r + 32) }
        let cm := if e.state = 0 then writeEnt d1 (c, cm.2) i else (c, cm.2)
        let cm := dmWrite cm (regionAddr gs r) (BitVec.ofNat 256 (leAt line (32 * half) 32)) psn
        (putDump cm.1 d1, cm.2)
/-- Records whose last beat is written become DONE, with their CRC; N_DONE follows (R1011). -/
def dumpDone (cm : CM) : CM :=
  match cm.1.dump.running with
  | none => cm
  | some d =>
    let gs := regionGrans cm.1
    let ready := (List.range d.ents.length).filter (fun i => match d.ents[i]? with
      | some e => decide (e.state = 1) && entWhole cm.1 gs d e
      | none => false)
    if ready.isEmpty then cm
    else
      let fin (e : DumpEnt) : DumpEnt :=
        let t := decide (e.kind = 1) && (tile cm.1 (e.unit % 4096)).touched
        { e with state := 2, crc := recCrc gs cm.2 e, flags := e.flags ||| b2n t }
      let d := { d with ents := d.ents.zipIdx.map (fun e => if ready.contains e.2 then fin e.1 else e.1) }
      let cm := writeHead d 1 (ready.foldl (writeEnt d) cm)
      (putDump cm.1 d, cm.2)
/-- The owner whose records a slot writes: the slot's, or the culvert; out of force the culvert and the stopped owners in turn (R148). -/
def dumpOwner (c : Ctl) (q s : Nat) : Option Nat :=
  if inForce c then (let w := hbmOwner c q s; if w < 32 then some w else if w = 0x41 then some 32 else none)
  else ((List.range 33).map (fun i => (c.dump.turn + 1 + i) % 33)).find? (fun o => match c.dump.running with
    | some d => d.ents.any (fun e => decide (e.state < 2 ∧ pathOf c e q = o) && (entNext (regionGrans c) d o q e).isSome)
    | none => false)
/-- Slot `s` of pseudo-channel `q` writes up to 15 beats of the records that its owner writes, those of the catalogs first in a CULV slot
(R1011, R1012). -/
def dumpSlot (q s : Nat) (cm0 : CM) : CM :=
  let cm := flushCat (traceFlush cm0)
  let c := cm.1
  if dmUp c = false ∨ q ≥ 512 then cm
  else match dumpOwner c q s with
    | none => cm
    | some o =>
      match slotFor c q s (if o < 32 then o else 0x41) with
      | none => cm
      | some t =>
        let c := useSlot { c with dump := { c.dump with turn := o } } q t
        let r := if o = 32 then catBeats q (c, cm.2) else ((c, cm.2), 15)
        dumpDone (Nat.fold r.2 (fun _ _ cm => dumpBeat o q cm) r.1)

/-! The end (R1013, R1017, R1019). -/
/-- The catalog of a dump takes its final status: PARTIAL when an entry is LOST, a hold expired or a CHIP reset cut it short (R1013, R1017, R1019); what waits for it is written with it. -/
def dumpClose (cm : CM) (d : Dump) : CM :=
  let partialEnd := decide (entCount d.ents 3 ≠ 0 ∨ d.req.lost ≠ 0)
  let d := { d with endTs := stamp cm.1 }
  let cm := writeHead d (if partialEnd then 3 else 2) cm
  let cm := putBeats cm.1.dump.catq ({ cm.1 with dump := { cm.1.dump with catq := [] } }, cm.2)
  let c := if partialEnd then cnt1 cm.1 (rDmCnt 1) else cm.1
  let c := dumpSum c d (if partialEnd then 3 else 2)
  let c := dumpFin { c with dump := { c.dump with running := none, cut := none } } d.req (b2n partialEnd) d.cat
  keepNow (heldResets c, cm.2)
/-- Every record is final: the dump ends, its header in a CULV slot once the catalog's other beats are written (R1011, R1013). -/
def dumpEnd (cm : CM) : CM :=
  match cm.1.dump.running with
  | some d =>
    if d.ents.all (fun e => decide (e.state ≥ 2)) && dmUp cm.1 then
      if inForce cm.1 then
        let q := pchOf (regionAddr (regionGrans cm.1) (65536 * d.cat))
        match (if cm.1.dump.catq.isEmpty then nextSlot cm.1 q 0x41 else none).bind (fun t => (reach cm.1 t).map (fun c => useSlot c q t)) with
        | some c => dumpClose (c, cm.2) d
        | none => cm
      else dumpClose cm d
    else cm
  | none => cm
/-- Entries that satisfy a condition and are not DONE become LOST. -/
def loseEnts (d : Dump) (p : DumpEnt → Bool) : Dump :=
  { d with ents := d.ents.map (fun e => if e.state ≠ 2 ∧ p e then { e with state := 3 } else e) }
/-- A dump loses a partition of its scope. -/
def loseOne (p : Nat) (r : DumpReq) : DumpReq := if bitN r.mask p then { r with lost := r.lost ||| 2 ^ p } else r
/-- A held PART reset proceeds after DM_HOLD_MAX (R1019). -/
def holdExpired (p : Nat) (cm : CM) : CM :=
  match (part cm.1 p).heldAt with
  | none => cm
  | some a =>
    match reach cm.1 (a + fld cm.1 rDmHoldMax 15 0 * 1250) with
    | none => cm
    | some c =>
      let cat := match c.dump.running with | some d => d.cat | none => 0xF
      let c := raise (cnt1 c (rDmCnt 4)) 0x5543 p (unitPart c p) cat
      let gone := c.dump.queue.filter (fun r => r.scope = 0 ∧ r.mask = 2 ^ p)
      let c := gone.foldl (fun c r => dumpFin c r 1 0) { c with dump := { c.dump with queue := (c.dump.queue.filter (fun r => !gone.contains r)).map (loseOne p) } }
      match c.dump.running with
      | some d =>
        if bitN d.req.mask p then
          let d := { d with req := loseOne p d.req, ents := loseParts c (loseOne p d.req) d.ents }
          let cm := writeEnts d (putDump c d, cm.2)
          (resetBegin cm.1 p, cm.2)
        else (resetBegin c p, cm.2)
      | none => (resetBegin c p, cm.2)
/-- A CHIP reset cuts the running dump short; the queue is discarded (R1017). -/
def dumpCut (c : Ctl) : Ctl :=
  { c with dump := { c.dump with queue := [], armed := [], running := none, catq := [],
                                 cut := match c.dump.running with
                                   | some d => some { (loseEnts d (fun _ => true)) with req := { d.req with ref := none, lost := d.req.lost ||| 2 ^ 32 } }
                                   | none => c.dump.cut } }
/-- After a CHIP reset the cut catalog is completed (R1017). -/
def dumpCutDone (cm : CM) : CM :=
  match cm.1.dump.cut with
  | some d => if dmUp cm.1 then dumpClose (writeEnts d cm) d else cm
  | none => cm
/-- A catalog becomes FREE, unless its dump runs (R1002). -/
def catFree (cat fn : Nat) (c : Ctl) : Ctl :=
  let c := setFld c rDmCatFree 3 0 cat
  let busy := (match c.dump.running with | some d => decide (d.cat = cat) | none => false) ||
    (match c.dump.cut with | some d => decide (d.cat = cat) | none => false)
  if busy then discard c rDmCatFree fn else { c with dump := { c.dump with cats := smSet c.dump.cats none cat none } }
/-- The SHAVINGS granules of a frame plan that becomes active are latched; a changed set frees every catalog and ends the dump
(R999). -/
def regionLatch (cm : CM) (f : FramePlan) : CM :=
  let now := regionGrans cm.1
  let new := (List.range 1024).filter (fun g => decide (tab f.granules g = 0x45))
  if now = new then cm
  else
    let was := cm.1.dump.running
    let cm := match was with
      | some d => let d := loseEnts d (fun _ => true); dumpClose (writeEnts d cm) d
      | none => cm
    let c := { cm.1 with dump := { cm.1.dump with cats := {} } }
    let c := foldUp 32 (fun c j => wr c (0x4024 + 4 * j) ((List.range 32).foldl (fun n i => n + b2n (new.contains (32 * j + i)) * 2 ^ i) 0)) c
    let c := wr c 0x4020 (new.length * 2 ^ 16 + new.headD 0)
    let c := if now.isEmpty then c
      else raise c 0x0542 noPart (unitBlock c 0x15) (match was with | some d => d.cat | none => 0xF)
    (c, cm.2)

/-! The commands. -/
/-- A dump starts (R1010). -/
def execDumpStart (s : State) : Out := onAll dumpStart s
/-- A slot writes records (R1012). -/
def execDumpRecordWrite (q slot : Nat) (s : State) : Out := onAll (dumpSlot q slot) s
/-- A dump ends (R1013). -/
def execDumpEnd (s : State) : Out := onAll dumpEnd s
/-- The catalog of a cut dump is completed (R1017). -/
def execCatalogCompletion (s : State) : Out := onAll dumpCutDone s
/-- A catalog is freed (R1002). -/
def execCatalogFree (cat : Nat) (s : State) : Out := onCtl (fun c => if cat < 16 ∧ regsServed c then catFree cat 0 c else c) s
/-- A hold expires (R1019). -/
def execHoldExpired (p : Nat) (s : State) : Out := onServedAll (fun cm => if p < 32 then holdExpired p cm else cm) s

end Sys2Proof.Machine
end

