-- ==== Sys2Proof/Machine/Loading.lean ====
section
/-! DEFINITION. The loader, the activation of a frame plan, and the refresh of device memory (R160, R175 to R201, R909, R922, R924,
R1174). -/
namespace Sys2Proof.Machine

/-! Commands (R175, R176, R909). -/
/-- A loader command starts, unless it is refused at once: BUSY, then the conditions that depend on the state, then its length. -/
def loadStart (c : Ctl) (l : Loader) (early : Nat) : Ctl :=
  if c.plan.loader.stage ≠ .idle then loadReport c l 1 noSect 0
  else if early ≠ 0 then loadReport c l early noSect 0
  else if l.kind ≠ 1 ∧ (l.len < 128 ∨ l.len % 64 ≠ 0 ∨ l.len > 2 ^ 36) then loadReport c l 8 noSect 0
  else { (setBit c rPlStat (if l.kind = 2 then 2 else 1) true) with plan := { c.plan with loader := { l with stage := .checks } } }
/-- Some partition's STATE is not OFF. -/
def anyPart (c : Ctl) : Bool := (List.range 32).any (fun p => decide (ptState c p ≠ 0))
/-- The conditions of an unload (R187). -/
def unloadErr (c : Ctl) : Nat := if c.time.epoch then 2 else if anyPart c then 3 else 0
/-- ACT_PASS is named, and its boundary has fallen or falls less than 64 tc ahead (code 0x05). -/
def actLate (c : Ctl) (act : Option Nat) : Bool :=
  match act with | some p => c.time.epoch && decide (boundaryOf c p < c.time.ftc + 64 ∨ p ≤ c.time.pass) | none => false
/-- FPLAN_LOAD; an ACT_PASS named before the epoch starts is ignored (R198). -/
def fplanLoad (c : Ctl) (e : Bytes) (ref : CmdRef) : Ctl :=
  let act := if c.time.epoch then ePass e 0x18 else none
  loadStart c { kind := 0, addr := leAt e 8 8, len := leAt e 0x10 8, actPass := act, ref := ref } (if actLate c act then 5 else 0)
/-- FPLAN_UNLOAD. -/
def fplanUnload (c : Ctl) (_e : Bytes) (ref : CmdRef) : Ctl := loadStart c { kind := 1, ref := ref } (unloadErr c)
/-- PPLAN_LOAD. -/
def pplanLoad (c : Ctl) (e : Bytes) (ref : CmdRef) : Ctl :=
  let p := ref.fn - 1
  loadStart c { kind := 2, part := p, addr := leAt e 8 8, len := leAt e 0x10 8, ref := ref }
    (if ptState c p ≠ 0 then 3 else if fplanOn c = false then 4 else 0)

/-! Activation (R181 to R187, R999). -/
/-- Tiles whose owner code changes from one plan to another. -/
def movedTiles (a b : FramePlan) : List Nat := (List.range 1024).filter (fun t => tab a.tileGrant t ≠ tab b.tileGrant t)
/-- A frame plan becomes active, or none is any more: TIM_PASS_LEN then keeps the last plan's value, DESIGN CHOICE, for R84 takes it from the
active plan alone (Assumption 56); `pass` is the pass of the boundary, none while the epoch does not run. The changed tiles are being cleared for 640 tc (R185). -/
def activate (cm : CM) (f : Option FramePlan) (pass : Option Nat) : CM :=
  let old := fplan cm.1
  let new := f.getD {}
  let cm := if f.isSome then regionLatch cm new else cm
  let c := foldUp 32 (fun c p =>
    if f.isNone ∨ (ptState c p = 0 ∧ !(grantChanges p old new).isEmpty) then planDrop c p else c) cm.1
  let moved := movedTiles old new
  let cm := moved.foldl clearTile (c, cm.2)
  let c := { cm.1 with plan := { cm.1.plan with active := f, clearing := moved.foldl (fun l t => smSet l 0 t (cm.1.time.ftc + 640)) cm.1.plan.clearing },
                       lk := { cm.1.lk with oldLink := old.link, newFrom := pass.getD 0 } }
  let c := moved.foldl (fun c t =>
    let p := tab new.tileGrant t
    updTile c t (fun x => { x with halted := decide (p < 32) && rbit c (ptStat p) 6 })) c
  let c := wr64 c rPlFplanId new.planId
  let c := if f.isSome then wr64 (setFld c rPassLen 15 0 new.passLen) rPlActPass (pass.getD 0xFFFFFFFFFFFF) else c
  (regrant c (fun g => decide (tab new.granules g = 0x40)), cm.2)
/-- The pass at whose boundary the pending frame plan becomes active (R182). -/
def swapPass (c : Ctl) : Option Nat :=
  let l := c.plan.loader
  if l.stage = .pending then some (l.actPass.getD (firstPassAfter c l.doneAt)) else none
/-- The pending frame plan becomes active at its boundary (R183); `n` the pass that begins. -/
def swapNow (n : Nat) (cm : CM) : CM :=
  match cm.1.plan.pending with
  | some f =>
    if swapPass cm.1 = some n then
      let cm := activate cm (some f) (some n)
      (loadEnd cm.1 0 noSect (n % 2 ^ 48), cm.2)
    else cm
  | none => cm

/-! The end of the checks (R176, R181, R182, R186, R187, R1174). -/
/-- The checks of the load or unload in progress end. -/
def checksDone (img : Option Bytes) (cm : CM) : CM :=
  let c := cm.1
  let l := c.plan.loader
  if l.stage ≠ .checks then cm
  else if l.kind = 1 then
    let e := unloadErr c
    if e ≠ 0 then (loadEnd c e noSect 0, cm.2)
    else
      let cm := activate cm none none
      (loadEnd cm.1 0 noSect 0, cm.2)
  else match img with
    | none => (loadEnd c 6 noSect 0, cm.2)
    | some b =>
      match checkImage c l.kind l.part l.len b with
      | some (code, sect) => (loadEnd c code sect 0, cm.2)
      | none =>
        if l.kind = 2 then
          let c := planDrop c l.part
          ({ c with plan := { c.plan with loader := { l with stage := .writes, image := b, doneAt := c.time.ftc } } }, cm.2)
        else if c.time.epoch = false then
          let cm := activate cm (some (framePlanOf b)) none
          (loadEnd cm.1 0 noSect 0xFFFFFFFFFFFF, cm.2)
        else if actLate c l.actPass then (loadEnd c 5 noSect 0, cm.2)
        else
          ({ (setBit c rPlStat 3 true) with
               plan := { c.plan with loader := { l with stage := .pending, image := b, doneAt := c.time.ftc },
                                     pending := some (framePlanOf b) } }, cm.2)

/-! The writes of a partition plan (R167 to R170, R199, R544, R1174). -/
/-- Bytes of device memory from `a`, a multiple of 32, in whole beats: no block reads a beat to write a part of it (R502). What the rest of
the last beat holds, when LEN ends within it, is free: DESIGN CHOICE (Assumption 63). -/
def dmBytes (cm : CM) (a : Nat) (bs : Bytes) : CM :=
  let r := if bs.length % 32 = 0 then (cm.1, []) else freeBytes (32 - bs.length % 32) cm.1
  let bs := bs ++ r.2
  (List.range (bs.length / 32)).foldl (fun cm i =>
    dmWrite cm (a + 32 * i) (BitVec.ofNat 256 (leAt bs (32 * i) 32)) false) (r.1, cm.2)
/-- Bundles written into a tile's instruction RAM. -/
def imWrite (m : Mem) (t a : Nat) (bs : Bytes) : Mem :=
  let lo := t * 4096 + a / 16
  let hi := t * 4096 + (a + bs.length + 15) / 16
  { m with im := writeBytes m.im (t * 65536 + a) bs, badBundle := smClearRange m.badBundle lo hi,
           weakBundle := smClearRange m.weakBundle lo hi }
/-- The bodies that a load writes, in section table order. -/
def constSects (img : Bytes) : List Sect := (sectsOf img).filter (fun s => decide (s.typ = 0x101 ∨ s.typ = 0x102 ∨ s.typ = 0x103))
/-- What the loader writes at a time: the section type, the tile (of DM_CONST none), where, the bytes, and the bytes of instruction RAM
after them that are cleared (R167). -/
structure LoadPiece where
  typ : Nat
  tile : Nat
  at_ : Nat
  data : Bytes
  clear : Nat := 0
/-- The pieces of a body, or of its first `n` lines of 64 bytes: a line of a tile, 256 bytes of device memory, all of which lie on one
pseudo-channel (R501). -/
def bodyPieces (s : Sect) (b : Bytes) (n : Option Nat) : List LoadPiece :=
  let cut (d : Bytes) : Bytes := match n with | some k => d.take (64 * k) | none => d
  let chop (w a : Nat) (d : Bytes) : List LoadPiece :=
    (List.range (ceilDiv d.length w)).map (fun i => { typ := s.typ, tile := s.inst, at_ := a + w * i, data := slice d (w * i) (min w (d.length - w * i)) })
  match s.typ with
  | 0x101 => chop 64 0 (cut b) ++ (if n.isNone then [{ typ := s.typ, tile := s.inst, at_ := b.length, data := [], clear := 65536 - b.length }] else [])
  | 0x102 => chop 64 (leAt b 0 4) (cut (b.drop 8))
  | _ =>
    let a := leAt b 0 8
    let d := cut (b.drop 16)
    let k := min d.length (256 - a % 256)
    chop 256 a (d.take k) ++ chop 256 (a + k) (d.drop k)
/-- Every piece of the bodies of the sections before section `lim`, and of `k` lines of it; of all of them when `lim` is none (R170, R199). -/
def loadPieces (img : Bytes) (lim : Option (Nat × Nat)) : List LoadPiece :=
  (constSects img).flatMap (fun s =>
    match lim with
    | none => bodyPieces s (body img s) none
    | some (i, k) => if s.idx < i then bodyPieces s (body img s) none
      else if s.idx = i then bodyPieces s (body img s) (some k) else [])
/-- When a piece can be written: in the partition's next phase at the tile's router, or in its next slot of the pseudo-channel (R144, R145,
R179); none when the boundary comes first. FTC moves there. -/
def pieceAt (p : Nat) (c : Ctl) (x : LoadPiece) : Option Ctl :=
  if x.typ = 0x103 then
    let q := pchOf x.at_
    (nextSlot c q p).bind (fun t => (reach c t).map (fun c => useSlot c q t))
  else
    (phaseFrom c x.tile p (max c.time.ftc (tile c x.tile).phaseAt)).bind (fun f =>
      (reach c f).map (fun c => if inForce c then updTile c x.tile (fun y => { y with phaseAt := f + 1 }) else c))
/-- A piece is written; a DM_CONST piece on a failed pseudo-channel is dropped, with one event per pseudo-channel of the load (R544). -/
def writePiece (p : Nat) (cm : CM) (x : LoadPiece) : CM :=
  if x.typ = 0x101 then
    if tileTakes cm.1 x.tile then
      let m := if x.data.isEmpty then cm.2 else imWrite cm.2 x.tile x.at_ x.data
      (rxUse cm.1 x.tile x.at_ true, if x.clear = 0 then m else imWrite m x.tile x.at_ (zeroBytes x.clear))
    else cm
  else if x.typ = 0x102 then rxWrite cm x.tile x.at_ x.data
  else
    let q := pchOf x.at_
    let cm := dmBytes cm x.at_ x.data
    let told := cm.1.plan.loader.told.contains q
    if pchFailed cm.1 q && !told then
      let c := { cm.1 with plan := { cm.1.plan with loader := { cm.1.plan.loader with told := q :: cm.1.plan.loader.told } } }
      (raise c 0x2284 p (unitPart c p) q, cm.2)
    else cm
/-- Writes pieces one after another until the boundary comes first: whether all are written. -/
def writePieces (p : Nat) : List LoadPiece → CM → CM × Bool
  | [], cm => (cm, true)
  | x :: r, cm =>
    match pieceAt p cm.1 x with
    | none => (cm, false)
    | some c =>
      let c := { c with plan := { c.plan with loader := { c.plan.loader with wrote := c.plan.loader.wrote + 1 } } }
      writePieces p r (writePiece p (lateFlits (c, cm.2)) x)
/-- The writes end: the plan is loaded, or a read failed and its first lines stay (R186, R199). Writes that must wait for a phase or a slot
after the coming boundary are still to be done; the lines written before stay, whatever ends the load (R194). -/
def writesDone (fail : Option (Nat × Nat)) (cm : CM) : CM :=
  let l := cm.1.plan.loader
  if l.stage ≠ .writes then cm
  else
    let r := writePieces l.part ((loadPieces l.image fail).drop l.wrote) cm
    let cm := r.1
    let c := cm.1
    if r.2 = false then cm
    else match fail with
    | some _ => (loadEnd c 6 noSect 0, cm.2)
    | none =>
      let f := partPlanOf l.image
      let c := wr64 (setBit c (ptPlanStat l.part) 0 true) (ptPlanId l.part) f.planId
      let c := { c with plan := { c.plan with loaded := smSet c.plan.loaded none l.part (some f) } }
      (loadEnd c 0 noSect 0, cm.2)
/-- The writes of a load are cut short at this instant: how many more of its lines have been written by now is free, for the manual bounds their
rate alone (R194, R199, R1174): DESIGN CHOICE (Assumption 72). -/
def writesCut (cm : CM) : CM :=
  let l := cm.1.plan.loader
  if l.stage ≠ .writes then cm
  else
    let (c, n) := drawFree cm.1
    let ps := (loadPieces l.image none).drop l.wrote
    (ps.take (Config.freeNat n % (ps.length + 1))).foldl (writePiece l.part) (c, cm.2)
/-- Bus mastering of a function is disabled: a read of its plan image ends in FETCH, and the lines written before stay (R199, R924). -/
def loadFetchFails (fn : Nat) (cm : CM) : CM :=
  let l := cm.1.plan.loader
  if (l.stage = .checks ∨ l.stage = .writes) ∧ l.kind ≠ 1 ∧ l.ref.fn = fn then
    let cm := writesCut cm
    (loadEnd cm.1 6 noSect 0, cm.2)
  else cm

/-! Refresh (R160, R188 to R191). -/
/-- The fallback engine holds refresh (PL_STAT.FALLBACK). -/
def fallback (c : Ctl) : Bool := rbit c rPlStat 4
/-- Every pseudo-channel whose stack is awake is refreshed at an instant. -/
def refreshAll (c : Ctl) : Ctl :=
  { c with plan := { c.plan with
      lastRefresh := Nat.fold 512 (fun q _ m => if pchAsleep c q then m else smSet m 0 q c.time.ftc) c.plan.lastRefresh } }
/-- The fallback engine takes refresh over: its first refresh starts 160 tc later (R189). -/
def takeRefresh (c : Ctl) : Ctl :=
  if fallback c then c
  else { (setBit c rPlStat 4 true) with plan := { c.plan with nextRefresh := c.time.ftc + 160, finalDone := false } }
/-- After the assertion of CHIP reset the fallback engine refreshes every pseudo-channel at t_a + 160 tc, and every stack enters self-refresh at
t_a + 400 tc (R189, R1064); FTC, cleared at t_a, stands still. -/
def resetRefresh (c : Ctl) : Ctl :=
  if c.pwr.resetRef then
    { c with
        pwr := { c.pwr with resetRef := false, sref := 0xFF },
        plan := { c.plan with
          lastRefresh := Nat.fold 512 (fun q _ m => if pchAsleep c q then m else smSet m 0 q 160) c.plan.lastRefresh } }
  else c
/-- The fallback engine starts a refresh on every pseudo-channel; the next follows 4,096 tc later (R188). It needs MCLK (R191). -/
def fallbackRefresh (c : Ctl) : Ctl :=
  if c.pwr.resetRef then resetRefresh c
  else if fallback c = false ∨ rootLock c = false ∨ regsServed c = false then c
  else
    let c := refreshAll (advanceTo c c.plan.nextRefresh)
    { c with plan := { c.plan with nextRefresh := c.time.ftc + 4096 } }
/-- The final refresh, at TIM_EPOCH_AT − 400 (R190); none when ARM takes effect after that instant, DESIGN CHOICE, for R190 does not say
whether one is then made (Assumption 71). -/
def finalRefresh (c : Ctl) : Ctl :=
  let at_ := rd64 c rEpochAt - 400
  if fallback c = false ∨ rbit c rTimCtrl 16 = false ∨ c.time.epoch ∨ c.plan.finalDone ∨ c.time.ftc > at_ ∨ rootLock c = false ∨ regsServed c = false then c
  else
    let c := refreshAll (advanceTo c at_)
    { c with plan := { c.plan with nextRefresh := c.time.ftc + 4096, finalDone := true } }
/-- Entry `i` of REFRESH fires in the pass in progress: its pseudo-channel is refreshed from slot SLOT on (R160). -/
def refreshSpan (i : Nat) (c : Ctl) : Ctl :=
  match (pieces 16 (fplan c).refresh)[i]? with
  | none => c
  | some e =>
    let (q, s, _, _) := refFields e
    if inForce c ∧ alive c ∧ refFires e c.time.pass ∧ pchAsleep c q = false ∧ slotStart c s ≥ c.time.ftc then
      let c := advanceTo c (slotStart c s)
      { c with plan := { c.plan with lastRefresh := smSet c.plan.lastRefresh 0 q c.time.ftc } }
    else c

/-! The commands. -/
/-- FPLAN_LOAD (R909). -/
def execFplanLoad (s : State) : Out := onCtl (fun c => if c.ev.contained then c else runCmd 0 0 0x10 fplanLoad c) s
/-- FPLAN_UNLOAD (R187). -/
def execFplanUnload (s : State) : Out := onCtl (fun c => if c.ev.contained then c else runCmd 0 0 0x11 fplanUnload c) s
/-- PPLAN_LOAD (R909). -/
def execPplanLoad (fn : Nat) (s : State) : Out :=
  onCtl (fun c => if c.ev.contained ∨ fn = 0 ∨ fn > 32 then c else runCmd fn 0 0x12 pplanLoad c) s
/-- The checks end (R176). -/
def execLoadChecksComplete (img : Option Bytes) (s : State) : Out :=
  onServedAll (checksDone img) s
/-- The writes of a partition plan end (R1174). -/
def execPplanWritesComplete (fail : Option (Nat × Nat)) (s : State) : Out := onServedAll (writesDone fail) s
/-- The fallback engine refreshes (R188). -/
def execFallbackRefresh (s : State) : Out := onCtl fallbackRefresh s
/-- The final refresh before the epoch (R190). -/
def execFallbackFinalRefresh (s : State) : Out := onCtl finalRefresh s
/-- A REFRESH entry fires (R160). -/
def execRefreshSpan (i : Nat) (s : State) : Out := onCtl (refreshSpan i) s
/-- Bus mastering of a function is disabled (R918, R924). -/
def execBusMasterDisable (fn : Nat) (s : State) : Out :=
  onAll (fun cm => if fn ≤ 32 then loadFetchFails fn (busMasterOff fn cm.1, cm.2) else cm) s

end Sys2Proof.Machine
end

