-- ==== Sys2Proof/Machine/PowerStates.lean ====
section
/-! DEFINITION. Power states S0 to S3: requests, transitions and what they stop (R1071 to R1076). -/
namespace Sys2Proof.Machine

/-- PWR_STAT.STATE and TRANS. -/
def setPwrState (c : Ctl) (st : Nat) : Ctl := setFld c rPwrStat 1 0 st
def setTrans (c : Ctl) (b : Bool) : Ctl := setBit c rPwrStat 3 b
/-- DB_CTRL.SLEEP_EMU (R978). -/
def sleepEmu (c : Ctl) : Bool := rbit c (hub 0) 3
/-- Stacks to be put in self-refresh by a request (R1071, R1073, R1074). -/
def srefOf (c : Ctl) (st : Nat) : Nat := if st = 3 then 0xFF else if st = 2 then fld c rPwrCtrl 23 16 else 0
/-- A granule state that keeps its stack awake (REFUSE 0x4). -/
def gHolds (s : Nat) : Bool := [gSCRUB, gOFFERED, gMAPPED, gSHARED, gRELEASING, gQUARANTINE].contains s
/-- The stacks that hold records of a catalog in use (R1001). -/
def dumpStacks (c : Ctl) : List Nat :=
  let gs := regionGrans c
  c.dump.cats.entries.flatMap (fun e => match e.2 with
    | some (o, n) => ((List.range ((o + n + 2 ^ 28 - 1) / 2 ^ 28 - o / 2 ^ 28)).map (fun i => gs.getD (o / 2 ^ 28 + i) 0 % 8))
    | none => [])
/-- A link, a headgate, a page mover or the spindle is not OFF, or the control engine's MSTATE is not OFF (REFUSE 0x7). -/
def blocksOn (c : Ctl) : Bool :=
  allBlks.any (fun b => match b with | .part _ => false | _ => decide (blkState c b ≠ 0)) || decide (mstate c ≠ 0)
/-- REFUSE: the first reason of R1071 that holds; 0 when the request is accepted. -/
def refuseCode (c : Ctl) (st : Nat) : Nat :=
  let m := srefOf c st
  if !(decide (pwrState c = 0 ∧ st ≠ 0) || decide (pwrState c ≠ 0 ∧ st = 0)) then 1
  else if rbit c rPwrStat 3 then 2
  else if st ≥ 2 ∧ anyPart c then 3
  else if (List.range 1024).any (fun g => bitN m (g % 8) && gHolds (gtState c g)) then 4
  else if st ≥ 2 ∧ (c.dump.running.isSome ∨ (dumpStacks c).any (bitN m)) then 5
  else if st = 3 ∧ c.time.epoch then 6
  else if st = 3 ∧ blocksOn c then 7
  else if rbit c rPwrStat 8 ∨ rbit c rPwrStat 11 then 8
  else 0
/-- The tile array loses its contents (R1074); its debug registers stay. -/
def clearTiles (cm : CM) : CM := (List.range 1024).foldl clearTile cm
/-- The accepted transition begins. S1 and the return from it take effect at once; S3 discards every partition plan; while SLEEP_EMU is
1 nothing is gated and no stack sleeps (R1072 to R1076). -/
def powerBegin (cm : CM) : CM :=
  let c := cm.1
  match c.pwr.next with
  | some (st, acc, false) =>
    if st = 1 ∨ (st = 0 ∧ pwrState c = 1) then
      ({ (setTrans (setPwrState c st) false) with pwr := { c.pwr with next := none, s1div := fld c rPwrCtrl 12 8, s1new := none } }, cm.2)
    else
      let c := { c with pwr := { c.pwr with next := some (st, acc, true) } }
      if st = 0 then (c, cm.2)
      else
        let emu := sleepEmu c
        let c := setBit c rPwrStat 4 emu
        let c := if emu then c else { c with pwr := { c.pwr with sref := srefOf c st } }
        if st = 3 then
          let c := foldUp 32 (fun c p => if (partPlan c p).isSome then planDrop c p else c) c
          if emu then (c, cm.2) else clearTiles (c, cm.2)
        else (c, cm.2)
  | _ => cm
/-- The transition is complete: STATE shows it; stacks that leave self-refresh are refreshed (R1075). -/
def powerEnd (c : Ctl) : Ctl :=
  match c.pwr.next with
  | some (st, _, true) =>
    let c := { (setTrans (setPwrState c st) false) with pwr := { c.pwr with next := none } }
    if st = 0 then
      let slept := c.pwr.sref
      let c := { (setBit c rPwrStat 4 false) with pwr := { c.pwr with sref := 0 } }
      let seen := Nat.fold 512 (fun q _ m => if bitN slept (q / 64) then smSet m 0 q c.time.ftc else m) c.plan.lastRefresh
      { c with plan := { c.plan with lastRefresh := seen } }
    else c
  | _ => c
/-- A power state is requested (R1071). -/
def powerRequest (st : Nat) (cm : CM) : CM :=
  let c := cm.1
  if fld c rPwrCtrl 1 0 = st then cm
  else
    let e := refuseCode c st
    if e ≠ 0 then (setFld c rPwrStat 15 12 e, cm.2)
    else
      let c := setTrans (setFld c rPwrCtrl 1 0 st) true
      let c := { c with pwr := { c.pwr with next := some (st, c.time.ftc, false) } }
      if c.time.epoch then (c, cm.2) else powerBegin (c, cm.2)
/-- What power states do at the boundary at FTC `t`, after its staged commits (R1071, R1072). -/
def powerBoundary (t : Nat) (cm : CM) : CM :=
  let c := match cm.1.pwr.s1new with
    | some (v, a) => if a + 64 ≤ t then { cm.1 with pwr := { cm.1.pwr with s1div := v, s1new := none } } else cm.1
    | none => cm.1
  match c.pwr.next with
  | some (_, a, false) => if a + 64 ≤ t then powerBegin (c, cm.2) else (c, cm.2)
  | _ => (c, cm.2)
/-- A transition is abandoned (R1101). -/
def powerAbandon (c : Ctl) : Ctl := { (setTrans c false) with pwr := { c.pwr with next := none } }
/-- A write of S1_DIV: in S1 it waits for a boundary (R1072). -/
def s1Write (v : Nat) (c : Ctl) : Ctl :=
  let c := setFld c rPwrCtrl 12 8 v
  if pwrState c = 1 then { c with pwr := { c.pwr with s1new := some (v, c.time.ftc) } } else c

/-! The commands. -/
/-- Requests (R1071). -/
def execRequestS0 (s : State) : Out := onAll (fun cm => if regsServed cm.1 then powerRequest 0 cm else cm) s
def execRequestS1 (s : State) : Out := onAll (fun cm => if regsServed cm.1 then powerRequest 1 cm else cm) s
def execRequestS2 (s : State) : Out := onAll (fun cm => if regsServed cm.1 then powerRequest 2 cm else cm) s
def execRequestS3 (s : State) : Out := onAll (fun cm => if regsServed cm.1 then powerRequest 3 cm else cm) s
/-- A transition completes (R1071). -/
def execPowerTransitionComplete (s : State) : Out := onServed powerEnd s

end Sys2Proof.Machine
end

