-- ==== Sys2Proof/Machine/Boundary.lean ====
section
/-! DEFINITION. Pass boundaries in the order of R88, the epoch's start and stop, boundary stops and releases, and the containment of CHIP
and FAB events (R84 to R88, R112 to R134, R205 to R223, R950 to R955, R1040). -/
namespace Sys2Proof.Machine

/-! The ledger (R122 to R130, R171). -/
/-- The LEDGER body of a partition's plan. -/
def ledgerOf (c : Ctl) (p : Nat) : Bytes := match partPlan c p with | some q => q.ledger | none => []
/-- Its entries: tile or NME, and budget. -/
def tileBudgets (l : Bytes) : List (Nat × Nat) := (List.range (leAt l 2 2)).map (fun i => (leAt l (8 + 4 * i) 2, leAt l (10 + 4 * i) 2))
def nmeBudgets (l : Bytes) : List (Nat × Nat) :=
  let o := 8 + 4 * leAt l 2 2
  (List.range (leAt l 4 2)).map (fun i => (leAt l (o + 4 * i) 2, leAt l (o + 2 + 4 * i) 2))
/-- The NME entries that count for a partition: its own, and a budget of 0 for every other NME that was busy for it (R171). -/
def nmeEntries (c : Ctl) (p : Nat) (l : Bytes) : List (Nat × Nat) :=
  let own := nmeBudgets l
  let used := (c.nme.busy.entries.map (·.1)).filter (fun k => decide (k / 256 = p))
  own ++ (used.filter (fun k => own.all (fun e => decide (e.1 ≠ k % 256)))).map (fun k => (k % 256, 0))
/-- The busy count of a tile of the pass that ends (R122); a tile that has not entered the wait was busy to the end. -/
def tileBusy (c : Ctl) (t : Nat) : Nat := let x := tile c t; if x.run = .waiting then x.busy else passLen c
/-- The timestamp of a cause at offset `o` of the pass that ends, which its event names (R126, R127). -/
def endedTs (c : Ctl) (o : Nat) : Nat := (c.time.pass - 1) % 2 ^ 48 * 2 ^ 16 + o % 2 ^ 16
/-- A budget breach, whose cause stands at offset `o` of the pass that ends, is counted and reported (R126). -/
def budgetBreach (c : Ctl) (p o unit detail : Nat) (halt : Bool) : Ctl :=
  let n := fld c (ptLedgerStat p) 31 16
  raiseAt (setFld c (ptLedgerStat p) 31 16 (satU 16 (n + 1))) (endedTs c o) (if halt then 0x3186 else 0x3185) p unit detail
/-- PTn_LEDGER_PEAK follows a greater busy count. -/
def ledgerPeak (c : Ctl) (p t busy : Nat) : Ctl :=
  if busy > fld c (ptLedgerPeak p) 15 0 then wr c (ptLedgerPeak p) (busy % 2 ^ 16 + t / 32 % 32 * 2 ^ 16 + t % 32 * 2 ^ 21) else c
/-- One tile's entry: its peak, its pass-end breach, its budget breach (R124 to R127). -/
def ledgerTile (c : Ctl) (p : Nat) (halt : Bool) (e : Nat × Nat) : Ctl :=
  let t := e.1
  let b := tileBusy c t
  let c := ledgerPeak c p t b
  let c := if (tile c t).run = .waiting then c
    else
      let n := fld c (ptLedgerStat p) 15 2
      raiseAt (setFld c (ptLedgerStat p) 15 2 (satU 14 (n + 1))) (endedTs c (passLen c - 1)) 0x3187 p (unitOf c 0 t) 0
  if b > e.2 then budgetBreach c p e.2 (unitOf c 0 t) (b % 2 ^ 16 + t % 1024 * 2 ^ 16) halt else c
/-- The busy count of an NME for a partition (R123). -/
def nmeBusyOf (c : Ctl) (p k : Nat) : Nat := smGet c.nme.busy 0 (p * 256 + k)
/-- One NME's entry. -/
def ledgerNme (c : Ctl) (p : Nat) (halt : Bool) (e : Nat × Nat) : Ctl :=
  let b := nmeBusyOf c p e.1
  if b > e.2 then budgetBreach c p (passLen c - 1) (unitOf c 1 e.1) (b % 2 ^ 16 + e.1 % 1024 * 2 ^ 16 + 2 ^ 31) halt else c
/-- The ledger of a partition is evaluated for the pass that ends: its tiles began the pass, and Fliwell has not halted it; a pass in which an
exception halted it is evaluated (R125, R130, R245). -/
def ledgerCounts (c : Ctl) (p : Nat) : Bool := (part c p).began && !rbit c (ptStat p) 6 && !(part c p).noLedger
/-- The first tile with a pass-end breach. -/
def lateTile (c : Ctl) (p : Nat) : Option Nat :=
  if ledgerCounts c p then ((tileBudgets (ledgerOf c p)).find? (fun e => (tile c e.1).run ≠ .waiting)).map (·.1) else none
/-- A budget breach with ACT = HALT. -/
def overBudget (c : Ctl) (p : Nat) : Bool :=
  let l := ledgerOf c p
  ledgerCounts c p && decide (leAt l 0 1 = 1) &&
    ((tileBudgets l).any (fun e => decide (tileBusy c e.1 > e.2)) || (nmeEntries c p l).any (fun e => decide (nmeBusyOf c p e.1 > e.2)))
/-- The ledger of a partition (R125). -/
def ledgerEval (c : Ctl) (p : Nat) : Ctl :=
  if ledgerCounts c p then
    let l := ledgerOf c p
    let h := decide (leAt l 0 1 = 1)
    (nmeEntries c p l).foldl (fun c e => ledgerNme c p h e) ((tileBudgets l).foldl (fun c e => ledgerTile c p h e) c)
  else c

/-! The pass watchdog (R221 to R223). -/
/-- The count of a partition changes at this boundary. -/
def wdogCounts (c : Ctl) (p : Nat) : Bool := decide (ptState c p = 1) && !ptHalted c p && (part c p).inPass
/-- The watchdog expires at this boundary. -/
def wdogEnds (c : Ctl) (p : Nat) : Bool := wdogCounts c p && !(part c p).kick && decide (fld c (ptWdog p) 15 0 ≤ 1)
/-- The count changes. -/
def wdogStep (c : Ctl) (p : Nat) : Ctl :=
  if wdogCounts c p then (if (part c p).kick then wdogLoad c p else setFld c (ptWdog p) 15 0 (fld c (ptWdog p) 15 0 - 1)) else c

/-! The end of the epoch (R67, R116 to R118, R189, R193, R194, R247). -/
/-- What every end of the epoch does: EPOCH, ARM and STOP_ARM fall, waiting staged writes commit but on the bypass path (R67, R80), the fallback engine takes refresh, a
pending swap is abandoned. -/
def endEpoch (m : Mem) (c : Ctl) : Ctl :=
  let c := setBit (setBit c rTimCtrl 16 false) rTimCtrl 17 false
  let c := { c with time := { c.time with epoch := false, phase := 0 } }
  let l := c.staged.filter (fun w => !w.atEn)
  let c := if onBypass c then c else commitList m { c with staged := c.staged.filter (·.atEn) } l
  let c := takeRefresh c
  if c.plan.loader.stage = .pending then loadEnd c 7 noSect 0 else c
/-- A partition at an epoch stop: no pass is in progress (R247). -/
def partStops (c : Ctl) (p : Nat) : Ctl :=
  let c := updPart c p (fun x => { x with inPass := false, began := false, ran := false })
  (tilesOf c p).foldl (fun c t => if (tile c t).halted then c else updTile c t (fun x => { x with run := .idle })) c
/-- The epoch stops. -/
def epochStop (cm : CM) : CM :=
  let c := lkStop (dcStop (hgRemember cm.1 cm.1.time.ftc))
  let c := foldUp 32 partStops c
  powerBegin (endEpoch cm.2 c, cm.2)

/-! Containment (R71, R134, R194, R631, R818, R1025, R1040). -/
/-- The FATAL dump of a containment (R994, R1025). -/
def fatalDump (c : Ctl) (code : Nat) : Ctl :=
  if rbit c rDmCtrl 2 then
    let gone := if c.dump.running.isSome then c.dump.queue else []
    let c := gone.foldl (fun c r => dumpFin c r 4 0) { c with dump := { c.dump with queue := if c.dump.running.isSome then [] else c.dump.queue } }
    let r : DumpReq := { trigger := 6, scope := 1, mask := 2 ^ 32 - 1, origin := plezorId c, named := passNo c, pass := passNo c, ev := code }
    if rootLock c then dumpQueue c r else lostSum c 7 r
  else c
/-- A CHIP or FAB event stops every block of this Plezor, until a CHIP reset; a second one changes nothing further (R1042). -/
def chipContain (code : Nat) (cm : CM) : CM :=
  if cm.1.ev.contained then cm
  else
    let c := { cm.1 with ev := { cm.1.ev with contained := true } }
    let c := fatalDump c code
    let c := if c.time.epoch then endEpoch cm.2 (lkStop c) else takeRefresh c
    let cm := writesCut (c, cm.2)
    let c := if cm.1.plan.loader.stage = .idle then cm.1 else loadEnd cm.1 7 noSect 0
    (ceContain (poolFatal 1 c), cm.2)

/-! Boundary stops and releases (R950 to R955, R993 to R995, R1027, R1029). -/
/-- The armed boundary stop applies at the boundary of pass `n`. -/
def stopDue (c : Ctl) (n : Nat) : Bool := rbit c rBstopStat 0 && decide (rd64 c rBstop % 2 ^ 48 ≤ n)
/-- The partitions it halts: its own, and those of the dumps that wait for it. -/
def stopMask (c : Ctl) : Nat := c.dump.armed.foldl (fun m r => m ||| r.mask) (rd c rBstopMask)
/-- A dump whose stop applies now; one that finds the queue full completes with DROPPED (R1013). -/
def dumpHost (c : Ctl) (r : DumpReq) : Ctl :=
  let c := dumpQueue c r
  if r.ref = none ∨ c.dump.queue.any (fun q => q.ref = r.ref) then c else dumpFin c r 4 0
/-- The armed boundary stop applies. -/
def boundaryStop (c : Ctl) (n : Nat) : Ctl :=
  let armed := c.dump.armed
  let mask := stopMask c
  let late := c.db.bstopLate
  let fab := c.db.bstopFab
  let org (r : DumpReq) : DumpReq := match fab with | some q => { r with origin := 0xFFFF, named := q } | none => r
  let c := debugHaltMask c mask
  let c := setFld c rBstopStat 1 0 0
  let c := { c with dump := { c.dump with armed := [] }, db := { c.db with bstopLate := false, bstopFab := none } }
  let c := armed.foldl (fun c r =>
    dumpHost c (org { r with awaits := none, named := n, pass := n, late := r.late && decide (r.awaits = some n) })) c
  let w := fld c rDmCtrl 9 8
  if w = 0 ∨ (w = 1 ∧ mask = 0) then c
  else dumpQueue c (org { trigger := 4, scope := w - 1, mask := mask, origin := plezorId c, named := n, pass := n, late := late })
/-- The partitions released at the boundary of pass `n`, at FTC `t`. -/
def releaseMask (c : Ctl) (n t : Nat) : Nat :=
  let soon := (c.db.relSoon.filter (fun e => e.1 + 64 ≤ t)).foldl (fun m e => m ||| e.2) 0
  if c.db.relArmed ∧ rd64 c (hub 0x60) % 2 ^ 48 ≤ n then soon ||| rd c (hub 0x68) else soon
/-- DBG_HALT of a partition is cleared; an error halt stays (R953). -/
def release (c : Ctl) (p : Nat) : Ctl :=
  if rbit c (ptStat p) 6 then
    let c := ptFixHalted (setBit c (ptStat p) 6 false) p
    let c := if ptState c p = 0 then (tilesOf c p).foldl (fun c t => updTile c t (fun x => { x with halted := false, quiet := false })) c else c
    if ptHalted c p then c else updPart (wdogLoad c p) p (fun x => { x with noLedger := true })
  else c
/-- What a boundary uses up of the releases that wait. -/
def releaseDone (c : Ctl) (n t : Nat) : Ctl :=
  let armed := c.db.relArmed && !decide (rd64 c (hub 0x60) % 2 ^ 48 ≤ n)
  let soon := c.db.relSoon.filter (fun e => e.1 + 64 > t)
  { c with db := { c.db with relSoon := soon, relArmed := armed } }
/-- The releases of the boundary of pass `n`; a stop of the same partition wins (R955). -/
def releases (c : Ctl) (n t stopped : Nat) : Ctl :=
  releaseDone (foldUp 32 (fun c p => if bitN (releaseMask c n t) p && !bitN stopped p then release c p else c) c) n t

/-! A new pass (R209 to R213, R292, R335a, R953, R1072). -/
/-- The partition runs the pass `n` that begins now: it has a loaded plan, and nothing holds it, a halt due in 4 tc included (R127, R211, R214,
R247). -/
def startsPass (c : Ctl) (p n : Nat) : Bool :=
  !ptHalted c p && (part c p).haltDue.isNone && !(part c p).resetting && rbit c (ptPlanStat p) 0 && !throttled c n && decide (c.time.passAt ≥ (part c p).holdTill) &&
    (decide (ptState c p = 1) || decide (ptState c p = 2 ∧ smGet c.drainAt 0 (192 + p) = c.time.ftc))
/-- A tile starts its partition's first pass: every register cleared, bundle 0 (R209, R249). Flits and descriptors that still wait keep
waiting (R266, R270). -/
def tileFirst (c : Ctl) (n t : Nat) : Ctl :=
  traceTile (updTile c t (fun x => { run := .run, atPass := n, touched := x.touched, sendq := x.sendq, nmeq := x.nmeq,
                                     rxUsed := x.rxUsed, rxBank := x.rxBank, arrAt := x.arrAt, arrMask := x.arrMask, phaseAt := x.phaseAt })) t 0x01 (n % 2 ^ 48)
/-- A tile in the end-of-pass wait starts the next pass at WAITP's target; STICKY is copied and cleared (R292, R335a). -/
def tileNext (c : Ctl) (n t : Nat) : Ctl :=
  let x := tile c t
  if x.run = .waiting then
    let c := wr c (tlStickyLast t) x.sticky
    let c := hwSet c (tlStickyAcc t) x.sticky
    let c := putTile c t { x with pc := x.waitTgt, run := .run, issued := 0, sticky := 0, busy := 0,
                                  atPass := n, judged := 0 }
    traceTile c t 0x01 (n % 2 ^ 48)
  else updTile c t (fun x => { x with busy := 0 })
/-- A partition starts the pass; the pass in which it resumes after a reset of Fliwell is not evaluated (R130, R982). -/
def partStarts (m : Mem) (n : Nat) (c : Ctl) (p : Nat) : Ctl :=
  let x := part c p
  let first := x.fresh
  let c := if first ∨ !x.ran then wdogLoad c p else c
  let c := updPart c p (fun x => { x with inPass := true, began := true, fresh := false, holdTill := 0,
                                          noLedger := x.noLedger || decide (x.holdTill ≠ 0) })
  (tilesOf c p).foldl (fun c t => if first then tileFirst c n t else tileNext (resumeTile c m t) n t) c
/-- The new pass begins: what each block does at its start (R88, step 5). -/
def passStart (cm : CM) : CM :=
  let c := cm.1
  let n := c.time.pass
  let c := { c with nme := { c.nme with busy := {}, corr := {}, unc := {} } }
  let c := (c.tiles.entries.map (·.1)).foldl (fun c t => updTile c t (fun x => { x with corrEv := false })) c
  let c := hgHeartbeats (stnMiss c)
  let c := dcForget (lkForget (poolPass c))
  let c := gatherNow (fwdOpen (routeSelect (foldUp 32 (fun c l => linkUpNow l c) c)))
  let c := ceTrimLatch (spBoundary c)
  let c := foldUp 32 (fun c p => if startsPass c p n then partStarts cm.2 n c p else c) c
  let hold := if lockOf c = 4 ∧ isRoot c = false then c.time.holdPasses + 1 else c.time.holdPasses
  ({ c with time := { c.time with phase := 0, holdPasses := hold } }, cm.2)

/-! The boundary, step by step (R87, R88). `phase` counts the steps done. -/
/-- The epoch stops at the boundary of pass `n` (R116, R117, R133). -/
def stopsAt (c : Ctl) (n : Nat) : Bool :=
  (rbit c rTimCtrl 17 && decide (rd64 c rStopAt % 2 ^ 48 ≤ n)) || decide (n ≥ 0xFFFFFFFFFFFF)
/-- A boundary can fall: the epoch runs and so do the clocks. -/
def boundaryUp (c : Ctl) : Bool := c.time.epoch && hclkRuns c && decide (passLen c ≠ 0)
/-- The halts of a partition at the boundary, in the order of R217; further causes only raise their event. Causes 0x03 and 0x04 halt it 4 tc
after the boundary, with the boundary as the cause's instant (R127, R214, R1034). A partition that an exception has halted stays as it is
(R245). -/
def boundaryHalts (c : Ctl) (p : Nat) (late : Option Nat) (wdog budget : Bool) : Ctl :=
  let causes := (if late.isSome then [3] else []) ++ (if wdog then [4] else []) ++ (if budget then [2] else [])
  match causes with
  | [] => c
  | k :: r =>
    if rbit c (ptStat p) 5 then c
    else
      let t := if k = 3 then late else none
      let c := if k = 2 then errorHalt c p k t (stamp c)
        else updPart c p (fun x => { x with haltDue := some { at_ := c.time.ftc + 4, cause := k, tile := t, ts := stamp c } })
      r.foldl (fun c k => raise c 0x5183 p (unitPart c p) k) c
/-- What step 1 finds for a partition: the tile of a pass-end breach, the watchdog's expiry, a budget halt. A pass that is not evaluated stays
so until its tiles have run one (R130). -/
def passEnd (stops : Bool) (c : Ctl) (p : Nat) : Ctl :=
  let late := lateTile c p
  let budget := overBudget c p
  let wdog := wdogEnds c p
  let c := wdogStep (ledgerEval c p) p
  let c := updPart c p (fun x => { x with ran := x.inPass, inPass := false, began := false, kick := false, noLedger := x.noLedger && !x.began })
  if stops then c else boundaryHalts c p late wdog budget
/-- Step 1: FTC reaches the boundary, and tiles whose operations are complete by then stand in the end-of-pass wait (R291), one whose last
operation ends in the boundary's tc among them: DESIGN CHOICE, for R306 speaks of nothing pending alone (Assumption 58); the ledger of the pass that ends, and the watchdogs. -/
def boundary1 (cm : CM) : CM :=
  let c := cm.1
  let t := nextBoundary c
  let c := hgRemember (advanceTo c t) t
  let c := poolEnd (foldUp 32 haltOwed ((c.tiles.entries.map (·.1)).foldl enterWait c))
  let n := c.time.pass + 1
  let c := { c with time := { c.time with pass := n, passAt := t, phase := 1 } }
  (foldUp 32 (passEnd (stopsAt c n)) c, cm.2)
/-- Step 2: the armed boundary stop, the releases, and the epoch stop, at which the new pass does not begin. PASS_WRAP is raised while the epoch
still runs, so its TS has the pass 0xFFFF_FFFF_FFFF and offset 0: DESIGN CHOICE, for R133 and R120 do not say which form it has
(Assumption 57). -/
def boundary2 (cm : CM) : CM :=
  let c := cm.1
  let n := c.time.pass
  let t := c.time.passAt
  let ends := stopsAt c n
  let due := stopDue c n
  let m := if due then stopMask c else 0
  let c := if due then boundaryStop c n else c
  let c := releases c n t m
  let c := { c with time := { c.time with phase := 2 } }
  if ends then
    let c := if n ≥ 0xFFFFFFFFFFFF then raise c 0x3085 noPart (unitBlock c 0x02) 0 else c
    let c := { c with time := { c.time with pass := n - 1, passAt := t - passLen c } }
    epochStop (c, cm.2)
  else (c, cm.2)
/-- Step 3: a pending frame plan, the staged commits, and then power states. -/
def boundary3 (cm : CM) : CM :=
  let n := cm.1.time.pass
  let t := cm.1.time.passAt
  let cm := swapNow n cm
  let cm := powerBoundary t (commitAt cm.2 cm.1 n t, cm.2)
  ({ cm.1 with time := { cm.1.time with phase := 3 } }, cm.2)
/-- Step 4: drains that end. -/
def boundary4 (cm : CM) : CM :=
  let c := drainsEnd cm.1
  ({ c with time := { c.time with phase := 4 } }, cm.2)
/-- One step of the boundary in progress. -/
def boundaryStep (cm : CM) : CM :=
  match cm.1.time.phase with
  | 0 => boundary1 cm
  | 1 => boundary2 cm
  | 2 => boundary3 cm
  | 3 => boundary4 cm
  | _ => passStart cm
/-- Runs the boundary up to the end of step `k`, 1 to 4, from where it stands. -/
def boundaryTo (k : Nat) (cm : CM) : CM :=
  Nat.fold k (fun _ _ cm => if boundaryUp cm.1 ∧ cm.1.time.phase < k then boundaryStep cm else cm) cm
/-- The FTC of the boundary in progress, or of the next one. -/
def boundaryAt (c : Ctl) : Nat := if c.time.phase = 0 then nextBoundary c else c.time.passAt
/-- What a boundary does, it does with the immediate fields in force at its instant: writes accepted less than 8 tc before take effect after
it (R42). -/
def atInstant (f : CM → CM) (cm : CM) : CM :=
  let rs := if cm.1.time.epoch then lateAt cm.1 (boundaryAt cm.1) else []
  let r := f (earlyRegs cm.1 rs, cm.2)
  (lateRegs r.1 rs, r.2)
/-- The boundary, all of it. -/
def boundary (cm : CM) : CM :=
  if boundaryUp cm.1 then
    let cm := boundaryTo 4 cm
    if cm.1.time.phase = 4 ∧ boundaryUp cm.1 then passStart cm else cm
  else cm

/-! The epoch's start (R112, R132, R210). -/
/-- Writes that wait for a PTn_EN_AT before the first pass are too late (R206). -/
def lateEnAt (c : Ctl) (first : Nat) : Ctl :=
  let late (w : Staged) : Bool := w.atEn && decide (enAt c (ptOf w.off) < first)
  (c.staged.filter late).foldl (fun c w => atLate c (ptOf w.off) w.cmd) { c with staged := c.staged.filter (fun w => !late w) }
/-- STOP_ARM takes effect in the tc `t` of the epoch's start: its write was accepted 8 tc before (R42, R132). -/
def stopsWith (c : Ctl) (t : Nat) : Bool :=
  c.recent.any (fun r => decide (r.2.1 = rTimCtrl ∧ r.1 + 8 = t) && bitN r.2.2.1 17) && rbit c rTimCtrl 17
/-- A partition at the start of an epoch: one that is ON and not halted begins with its first pass (R210, R247). -/
def partAnew (c : Ctl) (p : Nat) : Ctl :=
  let fresh := decide (ptState c p = 1) && !ptHalted c p && (part c p).haltDue.isNone
  updPart c p (fun x => { x with ran := false, fresh := x.fresh || fresh })
/-- FTC reaches TIM_EPOCH_AT with ARM set: the epoch starts with the boundary of its first pass, or does not start (R112, R113). A STOP_ARM of the
same tc ends it at once: no pass begins (R132). The landing slots count anew (R433). -/
def epochStart (cm : CM) : CM :=
  let c := cm.1
  let t := rd64 c rEpochAt
  if rbit c rTimCtrl 16 = false ∨ c.time.epoch ∨ c.time.ftc > t ∨ hclkRuns c = false then cm
  else
    let stop := stopsWith c t
    let c := advanceTo c t
    let v := startFail c
    if v ≠ 0 then (failStart c c.time.ftc v, cm.2)
    else
      let f := rd64 c rEpochFirst % 2 ^ 48
      let c := updHg (hgRemember c t) (fun x => { x with slots := {} })
      let c := setBit c rPlStat 4 false
      let c := { c with time := { c.time with epoch := true, pass := f, passAt := t, phase := 1, holdPasses := 0 },
                        plan := { c.plan with finalDone := false } }
      let c := lateEnAt (foldUp 32 partAnew (lkEpoch c)) f
      if stop then epochStop ({ c with time := { c.time with pass := f - 1, passAt := t - passLen c } }, cm.2)
      else
        let cm := boundaryTo 4 (c, cm.2)
        if cm.1.time.phase = 4 ∧ boundaryUp cm.1 then passStart cm else cm

/-! The commands. -/
/-- A pass boundary (R88). -/
def execPassBoundary (s : State) : Out := onAll (atInstant boundary) s
/-- Staged writes commit at the boundary (R43): the boundary runs through step 3 when one of them is eligible. -/
def execStagedCommit (s : State) : Out :=
  onAll (atInstant (fun cm =>
    let n := if cm.1.time.phase = 0 then cm.1.time.pass + 1 else cm.1.time.pass
    let t := boundaryAt cm.1
    if cm.1.staged.any (eligible cm.1 n t) then boundaryTo 3 cm else cm)) s
/-- A pending frame plan becomes active at the boundary (R182, R183). -/
def execFramePlanActivation (s : State) : Out :=
  onAll (atInstant (fun cm =>
    let n := if cm.1.time.phase = 0 then cm.1.time.pass + 1 else cm.1.time.pass
    if cm.1.plan.pending.isSome ∧ swapPass cm.1 = some n then boundaryTo 3 cm else cm)) s
/-- An armed stop applies at the boundary (R950, R116). -/
def execBoundaryStop (s : State) : Out :=
  onAll (atInstant (fun cm =>
    let n := if cm.1.time.phase = 0 then cm.1.time.pass + 1 else cm.1.time.pass
    if stopDue cm.1 n ∨ stopsAt cm.1 n then boundaryTo 2 cm else cm)) s
/-- A release takes effect at its boundary (R953): what resumes does so as the new pass begins. -/
def execReleaseTakesEffect (s : State) : Out :=
  onAll (atInstant (fun cm =>
    let n := if cm.1.time.phase = 0 then cm.1.time.pass + 1 else cm.1.time.pass
    let t := boundaryAt cm.1
    if releaseMask cm.1 n t ≠ 0 then boundary cm else cm)) s
/-- A partition's watchdog expires at the boundary (R221). -/
def execPassWatchdogExpiry (p : Nat) (s : State) : Out :=
  onAll (atInstant (fun cm => if p < 32 ∧ cm.1.time.phase = 0 ∧ wdogEnds cm.1 p then boundaryTo 1 cm else cm)) s
/-- A drain ends: at the boundary while the epoch runs, at once otherwise (R55, R56). -/
def execDrainEnd (b : Blk) (s : State) : Out :=
  onAll (atInstant (fun cm =>
    if blkIs b = false ∨ blkState cm.1 b ≠ 2 ∨ regsServed cm.1 = false then cm
    else if cm.1.time.epoch then
      let cm' := boundaryTo 4 cm
      if boundaryUp cm.1 ∧ (blkState cm'.1 b ≠ 2 ∨ cm'.1.time.epoch = false) then cm' else cm
    else (drainTry cm.1 b, cm.2))) s
/-- A drain reaches its bound (R62). -/
def execDrainTimeout (b : Blk) (s : State) : Out := onServed (fun c => if blkIs b then drainTimeout c b else c) s
/-- A write of EN of a block that has one, through PF0 or through the VF of the partition (R52 to R58, R74). -/
def execEnWrite (f : Nat) (b : Blk) (en : Bool) (s : State) : Out :=
  onCtlM (fun m c =>
    if blkIs b = false ∨ regsServed c = false then c
    else if f ≠ 0 ∧ b ≠ .part (f - 1) then raise c 0x1002 noPart (blkUnit c b) (blkCtrl b % 2 ^ 28 + f % 64 * 2 ^ 40)
    else enWrite m c b en (decide (f ≠ 0)) none) s
/-- The epoch starts (R112), with the fields in force in its tc (R42, R44). -/
def execEpochStart (s : State) : Out :=
  onAll (fun cm => inEffectAll (rd64 cm.1 rEpochAt) epochStart cm) s
/-- A transition between power states begins (R1071). -/
def execPowerTransition (s : State) : Out :=
  onAll (atInstant (fun cm => match cm.1.pwr.next with
    | some (_, a, false) =>
      if cm.1.time.epoch = false then (if regsServed cm.1 then powerBegin cm else cm)
      else if a + 64 ≤ boundaryAt cm.1 then boundaryTo 3 cm else cm
    | _ => cm)) s

end Sys2Proof.Machine
end

