-- ==== Sys2Proof/Machine/ControlSlot.lean ====
section
/-! DEFINITION. The control-slot operations of a tile, each as the one operation of a bundle (R262, R263, R279 to R291), and the end of a hardware loop. -/
namespace Sys2Proof.Machine

/-- ALU (R262): X(xd) takes X(xa) op X(xb). -/
def execAlu (t xd xa xb fn : Nat) (s : State) : Out :=
  issueCmd t { c := { op := cALU, xd := xd, xa := xa, xb := xb, fn := fn } } s
/-- ADDI (R262). -/
def execAddi (t xd xa imm : Nat) (s : State) : Out :=
  issueCmd t { c := { op := cADDI, xd := xd, xa := xa, imm := imm } } s
/-- ORI (R262). -/
def execOri (t xd xa imm : Nat) (s : State) : Out :=
  issueCmd t { c := { op := cORI, xd := xd, xa := xa, imm := imm } } s
/-- LUI (R262). -/
def execLui (t xd imm : Nat) (s : State) : Out :=
  issueCmd t { c := { op := cLUI, xd := xd, imm := imm } } s
/-- BR (R262, R279 to R281). -/
def execBr (t cond xa xb tgt : Nat) (s : State) : Out :=
  issueCmd t { c := { op := cBR, fn := cond, xa := xa, xb := xb, imm := tgt } } s
/-- JR (R262, R279 to R281). -/
def execJr (t xd xa : Nat) (s : State) : Out :=
  issueCmd t { c := { op := cJR, xd := xd, xa := xa } } s
/-- BAL (R262, R279). -/
def execBal (t xd tgt : Nat) (s : State) : Out :=
  issueCmd t { c := { op := cBAL, xd := xd, imm := tgt } } s
/-- SETMODE (R262, R289, R290). -/
def execSetmode (t : Nat) (src : Bool) (xa imm : Nat) (s : State) : Out :=
  issueCmd t { c := { op := cSETMODE, src := src, xa := xa, imm := imm } } s
/-- WAITP (R262, R288, R291). -/
def execWaitp (t tgt : Nat) (s : State) : Out :=
  issueCmd t { c := { op := cWAITP, imm := tgt } } s
/-- WAITA (R262, R307). -/
def execWaita (t ch n : Nat) (s : State) : Out :=
  issueCmd t { c := { op := cWAITA, fn := ch, imm := n } } s
/-- ACLR (R262). -/
def execAclr (t mask : Nat) (s : State) : Out :=
  issueCmd t { c := { op := cACLR, imm := mask } } s
/-- KICK (R221, R262). -/
def execKick (t : Nat) (s : State) : Out :=
  issueCmd t { c := { op := cKICK } } s
/-- TRAP (R262, R297): the tile halts and its partition takes the error halt. -/
def execTrap (t code : Nat) (s : State) : Out :=
  issueCmd t { c := { op := cTRAP, imm := code } } s
/-- CSRR (R263). -/
def execCsrr (t xd idx : Nat) (s : State) : Out :=
  issueCmd t { c := { op := cCSRR, xd := xd, imm := idx } } s
/-- CSRW (R263). -/
def execCsrw (t xa idx : Nat) (s : State) : Out :=
  issueCmd t { c := { op := cCSRW, xa := xa, imm := idx } } s
/-- WAITT (R262, R307). -/
def execWaitt (t off : Nat) (s : State) : Out :=
  issueCmd t { c := { op := cWAITT, imm := off } } s
/-- LOOP (R282 to R284). -/
def execLoop (t lvl : Nat) (src : Bool) (xc cnt last : Nat) (s : State) : Out :=
  issueCmd t { c := { op := cLOOP, fn := lvl, src := src, xb := xc, cnt := cnt, imm := last } } s
/-- The end of a hardware loop (R283, R285): the bundle at LEND of the innermost active loop, in instruction RAM, issues with
LCNT 1; nothing happens when the next bundle is not such a one. -/
def execLoopEnd (t : Nat) (s : State) : Out :=
  let x := tile s.ctl t
  let ends (l : LoopSt) : Bool := l.active && decide (l.last = x.pc) && decide (l.count = 1)
  let inner : Bool := x.l1.active && decide (x.l1.last = x.pc)
  if x.delay.isNone && (if inner then ends x.l1 else ends x.l0) then issueCmd t (bundleAt s.mem t x.pc) s
  else onCtl (fun c => c) s


end Sys2Proof.Machine
end

