-- ==== Sys2Proof/Machine/TimeRows.lean ====
section
/-! DEFINITION. Clocks and fabric time as commands: lock and loss, time messages, arming and losing time (R78 to R82, R89 to R115). -/
namespace Sys2Proof.Machine

/-! Clocks. -/
/-- The root PLL locks after the release of a CHIP reset: the fallback engine goes on, and stacks that only sleep come out of
self-refresh (R78, R191, R1065). -/
def rootLocks (c : Ctl) : Ctl :=
  if rootLock c ∨ rbit c rClkStat 1 ∨ c.pwr.chip ∨ c.time.refclk = false ∨ c.time.needPor then c
  else
    let c := setBit c rClkStat 0 true
    let c := { c with plan := { c.plan with nextRefresh := c.time.ftc } }
    if c.pwr.train then c
    else { c with pwr := { c.pwr with sref := 0, ready := true } }
/-- Loss of root PLL lock (R79). -/
def rootLol (cm : CM) : CM :=
  if rootLock cm.1 = false ∨ cm.1.time.refclk = false then cm
  else
    let c := setMot cm.1 false
    let c := hwBit (setBit (setBit c rClkStat 0 false) rClkStat 1 true) rClkStat 2
    let c := { c with pwr := { c.pwr with sref := 0xFF } }
    chipContain 0x8041 (raise c 0x8041 noPart (unitBlock c 0x01) 0, cm.2)
/-- REFCLK is lost: every clock stops but TCK and the PCIe/CXL clock (R82). ROOT_LOCK goes on reading what it read until the POR: DESIGN CHOICE,
for R82 names REF_LOSS alone (Assumption 54). -/
def refLost (c : Ctl) : Ctl := { c with time := { c.time with refclk := false } }
/-- REFCLK returns: REF_LOSS is set, and only a POR starts the Plezor again (R82). -/
def refReturns (c : Ctl) : Ctl :=
  if c.time.refclk then c
  else { (hwBit c rClkStat 3) with time := { c.time with refclk := true, needPor := true } }

/-! Fabric time. -/
/-- A time message on a link that is ON or draining (R94). -/
def onLink (l : Nat) (f : Ctl → Ctl) (c : Ctl) : Ctl := if alive c ∧ l < 32 ∧ linkTimes c l then f c else c
/-- Fabric time is lost: LOCK becomes LOST, a CHIP event stops the epoch at once (R108, R109). LOCK stays LOST over that stop until a CHIP reset:
DESIGN CHOICE, for R101 names no state that the stop would lead to (Assumption 53). -/
def timeLost (why : Nat) (cm : CM) : CM :=
  let c := setLock cm.1 5
  chipContain 0x3083 (raise c 0x3083 noPart (unitBlock c 0x02) (why + rd c rTimOffset * 2 ^ 32), cm.2)
/-- An ECHO arrives; an offset beyond 16 tc while the epoch runs ends fabric time (R96, R109). -/
def echoCmd (l depth seq res t2 : Nat) (cm : CM) : CM :=
  if alive cm.1 = true ∧ l < 32 ∧ linkTimes cm.1 l = true then
    let r := echoIn cm.1 l depth seq res t2
    if r.2 then timeLost 1 (r.1, cm.2) else (r.1, cm.2)
  else cm
/-- A member's HOLDOVER has lasted TIM_HOLD_MAX passes (R90, R103, R108). -/
def holdEnds (cm : CM) : CM :=
  if alive cm.1 = true ∧ cm.1.time.epoch = true ∧ isRoot cm.1 = false ∧ lockOf cm.1 = 4 ∧ cm.1.time.holdPasses ≥ rd cm.1 rHoldMax then timeLost 0 cm else cm
/-- A write that sets ARM; in S3 it is discarded (R111, R1102). -/
def armWrite (c : Ctl) : Ctl :=
  if regsServed c = false ∨ c.ev.contained then c else if pwrState c = 3 then discard c rTimCtrl 0 else armEpoch c

/-! The commands. -/
/-- The root PLL locks (R78). -/
def execRootPllLock (s : State) : Out := onCtl rootLocks s
/-- The root PLL loses lock (R79). -/
def execRootLol (s : State) : Out := onAll rootLol s
/-- REFCLK is lost (R82). -/
def execRefclkLoss (s : State) : Out := onCtl refLost s
/-- REFCLK returns (R82). -/
def execRefclkReturn (s : State) : Out := onCtl refReturns s
/-- A time-message interval (R94). -/
def execTimeMessageInterval (s : State) : Out := onCtl (fun c => whenLinks c timeInterval) s
/-- A STAMP arrives (R92, R94). -/
def execTimeStampMessage (link depth seq t1 : Nat) (s : State) : Out := onCtl (fun c => if linksRun c ∧ link < 32 ∧ linkTimes c link then stampIn c link depth seq t1 else c) s
/-- An ECHO arrives (R96). -/
def execEcho (link depth seq res t2 : Nat) (s : State) : Out := onAll (echoCmd link depth seq res t2) s
/-- A COARSE arrives (R101, R102). -/
def execCoarse (link depth hi : Nat) (s : State) : Out := onCtl (onLink link (fun c => coarseIn c link depth hi)) s
/-- An EPOCH message arrives (R112). -/
def execEpochMessage (link depth plen digest : Nat) (s : State) : Out :=
  onCtl (onLink link (fun c => epochIn c link depth plen digest)) s
/-- The upstream is lost (R106, R107). -/
def execUpstreamLost (s : State) : Out := onCtl (fun c => whenAlive c upstreamLost) s
/-- HOLDOVER ends in LOST (R108). -/
def execTimeLost (s : State) : Out := onAll holdEnds s
/-- ARM is set (R111, R114). -/
def execArm (s : State) : Out := onCtl armWrite s
/-- STOP_ARM is set (R116). -/
def execStopArm (s : State) : Out := onCtl (fun c => if regsServed c then noteWrite (setBit c rTimCtrl 17 true) rTimCtrl (rd c rTimCtrl) (2 ^ 17) else c) s

end Sys2Proof.Machine
end

