-- ==== Sys2Proof/Machine/Events.lean ====
section
/-! DEFINITION. The event collector and its deliveries, TRIG sidebands and the spillway's pins (R964 to R968, R1030 to R1056). -/
namespace Sys2Proof.Machine

/-! Entry (R1034 to R1038). -/
/-- Of two causes the one that is entered first (R1035). -/
def causeBefore (a b : EvCause) : Bool :=
  let k (e : EvCause) : Nat × Nat × Nat × Nat := (e.tc, bits e.code 11 6, e.unit, e.code)
  let (a1, a2, a3, a4) := k a
  let (b1, b2, b3, b4) := k b
  decide (a1 < b1) || (decide (a1 = b1) && (decide (a2 < b2) || (decide (a2 = b2) && (decide (a3 < b3) ||
    (decide (a3 = b3) && decide (a4 < b4))))))
/-- The cause that is entered next; of equal ones the first raised. -/
def firstCause (l : List EvCause) : Option EvCause :=
  l.foldl (fun b e => match b with | none => some e | some a => if causeBefore e a then some e else some a) none
/-- The storm window in force: a pass, or 1,280 tc of FTC while the epoch is not running (R1037). -/
def stormWindow (c : Ctl) : Nat := if c.time.epoch then 2 * c.time.pass else 2 * (c.time.ftc / 1280) + 1
/-- EV_CNT_x: 0 to 4 by severity, 5 LOST, 6 SUPPRESSED. -/
def evCnt (c : Ctl) (x : Nat) : Ctl := cnt1 c (rEvCnt x)
/-- Changes the collector's state. -/
def updEv (c : Ctl) (f : EventSt → EventSt) : Ctl := { c with ev := f c.ev }
/-- A record is put into the buffer; one it overwrites before the monitor has taken it is lost (R1030, R1035, R1038). -/
def enterRec (c : Ctl) (e : EvCause) : Ctl :=
  let r : EvRec := { code := e.code, sev := e.sev, part := e.part, unit := e.unit, ts := e.ts, seq := c.ev.seq,
                     count := satU 16 (1 + smGet c.ev.suppressed 0 e.code), detail := e.detail }
  let c := updEv c (fun v =>
    { v with buf := smSet v.buf {} (v.seq % 256) r
             seq := v.seq + 1
             suppressed := smSet v.suppressed 0 e.code 0
             entered := smUpd v.entered 0 e.code (· + 1)
             vfTodo := if vfCode e.code ∧ e.part < 32 then v.vfTodo ++ [r] else v.vfTodo })
  let c := evCnt c (min e.sev 4)
  if c.ev.seq - c.ev.taken > 256 then evCnt (updEv c (fun v => { v with taken := v.taken + 1, lost := v.lost + 1 })) 5 else c
/-- The next cause becomes a record, or is suppressed (R1037). The collector stops only while CHIP reset is asserted (R1039). -/
def eventEntry (c : Ctl) : Ctl :=
  if c.pwr.chip then c
  else match firstCause c.ev.causes with
    | none => c
    | some e =>
      let w := stormWindow c
      let c := updEv c (fun v => { v with causes := v.causes.erase e, window := w, entered := if v.window = w then v.entered else {} })
      let lim := fld c rEvCtrl 7 0
      if e.sev ≤ 1 ∧ lim ≠ 0 ∧ smGet c.ev.entered 0 e.code ≥ lim then
        evCnt (updEv c (fun v => { v with suppressed := smUpd v.suppressed 0 e.code (· + 1) })) 6
      else enterRec c e

/-! Delivery (R898, R899, R902, R1036, R1051, R1052). -/
/-- A record goes to a function's event ring; a full ring loses and counts it. The write-back follows. -/
def ringRecord (c : Ctl) (fn : Nat) (r : EvRec) : Ctl :=
  if ringIs c fn 4 = false ∨ ringOk c fn 4 = false then c
  else if ringFree c fn 4 = 0 then hwBit (cnt1 c (ringBase fn 4 + 0x20)) (ringStat fn 4) 3
  else
    let c := ringPut c fn 4 (evBytes r) (decide (r.sev ≥ 2))
    emit c (.hostWrite (rd64 c (ringBase fn 4 + 0x18)) (leBytes 4 (ring c fn 4).head ++ leBytes 4 (rd c (ringBase fn 4 + 0x20))))
/-- The monitor takes the oldest record: PF0's ring and the log; records lost before it are reported. -/
def monTakes (c : Ctl) : Ctl :=
  if monRuns c = false ∨ c.db.coreHalted ∨ c.ev.taken ≥ c.ev.seq then c
  else
    let r := smGet c.ev.buf {} (c.ev.taken % 256)
    let lost := c.ev.lost
    let c := updEv c (fun v => { v with taken := v.taken + 1, log := (r :: v.log).take 8192, lost := 0 })
    let c := if lost = 0 then c else raise c 0x0581 noPart (unitBlock c 0x16) (lost % 2 ^ 32)
    ringRecord c 0 r
/-- One delivery: the copy for a VF's ring that waits, or else the record that the monitor takes. -/
def eventDeliver (c : Ctl) : Ctl :=
  if c.pwr.chip then c
  else match c.ev.vfTodo with
    | r :: rest => ringRecord (updEv c (fun v => { v with vfTodo := rest })) (r.part + 1) r
    | [] => monTakes c

/-! TRIG sidebands (R967, R1041, R1054). -/
/-- A TRIG is received. -/
def trigIn (l ch src seq : Nat) (cm : CM) : CM :=
  let c := cm.1
  if l ≥ 32 ∨ rootLock c = false ∨ c.time.refclk = false then cm
  else if bitN (rd c (hub 0x100)) l = false then (cnt1 c (hub 0x804), cm.2)
  else
    let masks := rd c (hub 0x104)
    let rx := ch % 2 ^ 16 &&& bits masks 31 16
    let tx := ch % 2 ^ 16 &&& bits masks 15 0
    let c := if tx = 0 then c
      else foldUp 32 (fun c k => if bitN (rd c (hub 0x100)) k ∧ linkUp c k ∧ k ≠ l then sbSend c k 2 (trigPayload tx src seq) else c) c
    let c := fireCh c rx false
    if rbit c rEvCtrl 19 ∧ bitN rx (fld c rEvCtrl 15 12) then
      let same (e : EvCause) : Bool := decide (e.code = 0x8006 ∧ e.tc = c.time.ftc)
      let c := if c.ev.causes.any same then c
        else raise c 0x8006 noPart (unitBlock c 0x00) (src % 2 ^ 16 + seq % 2 ^ 8 * 2 ^ 16 + l % 32 * 2 ^ 24)
      chipContain 0x8006 (c, cm.2)
    else (c, cm.2)

/-! SPILL_IN and SPILL_OUT (R966). -/
/-- SPILL_OUT falls. -/
def spillOff (c : Ctl) : Ctl :=
  if c.db.spillOut then emit { c with db := { c.db with spillOut := false } } (.pin 1 0) else c
/-- The pulse ends, in PULSE mode. -/
def spillEnd (c : Ctl) : Ctl :=
  if c.db.spillOut = true ∧ rbit c (hub 0x108) 30 = false then
    match reach c c.db.spillTill with | some c => spillOff c | none => c
  else c

/-! The commands. -/
/-- A record enters the buffer (R1034). -/
def execEventRecordEntry (s : State) : Out := onServed eventEntry s
/-- A record is delivered (R1036). -/
def execEventDelivery (s : State) : Out := onServed eventDeliver s
/-- A TRIG sideband arrives (R967). -/
def execTrig (link ch src seq : Nat) (s : State) : Out := onAll (trigIn link ch src seq) s
/-- SPILL_IN asserts for `samples` TCLK samples: it counts when these are more than FILT, else it is ignored (R966, R1170). -/
def execSpillIn (s : State) (samples : Nat := 16) : Out :=
  onCtl (fun c => if rootLock c ∧ c.time.refclk ∧ samples > fld c (hub 0x108) 27 24 then fireSrc c 98 else c) s
/-- DB_SPILL_FIRE is written (R964). -/
def execSpillFire (ch : Nat) (s : State) : Out := onServed (fun c => fireCh c ch true) s
/-- A pulse on SPILL_OUT ends (R966). -/
def execSpillOutPulseEnd (s : State) : Out := onServed spillEnd s
/-- DB_SPILL_PIN.CLR is written (R966). -/
def execSpillOutClear (s : State) : Out := onServed (fun c => if rbit c (hub 0x108) 30 then spillOff c else c) s

end Sys2Proof.Machine
end

