-- ==== Sys2Proof/Machine/Power.lean ====
section
/-! DEFINITION. The keep save, resets, start-up, and the temperatures and supplies (R1057 to R1070, R1077 to R1106). -/
namespace Sys2Proof.Machine

/-! The alert of the SMBus port (R1142). -/
/-- A sensor's reading in 1/16 °C. -/
def tempOf (c : Ctl) (i : Nat) : Int := sx 16 (rd c (rPwrTemp i))
/-- A sensor reads at or above WARN. -/
def warmNow (c : Ctl) : Bool := c.pwr.measured && (List.range 24).any (fun i => decide (tempOf c i ≥ ((fld c rPwrTherm 7 0 * 16 : Nat) : Int)))
/-- STATUS bits 3, 4 and 6, as a number of three bits. -/
def alertCond (c : Ctl) : Nat := fld c rPwrStat 8 8 + 2 * fld c rPwrStat 11 11 + 4 * b2n (warmNow c)
/-- SMB_ALERT_N falls when one of the three conditions becomes true. -/
def alertJudge (c : Ctl) : Ctl :=
  let now := alertCond c
  let rises := (List.range 3).any (fun i => bitN now i && !bitN c.pwr.cond i)
  let c := if rises ∧ c.pwr.alert = false then emit c (.pin 6 0) else c
  { c with pwr := { c.pwr with cond := now, alert := c.pwr.alert || rises } }

/-! The keep record (R1080 to R1092). -/
/-- KS_STAT and KS_SEQ show the newest bank (R1070, R1089). -/
def ksReport (cm : CM) : CM :=
  let c := cm.1
  match newestBank cm.2 with
  | none => (wr (setFld (setBit c rKsStat 5 false) rKsStat 1 0 0) rKsSeq 0, cm.2)
  | some b =>
    (wr (setFld (setBit c rKsStat 5 (decide (b = 1))) rKsStat 1 0 (if bankGood cm.2 b then 1 else 2)) rKsSeq (bankSeq cm.2 b), cm.2)
/-- A restore would take the newest record, as far as it can be judged before the spindle is set up (R1070, R1091). -/
def restorable (m : Mem) : Bool :=
  match validBank m with
  | some b => decide (consumed m b = 0) && bitN (readLe m.keep (bankAt b + 0x2E) 2) 2
  | none => false
/-- The newest dump summary of the keep store, or zeros (R1020). -/
def newestSum (m : Mem) : Bytes :=
  let best := (List.range 8).foldl (fun b i => if readLe m.keep (0x3000 + 64 * i) 4 > readLe m.keep (0x3000 + 64 * b) 4 then i else b) 0
  readBytes m.keep (0x3000 + 64 * best) 64
/-- The 64 newest event records, oldest first. -/
def newestEvents (c : Ctl) : Bytes :=
  let n := min 64 c.ev.seq
  padTo 2048 ((List.range n).flatMap (fun i => evBytes (smGet c.ev.buf {} ((c.ev.seq - n + i) % 256))))
/-- Bytes 0x018 to 0x02F of a new record (R1092). -/
def saveAngle (c : Ctl) (m : Mem) : Bytes :=
  match validBank m with
  | some b => if c.sp.tracked = false ∧ consumed m b = 0 then readBytes m.keep (bankAt b + 0x18) 24 else padTo 24 c.snap.sp
  | none => padTo 24 c.snap.sp
/-- Bytes 0x00A to 0xFF7 of the record (R1088). -/
def saveBody (c : Ctl) (m : Mem) (s : SaveSt) : Bytes :=
  let st := staging c
  leBytes 1 s.cause ++ leBytes 1 (s.flags + 16 * b2n (!rbit c rPwrStat 9)) ++ leBytes 2 (fld c rGlbFabric 15 0) ++
    leBytes 2 (fld c rGlbFabric 31 16) ++ leBytes 8 s.ts ++ saveAngle c m ++ zeroBytes 16 ++ padTo 20 c.snap.ce ++ zeroBytes 44 ++
    st.take 0x210 ++ leBytes 8 s.pass ++ slice st 0x218 0x30 ++ zeroBytes 56 ++ newestSum m ++ zeroBytes 192 ++ newestEvents c ++ zeroBytes 1016
/-- A save starts: it holds the timestamp, pass and flags of this instant (R1081, R1083, R1088). -/
def saveStart (c : Ctl) (cause : Nat) (wait : Bool) : Ctl :=
  let fl := b2n (!moving c) + 2 * fld c rPwrStat 5 5 + 4 * b2n (monRuns c) + 8 * b2n c.time.epoch
  let c := setBit c rKsStat 7 true
  { c with pwr := { c.pwr with save := some { cause := cause, wait := wait, ts := stamp c, ftc := c.time.ftc, pass := passNo c, flags := fl } },
           snap := { c.snap with frozen := !wait, till := if wait ∧ cause = 2 then some (c.time.ftc + 2500) else none } }
/-- Step 2 of a sag save ends: the snapshot is frozen, the record knows whether the drive is safe (R1081, R1082). -/
def sagFreeze (c : Ctl) : Ctl :=
  match c.pwr.save with
  | some s =>
    if s.wait then
      let safe := !moving c && !(decide (s.cause = 2) && snapShut c)
      { c with pwr := { c.pwr with save := some { s with wait := false, flags := s.flags / 2 * 2 + b2n safe } },
               snap := { c.snap with frozen := true, till := none } }
    else c
  | none => c
/-- Step 3: SUPPLY_SAG and its containment. -/
def sagRaise (i : Nat) (cm : CM) : CM :=
  let (c, d) := if i < 11 then (cm.1, i) else let (c, n) := drawFree cm.1; (c, Config.freeNat n % 256)
  chipContain 0x80C1 (raise c 0x80C1 noPart (unitBlock c 0x03) d, cm.2)
/-- The supply that the sag save in progress names: the lowest bit of PWR_SAG, or the pin. -/
def sagIndex (c : Ctl) : Nat := ((List.range 11).find? (fun i => rbit c rPwrSag i)).getD 11
/-- A supply sag is detected: a supply, 0 to 10, or the pin PFAIL_N, 11 (R1079, R1081, R1084, R1098, R1099, R1101). -/
def supplySag (i : Nat) (cm : CM) : CM :=
  if i > 11 ∨ cm.1.pwr.por then cm
  else
    let c := cm.1
    let second := rbit c rPwrStat 8
    let c := hwBit c rPwrSag (if i = 11 then 16 else i)
    let c := if i = 11 then setBit c rPwrStat 7 true else c
    let lost := decide (i = 7 ∨ i = 8 ∨ i = 9)
    let c := if lost then setBit c rPwrStat 9 true else c
    let m := if lost then { cm.2 with dm := {}, poison := {}, badBeat := {}, weakBeat := {} } else cm.2
    if second then sagRaise i (c, m)
    else
      let c := powerAbandon (setBit c rPwrStat 8 true)
      let busy := c.pwr.save.isSome
      let c := if busy then c else saveStart c (if i = 11 then 1 else 2) (moving c)
      let cm := if c.time.epoch then epochStop (c, m) else (c, m)
      let waits := match cm.1.pwr.save with | some s => s.wait | none => false
      let cm := if waits then cm else sagRaise i (if moving cm.1 then ceSave cm.1 else cm.1, cm.2)
      (alertJudge cm.1, cm.2)
/-- The engine's safe state, the freeze and the event of a sag save that waits (R1081). -/
def sagStep (cm : CM) : CM := sagRaise (sagIndex cm.1) (sagFreeze cm.1, cm.2)
/-- A sag save waits for the engine. -/
def sagWaits (c : Ctl) : Bool := match c.pwr.save with | some s => s.wait | none => false
/-- An output instant; a sag save that waits takes the safe state at it (R775, R828). -/
def outputOrSave (cm : CM) : CM :=
  if sagWaits cm.1 then
    let c := outputInstant (ceSave cm.1)
    if cm.1.ce.outDue.isSome ∧ c.ce.outDue = none then sagStep (c, cm.2) else cm
  else (outputInstant cm.1, cm.2)
/-- The record is written into the bank that does not hold the newest; `good` tells that it verified. When it did not, what the bank
holds after SAVE_SEQ is free, but for a CRC that is wrong (R1081, R1087). -/
def bankWrite (good : Bool) (s : SaveSt) (cm : CM) : CM :=
  let (b, q) := match newestBank cm.2 with | some b => (1 - b, bankSeq cm.2 b + 1) | none => (0, 1)
  let (c, body) := if good then (cm.1, leBytes 2 1 ++ s.body.getD (saveBody cm.1 cm.2 s)) else freeBytes 4080 cm.1
  let head := leBytes 4 0x524B5A50 ++ leBytes 4 (q % 2 ^ 32) ++ padTo 4080 body
  let crc := crc32c head
  let tail := leBytes 4 ((if good then crc else crc + 1) % 2 ^ 32) ++ leBytes 4 0
  (c, { cm.2 with keep := writeBytes cm.2.keep (bankAt b) (head ++ tail) })
/-- A save ends: 1 OK, 2 OK after the repeat, 3 verification failed, 0 the energy ended before (R1081, R1087). -/
def saveEnd (result : Nat) (cm : CM) : CM :=
  let cm := if sagWaits cm.1 then sagStep (if moving cm.1 then ceSave cm.1 else cm.1, cm.2) else cm
  match cm.1.pwr.save with
  | none => cm
  | some s =>
    let cm := bankWrite (decide (result = 1 ∨ result = 2)) s cm
    let c := { cm.1 with pwr := { cm.1.pwr with save := none } }
    let c := setBit c rKsStat 7 false
    ksReport (if result = 0 then c else setFld c rKsStat 23 16 result, cm.2)

/-! POR and CHIP resets (R1061 to R1066, R1085, R1096, R1097). -/
/-- The drive and the outputs take their reset levels. -/
def pinsLow (c : Ctl) : Ctl := emit (emit (setAout (setMot c false) 0) (.pin 2 0)) (.pin 5 0)
/-- Levels at the motion inputs, which no reset changes. -/
def inputLevels (from_ c : Ctl) : Ctl := setFld c rCeStat 11 8 (fld from_ rCeStat 11 8)
/-- A power-on reset: everything but the contents of the keep store returns to its reset state (R1063, R1106). -/
def powerOn (cm : CM) : CM :=
  let o := spillOff (pinsLow { cm.1 with db := { cm.1.db with ir := 2 } })
  let c : Ctl := { free := o.free, outs := o.outs, time := { refclk := o.time.refclk }, nme := { repairs := o.nme.repairs.filter (·.2.2.2) },
                   pwr := { chip := true, por := true, wrst := o.pwr.wrst, perst := o.pwr.perst, straps := o.pwr.straps } }
  let n := readLe cm.2.keep 8 4
  (inputLevels o c, { keep := writeLe cm.2.keep 8 4 ((n + 1) % 2 ^ 32) })
/-- PORST_N falls; a save in progress ends first (R1096). -/
def porFalls (cm : CM) : CM :=
  if cm.1.pwr.save.isSome then ({ cm.1 with pwr := { cm.1.pwr with porWaits := true } }, cm.2) else powerOn cm
/-- SAVE_COMPLETE, and then the POR that waited for it. -/
def saveDone (result : Nat) (cm : CM) : CM :=
  let waits := cm.1.pwr.porWaits
  if cm.1.pwr.save = none then cm
  else
    let cm := saveEnd result cm
    if waits then powerOn cm else (alertJudge cm.1, cm.2)
/-- The registers that a CHIP reset keeps: the keep domain's, the sequencer's, Fliwell's, and the tables of R1063. -/
def keptReg (o : Nat) : Bool :=
  decide (o = 0x100 ∨ (0x404 ≤ o ∧ o < 0x1000) ∨ (0x4000 ≤ o ∧ o < 0x5000) ∨ (0x60000 ≤ o ∧ o < 0x61000) ∨ (0x90000 ≤ o ∧ o < 0x92000) ∨
    (0xA0000 ≤ o ∧ o < 0xA1000) ∨ (0x130000 ≤ o ∧ o < 0x131000) ∨ (0x140000 ≤ o ∧ o < 0x180000 ∧ o % 0x100 ≥ 0x80) ∨
    (0x800000 ≤ o ∧ o < 0x1000000 ∧ o % 0x80000 ≥ 0x2000))
/-- The keep save at the assertion, and the assembly of the record of a save in progress (R1064, R1083, R1097). -/
def resetSave (cm : CM) : CM :=
  let cm := if sagWaits cm.1 then (sagFreeze (if moving cm.1 then ceSave cm.1 else cm.1), cm.2) else cm
  let c := if rbit cm.1 rPwrStat 8 = false ∧ cm.1.pwr.save = none then saveStart cm.1 3 false else cm.1
  match c.pwr.save with
  | some s =>
    if s.body = none then ({ c with pwr := { c.pwr with save := some { s with body := some (saveBody c cm.2 s) } } }, cm.2) else (c, cm.2)
  | none => (c, cm.2)
/-- What Fliwell keeps, with its dues counted from the FTC that starts again at 0. -/
def fliwellOver (c : Ctl) : DbSt :=
  let t := c.time.ftc
  { c.db with fireQ := [], captTrig := 0, spillTill := c.db.spillTill - t, mwdog := 0, relSoon := c.db.relSoon.map (fun e => (0, e.2)),
              reqs := c.db.reqs.map (fun r => { r with acc := 0 }),
              relay := c.db.relay.map (fun r => { r with sent := r.sent.map (· - t) }),
              traceQ := ⟨c.db.traceQ.entries.map (fun e => (e.1, e.2.map (fun r => { r with due := r.due - t })))⟩ }
/-- The CHIP domain is cleared (R1063, R1101). While MCLK runs, the fallback engine still refreshes every pseudo-channel 160 tc later, and the
stacks enter self-refresh after that (R189, R1064). -/
def chipClear (cm : CM) : CM :=
  let o := dumpCut (pinsLow cm.1)
  let m := cm.2
  let clocked := rootLock o && o.time.refclk
  let c : Ctl :=
    { regs := smClear o.regs (fun k => !keptReg k), free := o.free, outs := o.outs, time := { refclk := o.time.refclk, needPor := o.time.needPor },
      plan := { nextRefresh := 160 },
      hg := { dt := o.hg.dt, dtWeak := o.hg.dtWeak, dtBad := o.hg.dtBad, ctxWeak := o.hg.ctxWeak, ctxBad := o.hg.ctxBad },
      nme := { repairs := o.nme.repairs }, snap := o.snap, dump := o.dump, db := fliwellOver o,
      pwr := { o.pwr with chip := true, ready := false, sref := if clocked then o.pwr.sref else 0xFF, resetRef := clocked, next := none, s1div := 2, s1new := none, staging := [] } }
  let c := setFld (setFld c rClkStat 1 0 0) rPwrCtrl 23 16 (fld o rPwrCtrl 23 16)
  let c := setFld (setFld (setBit c rPwrStat 4 false) rPwrStat 3 3 0) rPwrStat 1 0 0
  let c := foldUp 32 (fun c p => if rbit o (ptStat p) 6 then ptFixHalted (setBit c (ptStat p) 6 true) p else c) c
  (inputLevels o c, { m with tm := {}, im := {}, badWord := {}, weakWord := {}, badBundle := {}, weakBundle := {} })
/-- A CHIP reset is asserted (R1064). -/
def chipAssert (cm : CM) : CM :=
  if cm.1.pwr.chip then cm
  else chipClear (resetSave (keepNow (traceFlush (powerAbandon cm.1, cm.2))))
/-- CHIP reset is released once nothing asserts it; SAVED clears, and a NOTE says that no record can be restored (R1065, R1069, R1070,
R1085, R1105, R1141). -/
def chipRelease (cm : CM) : CM :=
  let c := cm.1
  let p := c.pwr
  if p.chip = false ∨ p.byReg ∨ p.wrst ∨ p.por ∨ p.porHold ∨ bitN p.straps 2 = false ∨ p.porWaits then cm
  else
    let c := setBit (resetRefresh c) rPwrStat 8 false
    let p := c.pwr
    let c := { c with pwr := { p with chip := false, train := p.train || rbit c rPwrStat 9 }, snap := { c.snap with frozen := false, till := none } }
    let c := if restorable cm.2 then c else raise c 0x0101 noPart (unitBlock c 0x04) 0
    (alertJudge c, cm.2)
/-- One source of the reset ends: 0 WRST_N rises, 1 the 10 µs of a PWR_RST write, 2 the 100 µs after PORST_N. -/
def resetSourceEnds (src : Nat) (cm : CM) : CM :=
  let c := cm.1
  let p := c.pwr
  let p := match src with
    | 0 => { p with wrst := false }
    | 1 => { p with byReg := false }
    | _ => if p.por ∨ p.wrst then p else { p with porHold := false }
  chipRelease ({ c with pwr := p }, cm.2)
/-- PORST_N rises: the straps are latched, and the release of CHIP reset is 100 µs away (R1069, R1140). -/
def porRises (straps : Nat) (wrstLow : Bool) (c : Ctl) : Ctl :=
  if c.pwr.por then { c with pwr := { c.pwr with por := false, porHold := true, straps := straps % 8, wrst := wrstLow } } else c
/-- Training ends; each pseudo-channel that failed it is failed (R513, R1065, R1085). -/
def trainEnd (failed : List Nat) (c : Ctl) : Ctl :=
  if c.pwr.train = false ∨ rootLock c = false ∨ regsServed c = false then c
  else
    let whole (s : Nat) : Bool := (List.range 64).all (fun i => failed.contains (64 * s + i))
    let ok := (List.range 8).foldl (fun n s => n + b2n (!whole s) * 2 ^ s) 0
    let c := setBit c rPwrStat 9 false
    let c := { c with pwr := { c.pwr with train := false, trained := ok, sref := 0, ready := true }, plan := { c.plan with nextRefresh := c.time.ftc } }
    let c := foldUp 8 (fun c s => if whole s then failStack c s 0 else c) c
    (failed.filter (· < 512)).foldl (fun c q => failPch c q 0) c

/-! PERST_N and BLK resets (R451, R492, R603, R709, R767, R837, R1067, R1068, R1104). -/
/-- PERST_N changes; at its rise every function's configuration, rings and MSI-X table are reset (R1067). -/
def perstChange (low : Bool) (c : Ctl) : Ctl :=
  let was := c.pwr.perst
  let c := { c with pwr := { c.pwr with perst := low } }
  if was = true ∧ low = false ∧ c.pwr.chip = false then
    let c := foldUp 33 resetRings c
    { c with hi := { c.hi with numVfs := ({} : HiSt).numVfs } }
  else c
/-- A mover's BLK reset: its commands complete with DISCARDED, its registers return to their reset values. -/
def pmReset (c : Ctl) (m : Nat) : Ctl := resetRegs (pmDiscard c m false (fun _ _ => true)) (pmCtrl m) (pmCtrl m + 0x20)
/-- A BLK reset of a block: what is staged for its registers, its drain and its work end (R68, R69). -/
def blkResets (kind idx : Nat) (c : Ctl) : Ctl :=
  let clear (lo hi : Nat) (b : Option Blk) (c : Ctl) : Ctl :=
    let c := { c with staged := c.staged.filter (fun w => !decide (lo ≤ w.off ∧ w.off < hi)) }
    match b with | some b => { c with drainAt := smSet c.drainAt 0 (blkKey b) 0 } | none => c
  match kind with
  | 0 => if idx < 16 then dcHgReset (hgReset (clear (hgBase idx) (hgBase idx + 0x80000) (some (.hg idx)) c) idx) idx else c
  | 1 => if idx < 32 then lkReset (clear (lkBase idx) (lkBase idx + 0x100) (some (.lk idx)) c) idx else c
  | 2 => if idx = 0 then spReset (clear 0x40000 0x80000 (some .sp) c) else c
  | 3 => if idx = 0 then ceReset (clear 0x80000 0x100000 none c) else c
  | 4 => if idx < 16 then pmReset (clear (pmCtrl idx) (pmCtrl idx + 0x20) (some (.pm idx)) c) idx else c
  | _ => c
/-- The block of a BLK reset that has the common status (R51). -/
def blkOf (kind idx : Nat) : Option Blk :=
  match kind with
  | 0 => if idx < 16 then some (.hg idx) else none
  | 1 => if idx < 32 then some (.lk idx) else none
  | 2 => if idx = 0 then some .sp else none
  | 4 => if idx < 16 then some (.pm idx) else none
  | _ => none
/-- A BLK reset; in a contained Plezor STATE and EN_PENDING hold (R71). -/
def blkReset (kind idx : Nat) (c : Ctl) : Ctl :=
  let d := blkResets kind idx c
  match blkOf kind idx with
  | some b => if c.ev.contained then setFld d (blkStat b) 2 0 (fld c (blkStat b) 2 0) else d
  | none => d

/-- A write of GO to PWR_RST with a CONFIRM (R1065, R1104). -/
def pwrRst (confirm : Nat) (cm : CM) : CM :=
  if confirm ≠ 0xC1 ∨ cm.1.pwr.chip then cm
  else let cm := chipAssert cm; ({ cm.1 with pwr := { cm.1.pwr with byReg := true } }, cm.2)

/-! Temperatures (R1077, R1078). -/
/-- One sensor's new reading: THERM_WARN, and THERM_TRIP when it and the last reached TRIP. -/
def sensorReads (cm : CM) (i v : Nat) : CM :=
  let c := wr cm.1 (rPwrTemp i) (v % 2 ^ 16)
  let t := tempOf c i
  let warn : Int := ((fld c rPwrTherm 7 0 * 16 : Nat) : Int)
  let hot := decide (t ≥ ((fld c rPwrTherm 23 16 * 16 : Nat) : Int))
  let was := bitN c.pwr.warned i
  let c := if t ≥ warn ∧ was = false then raise c 0x00C2 noPart (unitBlock c 0x03) i else c
  let warned := if t ≥ warn then true else if t ≤ warn - 80 then false else was
  let twice := hot && bitN c.pwr.tripped i && !rbit c rPwrStat 11
  let c := { c with pwr := { c.pwr with warned := setBits c.pwr.warned i i (b2n warned), tripped := setBits c.pwr.tripped i i (b2n hot) } }
  if twice then chipContain 0x80C3 (raise c 0x80C3 noPart (unitBlock c 0x03) i, cm.2) else (c, cm.2)
/-- A thermal trip: its save, TRIPPED, and every stack in self-refresh (R1078, R1083, R1099). -/
def thermTrip (c : Ctl) : Ctl :=
  let c := if rbit c rPwrStat 8 = false ∧ c.pwr.save = none then saveStart c 4 false else c
  let c := setBit c rPwrStat 11 true
  { c with pwr := { c.pwr with sref := 0xFF } }
/-- Every sensor and HOLDCAP are read (R1077, R1094). -/
def temperatures (temps : List Nat) (vhold : Nat) (cm : CM) : CM :=
  if cm.1.pwr.por then cm
  else
    let hot (c : Ctl) (v : Nat) : Bool := decide (sx 16 v ≥ ((fld c rPwrTherm 23 16 * 16 : Nat) : Int))
    let trips := (temps.take 24).zipIdx.any (fun e => hot cm.1 e.1 && bitN cm.1.pwr.tripped e.2) && !rbit cm.1 rPwrStat 11
    let cm := (temps.take 24).zipIdx.foldl (fun cm e => sensorReads cm e.2 e.1) cm
    let c := if trips then thermTrip cm.1 else cm.1
    let c := setFld c (rPwrHold) 15 0 vhold
    let c := setBit c rPwrStat 5 (decide (vhold ≥ 4500))
    (alertJudge { c with pwr := { c.pwr with measured := true, vhold := true } }, cm.2)
/-- HOLDCAP reaches 4.5 V; `uf` is what the charger measured of a charge that started below 3.0 V (R1094). -/
def holdCharged (uf : Option Nat) (c : Ctl) : Ctl :=
  if c.pwr.por then c
  else
    let c := setBit c rPwrStat 5 true
    match uf with
    | some u => setBit (setFld c rPwrHold 31 16 u) rPwrStat 6 (decide (u % 2 ^ 16 < 1410))
    | none => c

/-! The SMBus port (R1140 to R1142, R1166). -/
/-- The STATUS word. -/
def smbStatus (c : Ctl) : Nat :=
  b2n c.pwr.chip + 2 * b2n (monRuns c) + 4 * b2n c.time.epoch + 8 * fld c rPwrStat 8 8 + 16 * fld c rPwrStat 11 11 + 32 * fld c rPwrStat 5 5 +
    64 * b2n (warmNow c) + 128 * b2n c.ev.contained + 256 * pwrState c
/-- A word read. -/
def smbWord (c : Ctl) (v : Nat) : Ctl := emit c (.smbus (leBytes 2 v))
/-- The highest reading. -/
def tempMax (c : Ctl) : Nat :=
  if c.pwr.measured then rd c (rPwrTemp ((List.range 24).foldl (fun b i => if tempOf c i > tempOf c b then i else b) 0)) else 0xFFFF
/-- Supply `i` is read; `mv` is its voltage as measured by now, if it is. -/
def supplyRead (i : Nat) (mv : Option Nat) (c : Ctl) : Ctl :=
  if i > 10 then c
  else
    let c := match mv with | some v => { c with pwr := { c.pwr with supply := smSet c.pwr.supply 0xFFFF i (v % 2 ^ 16) } } | none => c
    smbWord c (smGet c.pwr.supply 0xFFFF i)

/-! The commands. -/
/-- An output instant (R775, R828). -/
def execOutputInstant (s : State) : Out := onAll (fun cm => if alive cm.1 then outputOrSave cm else cm) s
/-- PORST_N falls, or the internal power-on reset acts (R1061, R1062, R1096). -/
def execPor (s : State) : Out := onAll porFalls s
/-- WRST_N has been low for 1 µs (R1062, R1064). -/
def execChipReset (s : State) : Out :=
  onAll (fun cm => let cm := chipAssert cm; ({ cm.1 with pwr := { cm.1.pwr with wrst := true } }, cm.2)) s
/-- A write to PWR_RST (R1065, R1104). -/
def execPwrRst (confirm : Nat) (s : State) : Out := onAll (pwrRst confirm) s
/-- A source of the CHIP reset ends (R1065, R1069, R1105). -/
def execChipResetRelease (src : Nat) (s : State) : Out := onAll (resetSourceEnds src) s
/-- Training ends (R1065). -/
def execHbmTrainingDone (failed : List Nat) (s : State) : Out := onCtl (trainEnd failed) s
/-- PERST_N (R1067). -/
def execPerstN (low : Bool) (s : State) : Out := onCtl (perstChange low) s
/-- A write to PWR_BLK_RST (R1068, R1104). -/
def execBlkReset (kind idx : Nat) (s : State) : Out := onCtl (fun c => if regsServed c then blkReset kind idx c else c) s
/-- The keep-store check ends (R1070). -/
def execKeepStoreCheck (s : State) : Out := onAll (fun cm => if cm.1.pwr.por then cm else ksReport cm) s
/-- The sensors are read (R1077, R1078). -/
def execTemperatureUpdate (temps : List Nat) (holdMv : Nat) (s : State) : Out := onAll (temperatures temps holdMv) s
/-- A supply sag (R1079, R1081). -/
def execSupplySag (i : Nat) (s : State) : Out := onAll (supplySag i) s
/-- A save ends (R1081). -/
def execSaveComplete (result : Nat) (s : State) : Out := onAll (saveDone result) s
/-- HOLDCAP is charged (R1094). -/
def execHoldcapCharged (uf : Option Nat) (s : State) : Out := onCtl (fun c => alertJudge (holdCharged uf c)) s
/-- PORST_N rises (R1069). -/
def execPorstNRise (straps : Nat) (wrstLow : Bool) (s : State) : Out := onCtl (porRises straps wrstLow) s
/-- ID (R1142). -/
def execSmbId (s : State) : Out := onCtl (fun c => emit c (.smbus (leBytes 4 (rd c 0)))) s
/-- STATUS (R1142). -/
def execSmbStatus (s : State) : Out := onCtl (fun c => smbWord c (smbStatus c)) s
/-- STRAPS (R1140, R1142). -/
def execSmbStraps (s : State) : Out := onCtl (fun c => emit c (.smbus (leBytes 1 c.pwr.straps))) s
/-- TEMP_MAX (R1142). -/
def execTempMax (s : State) : Out := onCtl (fun c => smbWord c (tempMax c)) s
/-- TEMPi (R1142). -/
def execTemp (i : Nat) (s : State) : Out :=
  onCtl (fun c => if i < 24 then smbWord c (if c.pwr.measured then rd c (rPwrTemp i) else 0xFFFF) else c) s
/-- VSUPi (R1142). -/
def execVsup (i : Nat) (mv : Option Nat) (s : State) : Out := onCtl (supplyRead i mv) s
/-- VHOLD (R1142). -/
def execVhold (s : State) : Out := onCtl (fun c => smbWord c (if c.pwr.vhold then fld c rPwrHold 15 0 else 0xFFFF)) s
/-- CAP_UF (R1094, R1142). -/
def execCapUf (s : State) : Out := onCtl (fun c => smbWord c (fld c rPwrHold 31 16)) s
/-- CLEAR_ALERT (R1142). -/
def execClearAlert (s : State) : Out :=
  onCtl (fun c => { (if c.pwr.alert then emit c (.pin 6 1) else c) with pwr := { c.pwr with alert := false } }) s
/-- The Alert Response Address is read (R1141, R1142). -/
def execAlertResponse (s : State) : Out := onCtl (fun c => emit c (.smbus (leBytes 1 (0x58 + c.pwr.straps % 4)))) s

end Sys2Proof.Machine
end

