-- ==== Sys2Proof/Machine/RegFields.lean ====
section
/-! DEFINITION. Which fields of a register a write may change: access codes, owners that run, values in range (R12, R14, R16, R23, R24,
R1118 to R1121). -/
namespace Sys2Proof.Machine

/-! Owners (R12, R23, R769). -/
/-- A tile's halt registers may be written: the tile is halted, or no partition that is not OFF owns it (R298). -/
def tileStopped (c : Ctl) (t : Nat) : Bool := (tile c t).halted || decide (tileOwner c t ≥ 32) || decide (ptState c (tileOwner c t) = 0)
/-- The ring that a ring register belongs to, as function and ring. -/
def ringOf (o : Nat) : Nat × Nat := if o < 0x20000000 then (0, (o - 0x1100) / 64) else ((o - 0x20000000) / 4096, o % 4096 / 64)
/-- The block that owns the RWL fields of a register is stopped. A contained block is stopped whatever its STATE reads (R71). -/
def ownerStopped (c : Ctl) (o : Nat) : Bool :=
  if o < 0x1000 then !c.time.epoch
  else if o < 0x2000 ∨ 0x20000000 ≤ o then !(let r := ringOf o; ringRuns c r.1 r.2)
  else c.ev.contained ||
    (if 0x16000 ≤ o ∧ o < 0x18000 then decide (lkState c ((o - 0x16000) / 0x100) = 0)
     else if 0x19000 ≤ o ∧ o < 0x1A000 then decide (fld c (pmStat ((o - 0x19000) / 32)) 1 0 = 0)
     else if 0x28000 ≤ o ∧ o < 0x29000 then !rbit c (ee 0) 0
     else if 0x40000 ≤ o ∧ o < 0x80000 then decide (spState c = 0)
     else if 0x80000 ≤ o ∧ o < 0x100000 then decide (mstate c = 0)
     else if 0x140000 ≤ o ∧ o < 0x180000 then tileStopped c ((o - 0x140000) / 0x100)
     else if 0x800000 ≤ o ∧ o < 0x1000000 then decide (hgState c ((o - 0x800000) / 0x80000) = 0)
     else true)
/-- The tool that a configuration field of the engine belongs to runs (R872). -/
def toolRuns (c : Ctl) (o : Nat) : Bool :=
  if 0x80140 ≤ o ∧ o < 0x80158 then rbit c (ce 0x140) 29
  else if 0x80180 ≤ o ∧ o < 0x80194 then decide (c.ce.tune.run = 1)
  else if 0x801C0 ≤ o ∧ o < 0x801D0 then rbit c (ce 0x1C0) 0
  else false
/-- A write of the field is discarded under R23: an RWL field whose owner runs, a table in use (R768, R807), a tool that runs (R872). -/
def locked (c : Ctl) (o : Nat) (f : FieldSpec) : Bool :=
  match f.acc with
  | .rwl => !ownerStopped c o
  | .rw =>
    if 0x60000 ≤ o ∧ o < 0x60400 then rbit c rSpCfg 9
    else if 0x90000 ≤ o ∧ o < 0x91000 then rbit c (ce 0x8C) 0
    else if 0x91000 ≤ o ∧ o < 0x92000 then rbit c (ce 0x8C) 1
    else if o = 0x801C0 ∧ f.hi = 0 then false
    else toolRuns c o
  | _ => false

/-! Values (R24). -/
/-- A CE_MODE word names a computed loop (R786). -/
def modeNames (c : Ctl) (v : Nat) : Bool :=
  if bitN v 0 then (List.range 4).any (fun x => bitN v (4 + x) && lpEn c x) else lpEn c (bits v 2 1)
/-- Two signed words are in order: the word at `o`, which is to become `v`, and its partner. -/
def rising (c : Ctl) (lo hi o v : Nat) : Bool :=
  let at_ (a : Nat) : Int := sx 32 (if a = o then v else rd c a)
  decide (at_ lo < at_ hi)
/-- A write of the field is rejected under R24: the written word breaks a limit that depends on other fields. Fields that take effect in
their own way are rejected here too. -/
def refused (c : Ctl) (o v : Nat) (f : FieldSpec) : Bool :=
  let x := bits v f.hi f.lo
  if o = 0x200 then decide (f.hi = 16)
  else if o = 0x400 then decide (f.hi = 1 ∨ f.hi = 12)
  else if o = 0x418 then decide (f.lo = 0) && decide (x + 5 > (let t := bits v 23 16; if 100 ≤ t ∧ t ≤ 115 then t else fld c o 23 16))
  else if (0x1100 ≤ o ∧ o < 0x1240) ∨ 0x20000000 ≤ o then
    decide (o % 64 = 8) && (decide (f.hi = 29) || (decide (f.lo = 0) && decide (x ≥ if o < 0x20000000 then 2048 else 64)))
  else if 0x10100 ≤ o ∧ o < 0x10300 then decide (o % 16 = 4) && decide (bits v 9 0 + bits v 19 16 > lslots c)
  else if 0x18000 ≤ o ∧ o < 0x18400 then
    decide (o % 16 = 4) && (decide (x > 16384) || decide (trackerSum c ((o - 0x18000) / 16) x > 16384))
  else if 0x19000 ≤ o ∧ o < 0x19200 then decide (f.lo = 8) && decide (x > 31 ∧ x ≠ 63)
  else if 0x25000 ≤ o ∧ o < 0x26000 then decide (0x10 ≤ o % 64 ∧ o % 64 < 0x20) && srDef c ((o - 0x25000) / 64)
  else if o = 0x28000 then decide (f.hi = 0)
  else if o = 0x28004 then decide (x ≥ eeN c)
  else if o = 0x40024 then decide ((sx 24 x).natAbs > 4843582)
  else if o = 0x4002C then decide (bits v 15 0 ≥ bits v 31 16)
  else if o = 0x40054 then decide (f.lo = 16) && decide (x ≥ spP c)
  else if o = 0x40058 then decide (x > 2 ^ 22 / spP c - 1)
  else if o = 0x80000 then decide (f.hi = 0)
  else if o = 0x8000C then !modeNames c v
  else if 0x80020 ≤ o ∧ o < 0x80060 then
    let b := o / 16 * 16
    decide (o % 16 = 8 ∨ o % 16 = 12) && !rising c (b + 8) (b + 12) o v
  else if o = 0x80060 ∨ o = 0x80064 then !rising c 0x80060 0x80064 o v
  else if o = 0x800EC ∨ o = 0x800F0 then !rising c 0x800EC 0x800F0 o v
  else if 0x800000 ≤ o ∧ o < 0x1000000 then
    decide (o % 0x80000 = 0x18) && decide (x = 0x8100 ∨ x = 0x88A8 ∨ x = 0x8808)
  else false

/-! Counters that software clears (R1047 to R1049). -/
/-- Registers from `o` on, `n` words, return to 0. -/
def zeroRegs (c : Ctl) (o n : Nat) : Ctl := foldUp n (fun c i => wr c (o + 4 * i) 0) c
/-- The clear that a write of `v` to a register asks for, if the register holds a counter-clear field. -/
def counterClear (c : Ctl) (o v : Nat) : Option Ctl :=
  let yes (b : Bool) (d : Ctl) : Option Ctl := some (if b then d else c)
  if o = 0x411C then yes (bitN v 0) (zeroRegs c 0x4100 5)
  else if o = 0x501C then yes (bitN v 0) (zeroRegs c 0x5010 3)
  else if 0x6100 ≤ o ∧ o < 0x6300 ∧ o % 16 = 12 then yes (bitN v 0) (zeroRegs c (o - 12) 3)
  else if o = 0x805C then yes (bitN v 0) (zeroRegs c 0x8040 7)
  else if o = 0x10008 then
    yes (bitN v 0) (foldUp 16 (fun c h => setFld c (0x10040 + 4 * h) 28 16 0) { c with regs := smClearRange c.regs 0x12000 0x12800 })
  else if 0x15000 ≤ o ∧ o < 0x15100 ∧ o % 8 = 0 then yes (bitN v 31) (zeroRegs c o 2)
  else if 0x16000 ≤ o ∧ o < 0x18000 ∧ o % 0x100 = 0x80 then yes (bitN v 0) (zeroRegs c (o - 0x40) 16)
  else if 0x18800 ≤ o ∧ o < 0x19000 ∧ o % 32 = 28 then yes (bitN v 0) (zeroRegs c (o - 28) 6)
  else if o = 0x28018 then yes (bitN v 31) (wr c o 0)
  else if o = 0x400BC then yes (bitN v 0) (zeroRegs c 0x400A0 6)
  else if o = 0x8013C then yes (bitN v 0) (zeroRegs c 0x80120 5)
  else if o = 0x801D0 then yes (bitN v 31) (wr c o 0)
  else if 0x100000 ≤ o ∧ o < 0x120000 ∧ o % 4096 = 0x40 then yes (bitN v 0) (zeroRegs c o 2)
  else if o = 0x130810 then yes (bitN v 0) (zeroRegs c 0x130800 4)
  else if 0x140000 ≤ o ∧ o < 0x180000 ∧ o % 0x100 = 0x3C then yes (bitN v 0) (zeroRegs c (o - 0x1C) 6)
  else if 0x140000 ≤ o ∧ o < 0x180000 ∧ 0x90 ≤ o % 0x100 ∧ o % 0x100 < 0xA0 then yes (bitN v 31) (wr c o 0)
  else if 0x800000 ≤ o ∧ o < 0x1000000 ∧ o % 0x80000 = 0x13C then yes (bitN v 0) (zeroRegs c (o - 0x3C) 15)
  else none

end Sys2Proof.Machine
end

