-- ==== Sys2Proof/Machine/RegBus.lean ====
section
/-! DEFINITION. Writes of set-up registers: the generic effect of each access code, the writes that act, and the windows of the functions
(R12 to R24, R1107 to R1127). -/
namespace Sys2Proof.Machine

/-! The generic write. -/
/-- One field of a written word takes effect under its access code (R12, R24, R43, R44). -/
def writeField (fn off v : Nat) (m : Mem) (c : Ctl) (f : FieldSpec) : Ctl :=
  let x := bits v f.hi f.lo
  let old := fld c off f.hi f.lo
  match f.acc with
  | .ro | .wo => c
  | .w1c => setFld c off f.hi f.lo (old ^^^ (old &&& (x ^^^ (x &&& bits (w1cKept c off) f.hi f.lo))))
  | .w1s => setFld c off f.hi f.lo (old ||| x)
  | .rw | .rwl =>
    if x < f.min ∨ x > f.max then c
    else if f.staged then
      match (if f.hi = 0 then enOf off else none) with
      | some b => enWrite m c b (decide (x ≠ 0)) (decide (fn ≠ 0)) none
      | none => stageField m c off f.hi f.lo x (decide (fn ≠ 0))
    else setFld c off f.hi f.lo x
/-- The fields of a written word that are neither discarded nor rejected take effect (R23, R24). -/
def writeFields (fn off v : Nat) (m : Mem) (r : RegSpec) (c : Ctl) : Ctl :=
  r.fields.foldl (fun d f => if locked c off f || refused c off v f then d else writeField fn off v m d f) c
/-- A word is written with nothing but the effects of its fields' access codes; fields of an owner that runs raise one NOTE (R23). -/
def plainWrite (fn off raw v : Nat) (m : Mem) (c : Ctl) : Ctl :=
  match regSpec off with
  | none => c
  | some r =>
    let d := writeFields fn off v m r c
    if r.fields.any (locked c off) then discardAs d off raw fn else d

/-! Writes that act. -/
/-- GLB_STAGE_CTRL: writes held by HOLD count from its clear (R48). -/
def stageCtrlWrite (v : Nat) (c : Ctl) : Ctl :=
  let was := rbit c rStageCtrl 0
  let c := setBit c rStageCtrl 0 (bitN v 0)
  if was = true ∧ bitN v 0 = false ∧ c.time.epoch = true then
    { c with staged := c.staged.map (fun w => if w.vf then w else { w with acc := c.time.ftc }) }
  else c
/-- The fields of TIM_CTRL that the epoch locks, of which a write changes one. -/
def timLocked (c : Ctl) (v : Nat) : Bool :=
  match regSpec rTimCtrl with
  | some r => r.fields.any (fun f => locked c rTimCtrl f && decide (f.hi ≠ 16 ∧ bits v f.hi f.lo ≠ fld c rTimCtrl f.hi f.lo))
  | none => false
/-- TIM_CTRL: ARM after the other fields; a write while the epoch is stopped returns to the primary upstream (R110, R111). While the epoch
runs, a write of ARM = 0 raises no event unless it would change a locked field (R23, R131). -/
def timCtrlWrite (fn raw v : Nat) (m : Mem) (c : Ctl) : Ctl :=
  if c.time.epoch then
    let d := match regSpec rTimCtrl with | some r => writeFields fn rTimCtrl v m r c | none => c
    if bitN v 16 || timLocked c v then discardAs d rTimCtrl raw fn else d
  else
    let d := plainWrite fn rTimCtrl raw v m c
    let d := if rbit d rTimStat 7 then takeUp d false else d
    if bitN v 16 then armWrite d
    else { (setBit d rTimCtrl 16 false) with plan := { d.plan with finalDone := d.plan.finalDone && !rbit d rTimCtrl 16 } }
/-- PWR_CTRL: SREF_MASK, S1_DIV and the request (R1071, R1072). -/
def pwrCtrlWrite (fn raw v : Nat) (cm : CM) : CM :=
  let c := plainWrite fn rPwrCtrl raw v cm.2 cm.1
  let d := bits v 12 8
  let c := if 2 ≤ d ∧ d ≤ 16 then s1Write d c else c
  powerRequest (bits v 1 0) (c, cm.2)
/-- A ring's CTRL: RESET wins over RUN (R885, R919, R926). -/
def ringCtrlWrite (fn' off raw v : Nat) (m : Mem) (c : Ctl) : Ctl :=
  let (fn, r) := ringOf off
  if ringIs c fn r = false then c
  else
    let c := plainWrite fn' off raw v m c
    if bitN v 31 then ringReset c fn r else if bitN v 29 then ringStart c fn r else ringStop c fn r
/-- PO_HOST_CMD (R619, R624). -/
def hostCmdWrite (fn raw v : Nat) (m : Mem) (c : Ctl) : Ctl :=
  let h := bits v 5 0
  if bitN v 31 = true ∧ bits v 9 8 = 1 then killAccept h c
  else if bitN v 31 = true ∧ bits v 9 8 = 2 then reviveHost h c
  else plainWrite fn 0x2000C raw v m c
/-- PO_HIT_h (R555, R556, R586). -/
def hitWrite (fn raw h lo : Nat) (hi : Option Nat) (c : Ctl) : Ctl :=
  let base := match hi with | some w => bits w 23 0 | none => fld c (hitHi h) 23 0
  let changes := decide (bits lo 11 0 ≠ fld c (hitLo h) 11 0 ∨ base ≠ fld c (hitHi h) 23 0) || (hostValid c h && !bitN lo 31)
  if hitHeld c h && changes then discardAs c (hitLo h) raw fn
  else if bitN lo 31 && (spidTaken c h (bits lo 11 0) || overTracked c h) then c
  else setFld (setBit (setFld c (hitLo h) 11 0 lo) (hitLo h) 31 (bitN lo 31)) (hitHi h) 23 0 base
/-- PO_KEY_CMD (R581). -/
def keyCmdWrite (fn raw v : Nat) (m : Mem) (c : Ctl) : Ctl :=
  let op := bits v 9 8
  if bitN v 31 = true ∧ (op = 1 ∨ op = 2) then keyCommand op (bits v 7 7) (bits v 5 0) c else plainWrite fn 0x26040 raw v m c
/-- A partition's CTRL: AT_EN, EN, RESUME, DROP_CLR and RESET in this order, RESUME not beside RESET (R244); nothing during a PART reset. -/
def ptCtrlWrite (fn p v : Nat) (m : Mem) (c : Ctl) : Ctl :=
  if (part c p).resetting then c
  else
    let vf := decide (fn ≠ 0)
    let was := rbit c (ptCtrl p) 1
    let c := setBit c (ptCtrl p) 1 (bitN v 1)
    let c := if was = true ∧ bitN v 1 = false then atEnCleared m c p else c
    let c := ptEnWrite m c p (bitN v 0) vf none
    let c := if bitN v 3 && !bitN v 2 then resumeWrite m c p vf none else c
    let c := if bitN v 4 then wr c (ptDrop p) 0 else c
    if bitN v 2 then partReset c p none else c
/-- PTn_EN_AT (R239). -/
def enAtWrite (p lo : Nat) (hi : Option Nat) (c : Ctl) : Ctl :=
  if (part c p).resetting then c
  else
    let h := match hi with | some w => bits w 15 0 | none => rd c (ptEnAt p + 4)
    enAtMoved (wr64 c (ptEnAt p) (lo + 2 ^ 32 * h)) p
/-- A context entry (R414 to R416). A write of its low word alone is judged with the high word that a staged write will leave, and stages no
other (R43, R45). -/
def ctxWrite (fn n k lo : Nat) (hi : Option Nat) (m : Mem) (c : Ctl) : Ctl :=
  let o := hgBase n + 0x2000 + 8 * k
  let lo := lo &&& 0x7FFF7FFF
  let vf := decide (fn ≠ 0)
  let old := match (c.staged.filter (fun w => w.off = o + 4)).getLast? with | some w => w.val | none => rd c (o + 4)
  let h := match hi with | some w => bits w 15 0 | none => old
  if ctxOk (lo + 2 ^ 32 * h) then
    let c := stageField m c o 31 0 lo vf
    match hi with | some _ => stageField m c (o + 4) 15 0 h vf | none => c
  else raise c 0x1205 noPart (unitOf c 3 n) k
/-- A dressing entry of the bank that dressing does not use (R418, R419). -/
def dtWrite (n i lo : Nat) (hi : Option Nat) (c : Ctl) : Ctl :=
  let k := n * 65536 + (1 - fld c (hgBase n + 0x1C) 0 0) * 32768 + i
  let h := match hi with | some w => bits w 28 0 | none => (smGet c.hg.dt 0 k).toNat / 2 ^ 32
  updHg c (fun x => { x with dt := smSet x.dt 0 k (BitVec.ofNat 64 (lo + 2 ^ 32 * h)),
                             dtWeak := smSet x.dtWeak false k false, dtBad := smSet x.dtBad false k false })
/-- A station's first word (R404, R408). -/
def stn0Write (n s v : Nat) (c : Ctl) : Ctl :=
  let c := stnEn n s (bitN v 8) c
  if bitN v 9 then stnRejoin n s c else c
/-- The loop that a word of coefficient RAM or a CE_LOOPx_CFG belongs to (R791). -/
def coefLoop (o : Nat) : Option Nat :=
  if 0xA0000 ≤ o ∧ o < 0xA0800 then some ((o - 0xA0000) / 0x200)
  else if 0x80020 ≤ o ∧ o < 0x80060 ∧ o % 16 = 0 then some ((o - 0x80020) / 16)
  else none
/-- A write of coefficient RAM or of a loop's configuration (R778, R791); a change of a section's coefficients clears its residue (R361). -/
def coefWrite (fn off raw v x : Nat) (m : Mem) (c : Ctl) : Ctl :=
  if coefWritable c x then
    let d := plainWrite fn off raw v m c
    let k := (off - 0xA0000) / 64
    let d := if off < 0xA0000 ∨ rd d off = rd c off then d else setSec d k { sec d k with res := 0 }
    let timed := decide (off < 0xA0000 ∨ off % 64 = 0x28)
    if timed && decide (mstate c ≠ 0) && !ceTimingOk d then c else d
  else raise (hwBit c rCeStat 27) 0x1482 noPart (unitCe c) ((off - 0x80000) % 2 ^ 18 + x * 2 ^ 20)
/-- A register of the control engine (R776 to R779, R790 to R792, R840, R848, R853 to R859, R863). -/
def ceRegWrite (fn off raw v : Nat) (m : Mem) (c : Ctl) : Ctl :=
  let old := rd c off
  let note (d : Ctl) : Ctl := ceWrote d off old
  match coefLoop off with
  | some x => note (coefWrite fn off raw v x m c)
  | none =>
    match off with
    | 0x80000 =>
      let d := note (plainWrite fn off raw v m c)
      if d.ev.contained then setBit d off 0 (bitN v 0) else ceArm (bitN v 0) d
    | 0x80008 => whenAlive c (ceCommand (bits v 3 0))
    | 0x80014 => foldUp 4 (fun c x => if rbit c off x = bitN v x then c else loopBit x (bitN v x) c) c
    | 0x80140 =>
      let d := plainWrite fn off raw v m c
      let d := if bitN v 31 then injGo d else d
      if bitN v 30 then injStop d else d
    | 0x80160 =>
      let d := plainWrite fn off raw v m c
      let d := if bitN v 31 then ceCaptGo fn d else d
      if bitN v 30 then ceCaptAbort d else d
    | 0x80180 =>
      let d := plainWrite fn off raw v m c
      let d := if bitN v 31 then tuneGo d else d
      if bitN v 30 then tuneAbort d else d
    | _ => note (plainWrite fn off raw v m c)
/-- EE_CFG (R757, R758). -/
def eeCfgWrite (fn raw v : Nat) (m : Mem) (c : Ctl) : Ctl :=
  let d := plainWrite fn 0x28000 raw v m c
  if alive d then encoderRun (bitN v 0) d else setBit (setBit d 0x28000 0 (bitN v 0)) 0x2800C 0 (bitN v 0)
/-- DB_CTRL: a cleared WDOG_FREEZE reloads the management watchdog (R977). -/
def dbCtrlWrite (fn raw v : Nat) (m : Mem) (c : Ctl) : Ctl :=
  let was := rbit c (hub 0) 2
  let d := plainWrite fn (hub 0) raw v m c
  if was = true ∧ rbit d (hub 0) 2 = false then mwdogLoad d else d
/-- A byte is written into DB_VT_TX or DB_VT_RX (R975). -/
def vtWrite (o v : Nat) (c : Ctl) : Ctl :=
  if rbit c o 8 then setBit c o 9 true
  else setBit (setFld (if bitN v 9 then setBit c o 9 false else c) o 7 0 v) o 8 true
/-- DB_TRC_Pn_CTRL: EN = 1 starts the trace with an empty buffer, at once unless it waits for its channel (R963). -/
def trcWrite (fn raw p v : Nat) (cm : CM) : CM :=
  let (c, m) := traceFlushPart cm p
  let o := trcCtrl p
  let d := plainWrite fn o raw v m c
  if bitN v 31 then
    let d := setFld d o 29 28 (b2n (!bitN v 19))
    let d := zeroRegs d (o + 12) 2
    let mine (k : Nat) : Bool := decide (k / 1024 = p)
    ({ d with db := { d.db with traceQ := smSet d.db.traceQ [] p [], traceLost := smClear d.db.traceLost mine } }, m)
  else (setBit d o 28 false, m)
/-- DB_SPILL_PIN (R966). -/
def spillPinWrite (fn raw v : Nat) (m : Mem) (c : Ctl) : Ctl :=
  let d := plainWrite fn (hub 0x108) raw v m c
  if bitN v 31 = true ∧ rbit d (hub 0x108) 30 = true then spillOff d else d
/-- A register of the hub (R936 to R978 of the hub's chapter). -/
def hubRegWrite (fn off raw v : Nat) (cm : CM) : CM :=
  let (c, m) := cm
  let o := off - 0x130000
  if 0x400 ≤ o ∧ o < 0x800 ∧ o % 32 = 0 then trcWrite fn raw ((o - 0x400) / 32) v cm
  else match o with
    | 0x000 => (dbCtrlWrite fn raw v m c, m)
    | 0x024 => (if bitN v 0 = true ∧ monRuns c = true then mwdogLoad c else c, m)
    | 0x030 => (vtWrite off v c, m)
    | 0x034 => (vtWrite off v c, m)
    | 0x108 => (spillPinWrite fn raw v m c, m)
    | 0x10C => (fireCh c (bits v 15 0) true, m)
    | _ => (plainWrite fn off raw v m c, m)

/-! The address map. -/
/-- A pair takes effect: its low word, and the high word that was held, if one was (R14). A low word that its alignment rejects leaves the
high word to take effect; while its ring runs it is discarded with a NOTE (R23, R24). -/
def pairWrite (fn off raw lo : Nat) (hi : Option Nat) (m : Mem) (c : Ctl) : Ctl :=
  let high (c : Ctl) : Ctl := match hi with | some h => plainWrite fn (off + 4) (raw + 4) h m c | none => c
  let both (c : Ctl) : Ctl := plainWrite fn off raw lo m (high c)
  if off = 0x1008 then (if lo % 4096 = 0 then both c else high c)
  else if (0x1100 ≤ off ∧ off < 0x1240) ∨ 0x20000000 ≤ off then
    if (let r := ringOf off; ringIs c r.1 r.2) = false then c
    else if lo % (if off % 64 = 0 then 4096 else 8) = 0 then both c
    else if ownerStopped c off then high c
    else discardAs (high c) off raw fn
  else if off = 0x5090 then
    let w := hi.getD 0
    if bitN w 31 then startRepair (bitN w 30) (bits w 8 0) (bits w 13 9) (bits lo 17 0) c else both c
  else if 0x20100 ≤ off ∧ off < 0x20300 then hitWrite fn raw ((off - 0x20100) / 8) lo hi c
  else if 0x80000 ≤ off ∧ off < 0x100000 then ceWrote (ceWrote (both c) off (rd c off)) (off + 4) (rd c (off + 4))
  else if 0x100000 ≤ off ∧ off < 0x120000 then enAtWrite (ptOf off) lo hi c
  else if 0x800000 ≤ off ∧ off < 0x1000000 then
    let n := (off - 0x800000) / 0x80000
    let w := off % 0x80000
    if w = 0x10 then (if bitN (hi.getD 0) 0 then plainWrite fn off raw lo m c else both c)
    else if w < 0x40000 then ctxWrite fn n ((w - 0x2000) / 8) lo hi m c
    else dtWrite n ((w - 0x40000) / 8) lo hi c
  else both c
/-- A register below 0x1000: staging, time, the power sequencer, alerts. -/
def topWrite (fn off raw v : Nat) (cm : CM) : CM :=
  match off with
  | 0x00C => (stageCtrlWrite v cm.1, cm.2)
  | 0x200 => (timCtrlWrite fn raw v cm.2 cm.1, cm.2)
  | 0x400 => pwrCtrlWrite fn raw v cm
  | 0x408 => if bitN v 31 then pwrRst (bits v 15 8) cm else cm
  | 0x40C => if bitN v 31 then (blkReset (bits v 10 8) (bits v 4 0) cm.1, cm.2) else cm
  | 0x418 => (alertJudge (plainWrite fn off raw v cm.2 cm.1), cm.2)
  | _ => (plainWrite fn off raw v cm.2 cm.1, cm.2)
/-- A register of 0x1000 to 0x7FFF: the monitor, PF0's rings, the dump sequencer, device memory. -/
def hostRegWrite (fn off raw v : Nat) (m : Mem) (c : Ctl) : Ctl :=
  if off = 0x1000 then (if bitN v 0 then monLoad c else c)
  else if off < 0x2000 ∧ (off - 0x1100) % 64 = 8 then ringCtrlWrite fn off raw v m c
  else if off = 0x40C4 then (if bitN v 31 then catFree (bits v 3 0) fn c else plainWrite fn off raw v m c)
  else if 0x5040 ≤ off ∧ off < 0x5080 then
    foldUp 32 (fun c i => if bitN v i then failPch c ((off - 0x5040) / 4 * 32 + i) 2 else c) c
  else plainWrite fn off raw v m c
/-- A register of the pool, the watermark engines and the sharing regions. -/
def poolRegWrite (fn off raw v : Nat) (m : Mem) (c : Ctl) : Ctl :=
  if off = 0x2000C then hostCmdWrite fn raw v m c
  else if 0x25000 ≤ off ∧ off < 0x26000 ∧ off % 64 = 0 then
    if bitN v 1 then srDelete ((off - 0x25000) / 64) c else if bitN v 0 then srDefine ((off - 0x25000) / 64) c else c
  else if 0x26000 ≤ off ∧ off < 0x26040 then
    { c with pool := { c.pool with keyData := smSet c.pool.keyData 0 ((off - 0x26000) / 4) (BitVec.ofNat 32 v) } }
  else if off = 0x26040 then keyCmdWrite fn raw v m c
  else if off = 0x28000 then eeCfgWrite fn raw v m c
  else plainWrite fn off raw v m c
/-- SP_EXC: a change of AMP counts 8 tc after its acceptance, and then from the next zero crossing on (R42, R714). -/
def spExcWrite (fn raw v : Nat) (m : Mem) (c : Ctl) : Ctl :=
  let c := ampCross c
  let d := plainWrite fn (sp 0x08) raw v m c
  if spAmp d = spAmp c then d
  else updSp d (fun x => { x with ampOld := if c.time.ftc < x.ampFrom then x.ampOld else spAmp c, ampFrom := c.time.ftc + 8 })
/-- A register of the spindle. -/
def spRegWrite (fn off raw v : Nat) (m : Mem) (c : Ctl) : Ctl :=
  match off with
  | 0x40008 => spExcWrite fn raw v m c
  | 0x40050 => spSet v fn c
  | 0x40078 => if bitN v 0 then latchPop c else c
  | 0x40090 => captGo v fn c
  | _ => plainWrite fn off raw v m c
/-- A register whose write changes control state alone. -/
def unitRegWrite (fn off raw v : Nat) (m : Mem) (c : Ctl) : Ctl :=
  if off < 0x8000 then hostRegWrite fn off raw v m c
  else if off < 0x20000 then
    if 0x14C00 ≤ off ∧ off < 0x14E00 ∧ off % 16 = 0 then
      (if bitN v 29 then stageField m c off 29 29 1 (decide (fn ≠ 0)) else c)
    else plainWrite fn off raw v m c
  else if off < 0x40000 then poolRegWrite fn off raw v m c
  else if off < 0x80000 then spRegWrite fn off raw v m c
  else if off < 0x100000 then ceRegWrite fn off raw v m c
  else if off < 0x120000 then
    if (part c (ptOf off)).resetting then c
    else if off % 4096 = 0 then ptCtrlWrite fn (ptOf off) v m c
    else plainWrite fn off raw v m c
  else if off < 0x140000 then c
  else if off < 0x180000 then
    (if tilesUp c && !(clearing c ((off - 0x140000) / 0x100) && decide (off % 0x100 < 0x80)) then plainWrite fn off raw v m c else c)
  else if 0x800000 ≤ off ∧ off < 0x1000000 then
    let n := (off - 0x800000) / 0x80000
    let w := off % 0x80000
    if 0x400 ≤ w ∧ w < 0x800 ∧ w % 16 = 0 then stn0Write n ((w - 0x400) / 16) v c
    else if w = 8 then phyWritten n (plainWrite fn off raw v m c)
    else plainWrite fn off raw v m c
  else if 0x20000000 ≤ off ∧ off % 64 = 8 then ringCtrlWrite fn off raw v m c
  else plainWrite fn off raw v m c
/-- One word reaches the register at PF0 BAR0 offset `off`, written by a function at its own offset `raw`. -/
def wordWrite (fn off raw v : Nat) (cm : CM) : CM :=
  match counterClear cm.1 off v with
  | some d =>
    if 0x140000 ≤ off ∧ off < 0x180000 ∧ (tilesUp cm.1 = false ∨ (clearing cm.1 ((off - 0x140000) / 0x100) ∧ off % 0x100 < 0x80)) then cm
    else if 0x100000 ≤ off ∧ off < 0x120000 ∧ (part cm.1 (ptOf off)).resetting = true then cm
    else (d, cm.2)
  | none =>
    if off < 0x1000 then topWrite fn off raw v cm
    else if 0x130000 ≤ off ∧ off < 0x140000 then hubRegWrite fn off raw v cm
    else (unitRegWrite fn off raw v cm.2 cm.1, cm.2)
/-- The bits of a register that a write changes as an immediate field: the immediate fields (R42), and the staged ones, which it changes only
where they act as immediate ones (R44); but for ARM, which keeps its 8 tc beside the register (R111), and for the EN of a block, whose write
outside the epoch acts when it is taken (Assumption 7). -/
def immMask (off : Nat) : Nat :=
  match regSpec off with
  | some r =>
    r.fields.foldl (fun m f =>
      if (f.acc = .rw ∨ f.acc = .rwl) ∧ ¬(off = 0x200 ∧ f.hi = 16) ∧ ¬(f.staged = true ∧ f.hi = 0 ∧ (enOf off).isSome) then m ||| (2 ^ (f.hi + 1) - 2 ^ f.lo) else m) 0
  | none => 0
/-- A write of a register, with its immediate fields noted; the control engine notes its own (R776). -/
def noted (off : Nat) (f : CM → CM) (cm : CM) : CM :=
  let r := f cm
  if 0x80000 ≤ off ∧ off < 0x100000 then r else (noteWrite r.1 off (rd cm.1 off) (immMask off), r.2)
/-- One word of a requester reaches a block, written for a function: the high word of a pair is held until its low word comes (R14). -/
def busWord (fn who off raw v : Nat) (cm : CM) : CM :=
  let (c, m) := cm
  if pairLow off then
    let k := (off + 4) * 64 + who
    let h := (smGet c.held none k).map (·.toNat)
    noted off (noted (off + 4) (fun cm => (pairWrite fn off raw v h cm.2 cm.1, cm.2))) ({ c with held := smSet c.held none k none }, m)
  else if 4 ≤ off ∧ pairLow (off - 4) then
    ({ c with held := smSet c.held none (off * 64 + who) (some (BitVec.ofNat 32 v)) }, m)
  else noted off (wordWrite fn off raw v) cm

/-- Where a VF's BAR0 offset leads: nowhere; to a register, with the bits that the VF may write; to one that it may not write
(R1119 to R1121). -/
def vfPlace (c : Ctl) (fn raw : Nat) : Option (Nat × Nat × Bool) :=
  let n := fn - 1
  let all := 0xFFFFFFFF
  if raw < 0x1000 then some (ptBase n + raw, all, true)
  else if raw < 0x1200 then some (0x20000000 + 0x1000 * fn + (raw - 0x1000), all, true)
  else if raw < 0x40000 then
    if raw = 0x2000 ∨ raw = 0x2004 ∨ raw = 0x2008 then some (0x10100 + 16 * n + (raw - 0x2000), 0, false)
    else if 0x2040 ≤ raw ∧ raw < 0x2070 then some (0x12000 + 64 * n + (raw - 0x2040), 0, false)
    else if 0x2080 ≤ raw ∧ raw < 0x208C then some (0x6100 + 16 * n + (raw - 0x2080), 0, false)
    else if raw = 0x208C then some (0x610C + 16 * n, all, true)
    else if raw = 0x20C0 then some (lkHole n, 0x80000000, true)
    else if raw = 0x20C4 then some (lkWof n, 0, false)
    else none
  else if raw < 0x80000 then
    let t := (raw - 0x40000) / 0x100
    let o := raw % 0x100
    if o ≥ 0x80 then some (tlBase t + o, all, false)
    else some (tlBase t + o, all, decide (o = 0x3C ∨ o = 0x44) && decide (tileOwner c t = n))
  else none
/-- A word written at a function's BAR0 offset (R74, R1107, R1112, R1119). PF0's hub window waits for the hub (R1125). -/
def barWord (fn raw v : Nat) (cm : CM) : CM :=
  let c := cm.1
  if c.pwr.chip then cm
  else if fn = 0 then
    if raw ≥ 0x10000000 then cm
    else if 0x130000 ≤ raw ∧ raw < 0x131000 ∧ c.db.reqs.isEmpty = false then
      let b := padTo 56 (leBytes 2 2 ++ leBytes 2 4 ++ leBytes 4 (unitOf c 0xD 0) ++ leBytes 8 (raw - 0x130000) ++ zeroBytes 24 ++ leBytes 8 v)
      ({ c with db := { c.db with reqs := c.db.reqs ++ [{ origin := 3, bytes := b, acc := c.time.ftc }] } }, cm.2)
    else busWord 0 0 raw raw v cm
  else if fn > c.hi.numVfs ∨ fn > 32 then cm
  else match vfPlace c fn raw with
    | none => cm
    | some (off, mask, true) => busWord fn fn off raw (v &&& mask) cm
    | some (off, _, false) =>
      let u := regUnit off
      (raise c 0x1002 noPart (unitOf c u.1 u.2) (raw % 2 ^ 28 + fn % 64 * 2 ^ 40), cm.2)
/-- A register access of 4 or 8 bytes, words in ascending order; a 64-bit access to a pair takes effect at once; a narrower or misaligned
one is discarded (R14, R15, R1116). -/
def barWrite (fn off bytes : Nat) (v : Dword) (cm : CM) : CM :=
  let lo := v.toNat % 2 ^ 32
  let hi := v.toNat / 2 ^ 32
  if off % 4 ≠ 0 then cm
  else if bytes = 4 then barWord fn off lo cm
  else if bytes = 8 then
    let low := if fn = 0 then some off else (vfPlace cm.1 fn off).map (·.1)
    if (low.map pairLow).getD false then barWord fn off lo (barWord fn (off + 4) hi cm)
    else barWord fn (off + 4) hi (barWord fn off lo cm)
  else cm

/-- The register at which a function's read of a 4-byte-aligned BAR0 offset arrives; none where it reads 0 (R17, R1119, R1120). -/
def readPlace (c : Ctl) (fn raw : Nat) : Option Nat :=
  if fn = 0 then (if raw < 0x10000000 then some raw else none)
  else if fn > c.hi.numVfs ∨ fn > 32 then none
  else if 0x40000 ≤ raw ∧ (raw % 0x100 ≥ 0x80 ∨ tileOwner c ((raw - 0x40000) / 0x100) ≠ fn - 1) then none
  else (vfPlace c fn raw).map (·.1)
/-- A 32-bit read by a function, with the latches it leaves (R14). -/
def barReadWord (fn raw : Nat) (m : Mem) (c : Ctl) : Ctl × Nat :=
  match readPlace c fn raw with | some o => readWord fn o c m | none => (c, 0)
/-- The present value at a 4-byte-aligned offset, in the byte lanes `lo` to below `hi`; 0 in the others (R15). -/
def barLanes (fn raw lo hi : Nat) (m : Mem) (c : Ctl) : Nat :=
  match readPlace c fn raw with | some o => bits (regView c m o) (8 * hi - 1) (8 * lo) * 2 ^ (8 * lo) | none => 0
/-- 32-bit reads in ascending offset order (R1116). -/
def barReadWords (fn : Nat) (m : Mem) : Nat → Nat → Ctl → Ctl × List Nat
  | 0, _, c => (c, [])
  | n + 1, raw, c =>
    let r := barReadWord fn raw m c
    let t := barReadWords fn m n (raw + 4) r.1
    (t.1, r.2 :: t.2)
/-- A read of `n` bytes at a function's BAR0 offset: 32-bit words in ascending order; a 64-bit read of a pair in one; a narrower or
misaligned read the addressed bytes of each register it touches, 0 in the others (R14, R15, R17, R1116). The command table has no row for
it: a read is no command of this block, and changes nothing but what it latches. -/
def barRead (fn off n : Nat) (m : Mem) (c : Ctl) : Ctl × List Nat :=
  if off % 4 = 0 ∧ n % 4 = 0 then
    if n = 8 ∧ ((readPlace c fn off).map (fun o => pairLow o || roPair o)).getD false then
      (c, [barLanes fn off 0 4 m c, barLanes fn (off + 4) 0 4 m c])
    else barReadWords fn m (n / 4) off c
  else
    (c, (List.range ((off + n + 3) / 4 - off / 4)).map (fun i =>
      let w := (off / 4 + i) * 4
      barLanes fn w (off - w) (min 4 (off + n - w)) m c))

/-! The commands. -/
/-- A write of set-up registers through BAR0 (R12). -/
def execRegisterWrite (f off bytes : Nat) (v : Dword) (s : State) : Out :=
  onAll (fun cm => if hostUp cm.1 then barWrite f off bytes v cm else cm) s
/-- A write of a counter-clear field (R1049). -/
def execCounterClear (f off : Nat) (v : Word) (s : State) : Out :=
  onAll (fun cm =>
    let place := if f = 0 then off else ((vfPlace cm.1 f off).map (·.1)).getD 0
    if hostUp cm.1 ∧ (counterClear cm.1 place v.toNat).isSome then barWord f off v.toNat cm else cm) s
/-- CLR of an entry of LK_FAIL is written (R700). -/
def execFailClear (e : Nat) (s : State) : Out :=
  onCtlM (fun m c => if e < 32 ∧ regsServed c then stageField m c (lkFail e) 29 29 1 false else c) s

end Sys2Proof.Machine
end

