-- ==== Sys2Proof/Machine/HostCommands.lean ====
section
/-! DEFINITION. The commands of the submission rings that act on registers, partitions, dumps, the log and the keep store, and
function-level resets (R879, R880, R908 to R916, R923, R994 to R996). -/
namespace Sys2Proof.Machine

/-- The command dispatched first on a ring runs, when it has this opcode; it may change memories. -/
def runCmdM (fn r opc : Nat) (f : CM → Bytes → CmdRef → CM) (cm : CM) : CM :=
  match takeCmd cm.1 fn r opc with
  | some (e, c) => f (c, cm.2) e (refOf fn r e)
  | none => cm
/-- REG_WRITE: up to six register writes in order (R908). -/
def regWrites (cm : CM) (e : Bytes) (ref : CmdRef) : CM :=
  let cm := foldUp (leAt e 8 1) (fun cm i => barWrite ref.fn (leAt e (0x10 + 8 * i) 4) 4 (BitVec.ofNat 64 (leAt e (0x14 + 8 * i) 4)) cm) cm
  (complete cm.1 ref 0 0 0, cm.2)

/-! Partition commands (R893, R910, R911). -/
/-- The partition that a command acts on. -/
def cmdPart (e : Bytes) (ref : CmdRef) : Nat := if ref.fn = 0 then ePart e else ref.fn - 1
/-- PTn_EN_AT and AT_EN as a partition command writes them. -/
def cmdAt (m : Mem) (c : Ctl) (p : Nat) (at_ : Option Nat) : Ctl :=
  if (part c p).resetting then c
  else match at_ with
    | some n => setBit (enAtMoved (wr64 c (ptEnAt p) n) p) (ptCtrl p) 1 true
    | none =>
      let was := rbit c (ptCtrl p) 1
      let c := setBit c (ptCtrl p) 1 false
      if was then atEnCleared m c p else c
/-- A command that writes EN or RESUME, at once or at a pass; AT_PASS needs an epoch. -/
def partCmd (write : Mem → Ctl → Nat → Bool → Option CmdRef → Ctl) (m : Mem) (c : Ctl) (e : Bytes) (ref : CmdRef) : Ctl :=
  let p := cmdPart e ref
  let at_ := ePass e 8
  if at_.isSome ∧ c.time.epoch = false then complete c ref 0 7 0
  else write m (cmdAt m c p at_) p (decide (ref.fn ≠ 0)) (some ref)
/-- EN is written. -/
def cmdEn (en : Bool) (m : Mem) (c : Ctl) (p : Nat) (vf : Bool) (cmd : Option CmdRef) : Ctl := ptEnWrite m c p en vf cmd

/-! DUMP_REQ (R914, R994 to R996, R1029). -/
/-- A dump of a scope is asked for. -/
def dumpCmd (c : Ctl) (e : Bytes) (ref : CmdRef) : Ctl :=
  let scope := leAt e 8 1
  let mask := if scope = 0 then 2 ^ cmdPart e ref else 2 ^ 32 - 1
  let at_ := ePass e 0x10
  let fab := decide (scope = 2)
  let r : DumpReq := { trigger := 1, scope := if scope = 0 then 0 else 1, mask := mask, origin := plezorId c, named := passNo c,
                       pass := passNo c, ref := some ref }
  if c.time.epoch = false then
    if at_.isSome then complete c ref 0 5 0 else dumpHost (debugHaltMask c mask) r
  else
    let n := at_.getD (firstPassAfter c c.time.ftc)
    let (c, q, late) := armBstop c n mask false fab
    let c := if fab then flood c (reqHead 0x14 1 (unitOf c 0 0) n mask 0) else c
    dumpArm c { r with origin := if fab then 0xFFFF else r.origin, named := if fab then n else q, awaits := some q, pass := q, late := late }

/-! LOG_READ and KEEP_READ (R915, R916, R1088, R1103). -/
/-- Records of the monitor's log are copied to host memory. -/
def logRead (c : Ctl) (e : Bytes) (ref : CmdRef) : Ctl :=
  let want := leAt e 8 8 % 2 ^ 48
  let log := c.ev.log.reverse
  let old := match log with | r :: _ => r.seq | [] => want
  let got := (log.filter (fun r => decide (r.seq ≥ want))).take (leAt e 0x18 2)
  let first := match got with | r :: _ => r.seq | [] => want
  let c := if got.isEmpty then c else emit c (.hostWrite (leAt e 0x10 8) (got.flatMap evBytes))
  complete c ref 0 (b2n (decide (want < old))) (first % 2 ^ 48 + got.length * 2 ^ 48)
/-- Byte `a` of the keep store as KEEP_READ returns it: the header's MAGIC and FORMAT, POR_COUNT, the banks and the summaries; the rest
is 0. -/
def keepByte (m : Mem) (a : Nat) : Byte :=
  if a < 8 then (leBytes 4 0x534B5A50 ++ leBytes 4 1).getD a 0
  else if (8 ≤ a ∧ a < 12) ∨ (0x1000 ≤ a ∧ a < 0x3200) then smGet m.keep 0 a
  else 0
/-- Bytes of the keep store are copied to host memory. -/
def keepRead (cm : CM) (e : Bytes) (ref : CmdRef) : CM :=
  let o := leAt e 8 4
  let n := leAt e 0xC 4
  if o + n > 262144 then (complete cm.1 ref 0 1 0, cm.2)
  else
    let cm := keepNow cm
    let b := (List.range n).map (fun i => keepByte cm.2 (o + i))
    let c := if n = 0 then cm.1 else emit cm.1 (.hostWrite (leAt e 0x10 8) b)
    (complete c ref 0 0 n, cm.2)

/-! Function-level resets (R879, R880, R923). -/
/-- The reference of a command that a function's reset ends. -/
def loseRef (fn : Nat) (r : CmdRef) : CmdRef := if r.fn = fn ∧ r.ring ≠ 0xFF then noRef else r
/-- The commands of a VF, page moves and dumps apart, are not reported any more. -/
def loseCmds (c : Ctl) (fn : Nat) : Ctl :=
  let c := updPart c (fn - 1) (fun x => { x with waiting := x.waiting.map (fun e => (loseRef fn e.1, e.2)) })
  let c := { c with staged := c.staged.map (fun (w : Staged) => { w with cmd := w.cmd.map (loseRef fn) }) }
  let c := { c with plan := { c.plan with loader := { c.plan.loader with ref := loseRef fn c.plan.loader.ref } } }
  updRing c fn 0 (fun x => { x with todo := x.todo.filter (fun e => decide (eOpc e = 0x30 ∨ eOpc e = 0x40)) })
/-- Commands of a VF's submission ring that are dispatched and whose completion is still to come. -/
def liveCmds (c : Ctl) (fn : Nat) : Nat :=
  let mine (r : CmdRef) : Bool := decide (r.fn = fn ∧ r.ring = 0)
  let dumps := (match c.dump.running with | some d => [d.req] | none => []) ++ c.dump.queue ++ c.dump.armed
  (ring c fn 0).todo.length + (c.hi.done.filter (fun d => mine d.ref)).length +
    (dumps.filter (fun r => (r.ref.map mine).getD false)).length +
    foldUp 16 (fun n i => n + ((pmOf c i).cmds.filter (fun k => mine k.ref)).length) 0
/-- A function-level reset. -/
def flr (fn : Nat) (c : Ctl) : Ctl :=
  if fn = 0 then resetRings c 0
  else if fn > c.hi.numVfs ∨ fn > 32 then c
  else
    let c := resetRings (partReset (loseCmds c fn) (fn - 1) none) fn
    updRing c fn 0 (fun x => { x with busy := liveCmds c fn })

/-! The commands. -/
/-- REG_WRITE (R908). -/
def execRegWrite (fn : Nat) (s : State) : Out := onAll (runCmdM fn 0 0x01 regWrites) s
/-- PART_START (R910). -/
def execPartStart (fn : Nat) (s : State) : Out := onCtlM (fun m => runCmd fn 0 0x20 (partCmd (cmdEn true) m)) s
/-- PART_STOP (R910). -/
def execPartStop (fn : Nat) (s : State) : Out := onCtlM (fun m => runCmd fn 0 0x21 (partCmd (cmdEn false) m)) s
/-- PART_RESUME (R910). -/
def execPartResume (fn : Nat) (s : State) : Out := onCtlM (fun m => runCmd fn 0 0x22 (partCmd resumeWrite m)) s
/-- PART_RESET (R910). -/
def execPartReset (fn : Nat) (s : State) : Out :=
  onCtl (runCmd fn 0 0x23 (fun c e ref => partReset c (cmdPart e ref) (some ref))) s
/-- DUMP_REQ (R914). -/
def execDumpReq (fn : Nat) (s : State) : Out := onCtl (runCmd fn 0 0x40 dumpCmd) s
/-- LOG_READ (R915). -/
def execLogRead (s : State) : Out := onCtl (runCmd 0 0 0x50 logRead) s
/-- KEEP_READ (R916). -/
def execKeepRead (s : State) : Out := onAll (runCmdM 0 0 0x51 keepRead) s
/-- A function-level reset (R879, R880). -/
def execFunctionLevelReset (fn : Nat) (s : State) : Out := onHost (flr fn) s

end Sys2Proof.Machine
end

