-- ==== Sys2Proof/Machine/HubUnits.lean ====
section
/-! DEFINITION. What the culvert reads and writes: registers of units, tile space, trace buffers and device memory (R930, R940 to R945,
R1118). -/
namespace Sys2Proof.Machine

/-! Register units (R943, R1112, R1118). -/
/-- The PF0 BAR0 offset that an ADDR of a register unit names; none where no register stands. -/
def unitReg (cls idx a : Nat) : Option Nat :=
  let within (n o : Nat) : Option Nat := if a < n then some (o + a) else none
  match cls with
  | 0x1 => within 0x8000 (0x1000000 + 0x8000 * idx)
  | 0x2 => within 0x100 (lkBase idx)
  | 0x3 => within 0x80000 (hgBase idx)
  | 0x4 => if a < 0x40000 then some (0x40000 + a) else if a < 0x41000 then some (0x28000 + (a - 0x40000)) else none
  | 0x5 => within 0x80000 0x80000
  | 0x6 => within 0x1000 0x120000
  | 0x7 => if a < 0x8000 then some (0x20000 + a) else if a < 0x9000 then some (0x18000 + (a - 0x8000))
           else if a < 0xA000 then some (0x19000 + (a - 0x9000)) else none
  | 0x8 => within 0x4000 0x10000
  | 0xD => within 0x1000 0x130000
  | _ => some a
/-- A 32-bit read by the hub (R14); a read of DB_VT_TX clears FULL (R975). -/
def hubReadReg (c : Ctl) (m : Mem) (o : Nat) : Ctl × Nat :=
  if o = hub 0x30 then (setBit c o 8 false, regView c m o) else readWord whoHub o c m
/-- Words of a register unit, ascending. -/
def readRegs (cls idx : Nat) : Nat → Nat → Ctl × Mem → CM × List Nat
  | 0, _, cm => (cm, [])
  | n + 1, a, (c, m) =>
    let r := match unitReg cls idx a with | some o => hubReadReg c m o | none => (c, 0)
    let t := readRegs cls idx n (a + 4) (r.1, m)
    (t.1, r.2 :: t.2)
/-- One word is written to a register unit. -/
def writeReg (cls idx a v : Nat) (cm : CM) : CM := match unitReg cls idx a with | some o => busWord 0 whoHub o o v cm | none => cm
/-- ADDR names the low word of a pair. -/
def unitPair (cls idx a : Nat) : Bool := match unitReg cls idx a with | some o => pairLow o | none => false
/-- Words are written to a register unit, ascending; both words of a pair take effect together (R14, R943). -/
def writeRegs (cls idx : Nat) : List Nat → Nat → CM → CM
  | [], _, cm => cm
  | [v], a, cm => writeReg cls idx a v cm
  | v :: w :: rest, a, cm =>
    if unitPair cls idx a then writeRegs cls idx rest (a + 8) (writeReg cls idx a v (writeReg cls idx (a + 4) w cm))
    else writeRegs cls idx (w :: rest) (a + 4) (writeReg cls idx a v cm)

/-! Tile space (R941). -/
/-- The loop level and the word at an offset of the loop block. -/
def loopWord (l : LoopSt) (i : Nat) : Nat :=
  match i with | 0 => l.start | 1 => l.last | 2 => l.count | _ => b2n l.active
/-- A word of the loop state is written. -/
def setLoopWord (l : LoopSt) (i v : Nat) : LoopSt :=
  match i with
  | 0 => { l with start := bits v 11 0 }
  | 1 => { l with last := bits v 11 0 }
  | 2 => { l with count := bits v 15 0 }
  | _ => { l with active := bitN v 0 }
/-- A word of tile space below the TLn registers; an offset that holds nothing reads 0. -/
def tileWord (c : Ctl) (m : Mem) (t a : Nat) : Nat :=
  let x := tile c t
  let le (f : Nat → Nat) : Nat := f 0 + 2 ^ 8 * f 1 + 2 ^ 16 * f 2 + 2 ^ 24 * f 3
  if a < 0x80000 then readLe m.tm (tmAt t a) 4
  else if a < 0x100000 then 0
  else if a < 0x110000 then readLe m.im (t * 65536 + (a - 0x100000)) 4
  else if a < 0x200000 then 0
  else if a < 0x200080 then rdX x ((a - 0x200000) / 4)
  else if 0x201000 ≤ a ∧ a < 0x203000 then lane (rdV x ((a - 0x201000) / 256)) (a % 256 / 4)
  else if 0x203000 ≤ a ∧ a < 0x203040 then bits (rdK x ((a - 0x203000) / 8)) (a % 8 * 8 + 31) (a % 8 * 8)
  else if 0x204000 ≤ a ∧ a < 0x206000 then
    let i := (a - 0x204000) / 32
    bits (rdW x (i / 64) (i % 64)).1.toNat (a % 32 * 8 + 31) (a % 32 * 8)
  else if 0x206000 ≤ a ∧ a < 0x206100 then le (fun j => (rdW x ((a - 0x206000) / 64) (a % 64 + j)).2)
  else if 0x208000 ≤ a ∧ a < 0x210000 then
    let i := (a - 0x208000) / 256
    lane (rdMA x (i / 64) (i % 64)) (a % 256 / 4)
  else if 0x210000 ≤ a ∧ a < 0x214000 then
    let b := (a - 0x210000) / 0x2000
    if a % 0x2000 < 4224 then le (fun j => (smGet x.wb 0 (4224 * b + a % 0x2000 + j)).toNat) else 0
  else if a = 0x214000 then x.mode
  else if a = 0x214004 then stickyAt c.time.ftc x
  else if 0x214010 ≤ a ∧ a < 0x214030 then loopWord (if a < 0x214020 then x.l0 else x.l1) (a % 16 / 4)
  else if 0x214040 ≤ a ∧ a < 0x214060 then rdAcnt x ((a - 0x214040) / 4)
  else 0
/-- A word of a held register is written (R301). -/
def setTileWord (now : Nat) (x : Tile) (a v : Nat) : Tile :=
  let vec (r : VecReg) (k : Nat) : VecReg := BitVec.ofNat 2048 (setBits r.toNat (32 * k + 31) (32 * k) v)
  if a < 0x200080 then wrX x ((a - 0x200000) / 4) v
  else if 0x201000 ≤ a ∧ a < 0x203000 then
    let i := (a - 0x201000) / 256
    wrV x i (vec (rdV x i) (a % 256 / 4))
  else if 0x203000 ≤ a ∧ a < 0x203040 then
    let i := (a - 0x203000) / 8
    wrK x i (setBits (rdK x i) (a % 8 * 8 + 31) (a % 8 * 8) v)
  else if 0x204000 ≤ a ∧ a < 0x206000 then
    let i := (a - 0x204000) / 32
    let o := rdW x (i / 64) (i % 64)
    wrW x (i / 64) (i % 64) (BitVec.ofNat 256 (setBits o.1.toNat (a % 32 * 8 + 31) (a % 32 * 8) v)) o.2
  else if 0x206000 ≤ a ∧ a < 0x206100 then
    foldUp 4 (fun x j =>
      let i := (a - 0x206000) + j
      wrW x (i / 64) (i % 64) (rdW x (i / 64) (i % 64)).1 (bits v (8 * j + 2) (8 * j))) x
  else if 0x208000 ≤ a ∧ a < 0x210000 then
    let i := (a - 0x208000) / 256
    wrMA x (i / 64) (i % 64) (vec (rdMA x (i / 64) (i % 64)) (a % 256 / 4))
  else if 0x210000 ≤ a ∧ a < 0x214000 then
    let b := (a - 0x210000) / 0x2000
    if a % 0x2000 < 4224 then
      { x with wb := foldUp 4 (fun w j => smSet w 0 (4224 * b + a % 0x2000 + j) (BitVec.ofNat 8 (bits v (8 * j + 7) (8 * j)))) x.wb }
    else x
  else if a = 0x214000 then (if modeReserved (bits v 7 0) then x else { x with mode := bits v 7 0 })
  else if a = 0x214004 then { settleFlags now x with sticky := stickyMask v }
  else if 0x214010 ≤ a ∧ a < 0x214020 then { x with l0 := setLoopWord x.l0 (a % 16 / 4) v }
  else if 0x214020 ≤ a ∧ a < 0x214030 then { x with l1 := setLoopWord x.l1 (a % 16 / 4) v }
  else if 0x214040 ≤ a ∧ a < 0x214060 then { x with acnt := smSet x.acnt 0 ((a - 0x214040) / 4) (bits v 15 0) }
  else x
/-- The PF0 BAR0 offset of a register in tile space. -/
def tileReg (t a : Nat) : Option Nat :=
  if 0x220000 ≤ a ∧ a < 0x220100 then some (tlBase t + (a - 0x220000))
  else if 0x230000 ≤ a ∧ a < 0x230040 then some (tlBase t + 0x80 + (a - 0x230000))
  else none
/-- The access conditions of a range: tile memory and held state need an owner, instruction RAM and held registers a held tile. -/
def tileOk (c : Ctl) (t a n : Nat) : Bool :=
  decide (a ≥ 0x220000) ||
    (decide (tileOwner c t < 32) && (decide (a + n ≤ 0x100000) || (tile c t).halted || decide (ptState c (tileOwner c t) = 0)))
/-- Words of tile space, ascending, each with whether it is uncorrectable; errors that a read finds are corrected (R255). Tile memory and
instruction RAM are read through the receive port (R257, R942). -/
def readTile (t : Nat) : Nat → Nat → CM → CM × List (Nat × Bool)
  | 0, _, cm => (cm, [])
  | n + 1, a, cm =>
    let r : CM × (Nat × Bool) :=
      match tileReg t a with
      | some o => let r := hubReadReg cm.1 cm.2 o; ((r.1, cm.2), (r.2, false))
      | none =>
        let w := (tileWord cm.1 cm.2 t a, decide (a < 0x80000) && (eccBad cm.2 t a 4).isSome)
        (if a < 0x80000 then eccRead (rxUse cm.1 t a false, cm.2) t a 4 else if a < 0x110000 then (rxUse cm.1 t a false, cm.2) else cm, w)
    let s := readTile t n (a + 4) r.1
    (s.1, r.2 :: s.2)
/-- Words are written in tile space, ascending; a dump that runs learns of it (R1023). -/
def writeTile (t : Nat) : List Nat → Nat → CM → CM
  | [], _, cm => cm
  | v :: rest, a, cm =>
    let (c, m) := cm
    let keeps := clearing c t
    let mark (x : Tile) : Tile := { x with touched := x.touched || c.dump.running.isSome }
    let cm : CM :=
      match tileReg t a with
      | some o => if keeps ∧ a < 0x230000 then cm else busWord 0 whoHub o o v cm
      | none =>
        if a < 0x80000 then rxWrite cm t a (leBytes 4 v)
        else if keeps then cm
        else if 0x100000 ≤ a ∧ a < 0x110000 then (rxUse c t a true, imWrite m t (a - 0x100000) (leBytes 4 v))
        else if 0x200000 ≤ a then (updTile c t (fun x => mark (setTileWord c.time.ftc x a v)), m)
        else cm
    writeTile t rest (a + 4) cm

/-! Device memory and trace buffers (R944, R960). -/
/-- The stack of a DM address sleeps (R1073). -/
def asleep (c : Ctl) (a : Nat) : Bool := bitN c.pwr.sref (bits a 30 28)
/-- `n` beats from a beat address: their bytes and poison marks, 8 words a beat. -/
def readBeatsAt : Nat → Nat → CM → CM × List (Nat × Bool)
  | 0, _, cm => (cm, [])
  | n + 1, a, cm =>
    let r := dmRead cm a
    let s := readBeatsAt n (a + 32) r.1
    (s.1, (List.range 8).map (fun i => (bits r.2.1.toNat (32 * i + 31) (32 * i), r.2.2)) ++ s.2)
/-- Words of device memory. -/
def readDm (n a : Nat) (cm : CM) : CM × List (Nat × Bool) :=
  let lo := a / 32 * 32
  let r := readBeatsAt ((a + n + 31) / 32 - a / 32) lo cm
  (r.1, (r.2.drop ((a - lo) / 4)).take (n / 4))
/-- Whole beats are written. -/
def writeDm (a : Nat) (b : Bytes) (cm : CM) : CM :=
  foldUp (b.length / 32) (fun cm i => dmWrite cm (a + 32 * i) (BitVec.ofNat 256 (leAt b (32 * i) 32)) false) cm

/-! Any unit. -/
/-- Tiles are gated: S2, and not emulated (R930, R978, R1073). -/
def tilesGated (c : Ctl) : Bool := decide (pwrState c = 2) && !rbit c rPwrStat 4
/-- The request can reach the unit in its present state: the clock of a register unit runs (R78, R930, R941). -/
def unitReached (c : Ctl) (cls idx a n : Nat) : Bool :=
  if cls = 0xD then true
  else if c.pwr.chip then false
  else if cls = 0 then tilesUp c && !tilesGated c && tileOk c idx a n
  else if cls = 0xC then tilesUp c
  else if cls = 0xE then tilesUp c && !asleep c a && !asleep c (a + n - 1)
  else regsServed c
/-- Reads `n` bytes at ADDR: words with their poison marks (R942 to R944). -/
def unitRead (cls idx a n : Nat) (cm : CM) : CM × List (Nat × Bool) :=
  if cls = 0 then readTile idx (n / 4) a cm
  else if cls = 0xC then
    let cm := traceFlush cm
    (cm, (List.range (n / 4)).map (fun i => (readLe cm.2.trace (idx * 2 ^ 20 + a + 4 * i) 4, false)))
  else if cls = 0xE then readDm n a cm
  else
    let r := readRegs cls idx (n / 4) a cm
    (r.1, r.2.map (fun w => (w, false)))
/-- The words of a byte string. -/
def wordsIn (b : Bytes) : List Nat := (List.range (b.length / 4)).map (fun i => leAt b (4 * i) 4)
/-- Writes bytes at ADDR; a trace buffer only reads. -/
def unitWrite (cls idx a : Nat) (b : Bytes) (cm : CM) : CM :=
  if cls = 0 then writeTile idx (wordsIn b) a cm
  else if cls = 0xC then cm
  else if cls = 0xE then writeDm a b cm
  else writeRegs cls idx (wordsIn b) a cm

end Sys2Proof.Machine
end

