-- ==== Sys2Proof/Machine/Tap.lean ====
section
/-! DEFINITION. The TAP's instructions and the boundary-scan register (R932, R933, R1152, R1158, R1159). -/
namespace Sys2Proof.Machine

/-- Levels that the core drives: ENC_A, ENC_B and ENC_Z. -/
def encCore (c : Ctl) : Nat := if c.sp.edgeAt = 0 then 0 else encLevels c (rd c (ee 0x10))
/-- The balls take the core's levels again. -/
def coreDrives (c : Ctl) : Ctl :=
  emit (emit (emit (emit c (.pin 1 (b2n c.db.spillOut))) (.pin 2 (encCore c))) (.pin 3 (b2n c.ce.mot))) (.pin 6 (b2n (!c.pwr.alert)))
/-- Update-IR: the code is in force, any other code than those of R933 selecting BYPASS; the balls change hands as it says. -/
def selectIr (code : Nat) (c : Ctl) : Ctl :=
  let was := chainHeld c
  let c := { c with db := { c.db with ir := code } }
  if chainHeld c then tapDrive c else if was then coreDrives c else c
/-- A word is shifted out of the selected register. -/
def tapOut (v : Nat) (c : Ctl) : Ctl := emit c (.tap v)
/-- Capture-DR of the boundary-scan register: the levels at the inputs, and what the core gives the output and enable cells; the DRV and
SMBus cells, which move within a frame or a transfer, are free. -/
def captureCells (balls : Nat) (c : Ctl) : Ctl × Nat :=
  let c' := { c with free := c.free + 4 }
  let f (i : Nat) : Nat := b2n (Config.freeBit (c.free + i))
  let v := balls &&& 0x1F80394F
  let v := v + b2n c.db.spillOut * 2 ^ 4 + 2 ^ 5 + f 0 * 2 ^ 7 + f 1 * 2 ^ 9 + b2n (!c.pwr.alert) * 2 ^ 10
  let v := v + f 2 * 2 ^ 14 + b2n (!rbit c (ce 0x100) 16) * 2 ^ 15 + f 3 * 2 ^ 16 + 2 ^ 17
  (c', v + encCore c * 2 ^ 18 + 2 ^ 21 + b2n c.ce.mot * 2 ^ 22)
/-- A scan of the boundary-scan register: capture, shift, update. -/
def scanCells (shift balls : Nat) (c : Ctl) : Ctl :=
  let r := captureCells balls c
  let c := tapOut r.2 r.1
  let c := { c with db := { c.db with bsr := shift % 2 ^ 29 } }
  if chainHeld c then tapDrive c else c

/-! The commands. -/
/-- EXTEST (R933). -/
def execExtest (shift balls : Nat) (s : State) : Out := onCtl (fun c => scanCells shift balls (selectIr 0x00 c)) s
/-- SAMPLE/PRELOAD (R933). -/
def execSamplePreload (shift balls : Nat) (s : State) : Out := onCtl (fun c => scanCells shift balls (selectIr 0x01 c)) s
/-- IDCODE (R933). -/
def execIdcode (s : State) : Out := onCtl (fun c => tapOut 0x13200563 (selectIr 0x02 c)) s
/-- CLAMP: the bypass register captures 0 (R933). -/
def execClamp (s : State) : Out := onCtl (fun c => tapOut 0 (selectIr 0x03 c)) s
/-- HIGHZ (R933). -/
def execHighz (s : State) : Out := onCtl (fun c => tapOut 0 (selectIr 0x04 c)) s
/-- BYPASS (R933). -/
def execBypass (s : State) : Out := onCtl (fun c => tapOut 0 (selectIr 0xFF c)) s
/-- TRST_N: the TAP alone is reset, to IDCODE (R929, R932, R991). -/
def execTrstN (s : State) : Out := onCtl (selectIr 0x02) s

end Sys2Proof.Machine
end

