-- ==== Sys2Proof/Machine/Hub.lean ====
section
/-! DEFINITION. Fliwell's hub: its requests from the scan port, the debug ring and the relay, run control, free and pass steps, and the
relay to other Plezors (R931 to R957, R969 to R974, R979 to R991). -/
namespace Sys2Proof.Machine

/-! The fields of a request (R937). -/
def hOp (q : HubReq) : Nat := leAt q.bytes 0 1
def hFab (q : HubReq) : Bool := bitN (leAt q.bytes 1 1) 0
def hAt (q : HubReq) : Bool := bitN (leAt q.bytes 1 1) 1
def hLen (q : HubReq) : Nat := leAt q.bytes 2 2
def hUnit (q : HubReq) : Nat := leAt q.bytes 4 4
def hCls (q : HubReq) : Nat := bits (hUnit q) 15 12
def hIdx (q : HubReq) : Nat := bits (hUnit q) 11 0
def hAddr (q : HubReq) : Nat := leAt q.bytes 8 8
def hPass (q : HubReq) : Nat := leAt q.bytes 0x10 6
def hCount (q : HubReq) : Nat := leAt q.bytes 0x16 2
def hMask (q : HubReq) : Nat := leAt q.bytes 0x18 4
def hSel (q : HubReq) : Nat := leAt q.bytes 0x1C 4
def hHaddr (q : HubReq) : Nat := if q.origin = 2 then 0 else leAt q.bytes 0x20 8
/-- READ or WRITE. -/
def hMoves (q : HubReq) : Bool := decide (hOp q = 1 ∨ hOp q = 2)
/-- The data travels in DATA and RESULT (R938). -/
def hInline (q : HubReq) : Bool := decide (q.origin ≠ 2 ∧ hLen q ≤ 8 ∧ hHaddr q = 0)
/-- The hub operations. -/
def hubOps : List Nat := [0x01, 0x02, 0x10, 0x11, 0x12, 0x13, 0x14]

/-! Checks that need no state (R936 to R940, R944). -/
/-- The number of units of a class. -/
def unitCount (cls : Nat) : Nat :=
  match cls with
  | 0x0 => 1024 | 0x1 => 256 | 0x2 => 32 | 0x3 => 16 | 0xC => 32
  | 0x4 | 0x5 | 0x6 | 0x7 | 0x8 | 0xD | 0xE | 0xF => 1
  | _ => 0
/-- ADDR and LEN lie in the unit. -/
def unitHolds (cls a n : Nat) : Bool :=
  if cls = 0xC then decide (a + n ≤ 2 ^ 20)
  else if cls = 0xE then decide (a + n ≤ 2 ^ 38)
  else if cls = 0xF then decide (a + n ≤ 2 ^ 28)
  else true
/-- The status of a READ or WRITE that is malformed, or 0. -/
def checkMove (q : HubReq) : Nat :=
  let n := hLen q
  let scan := decide (q.origin = 0)
  if q.origin ≠ 2 ∧ (leAt q.bytes 0x10 16 ≠ 0 ∨ leAt q.bytes 0x30 8 ≠ 0) then 1
  else if n % 4 ≠ 0 then 2
  else if n = 0 ∨ n > 4096 ∨ (q.origin = 2 ∧ n > 64) then 1
  else if scan ∧ hHaddr q ≠ 0 then 1
  else if scan ∧ n > 1024 then 2
  else if q.origin = 1 ∧ n > 8 ∧ hHaddr q = 0 then 1
  else if hIdx q ≥ unitCount (hCls q) then 1
  else if hAddr q % 4 ≠ 0 ∨ (hCls q = 0xE ∧ hOp q = 2 ∧ (hAddr q % 32 ≠ 0 ∨ n % 32 ≠ 0)) then 2
  else b2n (!unitHolds (hCls q) (hAddr q) n)
/-- The status of any other request that is malformed, or 0. -/
def checkControl (q : HubReq) : Nat :=
  let op := hOp q
  let step := decide (op = 0x12)
  let unused := decide (hLen q ≠ 0 ∨ hAddr q ≠ 0 ∨ leAt q.bytes 0x20 24 ≠ 0)
  let badUnit := if step then decide (hCls q ≠ 0 ∨ hIdx q ≥ 1024) else decide (hUnit q % 2 ^ 16 ≠ 0)
  let badArg :=
    if step then decide (leAt q.bytes 0x10 16 ≠ 0)
    else if op = 0x13 then decide (hCount q = 0)
    else decide (hCount q ≠ 0) || (decide (hPass q ≠ 0) && (decide (op = 0x10) || (decide (op = 0x11) && !hAt q)))
  b2n (unused || badUnit || badArg)
/-- The status of a malformed request, or 0. -/
def checkReq (q : HubReq) : Nat :=
  if hOp q ∉ hubOps ∨ leAt q.bytes 1 1 ≥ 4 ∨ (hMoves q = false ∧ hSel q ≥ 8) then 1
  else if hMoves q then checkMove q else checkControl q

/-! Answers (R934, R935, R938, R970). -/
/-- A relay message is dropped and counted (R971, R987). -/
def relayDrop (c : Ctl) : Ctl := cnt1 c (hub 0x800)
/-- A message sets out toward a Plezor. -/
def sendTo (c : Ctl) (dst : Nat) (ws : List Nat) : Ctl := match routeTo c dst with | some l => sendMsg c l ws | none => relayDrop c
/-- The bytes of words. -/
def wordBytes (ws : List (Nat × Bool)) : Bytes := ws.flatMap (fun w => leBytes 4 w.1)
/-- The body of a RSP. -/
def rspBody (st res : Nat) (ws : List (Nat × Bool)) : Bytes :=
  leBytes 1 st ++ leBytes 1 (b2n (ws.any (·.2))) ++ leBytes 2 (4 * ws.length) ++ zeroBytes 4 ++ leBytes 8 res ++ wordBytes ws
/-- The answer reaches the request's origin: the scan port, the debug ring, or another Plezor. -/
def hubAnswer (c : Ctl) (q : HubReq) (st res : Nat) (ws : List (Nat × Bool)) : Ctl :=
  let res := if hOp q = 1 ∧ hInline q ∧ ws ≠ [] then leNat (wordBytes ws) else res
  match q.origin with
  | 0 =>
    let fifo := if hInline q then c.db.rfifo else (c.db.rfifo ++ ws).take 256
    { c with db := { c.db with scanDone := true, scanStatus := st, scanResult := res, rfifo := fifo } }
  | 1 =>
    let c := if hOp q = 1 ∧ hHaddr q ≠ 0 ∧ ws ≠ [] then emit c (.hostWrite (hHaddr q) (wordBytes ws)) else c
    complete c q.ref 0 st res
  | 2 => sendTo c q.src (msgWords 1 q.src (plezorId c) q.tag (rspBody st res ws))
  | _ => c
/-- The request in execution is complete. -/
def hubFinish (st res : Nat) (ws : List (Nat × Bool)) (c : Ctl) : Ctl :=
  match c.db.reqs with
  | [] => c
  | q :: r => hubAnswer { c with db := { c.db with reqs := r, relay := none } } q st res ws
/-- A request whose OP is no operation is complete when its turn comes (R939). -/
def drainReqs : Nat → Ctl → Ctl
  | 0, c => c
  | n + 1, c =>
    match c.db.reqs with
    | q :: _ => if hOp q ∉ hubOps then drainReqs n (hubFinish 1 0 [] c) else c
    | [] => c
/-- After a request came or went. -/
def hubNext (c : Ctl) : Ctl := drainReqs c.db.reqs.length c
/-- A request is accepted (R931). -/
def hubAccept (c : Ctl) (q : HubReq) : Ctl :=
  hubNext { c with db := { c.db with reqs := c.db.reqs ++ [{ q with acc := c.time.ftc }] } }

/-! Run control (R946 to R955, R1022). -/
/-- A dump still holds records of a partition of the mask. -/
def dumpHolds (c : Ctl) (mask : Nat) : Bool :=
  c.dump.queue.any (fun r => decide (r.mask &&& mask ≠ 0)) ||
  (match c.dump.running with
   | some d => (List.range 32).any (fun p => bitN mask p && d.ents.any (fun e => entOfPart c p e && decide (e.state < 2)))
   | none => false)
/-- HALT. -/
def hubHalt (q : HubReq) (c : Ctl) : Ctl × Nat × Nat :=
  let n := passNo c
  let c := debugHaltMask c (hMask q)
  let c := if bitN (hSel q) 0 then debugHaltCe c else c
  let c := if bitN (hSel q) 1 then debugHaltCore c else c
  (c, 0, n)
/-- The pass at which a release or a pass step named for pass `n` applies; a late one is marked, counted and reported (R952). -/
def namedPass (n : Nat) (c : Ctl) : Ctl × Nat :=
  let first := firstPassAfter c c.time.ftc
  if n < first then (raise (cnt1 (hwBit c rBstopStat 2) (hub 0x80C)) 0x3501 noPart (unitOf c 0xD 0) n, first) else (c, n)
/-- A release is armed (R953, R954). -/
def armRelease (p mask : Nat) (c : Ctl) : Ctl :=
  let c := wr (wr64 c (hub 0x60) p) (hub 0x68) mask
  { c with db := { c.db with relArmed := true } }
/-- SEL of a release (R827, R949, R988). -/
def releaseSel (sel : Nat) (c : Ctl) : Ctl :=
  let c := if bitN sel 0 then { c with db := { c.db with ceHalted := false } } else c
  if bitN sel 1 then { c with db := { c.db with coreHalted := false } } else c
/-- RELEASE. -/
def hubRelease (q : HubReq) (c : Ctl) : Ctl × Nat × Nat :=
  let mask := hMask q
  if dumpHolds c mask ∨ (hAt q ∧ mask ≠ 0 ∧ c.db.relArmed) then (c, 0xA, 0)
  else
    let c := releaseSel (hSel q) c
    if hAt q then
      let (c, p) := namedPass (hPass q) c
      (if mask = 0 then c else armRelease p mask c, 0, p % 2 ^ 48)
    else
      let c := if mask = 0 then c else { c with db := { c.db with relSoon := c.db.relSoon ++ [(c.time.ftc, mask)] } }
      (c, 0, if c.time.epoch then firstPassAfter c c.time.ftc % 2 ^ 48 else 2 ^ 48 - 1)
/-- PSTEP: a release and a stop COUNT passes apart. -/
def hubPstep (q : HubReq) (c : Ctl) : Ctl × Nat × Nat :=
  let mask := hMask q
  if dumpHolds c mask ∨ (mask ≠ 0 ∧ c.db.relArmed) then (c, 0xA, 0)
  else
    let (c, p) := namedPass (hPass q) c
    let c := if mask = 0 then c else armRelease p mask c
    ((armBstop c (p + hCount q) mask false (hFab q)).1, 0, p % 2 ^ 48)
/-- BSTOP. -/
def hubBstop (q : HubReq) (c : Ctl) : Ctl × Nat × Nat :=
  let r := armBstop c (hPass q) (hMask q) (bitN (hSel q) 2) (hFab q)
  (r.1, 0, r.2.1 % 2 ^ 48)

/-! Free step (R956, R957, R984, R1022). -/
/-- Why a tile may not be stepped, or 0; after a CHIP-severity event no tile runs (R246). -/
def stepRefused (c : Ctl) (t : Nat) : Nat :=
  let p := tileOwner c t
  if tilesUp c = false ∨ tilesGated c ∨ c.pwr.chip ∨ c.ev.contained ∨ p ≥ 32 then 3
  else if rbit c (ptStat p) 6 = false ∨ ptState c p = 0 ∨ (part c p).resetting ∨ inDump c p then 3
  else if (tile c t).run = .waiting then 9
  else if (tile c t).halted = false then 3
  else 0
/-- The bundle of a step does not issue now (R252, R260, R303). -/
def stepStalls (c : Ctl) (t : Nat) (f : Fetched) : Bool :=
  let b := decodeBundle f.word
  decide ((tile c t).run = .ending) || stallDep c t b ||
    ((causeOf c f.bad t b false true).isNone && (stallBank c t b || stallWait c t b true))
/-- The step: the tile resumes from its recorded state, issues one bundle and halts again; the answer is STATUS and RESULT. -/
def stepBundle (t : Nat) (f : Fetched) (cm : CM) : CM × Nat × Nat :=
  let a := (tile cm.1 t).pc
  let b := decodeBundle f.word
  let bp := (List.range 4).any (fun k => bpHit cm.1 t k a)
  let wp := (List.range 2).any (fun k => wpHit cm.1 t k (tile cm.1 t) b.m)
  let r := attempt cm t b f.bad true false
  let c := r.1
  let st := if (tile c t).halted then 8 else 0
  let c := if st = 8 then c
    else haltTile (enterWait (updTile c t writeAll) t) t 0 0 0
  let c := traceTile c t 0x08 (a * 2 ^ 8)
  let c := updPart c (tileOwner c t) (fun x => { x with noLedger := true })
  let c := wr c (dbtStep t) (st * 2 ^ 24 + b2n wp * 2 ^ 17 + b2n bp * 2 ^ 16 + a)
  ((c, r.2), st, fld c (tlEpc t) 11 0 + b2n bp * 2 ^ 12 + b2n wp * 2 ^ 13)
/-- FSTEP; no answer while its bundle stalls, before STEP_TMO. -/
def hubFstep (q : HubReq) (cm : CM) : CM × Option (Nat × Nat) :=
  let t := hIdx q
  let c := enterWait cm.1 t
  let no := stepRefused c t
  if no ≠ 0 then ((c, cm.2), some (no, 0))
  else
    let go := updTile (if (tile c t).run = .ending then c else loadState c cm.2 t) t (fun x =>
      { x with halted := false, exc := false, quiet := false, run := if x.run = .idle then .run else x.run })
    let (gm, f) := fetched (go, cm.2) t (tile go t).pc
    if stepStalls go t f then
      if c.time.ftc ≥ q.acc + fld c (hub 0x14) 15 0 then
        ((wr c (dbtStep t) (7 * 2 ^ 24 + (tile go t).pc), cm.2), some (7, fld c (tlEpc t) 11 0))
      else ((c, cm.2), none)
    else
      let r := stepBundle t f gm
      (r.1, some r.2)

/-! Execution here (R930, R938, R939). -/
/-- The request in execution is as given. -/
def setReq (c : Ctl) (q : HubReq) : Ctl := { c with db := { c.db with reqs := q :: c.db.reqs.tail } }
/-- The bytes that a WRITE writes: its own, the words of the write FIFO, or those that the host's memory returns; a word that the FIFO
lacks is free (R936, R938). -/
def hubData (q : HubReq) (host : Bytes) (c : Ctl) : Ctl × Bytes :=
  let n := hLen q
  if q.origin = 2 then (c, slice q.bytes 0x10 n)
  else if hInline q then (c, slice q.bytes 0x28 n)
  else if q.origin = 0 then
    let have_ := c.db.wfifo.take (n / 4)
    let c := { c with db := { c.db with wfifo := c.db.wfifo.drop (n / 4) } }
    let r := freeBytes (n - 4 * have_.length) c
    (r.1, have_.flatMap (leBytes 4) ++ r.2)
  else (c, slice host 0 n)
/-- FTC moves to the phase or slot in which the culvert moves a piece: a CULV phase at the tile's router, a CULV slot of the pseudo-channel;
register units are reached at once (R144, R145, R942). None when the boundary of the pass comes first. -/
def moveAt (cls idx a : Nat) (c : Ctl) : Option Ctl :=
  if cls = 0 ∧ inForce c then
    (firstPhase c idx 0x41 (max c.time.ftc c.db.culvAt)).bind (fun f =>
      (reach c f).map (fun c => { c with db := { c.db with culvAt := f + 1 } }))
  else if cls = 0xE then (nextSlot c (pchOf a) 0x41).bind (fun t => (reach c t).map (fun c => useSlot c (pchOf a) t))
  else some c
/-- Moves the pieces of 64 bytes that are left, in ascending order (R942), for as many as the first argument tells: whether all are moved. -/
def movePieces (data : Bytes) : Nat → HubReq → CM → CM × HubReq × Bool
  | 0, q, cm => (cm, q, decide (hLen q ≤ q.moved))
  | f + 1, q, cm =>
    let a := hAddr q + q.moved
    let k := min (hLen q - q.moved) (64 - a % 64)
    if k = 0 then (cm, q, true)
    else match moveAt (hCls q) (hIdx q) a cm.1 with
    | none => (cm, q, false)
    | some c =>
      if hOp q = 1 then
        let r := unitRead (hCls q) (hIdx q) a k (c, cm.2)
        movePieces data f { q with moved := q.moved + k, got := q.got ++ r.2 } r.1
      else movePieces data f { q with moved := q.moved + k } (unitWrite (hCls q) (hIdx q) a (slice data q.moved k) (lateFlits (c, cm.2)))
/-- A READ or WRITE as far as it goes now; one that has pieces left stays at the head of the hub's requests. -/
def hubMove (q : HubReq) (data : Bytes) (cm : CM) : CM × Option (Nat × Nat × List (Nat × Bool)) :=
  let r := movePieces data 66 q cm
  if r.2.2 then
    let got := r.2.1.got
    (r.1, some (if got.any (·.2) then 4 else 0, hLen q, got))
  else ((setReq r.1.1 { r.2.1 with data := some data }, r.1.2), none)
/-- The answer of a request carried out on this Plezor: STATUS, RESULT and words read; none while it goes on. -/
def hubHere (q : HubReq) (host : Bytes) (cm : CM) : CM × Option (Nat × Nat × List (Nat × Bool)) :=
  let n := hLen q
  let ctl (r : Ctl × Nat × Nat) : CM × Option (Nat × Nat × List (Nat × Bool)) := ((r.1, cm.2), some (r.2.1, r.2.2, []))
  if hMoves q = false ∧ ((hAt q ∧ hOp q = 0x11) ∨ hOp q = 0x13 ∨ hOp q = 0x14) ∧ cm.1.time.epoch = false then
    (cm, some (0xB, 0, []))
  else if hMoves q ∧ unitReached cm.1 (hCls q) (hIdx q) (hAddr q) n = false then (cm, some (3, 0, []))
  else match hOp q with
    | 0x01 => hubMove q [] cm
    | 0x02 =>
      if q.origin = 4 then (cm, some (0, 0, []))
      else
        let d := match q.data with | some b => (cm.1, b) | none => hubData q host cm.1
        hubMove q d.2 (d.1, cm.2)
    | 0x10 => ctl (hubHalt q cm.1)
    | 0x11 => ctl (hubRelease q cm.1)
    | 0x13 => ctl (hubPstep q cm.1)
    | 0x14 => ctl (hubBstop q cm.1)
    | _ =>
      let r := hubFstep q cm
      (r.1, r.2.map (fun a => (a.1, a.2, [])))

/-! Relay (R969 to R974). -/
/-- The next message of a request to another Plezor: a READ or WRITE goes one piece of 64 bytes at a time. -/
def sendPiece (q : HubReq) (off : Nat) (words : List (Nat × Bool)) (c : Ctl) : Ctl :=
  let dst := hUnit q / 2 ^ 16
  let t := c.db.tag
  let k := min 64 (hLen q - off)
  let head := leBytes 1 (hOp q) ++ slice q.bytes 1 1 ++ leBytes 2 k ++ leBytes 4 (hUnit q) ++ leBytes 8 (hAddr q + off)
  let body := if hMoves q then head ++ (if hOp q = 2 then slice (wordBytes words) off k else []) else slice q.bytes 0 0x20
  let ws := msgWords 0 dst (plezorId c) t body
  match routeTo c dst with
  | none => hubNext (hubFinish 6 off (if hOp q = 1 then words else []) c)
  | some l =>
    let r : Relay := { tag := t, first := ws.headD 0, off := off, len := hLen q, data := words }
    sendMsg { c with db := { c.db with tag := (t + 1) % 256, relay := some r } } l ws
/-- The request in execution, if it has the operation: it is refused, carried out here, flooded, or sent to its Plezor. -/
def hubRun (op : Nat) (host : Bytes) (cm : CM) : CM :=
  match cm.1.db.reqs with
  | [] => cm
  | q :: _ =>
    if hOp q ≠ op ∨ cm.1.db.relay.isSome ∨ cm.1.time.refclk = false then cm
    else
      let st := checkReq q
      let own := decide (q.origin ≥ 2) || hFab q || decide (hUnit q / 2 ^ 16 = plezorId cm.1)
      if st ≠ 0 then (hubNext (hubFinish st 0 [] cm.1), cm.2)
      else if own = false then
        let d := if op = 2 then hubData q host cm.1 else (cm.1, [])
        (sendPiece q 0 ((wordsIn d.2).map (fun w => (w, false))) d.1, cm.2)
      else
        let r := hubHere q host cm
        match r.2 with
        | none => r.1
        | some (st, res, ws) =>
          let c := r.1.1
          let c := if hFab q ∧ q.origin < 2 then flood c (slice q.bytes 0 0x20) else c
          (hubNext (hubFinish st res ws c), r.1.2)
/-- A message as it is checked on a link: TYPE, DST, SRC, TAG and body; none when its words are out of sequence. -/
def parseMsg (ws : List Nat) : Option (Nat × Nat × Nat × Nat × Bytes) :=
  match ws with
  | [] => none
  | h :: r =>
    let n := r.length
    let pos (i w : Nat) : Bool := decide (bits w 55 54 = if n = 0 then 3 else if i = 0 then 2 else if i = n then 1 else 0)
    let good := (List.range (n + 1)).all (fun i =>
      let w := ws.getD i 0
      pos i w && decide (bits w 53 52 = bits h 53 52))
    if good ∧ bits h 3 0 = n then
      some (bits h 53 52, bits h 47 32, bits h 31 16, bits h 15 8, r.flatMap (fun w => leBytes 6 (w % 2 ^ 48)))
    else none
/-- A message arrives on a link: it is dropped, or goes on to its kind's action. -/
def onMsg (typ l : Nat) (ws : List Nat) (f : Nat → Nat → Nat → Bytes → CM → CM) (cm : CM) : CM :=
  if l ≥ 32 ∨ linkUp cm.1 l = false ∨ linksRun cm.1 = false then cm
  else match parseMsg ws with
    | none => (relayDrop cm.1, cm.2)
    | some (k, dst, src, tag, body) => if k = typ then f dst src tag body cm else cm
/-- A REQ is forwarded, or joins the requests of its hub. -/
def relayReq (l : Nat) (ws : List Nat) (cm : CM) : CM :=
  onMsg 0 l ws (fun dst src tag body cm =>
    let (c, m) := cm
    if dst ≠ plezorId c then (sendTo c dst ws, m)
    else
      let idle := c.db.reqs.isEmpty
      let c := hubAccept c { origin := 2, tag := tag, src := src, bytes := body }
      if idle then hubRun (leAt body 0 1) [] (c, m) else (c, m)) cm
/-- A RSP is forwarded, or answers the request that waits for it; any other is discarded (R973). -/
def relayRsp (l : Nat) (ws : List Nat) (cm : CM) : CM :=
  onMsg 1 l ws (fun dst src tag body cm =>
    let (c, m) := cm
    if dst ≠ plezorId c then (sendTo c dst ws, m)
    else match c.db.relay, c.db.reqs with
      | some r, q :: _ =>
        if r.tag ≠ tag ∨ hUnit q / 2 ^ 16 ≠ src then cm
        else
          let st := leAt body 0 1
          let k := min 64 (r.len - r.off)
          let psn := bitN (leAt body 1 1) 0
          let got := if hOp q = 1 ∧ (st = 0 ∨ st = 4) then (wordsIn (slice body 0x10 k)).map (fun w => (w, psn)) else []
          let data := if hOp q = 1 then r.data ++ got else r.data
          let off := r.off + k
          if hMoves q then
            if st ≠ 0 ∧ st ≠ 4 then (hubNext (hubFinish st r.off (if hOp q = 1 then r.data else []) c), m)
            else if off < r.len then (sendPiece q off data c, m)
            else (hubNext (hubFinish (if hOp q = 1 ∧ data.any (·.2) then 4 else st) off (if hOp q = 1 then data else []) c), m)
          else (hubNext (hubFinish st (leAt body 8 8) [] c), m)
      | _, _ => cm) cm
/-- A FLOOD is forwarded on the tree and applied here; one from outside the tree is ignored and counted. -/
def relayFlood (l : Nat) (ws : List Nat) (cm : CM) : CM :=
  onMsg 2 l ws (fun _ src tag body cm =>
    let (c, m) := cm
    if rbit c (hub 0x100) l = false then (cnt1 c (hub 0x804), m)
    else
      let idle := c.db.reqs.isEmpty
      let c := hubAccept (floodTree c ws l) { origin := 4, tag := tag, src := src, bytes := padTo 56 (body.take 0x20) }
      if idle then hubRun (leAt body 0 1) [] (c, m) else (c, m)) cm
/-- A request's response did not come within DB_RELAY_TMO µs of its first word; a first word that was lost with its link counts from
now (R973, R986). -/
def relayTimeout (c : Ctl) : Ctl :=
  match c.db.relay with
  | none => c
  | some r =>
    let waits := (List.range 32).any (fun l => (smGet c.lk.sb [] l).any (fun w => decide (w.kind = 4 ∧ w.payload = r.first)))
    let due := match r.sent with
      | some t => some (t + fld c (hub 0x10) 15 0 * 1250)
      | none => if waits then none else some c.time.ftc
    match due.bind (reach c) with
    | some c => hubNext (hubFinish 5 r.off [] (cnt1 c (hub 0x808)))
    | none => c

/-! The commands. -/
/-- DBG_REQ: a hub request of PF0's debug ring (R917, R937). -/
def execDbgReq (s : State) : Out :=
  onCtl (runCmd 0 2 0x60 (fun c e ref => hubAccept c { origin := 1, ref := ref, bytes := slice e 8 56 })) s
/-- Update-DR of DBREQ (R934). -/
def execDbreq (req : Bytes) (s : State) : Out :=
  onCtl (fun c =>
    let c := selectIr 0x10 c
    if c.db.reqs.any (fun q => decide (q.origin = 0)) then { c with db := { c.db with scanOvr := true } }
    else
      let c := { c with db := { c.db with scanOvr := false, scanDone := false, scanOp := leAt req 0 1 } }
      hubAccept c { origin := 0, bytes := slice req 0 56 }) s
/-- Capture-DR of DBRESP (R935). -/
def execDbresp (s : State) : Out :=
  onCtl (fun c =>
    let c := selectIr 0x11 c
    let d := c.db
    let busy := d.reqs.any (fun q => decide (q.origin = 0))
    emit c (.tap (d.scanResult * 2 ^ 64 + d.scanStatus * 2 ^ 40 + d.scanOp * 2 ^ 32 + b2n d.scanOvr * 4 + b2n (d.scanDone && !busy) * 2 + b2n busy))) s
/-- DBDATA: Capture-DR pops a word read; Update-DR pushes a word to write (R936). -/
def execDbdata (push : Option Word) (s : State) : Out :=
  onCtl (fun c =>
    let c := selectIr 0x12 c
    let d := c.db
    let c := match d.rfifo with
      | w :: r => { emit c (.tap (w.1 + b2n w.2 * 2 ^ 32 + 2 ^ 33)) with db := { d with rfifo := r } }
      | [] => emit c (.tap 0)
    match push with
    | some v => { c with db := { c.db with wfifo := (c.db.wfifo ++ [v.toNat]).take 256 } }
    | none => c) s
/-- READ (R942 to R945). -/
def execRead (s : State) : Out := onAll (hubRun 0x01 []) s
/-- WRITE; `data` what the host's memory returns at HADDR (R943 to R945). -/
def execWrite (data : Bytes) (s : State) : Out := onAll (hubRun 0x02 data) s
/-- HALT (R946). -/
def execHalt (s : State) : Out := onAll (hubRun 0x10 []) s
/-- RELEASE (R953). -/
def execRelease (s : State) : Out := onAll (hubRun 0x11 []) s
/-- FSTEP (R956). -/
def execFstep (s : State) : Out := onAll (hubRun 0x12 []) s
/-- PSTEP (R954). -/
def execPstep (s : State) : Out := onAll (hubRun 0x13 []) s
/-- BSTOP (R950). -/
def execBstop (s : State) : Out := onAll (hubRun 0x14 []) s
/-- A REQ message arrives (R971). -/
def execRelayReq (l : Nat) (words : List Nat) (s : State) : Out := onAll (relayReq l words) s
/-- A RSP message arrives (R971). -/
def execRelayRsp (l : Nat) (words : List Nat) (s : State) : Out := onAll (relayRsp l words) s
/-- A FLOOD message arrives (R974). -/
def execFlood (l : Nat) (words : List Nat) (s : State) : Out := onAll (relayFlood l words) s
/-- A relayed request times out (R973). -/
def execRelayTimeout (s : State) : Out := onCtl relayTimeout s

end Sys2Proof.Machine
end

