-- ==== Sys2Proof/Machine/Fliwell.lean ====
section
/-! DEFINITION. Fliwell's virtual terminal, management watchdog, trace enable and reset (R929, R963, R975 to R977, R982, R992). -/
namespace Sys2Proof.Machine

/-- A VT register is read by its reader: the byte with FULL; FULL clears (R975). -/
def vtRead (o : Nat) (c : Ctl) : Ctl := setBit (emit c (.regRead (rd c o % 2 ^ 10))) o 8 false
/-- One DBVT scan: the TX byte, TX FULL and RX FULL out, TX FULL cleared; a byte into RX (R975). -/
def vtScan (rx : Option Byte) (c : Ctl) : Ctl :=
  let tx := rd c (hub 0x30)
  let c := tapOut (tx % 2 ^ 8 + bits tx 8 8 * 2 ^ 19 + fld c (hub 0x34) 8 8 * 2 ^ 18) c
  let c := setBit c (hub 0x30) 8 false
  match rx with | some b => vtWrite (hub 0x34) b.toNat c | none => c
/-- The management watchdog expires: the core stops, STATE is FAILED, and the dump trigger MWDOG acts if it is enabled (R976, R988,
R994). -/
def mwdogExpire (c : Ctl) : Ctl :=
  if monRuns c = false ∨ mwdogTc c = 0 ∨ rbit c (hub 0) 2 ∨ c.time.refclk = false then c
  else match reach c (c.db.mwdog + mwdogTc c) with
    | none => c
    | some c =>
      let c := hwBit (setFld (keepStaging c) 0x1004 1 0 3) (hub 0x28) 1
      let c := fireSrc (raise c 0x0502 noPart (unitOf c 0xD 0) 0) srcMwdog
      if rbit c rDmCtrl 1 then stopAndDump c 5 1 (2 ^ 32 - 1) else c
/-- Registers of the DBG reset domain. -/
def debugReg (o : Nat) : Bool :=
  decide ((0x4000 ≤ o ∧ o < 0x5000) ∨ (0x130000 ≤ o ∧ o < 0x131000) ∨ (0x140000 ≤ o ∧ o < 0x180000 ∧ o % 0x100 ≥ 0x80))
/-- DBG_RST_N: Fliwell and the dump sequencer return to reset; partitions that were only debug-halted resume at the first boundary at
least 64 tc later (R929, R982, R992). DBG_HALT clears in CHIP containment too: DESIGN CHOICE between R982 and R246 (Assumption 88). -/
def debugReset (cm : CM) : CM :=
  let (c, m) := keepNow (traceFlush cm)
  let c := spillOff (selectIr 2 c)
  let c := foldUp 32 (fun c p =>
    if rbit c (ptStat p) 6 then updPart (release c p) p (fun x => { x with holdTill := c.time.ftc + 64 }) else c) c
  let c := { c with regs := smClear c.regs debugReg, dump := {}, latched := {} }
  ({ c with db := { mwdog := c.time.ftc, fireQ := c.db.fireQ, captTrig := c.db.captTrig } }, m)

/-! The commands. -/
/-- A DBVT scan (R975). -/
def execDbvt (rx : Option Byte) (s : State) : Out := onCtl (fun c => vtScan rx (selectIr 0x13 c)) s
/-- The monitor writes a byte into DB_VT_TX (R975). -/
def execVtTxWrite (b : Byte) (s : State) : Out :=
  onCtl (fun c => if monRuns c ∧ c.db.coreHalted = false then vtWrite (hub 0x30) b.toNat c else c) s
/-- The debugger reads DB_VT_TX (R975). -/
def execVtTxRead (s : State) : Out := onCtl (fun c => if c.time.refclk then vtRead (hub 0x30) c else c) s
/-- The debugger writes a byte into DB_VT_RX (R975). -/
def execVtRxWrite (b : Byte) (s : State) : Out := onCtl (fun c => if c.time.refclk then vtWrite (hub 0x34) b.toNat c else c) s
/-- The monitor reads DB_VT_RX (R975). -/
def execVtRxRead (s : State) : Out :=
  onCtl (fun c => if monRuns c ∧ c.db.coreHalted = false then vtRead (hub 0x34) c else c) s
/-- DB_MWDOG_KICK is written (R976). -/
def execMwdogKick (s : State) : Out := onCtl (fun c => if monRuns c then mwdogLoad c else c) s
/-- The management watchdog expires (R976). -/
def execMwdogExpired (s : State) : Out := onCtl mwdogExpire s
/-- DB_TRC_Pn_CTRL is written (R963). -/
def execTraceEn (p : Nat) (v : Word) (s : State) : Out :=
  onAll (fun cm => if p < 32 ∧ cm.1.time.refclk then trcWrite 0 (trcCtrl p) p v.toNat cm else cm) s
/-- DBG_RST_N (R982). -/
def execDbgReset (s : State) : Out := onAll debugReset s

end Sys2Proof.Machine
end

