-- ==== Sys2Proof/Machine/MatrixSlot.lean ====
section
/-! DEFINITION. The matrix-slot operations of a tile, the end-of-pass wait and the flits of the NoC (R266 to R268, R275 to R278, R291, R300). -/
namespace Sys2Proof.Machine

/-- MMA (R275 to R278, R331 to R335). -/
def execMma (t k r vs q b xs : Nat) (s : State) : Out :=
  issueCmd t { x := { op := 1, k := k, r := r, vs := vs, q := q, b := b, xs := xs } } s
/-- MCLR (R275). -/
def execMclr (t k : Nat) (s : State) : Out :=
  issueCmd t { x := { op := 2, k := k } } s
/-- MCLRR (R275). -/
def execMclrr (t k r : Nat) (s : State) : Out :=
  issueCmd t { x := { op := 3, k := k, r := r } } s
/-- The end-of-pass wait (R291, R122): a tile whose WAITP has issued enters it when its earlier operations are complete. -/
def execEndOfPassWait (t : Nat) (s : State) : Out :=
  onCtl (fun c => whenAlive c (fun c =>
    if (tile c t).run = .ending ∧ tileDone c t = true then
      match reach c (doneFrom (tile c t)) with | some c => enterWait c t | none => c
    else c)) s
/-- A flit leaves the send queue in the first phase that the frame plan in force gives to the tile's partition at its router
(R144, R266): FTC moves to that phase; none leaves where the partition owns no phase. -/
def execFlitInjection (t : Nat) (s : State) : Out :=
  onCtl (fun c => whenAlive c (fun c =>
    if inForce c then
      match firstPhase c t (tileOwner c t) (max c.time.ftc (tile c t).phaseAt) with
      | some f => if tileOwner c t < 32 then injectAt c t f else c
      | none => c
    else c)) s
/-- The flit due first is written into its destination tile and counts in the channel's arrival counter (R267, R268, R1172). -/
def execFlitWrite (s : State) : Out :=
  onAll (fun cm => if alive cm.1 then (match firstFlit cm.1 with | some e => writeFlit cm e | none => cm) else cm) s
/-- A halted tile becomes quiet when its results are written and its send queue is empty (R300). -/
def execTileQuiet (t : Nat) (s : State) : Out :=
  onCtl (fun c => whenAlive c (fun c =>
    if (tile c t).halted ∧ (tile c t).sendq = [] then
      match reach c (doneFrom (tile c t)) with | some c => becomeQuiet c t | none => c
    else c)) s


end Sys2Proof.Machine
end

