-- ==== Sys2Proof/Machine/MoveSlot.lean ====
section
/-! DEFINITION. The move-slot operations of a tile, each as the one operation of a bundle (R264 to R272). -/
namespace Sys2Proof.Machine

/-- LDW (R264). -/
def execLdw (t rd xa imm : Nat) (s : State) : Out :=
  issueCmd t { m := { op := 0x01, rd := rd, xa := xa, imm := imm } } s
/-- STW (R264). -/
def execStw (t xa xb imm : Nat) (s : State) : Out :=
  issueCmd t { m := { op := 0x02, xa := xa, xb := xb, imm := imm } } s
/-- VLD (R264). -/
def execVld (t rd xa imm : Nat) (s : State) : Out :=
  issueCmd t { m := { op := 0x03, rd := rd, xa := xa, imm := imm } } s
/-- VST (R264). -/
def execVst (t rd xa imm : Nat) (s : State) : Out :=
  issueCmd t { m := { op := 0x04, rd := rd, xa := xa, imm := imm } } s
/-- MLDW (R264, R265). -/
def execMldw (t b g xa imm : Nat) (s : State) : Out :=
  issueCmd t { m := { op := 0x05, rd := 16 * b + g, xa := xa, imm := imm } } s
/-- MLDS (R264, R265). -/
def execMlds (t b xa imm : Nat) (s : State) : Out :=
  issueCmd t { m := { op := 0x06, rd := 16 * b, xa := xa, imm := imm } } s
/-- MRD (R264, R278). -/
def execMrd (t rd k row : Nat) (s : State) : Out :=
  issueCmd t { m := { op := 0x07, rd := rd, imm := 64 * k + row } } s
/-- VBC (R264). -/
def execVbc (t rd xa : Nat) (s : State) : Out :=
  issueCmd t { m := { op := 0x08, rd := rd, xa := xa } } s
/-- VEXT (R264). -/
def execVext (t rd va lane : Nat) (s : State) : Out :=
  issueCmd t { m := { op := 0x09, rd := rd, xa := va, imm := lane } } s
/-- VINS (R264). -/
def execVins (t rd xa lane : Nat) (s : State) : Out :=
  issueCmd t { m := { op := 0x0A, rd := rd, xa := xa, imm := lane } } s
/-- NSEND (R264, R266, R268, R269). -/
def execNsend (t rd xa xb : Nat) (s : State) : Out :=
  issueCmd t { m := { op := 0x0B, rd := rd, xa := xa, xb := xb } } s
/-- NMEQ (R264, R270, R521). -/
def execNmeq (t xa xb : Nat) (s : State) : Out :=
  issueCmd t { m := { op := 0x0D, xa := xa, xb := xb } } s
/-- DECW (R264, R271, R313). -/
def execDecw (t xa xb : Nat) (s : State) : Out :=
  issueCmd t { m := { op := 0x0E, xa := xa, xb := xb } } s
/-- TRIMW (R264, R272). -/
def execTrimw (t xa : Nat) (s : State) : Out :=
  issueCmd t { m := { op := 0x0F, xa := xa } } s


end Sys2Proof.Machine
end

