-- ==== Sys2Proof/Machine/VectorSlot.lean ====
section
/-! DEFINITION. The vector-slot operations of a tile, each as the one operation of a bundle (R273, R274). -/
namespace Sys2Proof.Machine

/-- VADD (R273, R327, R329). -/
def execVadd (t vd va vb km ty : Nat) (s : State) : Out :=
  issueCmd t { v := { op := 0x01, vd := vd, va := va, vb := vb, km := km, t := ty } } s
/-- VSUB (R273, R327, R329). -/
def execVsub (t vd va vb km ty : Nat) (s : State) : Out :=
  issueCmd t { v := { op := 0x02, vd := vd, va := va, vb := vb, km := km, t := ty } } s
/-- VMUL (R273, R327, R329). -/
def execVmul (t vd va vb km ty : Nat) (s : State) : Out :=
  issueCmd t { v := { op := 0x03, vd := vd, va := va, vb := vb, km := km, t := ty } } s
/-- VFMA (R273, R327, R329). -/
def execVfma (t vd va vb km ty : Nat) (s : State) : Out :=
  issueCmd t { v := { op := 0x04, vd := vd, va := va, vb := vb, km := km, t := ty } } s
/-- VMIN (R273, R328). -/
def execVmin (t vd va vb km ty : Nat) (s : State) : Out :=
  issueCmd t { v := { op := 0x05, vd := vd, va := va, vb := vb, km := km, t := ty } } s
/-- VMAX (R273, R328). -/
def execVmax (t vd va vb km ty : Nat) (s : State) : Out :=
  issueCmd t { v := { op := 0x06, vd := vd, va := va, vb := vb, km := km, t := ty } } s
/-- VLOG (R273). -/
def execVlog (t vd va vb km fn : Nat) (s : State) : Out :=
  issueCmd t { v := { op := 0x07, vd := vd, va := va, vb := vb, km := km, fn := fn } } s
/-- VSH (R273). -/
def execVsh (t vd va vb km fn : Nat) (s : State) : Out :=
  issueCmd t { v := { op := 0x08, vd := vd, va := va, vb := vb, km := km, fn := fn } } s
/-- VCMP (R273, R328). -/
def execVcmp (t vd va vb km ty fn : Nat) (s : State) : Out :=
  issueCmd t { v := { op := 0x09, vd := vd, va := va, vb := vb, km := km, t := ty, fn := fn } } s
/-- VSEL (R273). -/
def execVsel (t vd va vb km : Nat) (s : State) : Out :=
  issueCmd t { v := { op := 0x0A, vd := vd, va := va, vb := vb, km := km } } s
/-- VCVT (R274, R330). -/
def execVcvt (t vd va km fn : Nat) (s : State) : Out :=
  issueCmd t { v := { op := 0x0B, vd := vd, va := va, km := km, fn := fn } } s
/-- VPERM (R273). -/
def execVperm (t vd va vb km : Nat) (s : State) : Out :=
  issueCmd t { v := { op := 0x0C, vd := vd, va := va, vb := vb, km := km } } s
/-- WACC (R338 to R341). -/
def execWacc (t w va km ty fn : Nat) (s : State) : Out :=
  issueCmd t { v := { op := 0x0D, vd := w, va := va, km := km, t := ty, fn := fn } } s
/-- WFOLD (R343). -/
def execWfold (t w : Nat) (s : State) : Out :=
  issueCmd t { v := { op := 0x0E, vd := w } } s
/-- WRD (R341, R342). -/
def execWrd (t vd w km ty fn : Nat) (s : State) : Out :=
  issueCmd t { v := { op := 0x0F, vd := vd, va := w, km := km, t := ty, fn := fn } } s
/-- WCLR (R273). -/
def execWclr (t w km : Nat) (s : State) : Out :=
  issueCmd t { v := { op := 0x10, vd := w, km := km } } s


end Sys2Proof.Machine
end

