-- ==== Sys2Proof/Machine/Dispatch.lean ====
section
/-! DEFINITION. The one dispatch: each command to its meaning. -/
namespace Sys2Proof.Machine

/-- The effect of a command on everything but the queue. -/
def exec (i : Instr) (s : State) : Host.Outcome State Fault Refusal :=
  match i with
  | .registerWrite f off bytes v => Sys2Proof.Machine.execRegisterWrite f off bytes v s
  | .counterClear f off v => Sys2Proof.Machine.execCounterClear f off v s
  | .enWrite f b en => Sys2Proof.Machine.execEnWrite f b en s
  | .stagedCommit => Sys2Proof.Machine.execStagedCommit s
  | .drainEnd b => Sys2Proof.Machine.execDrainEnd b s
  | .drainTimeout b => Sys2Proof.Machine.execDrainTimeout b s
  | .passBoundary => Sys2Proof.Machine.execPassBoundary s
  | .passWatchdogExpiry p => Sys2Proof.Machine.execPassWatchdogExpiry p s
  | .rootPllLock => Sys2Proof.Machine.execRootPllLock s
  | .rootLol => Sys2Proof.Machine.execRootLol s
  | .refclkLoss => Sys2Proof.Machine.execRefclkLoss s
  | .timeMessageInterval => Sys2Proof.Machine.execTimeMessageInterval s
  | .timeStampMessage link depth seq t1 => Sys2Proof.Machine.execTimeStampMessage link depth seq t1 s
  | .echo link depth seq res t2 => Sys2Proof.Machine.execEcho link depth seq res t2 s
  | .coarse link depth hi => Sys2Proof.Machine.execCoarse link depth hi s
  | .epochMessage link depth plen digest => Sys2Proof.Machine.execEpochMessage link depth plen digest s
  | .upstreamLost => Sys2Proof.Machine.execUpstreamLost s
  | .timeLost => Sys2Proof.Machine.execTimeLost s
  | .arm => Sys2Proof.Machine.execArm s
  | .epochStart => Sys2Proof.Machine.execEpochStart s
  | .stopArm => Sys2Proof.Machine.execStopArm s
  | .fplanLoad => Sys2Proof.Machine.execFplanLoad s
  | .fplanUnload => Sys2Proof.Machine.execFplanUnload s
  | .pplanLoad fn => Sys2Proof.Machine.execPplanLoad fn s
  | .loadChecksComplete img => Sys2Proof.Machine.execLoadChecksComplete img s
  | .pplanWritesComplete fail => Sys2Proof.Machine.execPplanWritesComplete fail s
  | .framePlanActivation => Sys2Proof.Machine.execFramePlanActivation s
  | .fallbackRefresh => Sys2Proof.Machine.execFallbackRefresh s
  | .fallbackFinalRefresh => Sys2Proof.Machine.execFallbackFinalRefresh s
  | .refreshSpan n => Sys2Proof.Machine.execRefreshSpan n s
  | .resume p => Sys2Proof.Machine.execResume p s
  | .partitionReset p => Sys2Proof.Machine.execPartitionReset p s
  | .partResetComplete p => Sys2Proof.Machine.execPartResetComplete p s
  | .atEn p on => Sys2Proof.Machine.execAtEn p on s
  | .enAt p pass => Sys2Proof.Machine.execEnAt p pass s
  | .alu t xd xa xb fn => Sys2Proof.Machine.execAlu t xd xa xb fn s
  | .addi t xd xa imm => Sys2Proof.Machine.execAddi t xd xa imm s
  | .ori t xd xa imm => Sys2Proof.Machine.execOri t xd xa imm s
  | .lui t xd imm => Sys2Proof.Machine.execLui t xd imm s
  | .br t cond xa xb tgt => Sys2Proof.Machine.execBr t cond xa xb tgt s
  | .jr t xd xa => Sys2Proof.Machine.execJr t xd xa s
  | .bal t xd tgt => Sys2Proof.Machine.execBal t xd tgt s
  | .loop t lvl src xc cnt last => Sys2Proof.Machine.execLoop t lvl src xc cnt last s
  | .loopEnd t => Sys2Proof.Machine.execLoopEnd t s
  | .setmode t src xa imm => Sys2Proof.Machine.execSetmode t src xa imm s
  | .waitp t tgt => Sys2Proof.Machine.execWaitp t tgt s
  | .waita t ch n => Sys2Proof.Machine.execWaita t ch n s
  | .aclr t mask => Sys2Proof.Machine.execAclr t mask s
  | .kick t => Sys2Proof.Machine.execKick t s
  | .trap t code => Sys2Proof.Machine.execTrap t code s
  | .csrr t xd idx => Sys2Proof.Machine.execCsrr t xd idx s
  | .csrw t xa idx => Sys2Proof.Machine.execCsrw t xa idx s
  | .waitt t off => Sys2Proof.Machine.execWaitt t off s
  | .ldw t rd xa imm => Sys2Proof.Machine.execLdw t rd xa imm s
  | .stw t xa xb imm => Sys2Proof.Machine.execStw t xa xb imm s
  | .vld t rd xa imm => Sys2Proof.Machine.execVld t rd xa imm s
  | .vst t rd xa imm => Sys2Proof.Machine.execVst t rd xa imm s
  | .mldw t b g xa imm => Sys2Proof.Machine.execMldw t b g xa imm s
  | .mlds t b xa imm => Sys2Proof.Machine.execMlds t b xa imm s
  | .mrd t rd k row => Sys2Proof.Machine.execMrd t rd k row s
  | .vbc t rd xa => Sys2Proof.Machine.execVbc t rd xa s
  | .vext t rd va lane => Sys2Proof.Machine.execVext t rd va lane s
  | .vins t rd xa lane => Sys2Proof.Machine.execVins t rd xa lane s
  | .nsend t rd xa xb => Sys2Proof.Machine.execNsend t rd xa xb s
  | .nmeq t xa xb => Sys2Proof.Machine.execNmeq t xa xb s
  | .decw t xa xb => Sys2Proof.Machine.execDecw t xa xb s
  | .trimw t xa => Sys2Proof.Machine.execTrimw t xa s
  | .vadd t vd va vb km ty => Sys2Proof.Machine.execVadd t vd va vb km ty s
  | .vsub t vd va vb km ty => Sys2Proof.Machine.execVsub t vd va vb km ty s
  | .vmul t vd va vb km ty => Sys2Proof.Machine.execVmul t vd va vb km ty s
  | .vfma t vd va vb km ty => Sys2Proof.Machine.execVfma t vd va vb km ty s
  | .vmin t vd va vb km ty => Sys2Proof.Machine.execVmin t vd va vb km ty s
  | .vmax t vd va vb km ty => Sys2Proof.Machine.execVmax t vd va vb km ty s
  | .vlog t vd va vb km fn => Sys2Proof.Machine.execVlog t vd va vb km fn s
  | .vsh t vd va vb km fn => Sys2Proof.Machine.execVsh t vd va vb km fn s
  | .vcmp t vd va vb km ty fn => Sys2Proof.Machine.execVcmp t vd va vb km ty fn s
  | .vsel t vd va vb km => Sys2Proof.Machine.execVsel t vd va vb km s
  | .vcvt t vd va km fn => Sys2Proof.Machine.execVcvt t vd va km fn s
  | .vperm t vd va vb km => Sys2Proof.Machine.execVperm t vd va vb km s
  | .wacc t w va km ty fn => Sys2Proof.Machine.execWacc t w va km ty fn s
  | .wfold t w => Sys2Proof.Machine.execWfold t w s
  | .wrd t vd w km ty fn => Sys2Proof.Machine.execWrd t vd w km ty fn s
  | .wclr t w km => Sys2Proof.Machine.execWclr t w km s
  | .mma t k r vs q b xs => Sys2Proof.Machine.execMma t k r vs q b xs s
  | .mclr t k => Sys2Proof.Machine.execMclr t k s
  | .mclrr t k r => Sys2Proof.Machine.execMclrr t k r s
  | .endOfPassWait t => Sys2Proof.Machine.execEndOfPassWait t s
  | .flitInjection t => Sys2Proof.Machine.execFlitInjection t s
  | .flitWrite => Sys2Proof.Machine.execFlitWrite s
  | .tileQuiet t => Sys2Proof.Machine.execTileQuiet t s
  | .pcsLock hg lock cut => Sys2Proof.Machine.execPcsLock hg lock cut s
  | .dataFrame hg fec raw => Sys2Proof.Machine.execDataFrame hg fec raw s
  | .calFrame hg fec raw => Sys2Proof.Machine.execCalFrame hg fec raw s
  | .heartbeat hg fec raw => Sys2Proof.Machine.execHeartbeat hg fec raw s
  | .notice hg fec raw => Sys2Proof.Machine.execNotice hg fec raw s
  | .decisionReceived hg fec raw => Sys2Proof.Machine.execDecisionReceived hg fec raw s
  | .landingLineWrite t => Sys2Proof.Machine.execLandingLineWrite t s
  | .landingInstant => Sys2Proof.Machine.execLandingInstant s
  | .stationEn hg stn en => Sys2Proof.Machine.execStationEn hg stn en s
  | .rejoin hg stn => Sys2Proof.Machine.execRejoin hg stn s
  | .stationAbsent hg stn => Sys2Proof.Machine.execStationAbsent hg stn s
  | .verdictArrival => Sys2Proof.Machine.execVerdictArrival s
  | .dueRelease => Sys2Proof.Machine.execDueRelease s
  | .globalDecision => Sys2Proof.Machine.execGlobalDecision s
  | .guardDefault => Sys2Proof.Machine.execGuardDefault s
  | .decisionHandoff => Sys2Proof.Machine.execDecisionHandoff s
  | .fill nme p => Sys2Proof.Machine.execFill nme p s
  | .copy nme p => Sys2Proof.Machine.execCopy nme p s
  | .compare nme p => Sys2Proof.Machine.execCompare nme p s
  | .reduce nme p => Sys2Proof.Machine.execReduce nme p s
  | .tload nme p => Sys2Proof.Machine.execTload nme p s
  | .tstore nme p => Sys2Proof.Machine.execTstore nme p s
  | .nmeSlotTransfer p q slot => Sys2Proof.Machine.execNmeSlotTransfer p q slot s
  | .nmeTileLine t => Sys2Proof.Machine.execNmeTileLine t s
  | .nmeCompletion p => Sys2Proof.Machine.execNmeCompletion p s
  | .pchFailed q why => Sys2Proof.Machine.execPchFailed q why s
  | .softRepair q bank row => Sys2Proof.Machine.execSoftRepair q bank row s
  | .hardRepair q bank row => Sys2Proof.Machine.execHardRepair q bank row s
  | .repairDone result spares => Sys2Proof.Machine.execRepairDone result spares s
  | .patrolScrub slot => Sys2Proof.Machine.execPatrolScrub slot s
  | .poolRead spid hpa tag => Sys2Proof.Machine.execPoolRead spid hpa tag s
  | .poolWrite spid hpa tag data mask => Sys2Proof.Machine.execPoolWrite spid hpa tag data mask s
  | .weirRefill => Sys2Proof.Machine.execWeirRefill s
  | .weirPassage h => Sys2Proof.Machine.execWeirPassage h s
  | .poolSlot q slot => Sys2Proof.Machine.execPoolSlot q slot s
  | .poolReadData => Sys2Proof.Machine.execPoolReadData s
  | .poolWriteCompletion => Sys2Proof.Machine.execPoolWriteCompletion s
  | .identify => Sys2Proof.Machine.execIdentify s
  | .backgroundOperationStatus => Sys2Proof.Machine.execBackgroundOperationStatus s
  | .getEventRecords h log => Sys2Proof.Machine.execGetEventRecords h log s
  | .clearEventRecords h log n => Sys2Proof.Machine.execClearEventRecords h log n s
  | .getEventInterruptPolicy => Sys2Proof.Machine.execGetEventInterruptPolicy s
  | .setEventInterruptPolicy pol => Sys2Proof.Machine.execSetEventInterruptPolicy pol s
  | .getTimestamp => Sys2Proof.Machine.execGetTimestamp s
  | .setTimestamp ns => Sys2Proof.Machine.execSetTimestamp ns s
  | .getSupportedLogs => Sys2Proof.Machine.execGetSupportedLogs s
  | .getLog which => Sys2Proof.Machine.execGetLog which s
  | .identifyMemoryDevice => Sys2Proof.Machine.execIdentifyMemoryDevice s
  | .getDynamicCapacityConfiguration h => Sys2Proof.Machine.execGetDynamicCapacityConfiguration h s
  | .getDynamicCapacityExtentList h => Sys2Proof.Machine.execGetDynamicCapacityExtentList h s
  | .addDynamicCapacityResponse h exts => Sys2Proof.Machine.execAddDynamicCapacityResponse h exts s
  | .extentMap => Sys2Proof.Machine.execExtentMap s
  | .releaseDynamicCapacity h exts => Sys2Proof.Machine.execReleaseDynamicCapacity h exts s
  | .getDcdInfo => Sys2Proof.Machine.execGetDcdInfo s
  | .getHostDcRegionConfiguration h => Sys2Proof.Machine.execGetHostDcRegionConfiguration h s
  | .setDcRegionConfiguration region block => Sys2Proof.Machine.execSetDcRegionConfiguration region block s
  | .getDcRegionExtentLists h => Sys2Proof.Machine.execGetDcRegionExtentLists h s
  | .initiateDynamicCapacityAdd h len policy shared tag exts => Sys2Proof.Machine.execInitiateDynamicCapacityAdd h len policy shared tag exts s
  | .initiateDynamicCapacityRelease h exts => Sys2Proof.Machine.execInitiateDynamicCapacityRelease h exts s
  | .forcedRelease h exts => Sys2Proof.Machine.execForcedRelease h exts s
  | .hostProxy h cmd => Sys2Proof.Machine.execHostProxy h cmd s
  | .unmap => Sys2Proof.Machine.execUnmap s
  | .offerTimeout => Sys2Proof.Machine.execOfferTimeout s
  | .scrubComplete st => Sys2Proof.Machine.execScrubComplete st s
  | .srDefine r => Sys2Proof.Machine.execSrDefine r s
  | .srDelete r => Sys2Proof.Machine.execSrDelete r s
  | .keyLoad kind slot => Sys2Proof.Machine.execKeyLoad kind slot s
  | .keyErase kind slot => Sys2Proof.Machine.execKeyErase kind slot s
  | .kill h => Sys2Proof.Machine.execKill h s
  | .revive h => Sys2Proof.Machine.execRevive h s
  | .pageMove fn page => Sys2Proof.Machine.execPageMove fn page s
  | .pageDone m page => Sys2Proof.Machine.execPageDone m page s
  | .endpointFatal cause => Sys2Proof.Machine.execEndpointFatal cause s
  | .adaptComplete l => Sys2Proof.Machine.execAdaptComplete l s
  | .alignComplete m => Sys2Proof.Machine.execAlignComplete m s
  | .ident l pay => Sys2Proof.Machine.execIdent l pay s
  | .measureComplete l ex => Sys2Proof.Machine.execMeasureComplete l ex s
  | .linkUp l => Sys2Proof.Machine.execLinkUp l s
  | .trainTimeout l => Sys2Proof.Machine.execTrainTimeout l s
  | .parcelLineRead l k => Sys2Proof.Machine.execParcelLineRead l k s
  | .parcelTransmit l => Sys2Proof.Machine.execParcelTransmit l s
  | .linkFrame l ago fill crc early codes => Sys2Proof.Machine.execLinkFrame l ago fill crc early codes s
  | .parcelDelivery l k => Sys2Proof.Machine.execParcelDelivery l k s
  | .parcelForward l k => Sys2Proof.Machine.execParcelForward l k s
  | .trig link ch src seq => Sys2Proof.Machine.execTrig link ch src seq s
  | .fail l pay => Sys2Proof.Machine.execFail l pay s
  | .stampWord l pay => Sys2Proof.Machine.execStampWord l pay s
  | .linkFailure l why n => Sys2Proof.Machine.execLinkFailure l why n s
  | .detourSwitch => Sys2Proof.Machine.execDetourSwitch s
  | .failClear e => Sys2Proof.Machine.execFailClear e s
  | .samplePair sb cb => Sys2Proof.Machine.execSamplePair sb cb s
  | .observerUpdate => Sys2Proof.Machine.execObserverUpdate s
  | .conversionFault n => Sys2Proof.Machine.execConversionFault n s
  | .conversionFaultEnd n => Sys2Proof.Machine.execConversionFaultEnd n s
  | .excitationRampEnd => Sys2Proof.Machine.execExcitationRampEnd s
  | .spSet v => Sys2Proof.Machine.execSpSet v s
  | .homeEdge falling => Sys2Proof.Machine.execHomeEdge falling s
  | .stampWindowWrite => Sys2Proof.Machine.execStampWindowWrite s
  | .stampRelay => Sys2Proof.Machine.execStampRelay s
  | .latchEdge rising => Sys2Proof.Machine.execLatchEdge rising s
  | .latchPop => Sys2Proof.Machine.execLatchPop s
  | .encoderCount => Sys2Proof.Machine.execEncoderCount s
  | .encoderRun on => Sys2Proof.Machine.execEncoderRun on s
  | .spindleCapture v => Sys2Proof.Machine.execSpindleCapture v s
  | .ceSample a0 a1 ext => Sys2Proof.Machine.execCeSample a0 a1 ext s
  | .outputInstant => Sys2Proof.Machine.execOutputInstant s
  | .ceArm on => Sys2Proof.Machine.execCeArm on s
  | .start => Sys2Proof.Machine.execStart s
  | .stop => Sys2Proof.Machine.execStop s
  | .qstop => Sys2Proof.Machine.execQstop s
  | .clrFault => Sys2Proof.Machine.execClrFault s
  | .home => Sys2Proof.Machine.execHome s
  | .stopN low => Sys2Proof.Machine.execStopN low s
  | .motFaultN low => Sys2Proof.Machine.execMotFaultN low s
  | .limitInput fwd rev => Sys2Proof.Machine.execLimitInput fwd rev s
  | .missFault => Sys2Proof.Machine.execMissFault s
  | .trimTimeout => Sys2Proof.Machine.execTrimTimeout s
  | .loopOpen x => Sys2Proof.Machine.execLoopOpen x s
  | .loopClose x => Sys2Proof.Machine.execLoopClose x s
  | .injectionGo => Sys2Proof.Machine.execInjectionGo s
  | .injectionStop => Sys2Proof.Machine.execInjectionStop s
  | .injectionEnd => Sys2Proof.Machine.execInjectionEnd s
  | .captureGo => Sys2Proof.Machine.execCaptureGo s
  | .captureAbort => Sys2Proof.Machine.execCaptureAbort s
  | .captureDone => Sys2Proof.Machine.execCaptureDone s
  | .autotuneGo => Sys2Proof.Machine.execAutotuneGo s
  | .autotuneAbort => Sys2Proof.Machine.execAutotuneAbort s
  | .autotuneComplete => Sys2Proof.Machine.execAutotuneComplete s
  | .autotuneTimeout => Sys2Proof.Machine.execAutotuneTimeout s
  | .oscDetect => Sys2Proof.Machine.execOscDetect s
  | .monitorLoad => Sys2Proof.Machine.execMonitorLoad s
  | .monitorReady => Sys2Proof.Machine.execMonitorReady s
  | .ringStart fn r => Sys2Proof.Machine.execRingStart fn r s
  | .ringStop fn r => Sys2Proof.Machine.execRingStop fn r s
  | .ringReset fn r => Sys2Proof.Machine.execRingReset fn r s
  | .submissionDoorbell fn r tail entries => Sys2Proof.Machine.execSubmissionDoorbell fn r tail entries s
  | .completionDoorbell fn r head => Sys2Proof.Machine.execCompletionDoorbell fn r head s
  | .commandDispatch fn r => Sys2Proof.Machine.execCommandDispatch fn r s
  | .nop fn r => Sys2Proof.Machine.execNop fn r s
  | .regWrite fn => Sys2Proof.Machine.execRegWrite fn s
  | .partStart fn => Sys2Proof.Machine.execPartStart fn s
  | .partStop fn => Sys2Proof.Machine.execPartStop fn s
  | .partResume fn => Sys2Proof.Machine.execPartResume fn s
  | .partReset fn => Sys2Proof.Machine.execPartReset fn s
  | .dumpReq fn => Sys2Proof.Machine.execDumpReq fn s
  | .logRead => Sys2Proof.Machine.execLogRead s
  | .keepRead => Sys2Proof.Machine.execKeepRead s
  | .dbgReq => Sys2Proof.Machine.execDbgReq s
  | .completionWrite fn r => Sys2Proof.Machine.execCompletionWrite fn r s
  | .msixMessage fn r => Sys2Proof.Machine.execMsixMessage fn r s
  | .functionLevelReset fn => Sys2Proof.Machine.execFunctionLevelReset fn s
  | .dbreq req => Sys2Proof.Machine.execDbreq req s
  | .dbresp => Sys2Proof.Machine.execDbresp s
  | .dbdata push => Sys2Proof.Machine.execDbdata push s
  | .dbvt rx => Sys2Proof.Machine.execDbvt rx s
  | .extest shift balls => Sys2Proof.Machine.execExtest shift balls s
  | .samplePreload shift balls => Sys2Proof.Machine.execSamplePreload shift balls s
  | .idcode => Sys2Proof.Machine.execIdcode s
  | .clamp => Sys2Proof.Machine.execClamp s
  | .highz => Sys2Proof.Machine.execHighz s
  | .bypass => Sys2Proof.Machine.execBypass s
  | .trstN => Sys2Proof.Machine.execTrstN s
  | .read => Sys2Proof.Machine.execRead s
  | .write data => Sys2Proof.Machine.execWrite data s
  | .halt => Sys2Proof.Machine.execHalt s
  | .release => Sys2Proof.Machine.execRelease s
  | .releaseTakesEffect => Sys2Proof.Machine.execReleaseTakesEffect s
  | .fstep => Sys2Proof.Machine.execFstep s
  | .pstep => Sys2Proof.Machine.execPstep s
  | .bstop => Sys2Proof.Machine.execBstop s
  | .boundaryStop => Sys2Proof.Machine.execBoundaryStop s
  | .spillIn samples => Sys2Proof.Machine.execSpillIn s samples
  | .spillFire ch => Sys2Proof.Machine.execSpillFire ch s
  | .spillOutPulseEnd => Sys2Proof.Machine.execSpillOutPulseEnd s
  | .spillOutClear => Sys2Proof.Machine.execSpillOutClear s
  | .relayReq l words => Sys2Proof.Machine.execRelayReq l words s
  | .relayRsp l words => Sys2Proof.Machine.execRelayRsp l words s
  | .flood l words => Sys2Proof.Machine.execFlood l words s
  | .relayTimeout => Sys2Proof.Machine.execRelayTimeout s
  | .vtTxWrite b => Sys2Proof.Machine.execVtTxWrite b s
  | .vtTxRead => Sys2Proof.Machine.execVtTxRead s
  | .vtRxWrite b => Sys2Proof.Machine.execVtRxWrite b s
  | .vtRxRead => Sys2Proof.Machine.execVtRxRead s
  | .mwdogKick => Sys2Proof.Machine.execMwdogKick s
  | .mwdogExpired => Sys2Proof.Machine.execMwdogExpired s
  | .traceEn p v => Sys2Proof.Machine.execTraceEn p v s
  | .dbgReset => Sys2Proof.Machine.execDbgReset s
  | .dumpStart => Sys2Proof.Machine.execDumpStart s
  | .dumpRecordWrite q slot => Sys2Proof.Machine.execDumpRecordWrite q slot s
  | .dumpEnd => Sys2Proof.Machine.execDumpEnd s
  | .catalogCompletion => Sys2Proof.Machine.execCatalogCompletion s
  | .catalogFree cat => Sys2Proof.Machine.execCatalogFree cat s
  | .holdExpired p => Sys2Proof.Machine.execHoldExpired p s
  | .eventRecordEntry => Sys2Proof.Machine.execEventRecordEntry s
  | .eventDelivery => Sys2Proof.Machine.execEventDelivery s
  | .por => Sys2Proof.Machine.execPor s
  | .chipReset => Sys2Proof.Machine.execChipReset s
  | .pwrRst confirm => Sys2Proof.Machine.execPwrRst confirm s
  | .chipResetRelease src => Sys2Proof.Machine.execChipResetRelease src s
  | .hbmTrainingDone failed => Sys2Proof.Machine.execHbmTrainingDone failed s
  | .perstN low => Sys2Proof.Machine.execPerstN low s
  | .blkReset kind idx => Sys2Proof.Machine.execBlkReset kind idx s
  | .keepStoreCheck => Sys2Proof.Machine.execKeepStoreCheck s
  | .requestS0 => Sys2Proof.Machine.execRequestS0 s
  | .requestS1 => Sys2Proof.Machine.execRequestS1 s
  | .requestS2 => Sys2Proof.Machine.execRequestS2 s
  | .requestS3 => Sys2Proof.Machine.execRequestS3 s
  | .powerTransition => Sys2Proof.Machine.execPowerTransition s
  | .powerTransitionComplete => Sys2Proof.Machine.execPowerTransitionComplete s
  | .temperatureUpdate temps holdMv => Sys2Proof.Machine.execTemperatureUpdate temps holdMv s
  | .supplySag n => Sys2Proof.Machine.execSupplySag n s
  | .saveComplete result => Sys2Proof.Machine.execSaveComplete result s
  | .holdcapCharged uf => Sys2Proof.Machine.execHoldcapCharged uf s
  | .smbId => Sys2Proof.Machine.execSmbId s
  | .smbStatus => Sys2Proof.Machine.execSmbStatus s
  | .smbStraps => Sys2Proof.Machine.execSmbStraps s
  | .tempMax => Sys2Proof.Machine.execTempMax s
  | .temp n => Sys2Proof.Machine.execTemp n s
  | .vsup n mv => Sys2Proof.Machine.execVsup n mv s
  | .vhold => Sys2Proof.Machine.execVhold s
  | .capUf => Sys2Proof.Machine.execCapUf s
  | .clearAlert => Sys2Proof.Machine.execClearAlert s
  | .alertResponse => Sys2Proof.Machine.execAlertResponse s
  | .refclkReturn => Sys2Proof.Machine.execRefclkReturn s
  | .porstNRise straps wrstLow => Sys2Proof.Machine.execPorstNRise straps wrstLow s
  | .monitorImageCheck img => Sys2Proof.Machine.execMonitorImageCheck img s
  | .hdmDecoderCommit base => Sys2Proof.Machine.execHdmDecoderCommit base s
  | .unsupportedMailboxOpcode op => Sys2Proof.Machine.execUnsupportedMailboxOpcode op s
  | .busMasterDisable fn => Sys2Proof.Machine.execBusMasterDisable fn s
  | .msixVectorUnmask fn vec => Sys2Proof.Machine.execMsixVectorUnmask fn vec s

end Sys2Proof.Machine
end

