-- ==== Sys2Proof/Machine/Tick.lean ====
section
/-! DEFINITION. One tc of the block's own clock, which passes when no command waits (Assumption 1). -/
namespace Sys2Proof.Machine

/-- FTC counts: REFCLK runs, the blocks' clock comes from ROOT or the bypass path, and CHIP reset is not asserted (R78 to R82). It counts in
S3 too, and an armed epoch can start there: DESIGN CHOICE, for the clock table stops TCLK elsewhere in S3 and does not name FTC (Assumption 1). -/
def ftcRuns (c : Ctl) : Bool := regsServed c
/-- A tile that stands in a pass issues the bundle of its instruction RAM, stalls, or takes an exception; one whose WAITP has issued
enters the end-of-pass wait once its operations are complete (R252, R284, R291, R297). After an exception of its partition it issues in
that same tc alone: DESIGN CHOICE for "its current bundle" of R214 (Assumption 61); after a pass-end breach it goes on to the halt. -/
def tickTile (cm : CM) (t : Nat) : CM :=
  let x := tile cm.1 t
  let stops := match (part cm.1 (tileOwner cm.1 t)).haltDue with | some h => decide (h.cause = 1 ∧ cm.1.time.ftc + 4 > h.at_) | none => false
  if tileIssues cm.1 t then
    if x.bubble > cm.1.time.ftc ∨ stops = true then cm
    else
      let r := fetched cm t x.pc
      let c := if (tile r.1.1 t).held.contains r.2 then r.1.1 else updTile r.1.1 t (fun x => { x with held := [r.2] })
      attempt (c, r.1.2) t (decodeBundle r.2.word) r.2.bad false true
  else (enterWait cm.1 t, cm.2)
/-- The debug halt of a BREAK or WATCH of this tc, when every tile has ended its bundle of the tc (R946). -/
def breaksDue (c : Ctl) : Ctl :=
  foldUp 32 (fun c p => if (part c p).brkDue then debugHalt (updPart c p (fun x => { x with brkDue := false })) p else c) c
/-- FTC moves on by 1 tc, into the next pass at its boundary (R87, R88). -/
def tickClock (cm : CM) : CM :=
  let c := cm.1
  if c.time.epoch ∧ boundaryUp c ∧ (c.time.phase ≠ 0 ∨ c.time.ftc + 1 ≥ nextBoundary c) then atInstant boundary cm else (advance c 1, cm.2)
/-- The block runs by itself for 1 tc: what the tiles do in the tc at which FTC stands, and then FTC moves on. The events due in that
tc come before this step (R304, R305). -/
def tick (s : State) : Out :=
  if ftcRuns s.ctl then onAll (fun cm =>
      let r := (cm.1.tiles.entries.map (·.1)).foldl tickTile (haltsDue cm.1, cm.2)
      let c := breaksDue r.1
      tickClock (foldUp 16 txRun (if alive c then c else updHg c (fun x => { x with txq := [] })), r.2)) s
  else .next s

end Sys2Proof.Machine
end

