-- ==== Sys2Proof/Machine/Step.lean ====
section
/-! DEFINITION. One step: the command at the front of the queue, or one tc of the clock when none waits. -/
namespace Sys2Proof.Machine

/-- One step. The front command leaves the queue and acts; on an empty queue the block runs by itself for 1 tc (Assumption 1). -/
def step (s : State) : Host.Outcome State Fault Refusal :=
  match s.pending with
  | [] => tick s
  | i :: r => exec i { s with pending := r }

/-- The state with the command that a word spells at the front of its queue; no row of the table has bits, so no word spells
one. -/
def State.withFetchWord (s : State) (_nbits _w : Nat) : State := s

end Sys2Proof.Machine
end

