-- ==== Sys2Proof/Safety.lean ====
section
/-! DEFINITION. What counts as a safe run: every step answers a next state; and the terms that statements about a step are made in. -/
namespace Sys2Proof.Safety
open Sys2Proof.Machine

/-- The outcome is a next state. -/
def Completes (o : Out) : Prop := ∃ t, o = .next t
/-- The states that `n` steps lead to from `s`. -/
inductive Reaches (s : State) : Nat → State → Prop where
  | zero : Reaches s 0 s
  | next {n : Nat} {t u : State} : Reaches s n t → step t = .next u → Reaches s (n + 1) u
/-- A run from `s` is safe when no state on it stops the machine. -/
def SafeFrom (s : State) : Prop := ∀ n t, Reaches s n t → Completes (step t)

/-- Every register outside a list reads as before. -/
def RegsBut (l : List Nat) (c d : Ctl) : Prop := ∀ o, o ∉ l → rd d o = rd c o
/-- `d` is `c` but for registers, and those outside a list read as before. -/
def OnlyRegs (l : List Nat) (c d : Ctl) : Prop := { d with regs := c.regs } = c ∧ RegsBut l c d

/-- A member heeds a message: it comes on the active upstream, from one hop nearer the root (R90, R100). -/
def heeds (c : Ctl) (l depth : Nat) : Prop := isRoot c = false ∧ l = upLink c ∧ depth + 1 = myDepth c
/-- A member whose upstream is lost (R106): its link has left ON, or 4 intervals brought no ECHO. -/
def upLost (c : Ctl) : Prop := isRoot c = false ∧ (linkOn c (upLink c) = false ∨ c.time.echoMiss ≥ 4)
/-- The other of the two upstream links. -/
def otherUp (c : Ctl) : Nat := if rbit c rTimStat 7 then fld c rTimCtrl 8 4 else fld c rTimCtrl 14 10

/-- The command that a ring dispatched first, with its opcode, while registers are served (R82, R900). -/
def Taken (c : Ctl) (fn r opc : Nat) (e : Bytes) : Prop := (∃ rest, (ring c fn r).todo = e :: rest) ∧ eOpc e = opc ∧ regsServed c = true

/-! Tiles. -/
/-- A tile stands before a bundle, and nothing but the bundle itself can keep it from issuing: it runs and is not halted, no breakpoint
and no watchpoint of it is enabled, the code of the bundle is sound, in the instruction RAM and as fetched; the results it waited for are
written (R252) and its receive port is not in use (R257); and its partition's trace does not run. -/
def TileReady (s : State) (t : Nat) : Prop :=
  tileIssues s.ctl t = true ∧ (∀ k, k < 4 → rbit s.ctl (dbtBp t k) 31 = false) ∧ (∀ k, k < 2 → rbit s.ctl (dbtWp t k) 31 = false) ∧
  smGet s.mem.badBundle false (t * 4096 + (tile s.ctl t).pc % 4096) = false ∧
  smGet s.mem.weakBundle false (t * 4096 + (tile s.ctl t).pc % 4096) = false ∧ (∀ f, f ∈ (tile s.ctl t).held → f.bad = false) ∧
  (∀ e, e ∈ (tile s.ctl t).score → e.2 ≤ s.ctl.time.ftc) ∧ (tile s.ctl t).rxUsed.head? ≠ some s.ctl.time.ftc ∧
  rbit s.ctl (trcCtrl (tileOwner s.ctl t)) 28 = false
/-- The next bundle is no delay bundle, stands in no mode shadow and in no active loop. -/
def Straight (x : Tile) : Prop := x.delay = none ∧ x.modeNext = none ∧ x.l0.active = false ∧ x.l1.active = false
/-- The tile as a bundle finds it: the flags of the results written by now stand in STICKY (R336). -/
def found (c : Ctl) (t : Nat) : Tile := settleFlags c.time.ftc (tile c t)
/-- A tile `y` whose bundle has issued, before the next address. -/
def onward (x y : Tile) : Tile := { y with pc := (x.pc + 1) % 4096, issued := x.issued + 1, judged := 0, pastBreak := false, held := [] }
/-- Tile `t` has issued one bundle and become `y`: its ISSUED count is one more, `lost` bundles held behind it are discarded and counted,
the other tiles and the rest of the control state are as before. -/
def Issued (c d : Ctl) (t : Nat) (y : Tile) (lost : Nat) : Prop :=
  tile d t = y ∧ (∀ u, u ≠ t → tile d u = tile c u) ∧ rd d (tlCnt t 0) = satU 32 (rd c (tlCnt t 0) + 1) ∧
  rd d (tlCnt t 4) = satU 32 (rd c (tlCnt t 4) + lost) ∧ RegsBut [tlCnt t 0, tlCnt t 4] c d ∧
  { d with tiles := c.tiles, regs := c.regs } = c
/-- Register Xn as a word. -/
def wordX (x : Tile) (n : Nat) : Word := BitVec.ofNat 32 (rdX x n)
/-- The tile with a word in Xn; X0 takes none (R249). -/
def putX (x : Tile) (n : Nat) (w : Word) : Tile := if n = 0 then x else { x with x := smSet x.x 0 n w }
/-- ALU of R262, on words. -/
def aluWord (fn : Nat) (a b : Word) : Word :=
  match fn with
  | 0 => a + b
  | 1 => a - b
  | 2 => a &&& b
  | 3 => a ||| b
  | 4 => a ^^^ b
  | 5 => a <<< (b.toNat % 32)
  | 6 => a >>> (b.toNat % 32)
  | 7 => a.sshiftRight (b.toNat % 32)
  | 8 => if a.slt b then 1 else 0
  | 9 => if a.ult b then 1 else 0
  | _ => a * b
/-- The condition of BR (R262), on words. -/
def brHolds (cond : Nat) (a b : Word) : Bool :=
  match cond with
  | 0 => a == b
  | 1 => a != b
  | 2 => a.slt b
  | 3 => !a.slt b
  | 4 => a.ult b
  | 5 => !a.ult b
  | _ => true
/-- XA plus a scaled signed 11-bit immediate: the address of a move-slot access (R264). -/
def moveTo (x : Tile) (xa imm scale : Nat) : Nat := ux 32 ((rdX x xa : Int) + sx 11 imm * (scale : Int))
/-- No word that `n` bytes at `a` touch has a correctable error (R255, R256). -/
def NoneWeak (m : Mem) (t a n : Nat) : Prop := ∀ w, w ∈ wordsOf a n → smGet m.weakWord false (wordAt t w) = false
/-- No word that `n` bytes at `a` touch has an error in its code (R255). -/
def CodesSound (m : Mem) (t a n : Nat) : Prop :=
  ∀ w, w ∈ wordsOf a n → smGet m.badWord false (wordAt t w) = false ∧ smGet m.weakWord false (wordAt t w) = false
/-- What an integer vector operation leaves of its exact result: it saturates under SAT, and otherwise wraps (R329). -/
def intLane (mode : Nat) (v : Int) : Nat := if satOf mode then ux 32 (satS 32 v) else ux 32 v
/-- The vector `v` takes in every lane that Kn selects the value of `r`, and keeps the others. -/
def LanesAre (x : Tile) (k : Nat) (old v : VecReg) (r : Nat → Nat) : Prop :=
  ∀ i, i < 64 → lane v i = if bitN (rdK x k) i then r i else lane old i

/-! Headgates. -/
/-- A frame's row reaches headgate `n`: its lanes are enabled and were locked when its parsing began, and no BLK reset has come since its last
codeword. -/
def FrameComes (c : Ctl) (n : Nat) : Prop :=
  n < 16 ∧ alive c = true ∧ rbit c (hgBase n + 8) 8 = true ∧ lockAgo c n parseTc = true ∧
  (smGet c.hg.resetAt 0 n = 0 ∨ smGet c.hg.resetAt 0 n + frameTc ≤ c.time.ftc + 1)
/-- A frame that passes the tests 1 to 4 of R436 at headgate `n`: it comes, its check sequence is right, the headgate was ON when its parsing
began, the context entry that it meets has a sound code, its form is right, and its station is ACTIVE. -/
def FrameGood (c : Ctl) (n : Nat) (raw : Bytes) : Prop :=
  FrameComes c n ∧ (rxWire c n raw).crcOk = true ∧ onAt c n = true ∧
  (usesCtx (rxWire c n raw).body = true → smGet c.hg.ctxBad false (n * 1024 + fCtx (rxWire c n raw).body) = false ∧
    smGet c.hg.ctxWeak false (n * 1024 + fCtx (rxWire c n raw).body) = false) ∧
  formatOk c n (rxWire c n raw) = true ∧ stnState c n (fStn (rxWire c n raw).body) = 1
/-- The codewords that end with the frame are counted (R390), and the frame is (R438). -/
def FrameCounted (c d : Ctl) (n : Nat) (fec : FecSeen) : Prop :=
  rd d (hgCnt n 0) = satU 32 (rd c (hgCnt n 0) + 1) ∧ rd d (hgCnt n 1) = satU 32 (rd c (hgCnt n 1) + fec.uncorr)
/-- The tile that a frame's context and EVN choose in a LANDING entry (R426). -/
def landTile (le : LandEnt) (b : Bytes) : Nat := le.base + (fEvn b % le.cnt) * le.stride
/-- Lines of a landing record (R427). -/
def landLines (b : Bytes) : Nat := ceilDiv (32 + 4 * fNch b) 64
/-- The pass that L, 56 tc after the offer, belongs to (R429). -/
def landPass (c : Ctl) : Nat :=
  if c.time.ftc + 56 ≥ nextBoundary c then c.time.pass + (c.time.ftc + 56 - c.time.passAt) / passLen c else c.time.pass
/-- The phases in which the router of the frame's tile writes its lines (R430). -/
def landAt (c : Ctl) (le : LandEnt) (b : Bytes) : List Nat :=
  landPhases c (landTile le b) (64 * 64) (((smGet c.hg.lines [] (landTile le b)).foldl (fun m l => max m l.due) c.time.ftc) + 1) (landLines b)
/-- A frame passes the tests 5 to 8 of R436: the epoch runs and did when parsing began, its context was enabled then, and for a CAL frame
lets it, it has a LANDING entry, its dressing entries are good, its partition runs, no frame is offered in the same tc, and a slot and all
its phases before L are free. -/
def Admitted (c : Ctl) (n : Nat) (b : Bytes) (le : LandEnt) : Prop :=
  c.time.epoch = true ∧ epochAt c = true ∧ bitN (ctxAt c n (fCtx b)) 0 = true ∧ (fType b = 3 → bitN (ctxAt c n (fCtx b)) 3 = true) ∧
  (landEnts (fplan c).landing).find? (fun x => x.ctx = 1024 * n + fCtx b) = some le ∧ (∀ k, smGet c.hg.dtBad false k = false) ∧
  (∀ k, smGet c.hg.dtWeak false k = false) ∧ ptRuns c le.part = true ∧ (∀ o, o ∈ c.hg.offers → o.at_ ≠ c.time.ftc) ∧
  smGet c.hg.slots (0, 0) (((1024 * n + fCtx b) * 1024 + landTile le b) * 2 + landPass c % 2) = (0, 0) ∧
  1 ≤ halfSlots le.len (ctxAt c n (fCtx b)) ∧ (smGet c.hg.lines [] (landTile le b)).length + landLines b ≤ 32 ∧
  (landAt c le b).length = landLines b ∧ (∀ f, f ∈ landAt c le b → f < c.time.ftc + 56)
/-- A NOTICE of a headgate to a station, as it leaves: header with the SEQ of that station, TSPEC with the code, and 6 bytes of zero (R396,
R400). -/
def noticeWire (c : Ctl) (n q code : Nat) : Bytes :=
  txWire c n q (leBytes 1 5 ++ leBytes 1 1 ++ leBytes 1 q ++ leBytes 1 0 ++ leBytes 2 16 ++ leBytes 2 (smGet c.hg.txSeq 0 (n * 64 + q)) ++
    (leBytes 2 code ++ zeroBytes 6))
/-- The transmit pipeline of a headgate that is ON can take a frame of LEN `len` at once: nothing waits for it, it is free, and the frame
ends no later than the next scheduled DECISION hand-off (R402, R482, R483). -/
def TxFree (c : Ctl) (n len : Nat) : Prop :=
  hgState c n = 1 ∧ (∀ r, r ∈ c.hg.txq → r.hg ≠ n) ∧ smGet c.hg.txFree 0 n ≤ c.time.ftc ∧
  ∀ h, h ∈ handoffsTo c n → c.time.ftc + txOccupies (rbit c (hgCtrl n) 1) len ≤ h
/-! Decisions. -/
/-- An instant lies ahead in the pass in progress, and no boundary is half done. -/
def Ahead (c : Ctl) (f : Nat) : Prop :=
  c.time.ftc ≤ f ∧ c.time.phase = 0 ∧ c.pwr.chip = false ∧ (c.time.epoch = true → f < nextBoundary c)
/-- The answer of R466 and its REASON: a hole and no verdict give the default, too few verdicts give it as PARTIAL, and enough of them
give their OR, or their AND where the partition asks for it. -/
def answers (c : Ctl) (e : Pend) : Nat × Bool × Nat :=
  if e.hole then (3, dcDefault c e.part, 0)
  else if e.count = 0 then (1, dcDefault c e.part, 0)
  else if e.count < dcExpect c e.part then (2, dcDefault c e.part, 0)
  else (0, (if rbit c (dcCfg e.part) 7 then e.andAcc else e.orAcc), e.tag)
/-! Links. -/
/-- The counters of the work that a draining link discards when it leaves DRAINING for FAULT (R64). -/
def cutCnts (c : Ctl) (l : Nat) : List Nat := if lkState c l = 2 then [lkCnt l 7, lkCnt l 11, lkCnt l 12] else []
/-- A link's frame is the last output, after the codewords of its stream that are then complete (R650 to R652). -/
def Departs (c d : Ctl) (l slot : Nat) (frame : Bytes) : Prop :=
  ∃ ws, d.outs = .linkFrame l slot frame :: (ws ++ c.outs) ∧ ∀ w, w ∈ ws → ∃ v, w = .linkCode l v
/-! The pool. -/
/-- A request that reaches the host port names a live host identity with a free tracker, and DPA `d`, on an endpoint that works. -/
def Requests (c : Ctl) (spid : Option Nat) (hpa h d : Nat) : Prop :=
  hostUp c = true ∧ hostOf c spid = some h ∧ poolIsFatal c = false ∧ hostDead c h = false ∧ rd c (weUsed h) < rd c (weTrk h) ∧
  dpaOf c h hpa = some d
/-- An offer has ended unaccepted: its OFFERED granules are FREE, or BROKEN on a stack that fails; a shared one's stay (R568, R575). -/
def OfferEnds (c : Ctl) (o : Offer) (d : Ctl) : Prop :=
  ∀ g, gtState d g = if o.shared = none ∧ o.first ≤ g ∧ g < o.first + o.cnt ∧ gtState c g = gOFFERED then
    (if granFailed c g = true then gBROKEN else gFREE) else gtState c g
/-- A mailbox command answers, and changes nothing. -/
def Answers (i : Instr) (s : State) (code : MbCode) (out : MbOut) : Prop :=
  exec i s = .next { s with ctl := settled (mbAnswer s.ctl code out) }
/-! The control engine. -/
/-- The engine takes its next sample at `t`: it is armed, no register was written in the last 8 tc, no halt, tool or limit acts. -/
def Sampled (c : Ctl) (t : Nat) : Prop :=
  alive c = true ∧ rbit c rCeCtrl 0 = true ∧ c.time.phase = 0 ∧ c.pwr.chip = false ∧ t = nextGrid c (cePeriod c) c.ce.sampleAt ∧
  (c.time.epoch = false ∨ t ≤ nextBoundary c) ∧ c.recent = [] ∧ c.db.ceHalted = false ∧ c.ce.inj.go = none ∧ c.ce.inj.stop = false ∧
  c.ce.tune.go = none ∧ c.ce.tune.run = 0 ∧ limFwd c = false ∧ limRev c = false

/-! Fliwell. -/
/-- The hub operation that a row carries out (R937). -/
def hubRow : Instr → Option Nat
  | .read => some 0x01
  | .write _ => some 0x02
  | .halt => some 0x10
  | .release => some 0x11
  | .fstep => some 0x12
  | .pstep => some 0x13
  | .bstop => some 0x14
  | _ => none
/-- The hub is about to carry out request `q`, of operation `op` and of the scan port or the debug ring; the requests behind it name
known operations. -/
def HubTurn (c : Ctl) (op : Nat) (q : HubReq) (rest : List HubReq) : Prop :=
  c.db.reqs = q :: rest ∧ (∀ r, r ∈ rest → hOp r ∈ hubOps) ∧ hOp q = op ∧ c.db.relay = none ∧ c.time.refclk = true ∧ q.origin < 2
/-- The request is well formed and names this Plezor alone. -/
def HubHere (c : Ctl) (op : Nat) (q : HubReq) (rest : List HubReq) : Prop :=
  HubTurn c op q rest ∧ checkReq q = 0 ∧ hFab q = false ∧ hUnit q / 2 ^ 16 = plezorId c
/-- The request has moved nothing yet. -/
def Unmoved (q : HubReq) : Prop := q.moved = 0 ∧ q.got = [] ∧ q.data = none
/-- Request `q` is complete with its STATUS and RESULT, at the scan port or by a completion (R934, R935, R938). -/
def HubDone (c d : Ctl) (q : HubReq) (rest : List HubReq) (st res : Nat) : Prop :=
  d.db.reqs = rest ∧ d.db.relay = none ∧
  (q.origin = 0 → d.db.scanDone = true ∧ d.db.scanStatus = st ∧ d.db.scanResult = res ∧ d.hi.done = c.hi.done) ∧
  (q.origin = 1 → q.ref.ring ≠ 0xFF → d.hi.done = c.hi.done ++ [⟨q.ref, 0, st, res⟩])
/-- A relay message that a link brings intact. -/
def Message (c : Ctl) (l : Nat) (ws : List Nat) (typ dst src tag : Nat) (body : Bytes) : Prop :=
  l < 32 ∧ linkUp c l = true ∧ c.pwr.chip = false ∧ c.time.refclk = true ∧ parseMsg ws = some (typ, dst, src, tag, body)

/-! Power. -/
/-- The power state that a row requests (R1071). -/
def powerRow : Instr → Option Nat
  | .requestS0 => some 0
  | .requestS1 => some 1
  | .requestS2 => some 2
  | .requestS3 => some 3
  | _ => none
/-- The source of the CHIP reset that ends is the last one (R1062, R1065). -/
def LastSource (c : Ctl) (src : Nat) : Prop :=
  c.pwr.chip = true ∧ bitN c.pwr.straps 2 = true ∧ c.pwr.porWaits = false ∧ c.pwr.por = false ∧
  (src = 0 ∨ c.pwr.wrst = false) ∧ (src = 1 ∨ c.pwr.byReg = false) ∧ (2 ≤ src ∨ c.pwr.porHold = false)

/-- The rows that may change a memory: tile memory and instruction RAM, device memory, trace buffers, the keep store, their error
codes. The others leave every byte as it was. -/
def mayStore : Instr → Bool
  | .registerWrite .. | .counterClear .. | .stagedCommit | .drainEnd _ | .passBoundary | .passWatchdogExpiry _ | .rootLol | .echo ..
  | .timeLost | .epochStart | .loadChecksComplete _ | .pplanWritesComplete _ | .busMasterDisable _ | .framePlanActivation | .partResetComplete _ => true
  | .alu .. | .addi .. | .ori .. | .lui .. | .br .. | .jr .. | .bal .. | .loop .. | .loopEnd _ | .setmode .. | .waitp .. | .waita ..
  | .aclr .. | .kick _ | .trap .. | .csrr .. | .csrw .. | .waitt .. | .ldw .. | .stw .. | .vld .. | .vst .. | .mldw .. | .mlds ..
  | .mrd .. | .vbc .. | .vext .. | .vins .. | .nsend .. | .nmeq .. | .decw .. | .trimw .. | .vadd .. | .vsub .. | .vmul .. | .vfma ..
  | .vmin .. | .vmax .. | .vlog .. | .vsh .. | .vcmp .. | .vsel .. | .vcvt .. | .vperm .. | .wacc .. | .wfold .. | .wrd .. | .wclr ..
  | .mma .. | .mclr .. | .mclrr .. | .flitWrite | .landingLineWrite _ => true
  | .nmeSlotTransfer .. | .nmeTileLine _ | .nmeCompletion _ | .repairDone .. | .patrolScrub _ | .poolSlot .. | .parcelLineRead ..
  | .parcelDelivery .. | .trig .. | .observerUpdate | .stampWindowWrite | .outputInstant | .regWrite _ | .keepRead => true
  | .read | .write _ | .halt | .release | .fstep | .pstep | .bstop | .releaseTakesEffect | .boundaryStop | .relayReq .. | .relayRsp ..
  | .flood .. | .traceEn .. | .dbgReset => true
  | .dumpStart | .dumpRecordWrite .. | .dumpEnd | .catalogCompletion | .holdExpired _ => true
  | .por | .chipReset | .pwrRst _ | .chipResetRelease _ | .keepStoreCheck | .requestS0 | .requestS1 | .requestS2 | .requestS3
  | .powerTransition | .temperatureUpdate .. | .supplySag _ | .saveComplete _ => true
  | _ => false

end Sys2Proof.Safety
end

