-- ==== Sys2Proof/Certificates/Slice0/Obligations.lean ====
section
/-! DEFINITION. The statements. A state's control state `s.ctl` changes into `settled c`: what the command itself does is `c`, and
`settled` is what follows every command: the error halts whose instant FTC has reached (R214), and what the spillway does in its 4 tc
(R965); nothing when no halt is due and no channel fires. -/
open Sys2Proof Sys2Proof.Machine Sys2Proof.Safety

/-! The machine as a whole. -/

/-- A step takes the command at the front of the queue and runs it with the queue's rest; on an empty queue the block runs by itself
(Assumption 1). -/
def Obligations.StepRunsTheFrontCommand : Prop :=
  (∀ (s : State) (i : Instr) (r : List Instr), s.pending = i :: r → step s = exec i { s with pending := r }) ∧
  (∀ s : State, s.pending = [] → step s = tick s)

/-- Every command, in every state, answers a next state, and leaves the queue of waiting commands as it was. -/
def Obligations.EveryCommandAnswersANextState : Prop :=
  ∀ (i : Instr) (s : State), ∃ t, exec i s = .next t ∧ t.pending = s.pending

/-- Every step keeps the canonical form of every memory. -/
def Obligations.EveryStepKeepsTheMemoriesForm : Prop :=
  ∀ s t : State, s.mem.wf = true → step s = .next t → t.mem.wf = true

/-- The memories of the reset state have their canonical form, and no run from it stops. -/
def Obligations.ResetIsWellFormedAndSafe : Prop := State.reset.mem.wf = true ∧ SafeFrom State.reset

/-- A command that stores nothing leaves every byte of every memory as it was. -/
def Obligations.CommandsThatStoreNothingKeepEveryByte : Prop :=
  ∀ (i : Instr) (s t : State), mayStore i = false → exec i s = .next t → t.mem = s.mem

/-! Clocks and fabric time. -/

/-- The root PLL's lock, its loss, and the loss and return of REFCLK (R78, R79, R82): the lock bit, the bypass, ROOT_LOL with the CHIP
event and its containment, REF_LOSS. -/
def Obligations.ClocksLockAndAreLost : Prop :=
  (∀ s : State, rootLock s.ctl = false → rbit s.ctl rClkStat 1 = false → s.ctl.pwr.chip = false → s.ctl.time.refclk = true →
      s.ctl.time.needPor = false →
    ∃ c, exec .rootPllLock s = .next { s with ctl := settled c } ∧ rootLock c = true ∧ c.plan.nextRefresh = s.ctl.time.ftc ∧
      (s.ctl.pwr.train = false → c.pwr.ready = true ∧ c.pwr.sref = 0) ∧ (s.ctl.pwr.train = true → c.pwr = s.ctl.pwr) ∧
      (∀ i, i ≠ 0 → rbit c rClkStat i = rbit s.ctl rClkStat i) ∧ RegsBut [rClkStat] s.ctl c ∧
      { c with regs := s.ctl.regs, plan := s.ctl.plan, pwr := s.ctl.pwr } = s.ctl) ∧
  (∀ s : State, rootLock s.ctl = true → s.ctl.time.refclk = true →
    ∃ c, exec .rootLol s = .next
        { s with ctl := settled (chipContain 0x8041 (raise c 0x8041 noPart (unitBlock c 0x01) 0, s.mem)).1,
                 mem := (chipContain 0x8041 (raise c 0x8041 noPart (unitBlock c 0x01) 0, s.mem)).2 } ∧
      c.ce.mot = false ∧ rbit c rClkStat 0 = false ∧ rbit c rClkStat 1 = true ∧ rbit c rClkStat 2 = true ∧ c.pwr.sref = 0xFF ∧
      RegsBut [rClkStat, rCeStat] s.ctl c) ∧
  (∀ s : State, exec .refclkLoss s =
    .next { s with ctl := settled { s.ctl with time := { s.ctl.time with refclk := false } } }) ∧
  (∀ s : State, s.ctl.time.refclk = false →
    ∃ c, exec .refclkReturn s = .next { s with ctl := settled c } ∧ c.time.refclk = true ∧ c.time.needPor = true ∧
      rbit c rClkStat 3 = true ∧ RegsBut [rClkStat] s.ctl c ∧ hclkRuns c = false ∧
      { c with regs := s.ctl.regs, w1cSet := s.ctl.w1cSet, time := s.ctl.time } = s.ctl)

/-- Fabric time (R92, R94, R96, R100 to R102, R106 to R108, R112). In a time-message interval every link that is ON or draining is given one
STAMP, one COARSE and one EPOCH, behind what waits on it. A STAMP that arrives is answered by an ECHO and kept when it is heeded; a COARSE
moves LOCK from FREE to ACQUIRE; an EPOCH is kept; an ECHO gives the delay; one that is not heeded changes nothing, but for the NOTE of a wrong
depth, and but for an ECHO of the primary while the member is on the alternate, which tells that the primary answers. A lost upstream gives way
to the other one without a step of FTC, if that one is usable, which Assumption 67 says when; or LOCK becomes HOLDOVER; at its end LOCK becomes
LOST, with the CHIP event and its containment. -/
def Obligations.TimeMessagesAndTheUpstream : Prop :=
  (∀ s : State, linksRun s.ctl = true →
    ∃ c, exec .timeMessageInterval s = .next { s with ctl := settled c } ∧
      (∀ l, smGet c.lk.sb [] l = smGet s.ctl.lk.sb [] l ++
        if l < 32 ∧ linkTimes s.ctl l = true then
          [⟨1, timePayload s.ctl 1 (smGet s.ctl.time.seq 0 l * 2 ^ 44), none⟩, ⟨1, timePayload s.ctl 3 0, none⟩,
            ⟨1, timePayload s.ctl 4 ((passLen s.ctl / 64) % 2 ^ 16 * 2 ^ 32 + digest s.ctl), none⟩]
        else []) ∧
      (s.ctl.time.echoSeen = false → c.time.echoMiss = s.ctl.time.echoMiss + 1) ∧ (s.ctl.time.echoSeen = true → c.time.echoMiss = 0) ∧
      c.regs = s.ctl.regs ∧ { c with time := s.ctl.time, lk := s.ctl.lk } = s.ctl) ∧
  (∀ (s : State) (l depth seq t1 : Nat), linksRun s.ctl = true → l < 32 → linkTimes s.ctl l = true →
    ∃ c, exec (.timeStampMessage l depth seq t1) s = .next { s with ctl := settled c } ∧
      smGet c.lk.sb [] l = smGet s.ctl.lk.sb [] l ++
        [⟨1, timePayload s.ctl 2 (seq % 16 * 2 ^ 44 + ftc16 s.ctl % 2 ^ 20), some (ftc16 s.ctl)⟩] ∧
      (∀ k, k ≠ l → smGet c.lk.sb [] k = smGet s.ctl.lk.sb [] k) ∧
      (alive s.ctl = true → heeds s.ctl l depth → c.time.upStamp = some (t1 % 2 ^ 44, ftc16 s.ctl)) ∧
      (alive s.ctl = false ∨ ¬ heeds s.ctl l depth → c.time = s.ctl.time) ∧ c.regs = s.ctl.regs) ∧
  (∀ (s : State) (l depth hi : Nat), alive s.ctl = true → l < 32 → linkTimes s.ctl l = true → heeds s.ctl l depth →
    ∃ c, exec (.coarse l depth hi) s = .next { s with ctl := settled c } ∧ c.time.coarse = some (hi % 2 ^ 48) ∧
      lockOf c = (if lockOf s.ctl = 0 then 1 else lockOf s.ctl) ∧ RegsBut [rTimStat] s.ctl c ∧
      (lockOf s.ctl ≠ 0 → lockOf s.ctl ≠ 1 → c.time.ftc = s.ctl.time.ftc)) ∧
  (∀ (s : State) (l depth plen dig : Nat), alive s.ctl = true → l < 32 → linkTimes s.ctl l = true → heeds s.ctl l depth →
    exec (.epochMessage l depth plen dig) s =
      .next { s with ctl := settled { s.ctl with time := { s.ctl.time with epochRx := some (plen % 2 ^ 16, dig % 2 ^ 32) } } }) ∧
  (∀ (s : State) (l depth seq res t2 : Nat), alive s.ctl = true → l < 32 → linkTimes s.ctl l = true → heeds s.ctl l depth →
      s.ctl.time.epoch = false →
    ∃ c, exec (.echo l depth seq res t2) s = .next { s with ctl := settled c } ∧ c.time.echoSeen = true ∧ c.time.echoMiss = 0 ∧
      c.time.delay = some (4 * ((ftc16 s.ctl : Int) - (smGet s.ctl.time.sentT1 0 (l * 16 + seq % 16) : Nat) -
        16 * ((res % 2 ^ 24 : Nat) : Int)) - upAsym s.ctl) ∧
      RegsBut [rTimStat, rTimOffset, rTimFreq] s.ctl c) ∧
  (∀ (s : State) (l depth x y z w : Nat), isRoot s.ctl = true ∨ l ≠ upLink s.ctl →
    exec (.coarse l depth x) s = .next { s with ctl := settled s.ctl } ∧
    exec (.epochMessage l depth x y) s = .next { s with ctl := settled s.ctl } ∧
    (isRoot s.ctl = true ∨ rbit s.ctl rTimStat 7 = false ∨ l ≠ fld s.ctl rTimCtrl 8 4 ∨ depth + 1 ≠ myDepth s.ctl →
      exec (.echo l depth z w x) s = .next { s with ctl := settled s.ctl })) ∧
  (∀ (s : State) (depth z w x : Nat), alive s.ctl = true → fld s.ctl rTimCtrl 8 4 < 32 → linkTimes s.ctl (fld s.ctl rTimCtrl 8 4) = true →
      isRoot s.ctl = false → rbit s.ctl rTimStat 7 = true → fld s.ctl rTimCtrl 8 4 ≠ upLink s.ctl → depth + 1 = myDepth s.ctl →
    exec (.echo (fld s.ctl rTimCtrl 8 4) depth z w x) s =
      .next { s with ctl := settled { s.ctl with time := { s.ctl.time with priMiss := 0, priSeen := true } } }) ∧
  (∀ (s : State) (depth hi : Nat), alive s.ctl = true → upLink s.ctl < 32 → linkTimes s.ctl (upLink s.ctl) = true →
      isRoot s.ctl = false → depth + 1 ≠ myDepth s.ctl →
    (let c := raise s.ctl 0x3081 noPart (unitOf s.ctl 2 (upLink s.ctl)) (upLink s.ctl % 32 + depth % 16 * 2 ^ 8)
     exec (.coarse (upLink s.ctl) depth hi) s = .next { s with ctl := settled c })) ∧
  (∀ s : State, alive s.ctl = true → upLost s.ctl → rbit s.ctl rTimCtrl 15 = true → otherUsable s.ctl = true →
    ∃ c, exec .upstreamLost s = .next { s with ctl := settled c } ∧ upLink c = otherUp s.ctl ∧
      rbit c rTimStat 7 = !rbit s.ctl rTimStat 7 ∧ lockOf c = lockOf s.ctl ∧ c.time.ftc = s.ctl.time.ftc ∧ c.time.echoMiss = 0 ∧
      RegsBut [rTimStat] s.ctl c ∧ { c with regs := s.ctl.regs, time := s.ctl.time } = s.ctl) ∧
  (∀ s : State, alive s.ctl = true → upLost s.ctl → ¬ (rbit s.ctl rTimCtrl 15 = true ∧ otherUsable s.ctl = true) →
      1 ≤ lockOf s.ctl → lockOf s.ctl ≤ 3 →
    ∃ c, exec .upstreamLost s = .next { s with ctl := settled (raise c 0x3082 noPart (unitBlock c 0x02) (rd s.ctl rTimFreq)) } ∧
      lockOf c = 4 ∧ c.time.holdPasses = 0 ∧ c.time.ftc = s.ctl.time.ftc ∧ c.time.corr = s.ctl.time.corr ∧
      RegsBut [rTimStat] s.ctl c ∧ { c with regs := s.ctl.regs, time := s.ctl.time } = s.ctl) ∧
  (∀ s : State, alive s.ctl = true → s.ctl.time.epoch = true → isRoot s.ctl = false → lockOf s.ctl = 4 → s.ctl.time.holdPasses ≥ rd s.ctl rHoldMax →
    ∃ c, lockOf c = 5 ∧ RegsBut [rTimStat] s.ctl c ∧ { c with regs := s.ctl.regs, time := s.ctl.time } = s.ctl ∧
      exec .timeLost s = .next
        { s with ctl := settled (chipContain 0x3083 (raise c 0x3083 noPart (unitBlock c 0x02) (rd s.ctl rTimOffset * 2 ^ 32), s.mem)).1,
                 mem := (chipContain 0x3083 (raise c 0x3083 noPart (unitBlock c 0x02) (rd s.ctl rTimOffset * 2 ^ 32), s.mem)).2 })

/-- Arming the epoch (R42, R111, R113, R114, R131) and arming its stop (R116): ARM reads 1 and START_FAIL 0; a write too late leaves ARM 0 with
the first condition of R112 that fails in START_FAIL and a CONT event; a write while the epoch runs changes nothing but the NOTE, and neither
does one in S3 (R1102); one while ARM is 1 changes nothing, which is the model's choice (Assumption 49). At TIM_EPOCH_AT (R112, R113, R119,
R132) the epoch starts with the boundary of pass TIM_EPOCH_FIRST, its staged commits, its drains and its first pass; or it does not start, ARM
returns to 0 and START_FAIL tells why; with a STOP_ARM of the same tc it starts and stops at once. -/
def Obligations.TheEpochIsArmedAndStarts : Prop :=
  (∀ s : State, regsServed s.ctl = true → s.ctl.ev.contained = false → pwrState s.ctl ≠ 3 → s.ctl.time.epoch = false →
      rbit s.ctl rTimCtrl 16 = false → s.ctl.time.ftc + 8 + 64 ≤ rd64 s.ctl rEpochAt →
    ∃ c, exec .arm s = .next { s with ctl := settled c } ∧ rbit c rTimCtrl 16 = true ∧ fld c rTimStat 11 8 = 0 ∧
      c.time.armAt = s.ctl.time.ftc + 8 ∧ (∀ i, i ≠ 16 → rbit c rTimCtrl i = rbit s.ctl rTimCtrl i) ∧
      RegsBut [rTimCtrl, rTimStat] s.ctl c ∧ c.plan = { s.ctl.plan with finalDone := false } ∧
      { c with regs := s.ctl.regs, time := s.ctl.time, plan := s.ctl.plan } = s.ctl) ∧
  (∀ s : State, regsServed s.ctl = true → s.ctl.ev.contained = false → pwrState s.ctl ≠ 3 → s.ctl.time.epoch = false →
      rbit s.ctl rTimCtrl 16 = false → s.ctl.time.ftc + 8 + 64 > rd64 s.ctl rEpochAt →
    ∃ c, exec .arm s = .next { s with ctl := settled (raiseAt c (stampAt c (s.ctl.time.ftc + 8)) 0x3084 noPart (unitBlock c 0x02)
          (fld c rTimStat 11 8)) } ∧
      rbit c rTimCtrl 16 = false ∧
      fld c rTimStat 11 8 = (if fplanOn s.ctl = false then 1 else if isRoot s.ctl = false ∧ lockOf s.ctl ≠ 3 then 2
        else if isRoot s.ctl = false ∧ s.ctl.time.epochRx ≠ some (passLen s.ctl / 64,
            crc32c (leBytes 8 (rd64 s.ctl rEpochAt) ++ leBytes 8 (rd64 s.ctl rEpochFirst) ++ leBytes 8 (passLen s.ctl))) then 3
        else 4) ∧
      RegsBut [rTimCtrl, rTimStat] s.ctl c ∧ { c with regs := s.ctl.regs, time := s.ctl.time, plan := s.ctl.plan } = s.ctl) ∧
  (∀ s : State, regsServed s.ctl = true → s.ctl.ev.contained = false → pwrState s.ctl ≠ 3 → s.ctl.time.epoch = true →
    exec .arm s = .next { s with ctl := settled (raise s.ctl 0x1001 noPart (unitBlock s.ctl 0x02) rTimCtrl) }) ∧
  (∀ s : State, regsServed s.ctl = true → s.ctl.ev.contained = false → pwrState s.ctl = 3 →
    exec .arm s = .next { s with ctl := settled (discard s.ctl rTimCtrl 0) }) ∧
  (∀ s : State, regsServed s.ctl = true → s.ctl.ev.contained = false → pwrState s.ctl ≠ 3 → s.ctl.time.epoch = false →
      rbit s.ctl rTimCtrl 16 = true →
    exec .arm s = .next { s with ctl := settled s.ctl }) ∧
  (∀ s : State, regsServed s.ctl = true →
    ∃ c, exec .stopArm s = .next { s with ctl := settled c } ∧ rbit c rTimCtrl 17 = true ∧
      (∀ i, i ≠ 17 → rbit c rTimCtrl i = rbit s.ctl rTimCtrl i) ∧ OnlyRegs [rTimCtrl] s.ctl { c with recent := s.ctl.recent }) ∧
  (∀ s : State, regsServed s.ctl = false →
    exec .arm s = .next { s with ctl := settled s.ctl } ∧ exec .stopArm s = .next { s with ctl := settled s.ctl }) ∧
  (∀ s : State, lateAt s.ctl (rd64 s.ctl rEpochAt) = [] → rbit s.ctl rTimCtrl 16 = true → s.ctl.time.epoch = false →
      s.ctl.time.ftc ≤ rd64 s.ctl rEpochAt → hclkRuns s.ctl = true → startFail (advanceTo s.ctl (rd64 s.ctl rEpochAt)) = 0 → stopsWith s.ctl (rd64 s.ctl rEpochAt) = false →
    ∃ c, c.time.epoch = true ∧ c.time.pass = rd64 s.ctl rEpochFirst % 2 ^ 48 ∧ c.time.passAt = rd64 s.ctl rEpochAt ∧
      c.time.phase = 1 ∧ rbit c rPlStat 4 = false ∧ c.hg.slots = {} ∧ RegsBut [rPlStat] s.ctl c ∧
      (let b := boundaryTo 4 (lateEnAt c (rd64 s.ctl rEpochFirst % 2 ^ 48), s.mem)
       let e := if b.1.time.phase = 4 ∧ boundaryUp b.1 = true then passStart b else b
       exec .epochStart s = .next { s with ctl := settled e.1, mem := e.2 })) ∧
  (∀ s : State, lateAt s.ctl (rd64 s.ctl rEpochAt) = [] → rbit s.ctl rTimCtrl 16 = true → s.ctl.time.epoch = false →
      s.ctl.time.ftc ≤ rd64 s.ctl rEpochAt → hclkRuns s.ctl = true → startFail (advanceTo s.ctl (rd64 s.ctl rEpochAt)) = 0 → stopsWith s.ctl (rd64 s.ctl rEpochAt) = true →
    ∃ c m, exec .epochStart s = .next { s with ctl := settled c, mem := m } ∧ c.time.epoch = false ∧ c.time.phase = 0) ∧
  (∀ s : State, lateAt s.ctl (rd64 s.ctl rEpochAt) = [] → rbit s.ctl rTimCtrl 16 = true → s.ctl.time.epoch = false →
      s.ctl.time.ftc ≤ rd64 s.ctl rEpochAt → hclkRuns s.ctl = true → startFail (advanceTo s.ctl (rd64 s.ctl rEpochAt)) ≠ 0 →
    ∃ c, exec .epochStart s = .next { s with ctl := settled c } ∧ rbit c rTimCtrl 16 = false ∧ c.time.epoch = false ∧
      fld c rTimStat 11 8 = startFail (advanceTo s.ctl (rd64 s.ctl rEpochAt)) ∧ RegsBut [rTimCtrl, rTimStat] s.ctl c)

/-! Pass boundaries, enables and drains. -/

/-- A pass boundary runs steps 1 to 4 and then starts the new pass (R88); the rows that name one of its actions run it as far as that
action: a halt by the watchdog in step 1, a stop or a release in step 2, a frame plan, staged commits and power states in step 3. An immediate
field written fewer than 8 tc before the boundary acts in it with its old value and has its new one after it (R42). -/
def Obligations.BoundaryRunsInOrder : Prop :=
  (∀ s : State, s.ctl.recent = [] → boundaryUp s.ctl = true → (boundaryTo 4 (s.ctl, s.mem)).1.time.phase = 4 →
      boundaryUp (boundaryTo 4 (s.ctl, s.mem)).1 = true →
    (let e := passStart (boundaryTo 4 (s.ctl, s.mem))
     exec .passBoundary s = .next { s with ctl := settled e.1, mem := e.2 } ∧ e.1.time.phase = 0)) ∧
  (∀ (s : State) (w : Nat × Nat × Nat × Nat), s.ctl.recent = [w] → s.ctl.time.epoch = true → w.1 + 8 > boundaryAt s.ctl →
      w.2.2.1 < 2 ^ 32 → w.2.2.2 < 2 ^ 32 →
    (let b := wr s.ctl w.2.1 ((rd s.ctl w.2.1 &&& (0xFFFFFFFF ^^^ w.2.2.1)) ||| (w.2.2.2 &&& w.2.2.1))
     let e := boundary (b, s.mem)
     ∃ c, exec .passBoundary s = .next { s with ctl := settled c, mem := e.2 } ∧ OnlyRegs [w.2.1] e.1 c ∧
       (∀ i, i < 32 → rbit c w.2.1 i = if bitN w.2.2.1 i then !bitN w.2.2.2 i else rbit e.1 w.2.1 i))) ∧
  (∀ s : State, boundaryUp s.ctl = true → s.ctl.time.phase = 0 →
    boundaryTo 1 (s.ctl, s.mem) = boundary1 (s.ctl, s.mem) ∧
    (∀ a, boundary1 (s.ctl, s.mem) = a → boundaryUp a.1 = true → a.1.time.phase = 1 →
      boundaryTo 2 (s.ctl, s.mem) = boundary2 a ∧
      (∀ b, boundary2 a = b → boundaryUp b.1 = true → b.1.time.phase = 2 →
        boundaryTo 3 (s.ctl, s.mem) = boundary3 b ∧
        (boundaryUp (boundary3 b).1 = true → boundaryTo 4 (s.ctl, s.mem) = boundary4 (boundary3 b))))) ∧
  (∀ (s : State) (p : Nat), s.ctl.recent = [] → p < 32 → s.ctl.time.phase = 0 → wdogEnds s.ctl p = true →
    (let e := boundaryTo 1 (s.ctl, s.mem)
     exec (.passWatchdogExpiry p) s = .next { s with ctl := settled e.1, mem := e.2 })) ∧
  (∀ s : State, s.ctl.recent = [] → s.ctl.time.phase = 0 →
      stopDue s.ctl (s.ctl.time.pass + 1) = true ∨ stopsAt s.ctl (s.ctl.time.pass + 1) = true →
    (let e := boundaryTo 2 (s.ctl, s.mem)
     exec .boundaryStop s = .next { s with ctl := settled e.1, mem := e.2 })) ∧
  (∀ s : State, s.ctl.recent = [] → s.ctl.time.phase = 0 → releaseMask s.ctl (s.ctl.time.pass + 1) (nextBoundary s.ctl) ≠ 0 →
    (let e := boundary (s.ctl, s.mem)
     exec .releaseTakesEffect s = .next { s with ctl := settled e.1, mem := e.2 })) ∧
  (∀ s : State, s.ctl.recent = [] → s.ctl.time.phase = 0 → s.ctl.plan.pending.isSome = true →
      swapPass s.ctl = some (s.ctl.time.pass + 1) →
    (let e := boundaryTo 3 (s.ctl, s.mem)
     exec .framePlanActivation s = .next { s with ctl := settled e.1, mem := e.2 })) ∧
  (∀ s : State, s.ctl.recent = [] → s.ctl.time.phase = 0 →
      s.ctl.staged.any (eligible s.ctl (s.ctl.time.pass + 1) (nextBoundary s.ctl)) = true →
    (let e := boundaryTo 3 (s.ctl, s.mem)
     exec .stagedCommit s = .next { s with ctl := settled e.1, mem := e.2 })) ∧
  (∀ (s : State) (st a : Nat), s.ctl.recent = [] → s.ctl.pwr.next = some (st, a, false) → s.ctl.time.phase = 0 →
      s.ctl.time.epoch = true → a + 64 ≤ nextBoundary s.ctl →
    (let e := boundaryTo 3 (s.ctl, s.mem)
     exec .powerTransition s = .next { s with ctl := settled e.1, mem := e.2 })) ∧
  (∀ (s : State) (st a : Nat), s.ctl.pwr.next = some (st, a, false) → s.ctl.time.epoch = false → regsServed s.ctl = true →
    (let e := powerBegin (s.ctl, s.mem)
     exec .powerTransition s = .next { s with ctl := settled e.1, mem := e.2 }))

/-- A write of EN (R52, R57, R58, R74, R80): while the epoch runs, and on the bypass path, it waits as a staged write, in DRAINING it takes effect
on EN_PENDING at once, and otherwise it takes effect; an OFF headgate whose prerequisites hold becomes ON; a function writes no other block's
EN. A drain whose work is complete ends, at once while no epoch runs and with the boundary otherwise (R55, R56): STATE becomes OFF, for a
headgate without EN_PENDING with nothing else changed; one that reaches its bound discards what is left, counts and reports the units
discarded, and ends (R62). -/
def Obligations.EnableIsWrittenAndDrainsEnd : Prop :=
  (∀ (s : State) (b : Blk) (en : Bool), blkIs b = true → (∀ p, b ≠ .part p) → regsServed s.ctl = true →
      s.ctl.time.epoch = true ∨ onBypass s.ctl = true → blkState s.ctl b ≠ 2 →
    (let w : Staged := { off := blkCtrl b, hi := 0, lo := 0, val := b2n en, acc := s.ctl.time.ftc, vf := false }
     exec (.enWrite 0 b en) s = .next { s with ctl := settled { s.ctl with staged := s.ctl.staged ++ [w] } })) ∧
  (∀ (s : State) (b : Blk) (en : Bool), blkIs b = true → (∀ p, b ≠ .part p) → regsServed s.ctl = true →
      (s.ctl.time.epoch = false ∧ onBypass s.ctl = false ∧ ∀ n, b ≠ .hg n) ∨ blkState s.ctl b = 2 →
    exec (.enWrite 0 b en) s = .next { s with ctl := settled (enEffect s.ctl b en) }) ∧
  (∀ (s : State) (n : Nat) (en : Bool), n < 16 → regsServed s.ctl = true → s.ctl.time.epoch = false → onBypass s.ctl = false →
      blkState s.ctl (.hg n) ≠ 2 →
    (let w : Staged := { off := hgCtrl n, hi := 0, lo := 0, val := b2n en, acc := s.ctl.time.ftc, vf := false }
     exec (.enWrite 0 (.hg n) en) s = .next { s with ctl := settled (enEffect (hgSnap s.ctl s.ctl.time.ftc [w]) (.hg n) en) })) ∧
  (∀ (s : State) (n : Nat), n < 16 → regsServed s.ctl = true → s.ctl.time.epoch = false → onBypass s.ctl = false →
      s.ctl.ev.contained = false → blkState s.ctl (.hg n) = 0 → blkReady (setBit s.ctl (hgCtrl n) 0 true) (.hg n) = true →
    ∃ c, exec (.enWrite 0 (.hg n) true) s = .next { s with ctl := settled c } ∧ blkState c (.hg n) = 1 ∧ rbit c (hgCtrl n) 0 = true ∧
      rbit c (hgStat n) 2 = false ∧
      OnlyRegs [hgCtrl n, hgStat n] s.ctl { c with hg := { c.hg with prev := s.ctl.hg.prev, older := s.ctl.hg.older } }) ∧
  (∀ (s : State) (n : Nat) (en : Bool), n < 16 → regsServed s.ctl = true → s.ctl.ev.contained = false → blkState s.ctl (.hg n) = 2 →
    ∃ c, exec (.enWrite 0 (.hg n) en) s = .next { s with ctl := settled c } ∧ blkState c (.hg n) = 2 ∧ rbit c (hgCtrl n) 0 = en ∧
      rbit c (hgStat n) 2 = en ∧ OnlyRegs [hgCtrl n, hgStat n] s.ctl c) ∧
  (∀ (s : State) (p : Nat) (en : Bool), p < 32 → regsServed s.ctl = true → (part s.ctl p).resetting = false →
      (en = false ∨ swapChanges s.ctl p = false) → ptState s.ctl p ≠ 2 → rbit s.ctl (ptCtrl p) 1 = false → s.ctl.time.epoch = true →
    (let w : Staged := { off := ptCtrl p, hi := 0, lo := 0, val := b2n en, acc := s.ctl.time.ftc, vf := true }
     exec (.enWrite (p + 1) (.part p) en) s = .next { s with ctl := settled { s.ctl with staged := s.ctl.staged ++ [w] } })) ∧
  (∀ (s : State) (f : Nat) (b : Blk) (en : Bool), blkIs b = true → regsServed s.ctl = true → f ≠ 0 → b ≠ .part (f - 1) →
    (let c := raise s.ctl 0x1002 noPart (blkUnit s.ctl b) (blkCtrl b % 2 ^ 28 + f % 64 * 2 ^ 40)
     exec (.enWrite f b en) s = .next { s with ctl := settled c })) ∧
  (∀ (s : State) (b : Blk), blkIs b = true → blkState s.ctl b = 2 → s.ctl.time.epoch = false → blkIdle s.ctl b = true →
      s.ctl.ev.contained = false → regsServed s.ctl = true →
    exec (.drainEnd b) s = .next { s with ctl := settled (drainEnd s.ctl b) }) ∧
  (∀ (s : State) (n : Nat), n < 16 → blkState s.ctl (.hg n) = 2 → s.ctl.time.epoch = false → blkIdle s.ctl (.hg n) = true →
      s.ctl.ev.contained = false → regsServed s.ctl = true → rbit s.ctl (hgStat n) 2 = false →
    ∃ c, exec (.drainEnd (.hg n)) s = .next { s with ctl := settled c } ∧ blkState c (.hg n) = 0 ∧ RegsBut [hgStat n] s.ctl c ∧
      { c with regs := s.ctl.regs, drainAt := s.ctl.drainAt } = s.ctl) ∧
  (∀ (s : State) (b : Blk), blkIs b = true → blkState s.ctl b = 2 → s.ctl.time.epoch = true → boundaryUp s.ctl = true →
      s.ctl.recent = [] → regsServed s.ctl = true → blkState (boundaryTo 4 (s.ctl, s.mem)).1 b ≠ 2 →
    (let e := boundaryTo 4 (s.ctl, s.mem)
     exec (.drainEnd b) s = .next { s with ctl := settled e.1, mem := e.2 })) ∧
  (∀ (s : State) (b : Blk) (c : Ctl), blkIs b = true → blkState s.ctl b = 2 → s.ctl.ev.contained = false → regsServed s.ctl = true →
      blkResetting s.ctl b = false → reach s.ctl (smGet s.ctl.drainAt 0 (blkKey b) + drainBound s.ctl b) = some c →
    (let d := blkDiscard c b
     let e := raise d.1 0x0004 (blkPart b) (blkUnit d.1 b) d.2
     exec (.drainTimeout b) s = .next { s with ctl := settled (drainEnd e b) })) ∧
  (∀ (s : State) (n k : Nat) (d : Ctl), n < 16 → blkState s.ctl (.hg n) = 2 → s.ctl.ev.contained = false → regsServed s.ctl = true → rbit s.ctl (hgStat n) 2 = false →
      reach s.ctl (smGet s.ctl.drainAt 0 n + 2 * passLen s.ctl) = some d →
      k = (s.ctl.hg.landing.filter (fun f => f.hg = n)).length +
        (s.ctl.dc.pend.filter (fun e => decide (e.hg = n ∧ e.handAt ≠ none))).length →
    ∃ c, exec (.drainTimeout (.hg n)) s = .next { s with ctl := settled c } ∧ blkState c (.hg n) = 0 ∧ c.time = d.time ∧
      rd c (hgCnt n 9) = satU 32 (rd s.ctl (hgCnt n 9) + k) ∧ c.hg.landing = s.ctl.hg.landing.filter (fun f => f.hg ≠ n) ∧
      c.ev = (raise d 0x0004 noPart (unitOf d 3 n) k).ev ∧ RegsBut [hgStat n, hgCnt n 9, dcPend n] s.ctl c)

/-! Set-up registers. -/

/-- A register write (R12 to R16): the high word of a pair is only held, and takes effect with its low word, as both words of TIM_EPOCH_AT do;
a word of another register takes effect by itself; a misaligned or narrow access changes nothing. -/
def Obligations.RegisterWritesTakeEffect : Prop :=
  (∀ (s : State) (off : Nat) (v : Dword), hostUp s.ctl = true → off < 0x10000000 → ¬ (0x130000 ≤ off ∧ off < 0x131000) →
      off % 4 = 0 → pairLow (off + 4) = false → pairLow off = false → 4 ≤ off → pairLow (off - 4) = true →
    ∃ c, exec (.registerWrite 0 off 4 v) s = .next { s with ctl := settled c } ∧
      smGet c.held none (off * 64) = some (BitVec.ofNat 32 v.toNat) ∧
      (∀ k, k ≠ off * 64 → smGet c.held none k = smGet s.ctl.held none k) ∧ { c with held := s.ctl.held } = s.ctl) ∧
  (∀ (s : State) (off : Nat) (v : Dword), hostUp s.ctl = true → off < 0x10000000 → ¬ (0x130000 ≤ off ∧ off < 0x131000) →
      off % 4 = 0 → pairLow off = true →
    (let d := { s.ctl with held := smSet s.ctl.held none ((off + 4) * 64) none }
     let h := (smGet s.ctl.held none ((off + 4) * 64)).map (·.toNat)
     ∃ c, exec (.registerWrite 0 off 4 v) s = .next { s with ctl := settled c } ∧
       { c with recent := s.ctl.recent } = { (pairWrite 0 off off (v.toNat % 2 ^ 32) h s.mem d) with recent := s.ctl.recent })) ∧
  (∀ (s : State) (v : Dword) (h : Word), hostUp s.ctl = true → s.ctl.time.epoch = false →
      smGet s.ctl.held none ((rEpochAt + 4) * 64) = some h →
    ∃ c, exec (.registerWrite 0 rEpochAt 4 v) s = .next { s with ctl := settled c } ∧
      rd64 c rEpochAt = v.toNat % 2 ^ 32 + 2 ^ 32 * h.toNat ∧ smGet c.held none ((rEpochAt + 4) * 64) = none ∧
      OnlyRegs [rEpochAt, rEpochAt + 4] s.ctl { c with recent := s.ctl.recent, held := s.ctl.held }) ∧
  (∀ (s : State) (off : Nat) (v : Dword), hostUp s.ctl = true → 0x8000 ≤ off → off < 0x14000 → off % 4 = 0 → pairLow off = false →
      pairLow (off - 4) = false → counterClear s.ctl off (v.toNat % 2 ^ 32) = none →
    ∃ c, exec (.registerWrite 0 off 4 v) s = .next { s with ctl := settled c } ∧
      { c with recent := s.ctl.recent } = { (plainWrite 0 off off (v.toNat % 2 ^ 32) s.mem s.ctl) with recent := s.ctl.recent }) ∧
  (∀ (s : State) (v : Dword), hostUp s.ctl = true → s.ctl.time.epoch = false → onBypass s.ctl = false → 1 ≤ v.toNat % 2 ^ 24 →
    ∃ c, exec (.registerWrite 0 rHoldMax 4 v) s = .next { s with ctl := settled c } ∧ fld c rHoldMax 23 0 = v.toNat % 2 ^ 24 ∧
      OnlyRegs [rHoldMax] s.ctl { c with recent := s.ctl.recent }) ∧
  (∀ (s : State) (f off n : Nat) (v : Dword), hostUp s.ctl = false ∨ off % 4 ≠ 0 ∨ (n ≠ 4 ∧ n ≠ 8) →
    exec (.registerWrite f off n v) s = .next { s with ctl := settled s.ctl })

/-- A write of 1 to a counter-clear field returns the counters of its block to 0 and changes nothing else (R1047 to R1049); CLR of an
entry of LK_FAIL waits as a staged write while the epoch runs, and clears the entry otherwise (R700). -/
def Obligations.CountersAndFailuresAreCleared : Prop :=
  (∀ (s : State) (off : Nat) (v : Word) (d : Ctl), hostUp s.ctl = true → off < 0x100000 → off % 4 = 0 →
      pairLow off = false → (4 ≤ off → pairLow (off - 4) = false) → counterClear s.ctl off v.toNat = some d →
    ∃ c, exec (.counterClear 0 off v) s = .next { s with ctl := settled c } ∧ { c with recent := d.recent } = d) ∧
  (∀ s : State, hostUp s.ctl = true →
    ∃ c, exec (.counterClear 0 0x411C 1) s = .next { s with ctl := settled c } ∧ (∀ i, i < 5 → rd c (rDmCnt i) = 0) ∧
      OnlyRegs [rDmCnt 0, rDmCnt 1, rDmCnt 2, rDmCnt 3, rDmCnt 4] s.ctl { c with recent := s.ctl.recent }) ∧
  (∀ s : State, hostUp s.ctl = true →
    ∃ c, exec (.counterClear 0 0x805C 1) s = .next { s with ctl := settled c } ∧ (∀ i, i < 7 → rd c (rEvCnt i) = 0) ∧
      OnlyRegs [rEvCnt 0, rEvCnt 1, rEvCnt 2, rEvCnt 3, rEvCnt 4, rEvCnt 5, rEvCnt 6] s.ctl { c with recent := s.ctl.recent }) ∧
  (∀ (s : State) (e : Nat), e < 32 → regsServed s.ctl = true → s.ctl.time.epoch = true →
    (let w : Staged := { off := lkFail e, hi := 29, lo := 29, val := 1, acc := s.ctl.time.ftc, vf := false }
     exec (.failClear e) s = .next { s with ctl := settled { s.ctl with staged := s.ctl.staged ++ [w] } })) ∧
  (∀ (s : State) (e : Nat), e < 32 → regsServed s.ctl = true → s.ctl.time.epoch = false → onBypass s.ctl = false →
    exec (.failClear e) s = .next { s with ctl := settled (failClear e s.ctl) })

/-! Plans. -/

/-- FPLAN_LOAD, FPLAN_UNLOAD and PPLAN_LOAD (R177, R181, R187, R909): with the loader idle and the condition of the command met its
checks start and nothing else changes; a loader that is busy answers code 0x01 and goes on with what it does; an unload while the epoch
runs answers 0x02, a partition plan for a partition that is not OFF 0x03, and one with no frame plan in force 0x04. -/
def Obligations.PlanCommandsStartTheLoader : Prop :=
  (∀ (s : State) (e : Bytes), Taken s.ctl 0 0 0x10 e → s.ctl.ev.contained = false → s.ctl.plan.loader.stage = .idle →
      (s.ctl.time.epoch = false ∨ ePass e 0x18 = none) → 128 ≤ leAt e 0x10 8 → leAt e 0x10 8 % 64 = 0 → leAt e 0x10 8 ≤ 2 ^ 36 →
    ∃ c, exec .fplanLoad s = .next { s with ctl := settled c } ∧ rbit c rPlStat 1 = true ∧
      c.plan.loader = { stage := .checks, kind := 0, addr := leAt e 8 8, len := leAt e 0x10 8, ref := refOf 0 0 e } ∧
      c.hi.done = s.ctl.hi.done ∧ RegsBut [rPlStat] s.ctl c ∧
      { c with regs := s.ctl.regs, plan := s.ctl.plan, hi := s.ctl.hi } = s.ctl) ∧
  (∀ (s : State) (e : Bytes), Taken s.ctl 0 0 0x11 e → s.ctl.ev.contained = false → s.ctl.plan.loader.stage = .idle →
      s.ctl.time.epoch = false → (∀ p, p < 32 → ptState s.ctl p = 0) →
    ∃ c, exec .fplanUnload s = .next { s with ctl := settled c } ∧ rbit c rPlStat 1 = true ∧
      c.plan.loader = { stage := .checks, kind := 1, ref := refOf 0 0 e } ∧ c.hi.done = s.ctl.hi.done ∧ RegsBut [rPlStat] s.ctl c ∧
      { c with regs := s.ctl.regs, plan := s.ctl.plan, hi := s.ctl.hi } = s.ctl) ∧
  (∀ (s : State) (e : Bytes), Taken s.ctl 0 0 0x11 e → s.ctl.ev.contained = false → s.ctl.plan.loader.stage = .idle →
      s.ctl.time.epoch = true →
    ∃ c, exec .fplanUnload s = .next { s with ctl := settled c } ∧ fld c rPlStat 15 8 = 2 ∧ fld c rPlErrSect 15 0 = 0xFFFF ∧
      c.hi.done = s.ctl.hi.done ++ (if (refOf 0 0 e).ring = 0xFF then [] else [⟨refOf 0 0 e, 0, 2, 0xFFFF⟩]) ∧
      RegsBut [rPlStat, rPlErrSect] s.ctl c ∧ c.plan = s.ctl.plan) ∧
  (∀ (s : State) (e : Bytes), Taken s.ctl 0 0 0x10 e → s.ctl.ev.contained = false → s.ctl.plan.loader.stage ≠ .idle →
    ∃ c, exec .fplanLoad s = .next { s with ctl := settled c } ∧ fld c rPlStat 15 8 = 1 ∧ c.plan = s.ctl.plan ∧
      RegsBut [rPlStat, rPlErrSect] s.ctl c) ∧
  (∀ (s : State) (fn : Nat) (e : Bytes), Taken s.ctl fn 0 0x12 e → s.ctl.ev.contained = false → 1 ≤ fn → fn ≤ 32 →
      s.ctl.plan.loader.stage = .idle → ptState s.ctl (fn - 1) = 0 → fplanOn s.ctl = true → 128 ≤ leAt e 0x10 8 →
      leAt e 0x10 8 % 64 = 0 → leAt e 0x10 8 ≤ 2 ^ 36 →
    ∃ c, exec (.pplanLoad fn) s = .next { s with ctl := settled c } ∧ rbit c rPlStat 2 = true ∧
      c.plan.loader = { stage := .checks, kind := 2, part := fn - 1, addr := leAt e 8 8, len := leAt e 0x10 8, ref := refOf fn 0 e } ∧
      c.hi.done = s.ctl.hi.done ∧ RegsBut [rPlStat] s.ctl c ∧
      { c with regs := s.ctl.regs, plan := s.ctl.plan, hi := s.ctl.hi } = s.ctl) ∧
  (∀ (s : State) (fn : Nat) (e : Bytes), Taken s.ctl fn 0 0x12 e → s.ctl.ev.contained = false → 1 ≤ fn → fn ≤ 32 →
      s.ctl.plan.loader.stage = .idle → (ptState s.ctl (fn - 1) ≠ 0 ∨ fplanOn s.ctl = false) →
    ∃ c, exec (.pplanLoad fn) s = .next { s with ctl := settled c } ∧
      fld c (ptPlanStat (fn - 1)) 15 8 = (if ptState s.ctl (fn - 1) ≠ 0 then 3 else 4) ∧ c.plan = s.ctl.plan ∧
      RegsBut [ptPlanStat (fn - 1), rPlErrSect] s.ctl c)

/-- The checks and the writes of a load end (R176, R181, R182, R183, R186, R1174): a failing image ends the load with its code and changes
no plan; a frame plan becomes active at once while no epoch runs and waits for its pass while it does; a partition plan is written and is
then loaded, or ends with code 0x06 at a read that failed. -/
def Obligations.LoadsEndInAPlanOrACode : Prop :=
  (∀ (s : State) (img : Bytes) (code sect : Nat), regsServed s.ctl = true → s.ctl.plan.loader.stage = .checks → s.ctl.plan.loader.kind = 0 →
      checkImage s.ctl 0 s.ctl.plan.loader.part s.ctl.plan.loader.len img = some (code, sect) → 1 ≤ code → code < 256 → sect < 65536 →
    ∃ c, exec (.loadChecksComplete (some img)) s = .next { s with ctl := settled c } ∧ fld c rPlStat 15 8 = code ∧
      fld c rPlErrSect 15 0 = sect ∧ rbit c rPlStat 1 = false ∧ c.plan = { s.ctl.plan with loader := {}, pending := none } ∧
      RegsBut [rPlStat, rPlErrSect] s.ctl c) ∧
  (∀ s : State, regsServed s.ctl = true → s.ctl.plan.loader.stage = .checks → s.ctl.plan.loader.kind = 0 →
    ∃ c, exec (.loadChecksComplete none) s = .next { s with ctl := settled c } ∧ fld c rPlStat 15 8 = 6 ∧
      fld c rPlErrSect 15 0 = 0xFFFF ∧ rbit c rPlStat 1 = false ∧ RegsBut [rPlStat, rPlErrSect] s.ctl c) ∧
  (∀ (s : State) (img : Bytes), regsServed s.ctl = true → s.ctl.plan.loader.stage = .checks → s.ctl.plan.loader.kind = 0 → s.ctl.time.epoch = false →
    exec (.loadChecksComplete (some img)) s = .next
      (match checkImage s.ctl 0 s.ctl.plan.loader.part s.ctl.plan.loader.len img with
       | none => { s with ctl := settled (loadEnd (activate (s.ctl, s.mem) (some (framePlanOf img)) none).1 0 noSect 0xFFFFFFFFFFFF),
                          mem := (activate (s.ctl, s.mem) (some (framePlanOf img)) none).2 }
       | some e => { s with ctl := settled (loadEnd s.ctl e.1 e.2 0) }) ∧
    (activate (s.ctl, s.mem) (some (framePlanOf img)) none).1.plan.active = some (framePlanOf img)) ∧
  (∀ (s : State) (img : Bytes), regsServed s.ctl = true → s.ctl.plan.loader.stage = .checks → s.ctl.plan.loader.kind = 0 → s.ctl.time.epoch = true →
      actLate s.ctl s.ctl.plan.loader.actPass = false →
    ∃ c, exec (.loadChecksComplete (some img)) s = .next { s with ctl := settled c } ∧ c.plan.active = s.ctl.plan.active ∧
      (match checkImage s.ctl 0 s.ctl.plan.loader.part s.ctl.plan.loader.len img with
       | none => rbit c rPlStat 3 = true ∧ c.plan.pending = some (framePlanOf img) ∧ c.plan.loader.stage = .pending ∧
           OnlyRegs [rPlStat] s.ctl { c with plan := s.ctl.plan }
       | some e => c = loadEnd s.ctl e.1 e.2 0)) ∧
  (∀ (s : State) (img : Bytes), regsServed s.ctl = true → s.ctl.plan.loader.stage = .checks → s.ctl.plan.loader.kind = 2 →
    ∃ c, exec (.loadChecksComplete (some img)) s = .next { s with ctl := settled c } ∧
      (∀ p, p ≠ s.ctl.plan.loader.part → partPlan c p = partPlan s.ctl p) ∧
      (match checkImage s.ctl 2 s.ctl.plan.loader.part s.ctl.plan.loader.len img with
       | none => partPlan c s.ctl.plan.loader.part = none ∧ c.plan.loader.stage = .writes ∧ c.plan.loader.image = img
       | some e => c = loadEnd s.ctl e.1 e.2 0)) ∧
  (∀ s : State, regsServed s.ctl = true → s.ctl.plan.loader.stage = .checks → s.ctl.plan.loader.kind = 1 → unloadErr s.ctl = 0 →
    (let a := activate (s.ctl, s.mem) none none
     exec (.loadChecksComplete none) s = .next { s with ctl := settled (loadEnd a.1 0 noSect 0), mem := a.2 } ∧
     a.1.plan.active = none)) ∧
  (∀ (s : State) (m : Mem), regsServed s.ctl = true → s.ctl.plan.loader.stage = .writes → s.ctl.plan.loader.kind = 2 → s.ctl.plan.loader.part < 32 →
      (∃ d, writePieces s.ctl.plan.loader.part ((loadPieces s.ctl.plan.loader.image none).drop s.ctl.plan.loader.wrote)
        (s.ctl, s.mem) = ((d, m), true)) →
    ∃ c, exec (.pplanWritesComplete none) s = .next { s with ctl := settled c, mem := m } ∧
      partPlan c s.ctl.plan.loader.part = some (partPlanOf s.ctl.plan.loader.image) ∧
      rbit c (ptPlanStat s.ctl.plan.loader.part) 0 = true ∧ fld c (ptPlanStat s.ctl.plan.loader.part) 15 8 = 0 ∧
      rbit c rPlStat 2 = false ∧ c.plan.loader = {}) ∧
  (∀ s : State, regsServed s.ctl = true → s.ctl.plan.loader.stage = .writes → s.ctl.plan.loader.kind = 2 → s.ctl.plan.loader.part < 32 →
      constSects s.ctl.plan.loader.image = [] →
    ∃ c, exec (.pplanWritesComplete none) s = .next { s with ctl := settled c } ∧
      partPlan c s.ctl.plan.loader.part = some (partPlanOf s.ctl.plan.loader.image) ∧
      rd64 c (ptPlanId s.ctl.plan.loader.part) = (partPlanOf s.ctl.plan.loader.image).planId ∧
      RegsBut [ptPlanStat s.ctl.plan.loader.part, ptPlanId s.ctl.plan.loader.part, ptPlanId s.ctl.plan.loader.part + 4, rPlStat] s.ctl c) ∧
  (∀ (s : State) (i k : Nat) (m : Mem), regsServed s.ctl = true → s.ctl.plan.loader.stage = .writes → s.ctl.plan.loader.kind = 2 → s.ctl.plan.loader.part < 32 →
      (∃ d, writePieces s.ctl.plan.loader.part ((loadPieces s.ctl.plan.loader.image (some (i, k))).drop s.ctl.plan.loader.wrote)
        (s.ctl, s.mem) = ((d, m), true)) →
    ∃ c, exec (.pplanWritesComplete (some (i, k))) s = .next { s with ctl := settled c, mem := m } ∧
      partPlan c s.ctl.plan.loader.part = partPlan s.ctl s.ctl.plan.loader.part ∧
      fld c (ptPlanStat s.ctl.plan.loader.part) 15 8 = 6 ∧ rbit c rPlStat 2 = false ∧ c.plan.loader = {})

/-- Refresh (R160, R188 to R190): the fallback engine refreshes every pseudo-channel whose stack is awake at its instant and again 4,096 tc
later; after the assertion of CHIP reset it does so once more, at 160 tc, and every stack enters self-refresh; its final round comes at TIM_EPOCH_AT − 400 tc; an entry of REFRESH that fires refreshes its own pseudo-channel from its slot on. -/
def Obligations.RefreshComesInItsTime : Prop :=
  (∀ s : State, rbit s.ctl rPlStat 4 = true → rootLock s.ctl = true → regsServed s.ctl = true → s.ctl.time.phase = 0 →
      s.ctl.pwr.resetRef = false → s.ctl.time.ftc ≤ s.ctl.plan.nextRefresh →
    ∃ c, exec .fallbackRefresh s = .next { s with ctl := settled c } ∧ c.time = { s.ctl.time with ftc := s.ctl.plan.nextRefresh } ∧
      (∀ q, q < 512 → smGet c.plan.lastRefresh 0 q =
        if pchAsleep s.ctl q then smGet s.ctl.plan.lastRefresh 0 q else s.ctl.plan.nextRefresh) ∧
      c.plan.nextRefresh = s.ctl.plan.nextRefresh + 4096 ∧ { c with time := s.ctl.time, plan := s.ctl.plan } = s.ctl) ∧
  (∀ s : State, s.ctl.pwr.resetRef = true →
    ∃ c, exec .fallbackRefresh s = .next { s with ctl := settled c } ∧ c.pwr = { s.ctl.pwr with resetRef := false, sref := 0xFF } ∧
      (∀ q, q < 512 → smGet c.plan.lastRefresh 0 q =
        if pchAsleep s.ctl q then smGet s.ctl.plan.lastRefresh 0 q else 160) ∧ { c with pwr := s.ctl.pwr, plan := s.ctl.plan } = s.ctl) ∧
  (∀ s : State, rbit s.ctl rPlStat 4 = true → rbit s.ctl rTimCtrl 16 = true → s.ctl.time.epoch = false →
      s.ctl.plan.finalDone = false → rootLock s.ctl = true → s.ctl.time.phase = 0 → regsServed s.ctl = true →
      s.ctl.time.ftc ≤ rd64 s.ctl rEpochAt - 400 →
    ∃ c, exec .fallbackFinalRefresh s = .next { s with ctl := settled c } ∧ c.time.ftc = rd64 s.ctl rEpochAt - 400 ∧
      (∀ q, q < 512 → pchAsleep s.ctl q = false → smGet c.plan.lastRefresh 0 q = rd64 s.ctl rEpochAt - 400) ∧
      c.plan.finalDone = true ∧ { c with time := s.ctl.time, plan := s.ctl.plan } = s.ctl) ∧
  (∀ (s : State) (i q slot period phase : Nat) (e : Bytes), (pieces 16 (fplan s.ctl).refresh)[i]? = some e →
      refFields e = (q, slot, period, phase) → inForce s.ctl = true → alive s.ctl = true → period ≠ 0 →
      s.ctl.time.pass % period = phase → pchAsleep s.ctl q = false → s.ctl.time.phase = 0 → s.ctl.pwr.chip = false →
      s.ctl.time.ftc ≤ s.ctl.time.passAt + 16 * slot →
    ∃ c, exec (.refreshSpan i) s = .next { s with ctl := settled c } ∧ c.time.ftc = s.ctl.time.passAt + 16 * slot ∧
      smGet c.plan.lastRefresh 0 q = s.ctl.time.passAt + 16 * slot ∧
      (∀ k, k ≠ q → smGet c.plan.lastRefresh 0 k = smGet s.ctl.plan.lastRefresh 0 k) ∧
      { c with time := s.ctl.time, plan := s.ctl.plan } = s.ctl)

/-! Partitions. -/

/-- PTn_EN_AT, AT_EN and RESUME (R206, R218, R219, R239 to R241): EN_AT takes its pass; AT_EN set waits for it, cleared puts what waited under
the ordinary rule; RESUME waits as a staged write while the epoch runs, under AT_EN for the pass of EN_AT unless its boundary is too near, and
ends the error halt otherwise, when its cause is 0x02 or 0x04; it is discarded with an event for another cause or without a halt. -/
def Obligations.PartitionsResumeAndWaitForAPass : Prop :=
  (∀ (s : State) (p pass : Nat), p < 32 → regsServed s.ctl = true → (part s.ctl p).resetting = false → s.ctl.time.epoch = false →
    ∃ c, exec (.enAt p pass) s = .next { s with ctl := settled c } ∧ rd64 c (ptEnAt p) = pass % 2 ^ 48 ∧
      OnlyRegs [ptEnAt p, ptEnAt p + 4] s.ctl c) ∧
  (∀ (s : State) (p : Nat), p < 32 → regsServed s.ctl = true → (part s.ctl p).resetting = false →
    ∃ c, exec (.atEn p true) s = .next { s with ctl := settled c } ∧ rbit c (ptCtrl p) 1 = true ∧
      (∀ i, i ≠ 1 → rbit c (ptCtrl p) i = rbit s.ctl (ptCtrl p) i) ∧ OnlyRegs [ptCtrl p] s.ctl c) ∧
  (∀ (s : State) (p : Nat), p < 32 → regsServed s.ctl = true → (part s.ctl p).resetting = false → rbit s.ctl (ptCtrl p) 1 = true →
      s.ctl.time.epoch = true →
    ∃ c, exec (.atEn p false) s = .next { s with ctl := settled c } ∧ rbit c (ptCtrl p) 1 = false ∧
      c.staged = s.ctl.staged.map (fun (w : Staged) =>
        if w.off = ptCtrl p ∧ w.atEn = true then { w with atEn := false, acc := s.ctl.time.ftc } else w) ∧
      OnlyRegs [ptCtrl p] s.ctl { c with staged := s.ctl.staged }) ∧
  (∀ (s : State) (p : Nat), p < 32 → regsServed s.ctl = true → rbit s.ctl (ptStat p) 5 = true →
      (fld s.ctl (ptStat p) 23 16 = 2 ∨ fld s.ctl (ptStat p) 23 16 = 4) →
      rbit s.ctl (ptCtrl p) 1 = true → s.ctl.time.epoch = true →
    (let w : Staged := { off := ptCtrl p, hi := 3, lo := 3, val := 1, acc := s.ctl.time.ftc, vf := false, atEn := true }
     let d := hwSet s.ctl (ptStat p) (2 ^ 8)
     let near := boundaryOf s.ctl (rd64 s.ctl (ptEnAt p) % 2 ^ 48) < s.ctl.time.ftc + 64
     (near → exec (.resume p) s = .next { s with ctl := settled (raise d 0x3181 p (unitPart d p) (rd64 d (ptEnAt p) % 2 ^ 48)) }) ∧
     (¬ near → exec (.resume p) s = .next { s with ctl := settled { s.ctl with staged := s.ctl.staged ++ [w] } }))) ∧
  (∀ (s : State) (p : Nat), p < 32 → regsServed s.ctl = true → rbit s.ctl (ptStat p) 5 = true →
      (fld s.ctl (ptStat p) 23 16 = 2 ∨ fld s.ctl (ptStat p) 23 16 = 4) →
      rbit s.ctl (ptCtrl p) 1 = false → s.ctl.time.epoch = true →
    (let w : Staged := { off := ptCtrl p, hi := 3, lo := 3, val := 1, acc := s.ctl.time.ftc, vf := false }
     exec (.resume p) s = .next { s with ctl := settled { s.ctl with staged := s.ctl.staged ++ [w] } })) ∧
  (∀ (s : State) (p : Nat), p < 32 → regsServed s.ctl = true → s.ctl.ev.contained = false → onBypass s.ctl = false →
      rbit s.ctl (ptStat p) 5 = true → (fld s.ctl (ptStat p) 23 16 = 2 ∨ fld s.ctl (ptStat p) 23 16 = 4) →
      rbit s.ctl (ptCtrl p) 1 = false → s.ctl.time.epoch = false → rbit s.ctl (ptStat p) 6 = true →
    ∃ c, exec (.resume p) s = .next { s with ctl := settled c } ∧ rbit c (ptStat p) 5 = false ∧ fld c (ptStat p) 23 16 = 0 ∧
      rbit c (ptStat p) 4 = true ∧ OnlyRegs [ptStat p] s.ctl c) ∧
  (∀ (s : State) (p : Nat), p < 32 → regsServed s.ctl = true → s.ctl.ev.contained = false → onBypass s.ctl = false →
      rbit s.ctl (ptStat p) 5 = true → (fld s.ctl (ptStat p) 23 16 = 2 ∨ fld s.ctl (ptStat p) 23 16 = 4) →
      rbit s.ctl (ptCtrl p) 1 = false → s.ctl.time.epoch = false → rbit s.ctl (ptStat p) 6 = false →
    ∃ c, exec (.resume p) s = .next { s with ctl := settled c } ∧ rbit c (ptStat p) 5 = false ∧ fld c (ptStat p) 23 16 = 0 ∧
      rbit c (ptStat p) 4 = false ∧ fld c (ptWdog p) 15 0 = wdogOf s.ctl p % 65536 ∧
      (∀ t, t ∈ tilesOf s.ctl p → (tile c t).halted = false) ∧ RegsBut [ptStat p, ptWdog p, hub (0x410 + 32 * p)] s.ctl c) ∧
  (∀ (s : State) (p : Nat), p < 32 → regsServed s.ctl = true →
      rbit s.ctl (ptStat p) 5 = false ∨ (fld s.ctl (ptStat p) 23 16 ≠ 2 ∧ fld s.ctl (ptStat p) 23 16 ≠ 4) →
    exec (.resume p) s =
      .next { s with ctl := settled (raise s.ctl 0x1184 p (unitPart s.ctl p) (fld s.ctl (ptStat p) 23 16)) })

/-- A PART reset (R225 to R228): it is held off while a dump holds the partition, and otherwise begins; at its end the partition is OFF,
has no plan, its registers have their reset values but for the debug halt, and its tiles are as after a reset. -/
def Obligations.PartitionResetClearsThePartition : Prop :=
  (∀ (s : State) (p : Nat), p < 32 → regsServed s.ctl = true → s.ctl.ev.contained = false → (part s.ctl p).resetting = false →
      (part s.ctl p).heldAt = none → inDump s.ctl p = true →
    ∃ c, exec (.partitionReset p) s = .next { s with ctl := settled c } ∧ (part c p).heldAt = some s.ctl.time.ftc ∧
      rbit c (ptStat p) 7 = true ∧ (∀ q, q ≠ p → part c q = part s.ctl q) ∧ RegsBut [ptStat p] s.ctl c ∧
      { c with regs := s.ctl.regs, parts := s.ctl.parts } = s.ctl) ∧
  (∀ (s : State) (p : Nat), p < 32 → regsServed s.ctl = true → s.ctl.ev.contained = false → (part s.ctl p).resetting = false →
      (part s.ctl p).heldAt = none → inDump s.ctl p = false →
    ∃ c, exec (.partitionReset p) s = .next { s with ctl := settled c } ∧ (part c p).resetting = true ∧ (part c p).inPass = false ∧
      (∀ t, t ∈ tilesOf s.ctl p → (tile c t).run = .idle ∧ (tile c t).sendq = []) ∧
      (∀ w, w ∈ c.staged → ¬ (ptBase p ≤ w.off ∧ w.off < ptBase p + 0x1000))) ∧
  (∀ (s : State) (p : Nat), p < 32 → ((part s.ctl p).resetting = true ∨ (part s.ctl p).heldAt ≠ none ∨ s.ctl.ev.contained = true) →
    exec (.partitionReset p) s = .next { s with ctl := settled s.ctl }) ∧
  (∀ (s : State) (p : Nat), p < 32 → hclkRuns s.ctl = true → (part s.ctl p).resetting = true → s.ctl.ev.contained = false →
    ∃ c m, exec (.partResetComplete p) s = .next { s with ctl := settled c, mem := m } ∧ ptState c p = 0 ∧ partPlan c p = none ∧
      (∀ o, ptBase p ≤ o → o < ptBase p + 0x1000 → o ≠ ptStat p → rd c o = (regReset o).toNat) ∧
      rbit c (ptStat p) 6 = rbit s.ctl (ptStat p) 6 ∧ rbit c (ptStat p) 5 = false ∧
      (∀ t, t ∈ tilesOf s.ctl p → tile c t = { halted := rbit s.ctl (ptStat p) 6 }) ∧
      (∀ t, t < 1024 → t ∉ tilesOf s.ctl p → tile c t = tile s.ctl t) ∧ part c p = {} ∧
      (∀ t a, t ∈ tilesOf s.ctl p → a < 524288 → smGet m.tm 0 (tmAt t a) = 0) ∧
      (∀ t a, t < 1024 → t ∉ tilesOf s.ctl p → a < 524288 → smGet m.tm 0 (tmAt t a) = smGet s.mem.tm 0 (tmAt t a)) ∧
      m.dm = s.mem.dm ∧ m.trace = s.mem.trace)

/-! Tiles. A row of a slot operation is the issue of a bundle that holds that operation alone. -/

/-- ALU, ADDI, ORI and LUI (R249, R262): XD takes the value on 32-bit words, X0 takes none; nothing else of the tile changes but its
place, and nothing else of the Plezor but the tile's ISSUED count. -/
def Obligations.ScalarResultsAreWritten : Prop :=
  ∀ (s : State) (t : Nat), TileReady s t → Straight (tile s.ctl t) →
  (∀ xd xa xb fn, fn ≤ 10 →
    ∃ c, exec (.alu t xd xa xb fn) s = .next { s with ctl := settled c } ∧
      Issued s.ctl c t (onward (found s.ctl t)
        (putX (found s.ctl t) xd (aluWord fn (wordX (found s.ctl t) xa) (wordX (found s.ctl t) xb)))) 0) ∧
  (∀ xd xa imm,
    ∃ c, exec (.addi t xd xa imm) s = .next { s with ctl := settled c } ∧
      Issued s.ctl c t (onward (found s.ctl t)
        (putX (found s.ctl t) xd (wordX (found s.ctl t) xa + (BitVec.ofNat 16 imm).signExtend 32))) 0) ∧
  (∀ xd xa imm,
    ∃ c, exec (.ori t xd xa imm) s = .next { s with ctl := settled c } ∧
      Issued s.ctl c t (onward (found s.ctl t)
        (putX (found s.ctl t) xd (wordX (found s.ctl t) xa ||| (BitVec.ofNat 16 imm).zeroExtend 32))) 0) ∧
  (∀ xd imm,
    ∃ c, exec (.lui t xd imm) s = .next { s with ctl := settled c } ∧
      Issued s.ctl c t (onward (found s.ctl t)
        (putX (found s.ctl t) xd ((BitVec.ofNat 16 imm).zeroExtend 32 <<< 16))) 0)

/-- BR, JR and BAL (R262, R279, R280, R295): the next bundle is a delay bundle; after it execution goes on at the target, or behind the
delay bundle when BR is not taken; and a taken branch discards two bundles as its delay bundle issues. -/
def Obligations.BranchesHaveOneDelayBundle : Prop :=
  ∀ (s : State) (t : Nat), TileReady s t → Straight (tile s.ctl t) →
  (∀ cond xa xb tgt, (cond ≤ 5 ∨ cond = 15) →
    ∃ c, exec (.br t cond xa xb tgt) s = .next { s with ctl := settled c } ∧
      (brHolds cond (wordX (found s.ctl t) xa) (wordX (found s.ctl t) xb) = true →
        Issued s.ctl c t { onward (found s.ctl t) (found s.ctl t) with delay := some tgt, delayTaken := true, delayJr := false } 0) ∧
      (brHolds cond (wordX (found s.ctl t) xa) (wordX (found s.ctl t) xb) = false →
        Issued s.ctl c t { onward (found s.ctl t) (found s.ctl t) with
                           delay := some (((tile s.ctl t).pc + 2) % 4096), delayTaken := false, delayJr := false } 0)) ∧
  (∀ xd xa,
    ∃ c, exec (.jr t xd xa) s = .next { s with ctl := settled c } ∧
      Issued s.ctl c t { onward (found s.ctl t)
          (putX (found s.ctl t) xd (BitVec.ofNat 32 (((tile s.ctl t).pc + 2) % 4096))) with
        delay := some (rdX (tile s.ctl t) xa % 4096), delayTaken := true, delayJr := true } 0) ∧
  (∀ xd tgt,
    ∃ c, exec (.bal t xd tgt) s = .next { s with ctl := settled c } ∧
      Issued s.ctl c t { onward (found s.ctl t)
          (putX (found s.ctl t) xd (BitVec.ofNat 32 (((tile s.ctl t).pc + 2) % 4096))) with
        delay := some tgt, delayTaken := true, delayJr := false } 0) ∧
  (∀ (u : State) (tgt : Nat), u.mem = s.mem → u.ctl = putTile s.ctl t { tile s.ctl t with delay := some tgt, delayTaken := true } →
    ∃ c, exec (.kick t) u = .next { u with ctl := settled c } ∧ (tile c t).pc = tgt ∧ (tile c t).delay = none ∧
      rd c (tlCnt t 4) = satU 32 (rd s.ctl (tlCnt t 4) + 2))

/-- LOOP, the end of a loop, and WAITP (R282 to R285, R288, R291): LOOP makes its level active over the bundles behind it, or with count 0
goes on behind them; the bundle at LEND goes back to the start, and with a count of 1 ends the loop; WAITP ends the pass's work and
every loop. -/
def Obligations.LoopsAndWaitpSequence : Prop :=
  (∀ (s : State) (t : Nat), TileReady s t → Straight (tile s.ctl t) →
    (∀ src xc cnt last, (tile s.ctl t).pc < last → (if src then rdX (tile s.ctl t) xc % 2 ^ 16 else cnt) ≠ 0 →
      ∃ c, exec (.loop t 0 src xc cnt last) s = .next { s with ctl := settled c } ∧
        Issued s.ctl c t { onward (found s.ctl t) (found s.ctl t) with
          pc := ((tile s.ctl t).pc + 1) % 4096,
          l0 := { active := true, start := ((tile s.ctl t).pc + 1) % 4096, last := last,
                  count := if src then rdX (tile s.ctl t) xc % 2 ^ 16 else cnt } } 0) ∧
    (∀ src xc cnt last, (tile s.ctl t).pc < last → (if src then rdX (tile s.ctl t) xc % 2 ^ 16 else cnt) = 0 →
      ∃ c, exec (.loop t 0 src xc cnt last) s = .next { s with ctl := settled c } ∧
        Issued s.ctl c t { onward (found s.ctl t) (found s.ctl t) with pc := (last + 1) % 4096, bubble := s.ctl.time.ftc + 2 } 2) ∧
    (∀ tgt,
      ∃ c, exec (.waitp t tgt) s = .next { s with ctl := settled c } ∧
        Issued s.ctl c t { onward (found s.ctl t) (found s.ctl t) with
          pc := tgt, waitTgt := tgt, run := .ending, bubble := s.ctl.time.ftc + 1,
          l0 := { (tile s.ctl t).l0 with active := false, count := 0 },
          l1 := { (tile s.ctl t).l1 with active := false, count := 0 } } 2)) ∧
  (∀ (s : State) (t : Nat) (src : Bool) (xc cnt last : Nat), TileReady s t → (tile s.ctl t).delay = none →
      (tile s.ctl t).modeNext = none → (tile s.ctl t).l0.active = true → (tile s.ctl t).l1.active = false →
      (tile s.ctl t).pc < last → last ≤ (tile s.ctl t).l0.last → (if src then rdX (tile s.ctl t) xc % 2 ^ 16 else cnt) ≠ 0 →
    ∃ c, exec (.loop t 1 src xc cnt last) s = .next { s with ctl := settled c } ∧
      Issued s.ctl c t { onward (found s.ctl t) (found s.ctl t) with
        l1 := { active := true, start := ((tile s.ctl t).pc + 1) % 4096, last := last,
                count := if src then rdX (tile s.ctl t) xc % 2 ^ 16 else cnt } } 0) ∧
  (∀ (s : State) (t : Nat), TileReady s t → (tile s.ctl t).delay = none → (tile s.ctl t).modeNext = none →
      (tile s.ctl t).l0.active = true → (tile s.ctl t).l1.active = false → (tile s.ctl t).l0.last = (tile s.ctl t).pc →
      (tile s.ctl t).l0.count = 1 → bundleAt s.mem t (tile s.ctl t).pc = {} →
    ∃ c, exec (.loopEnd t) s = .next { s with ctl := settled c } ∧
      Issued s.ctl c t { onward (found s.ctl t) (found s.ctl t) with
        l0 := { (tile s.ctl t).l0 with active := false, count := 0 } } 0) ∧
  (∀ (s : State) (t : Nat) (mask : Nat), TileReady s t → (tile s.ctl t).delay = none → (tile s.ctl t).modeNext = none →
      (tile s.ctl t).l0.active = true → (tile s.ctl t).l1.active = false → (tile s.ctl t).l0.last = (tile s.ctl t).pc →
      (tile s.ctl t).l0.count > 1 →
    ∃ c, exec (.aclr t mask) s = .next { s with ctl := settled c } ∧ (tile c t).pc = (tile s.ctl t).l0.start ∧
      (tile c t).l0 = { (tile s.ctl t).l0 with count := (tile s.ctl t).l0.count - 1 })

/-- SETMODE, WAITA, WAITT, ACLR, KICK, CSRR and CSRW (R221, R262, R263, R289, R303, R308): the mode asked for stands behind the next bundle; the
waits issue once their count or their offset is reached and otherwise only count a stall; the named arrival counters are cleared, but for an
arrival of the same tc; the
partition is kicked; a tile register is read, and STICKY written. -/
def Obligations.ModesWaitsAndTileRegisters : Prop :=
  (∀ (s : State) (t : Nat), TileReady s t → Straight (tile s.ctl t) →
    (∀ src xa imm, modeReserved (if src then rdX (tile s.ctl t) xa % 256 else imm % 256) = false →
      ∃ c, exec (.setmode t src xa imm) s = .next { s with ctl := settled c } ∧
        Issued s.ctl c t { onward (found s.ctl t) (found s.ctl t) with
          modeNext := some (if src then rdX (tile s.ctl t) xa % 256 else imm % 256) } 0) ∧
    (∀ ch n, n ≤ rdAcnt (tile s.ctl t) ch →
      ∃ c, exec (.waita t ch n) s = .next { s with ctl := settled c } ∧
        Issued s.ctl c t (onward (found s.ctl t) (found s.ctl t)) 0) ∧
    (∀ off, off ≤ nowOffset s.ctl →
      ∃ c, exec (.waitt t off) s = .next { s with ctl := settled c } ∧
        Issued s.ctl c t (onward (found s.ctl t) (found s.ctl t)) 0) ∧
    (∀ ch n, rdAcnt (tile s.ctl t) ch < n →
      ∃ c, exec (.waita t ch n) s = .next { s with ctl := settled c } ∧ rd c (tlCnt t 3) = satU 32 (rd s.ctl (tlCnt t 3) + 1) ∧
        tile c t = { tile s.ctl t with judged := max (tile s.ctl t).judged 1 } ∧ (∀ u, u ≠ t → tile c u = tile s.ctl u) ∧
        OnlyRegs [tlCnt t 3] s.ctl { c with tiles := s.ctl.tiles }) ∧
    (∀ off, nowOffset s.ctl < off →
      ∃ c, exec (.waitt t off) s = .next { s with ctl := settled c } ∧ rd c (tlCnt t 3) = satU 32 (rd s.ctl (tlCnt t 3) + 1) ∧
        tile c t = { tile s.ctl t with judged := max (tile s.ctl t).judged 1 } ∧ (∀ u, u ≠ t → tile c u = tile s.ctl u) ∧
        OnlyRegs [tlCnt t 3] s.ctl { c with tiles := s.ctl.tiles }) ∧
    (∀ mask,
      ∃ c, exec (.aclr t mask) s = .next { s with ctl := settled c } ∧
        (∀ i, i < 8 → rdAcnt (tile c t) i = if mask.testBit i then
            (if (tile s.ctl t).arrAt = s.ctl.time.ftc + 1 ∧ bitN (tile s.ctl t).arrMask i = true then 1 else 0)
          else rdAcnt (tile s.ctl t) i) ∧
        Issued s.ctl c t { onward (found s.ctl t) (found s.ctl t) with acnt := (tile c t).acnt } 0) ∧
    (∃ c, exec (.kick t) s = .next { s with ctl := settled c } ∧ (part c (tileOwner s.ctl t)).kick = true ∧
      (∀ p, p ≠ tileOwner s.ctl t → part c p = part s.ctl p) ∧
      Issued s.ctl { c with parts := s.ctl.parts } t (onward (found s.ctl t) (found s.ctl t)) 0)) ∧
  (∀ (s : State) (t xd idx v : Nat), TileReady s t → Straight (tile s.ctl t) →
      (idx = 0 ∧ v = (tile s.ctl t).mode) ∨ (idx = 1 ∧ v = (found s.ctl t).sticky) ∨ (idx = 2 ∧ v = passNo s.ctl % 2 ^ 32) ∨
      (idx = 3 ∧ v = passNo s.ctl / 2 ^ 32) ∨ (idx = 4 ∧ v = nowOffset s.ctl) ∨
      (idx = 5 ∧ v = tileOwner s.ctl t * 2 ^ 16 + t) ∨ (idx = 6 ∧ v = plezorId s.ctl) ∨ (idx = 7 ∧ v = (tile s.ctl t).l0.count) ∨
      (idx = 8 ∧ v = (tile s.ctl t).l1.count) ∨ (0x10 ≤ idx ∧ idx ≤ 0x17 ∧ v = rdAcnt (tile s.ctl t) (idx - 0x10)) →
    ∃ c, exec (.csrr t xd idx) s = .next { s with ctl := settled c } ∧
      Issued s.ctl c t (onward (found s.ctl t) (putX (found s.ctl t) xd (BitVec.ofNat 32 v))) 0) ∧
  (∀ (s : State) (t xa : Nat), TileReady s t → Straight (tile s.ctl t) →
    ∃ c, exec (.csrw t xa 1) s = .next { s with ctl := settled c } ∧
      Issued s.ctl c t (onward (found s.ctl t) { found s.ctl t with sticky := rdX (tile s.ctl t) xa &&& 0x00BF01FF }) 0)

/-- LDW, VLD, MLDW and MLDS (R249, R264, R265): the destination takes the bytes of tile memory at the address; every byte of every memory
stays as it was. -/
def Obligations.LoadsReadTileMemory : Prop :=
  ∀ (s : State) (t : Nat), TileReady s t → Straight (tile s.ctl t) →
  (∀ rd' xa imm, moveTo (tile s.ctl t) xa imm 4 % 4 = 0 → moveTo (tile s.ctl t) xa imm 4 + 4 ≤ 524288 →
      CodesSound s.mem t (moveTo (tile s.ctl t) xa imm 4) 4 →
    ∃ c, exec (.ldw t rd' xa imm) s = .next { s with ctl := settled c } ∧
      Issued s.ctl c t (onward (found s.ctl t) (putX (found s.ctl t) rd'
        (BitVec.ofNat 32 (readLe s.mem.tm (tmAt t (moveTo (tile s.ctl t) xa imm 4)) 4)))) 0) ∧
  (∀ rd' xa imm, moveTo (tile s.ctl t) xa imm 64 % 64 = 0 → moveTo (tile s.ctl t) xa imm 64 + 256 ≤ 524288 →
      CodesSound s.mem t (moveTo (tile s.ctl t) xa imm 64) 256 →
    ∃ c, exec (.vld t rd' xa imm) s = .next { s with ctl := settled c } ∧
      Issued s.ctl c t (onward (found s.ctl t) (wrV (found s.ctl t) rd'
        (BitVec.ofNat 2048 (readLe s.mem.tm (tmAt t (moveTo (tile s.ctl t) xa imm 64)) 256)))) 0) ∧
  (∀ b g xa imm, g < 16 → moveTo (tile s.ctl t) xa imm 64 % 64 = 0 → moveTo (tile s.ctl t) xa imm 64 + 256 ≤ 524288 →
      CodesSound s.mem t (moveTo (tile s.ctl t) xa imm 64) 256 →
    ∃ c, exec (.mldw t b g xa imm) s = .next { s with ctl := settled c } ∧
      (∀ j, smGet (tile c t).wb 0 j =
        if 4224 * b + 256 * g ≤ j ∧ j < 4224 * b + 256 * g + 256 then
          smGet s.mem.tm 0 (tmAt t (moveTo (tile s.ctl t) xa imm 64) + (j - (4224 * b + 256 * g)))
        else smGet (tile s.ctl t).wb 0 j) ∧
      Issued s.ctl c t (onward (found s.ctl t) { found s.ctl t with wb := (tile c t).wb }) 0) ∧
  (∀ b xa imm, moveTo (tile s.ctl t) xa imm 64 % 64 = 0 → moveTo (tile s.ctl t) xa imm 64 + 128 ≤ 524288 →
      CodesSound s.mem t (moveTo (tile s.ctl t) xa imm 64) 128 →
    ∃ c, exec (.mlds t b xa imm) s = .next { s with ctl := settled c } ∧
      (∀ j, smGet (tile c t).wb 0 j =
        if 4224 * b + 4096 ≤ j ∧ j < 4224 * b + 4096 + 128 then
          smGet s.mem.tm 0 (tmAt t (moveTo (tile s.ctl t) xa imm 64) + (j - (4224 * b + 4096)))
        else smGet (tile s.ctl t).wb 0 j) ∧
      Issued s.ctl c t (onward (found s.ctl t) { found s.ctl t with wb := (tile c t).wb }) 0)

/-- STW and VST (R249, R264, R265): the bytes of the register stand at the address, every other byte of tile memory and every other
memory stays as it was, and no register of the tile changes. -/
def Obligations.StoresWriteTileMemoryAtTheirAddress : Prop :=
  ∀ (s : State) (t : Nat), TileReady s t → Straight (tile s.ctl t) →
  (∀ xa xb imm, moveTo (tile s.ctl t) xa imm 4 % 4 = 0 → moveTo (tile s.ctl t) xa imm 4 + 4 ≤ 524288 →
      NoneWeak s.mem t (moveTo (tile s.ctl t) xa imm 4) 4 →
    ∃ c m, exec (.stw t xa xb imm) s = .next { s with ctl := settled c, mem := m } ∧
      readLe m.tm (tmAt t (moveTo (tile s.ctl t) xa imm 4)) 4 = rdX (tile s.ctl t) xb ∧
      (∀ j, ¬ (tmAt t (moveTo (tile s.ctl t) xa imm 4) ≤ j ∧ j < tmAt t (moveTo (tile s.ctl t) xa imm 4) + 4) →
        smGet m.tm 0 j = smGet s.mem.tm 0 j) ∧
      { m with tm := s.mem.tm, badWord := s.mem.badWord, weakWord := s.mem.weakWord } = s.mem ∧
      Issued s.ctl c t (onward (found s.ctl t) (found s.ctl t)) 0) ∧
  (∀ rd' xa imm, moveTo (tile s.ctl t) xa imm 64 % 64 = 0 → moveTo (tile s.ctl t) xa imm 64 + 256 ≤ 524288 →
    ∃ c m, exec (.vst t rd' xa imm) s = .next { s with ctl := settled c, mem := m } ∧
      readLe m.tm (tmAt t (moveTo (tile s.ctl t) xa imm 64)) 256 = (rdV (tile s.ctl t) rd').toNat ∧
      (∀ j, ¬ (tmAt t (moveTo (tile s.ctl t) xa imm 64) ≤ j ∧ j < tmAt t (moveTo (tile s.ctl t) xa imm 64) + 256) →
        smGet m.tm 0 j = smGet s.mem.tm 0 j) ∧
      { m with tm := s.mem.tm, badWord := s.mem.badWord, weakWord := s.mem.weakWord } = s.mem ∧
      Issued s.ctl c t (onward (found s.ctl t) (found s.ctl t)) 0)

/-- MRD, VBC, VEXT and VINS (R264, R278): a row of a matrix accumulator, every lane, one lane out and one lane in; nothing else of the
tile changes but its place. -/
def Obligations.MovesBetweenRegisters : Prop :=
  ∀ (s : State) (t : Nat), TileReady s t → Straight (tile s.ctl t) →
  (∀ rd' k row, k < 2 → row < 64 →
    ∃ c, exec (.mrd t rd' k row) s = .next { s with ctl := settled c } ∧
      Issued s.ctl c t (onward (found s.ctl t)
        { found s.ctl t with v := smSet (tile s.ctl t).v 0 rd' (rdMA (tile s.ctl t) k row) }) 0) ∧
  (∀ rd' xa,
    ∃ c v, exec (.vbc t rd' xa) s = .next { s with ctl := settled c } ∧ (∀ i, i < 64 → lane v i = rdX (tile s.ctl t) xa) ∧
      Issued s.ctl c t (onward (found s.ctl t) { found s.ctl t with v := smSet (tile s.ctl t).v 0 rd' v }) 0) ∧
  (∀ rd' va l, l < 64 →
    ∃ c, exec (.vext t rd' va l) s = .next { s with ctl := settled c } ∧
      Issued s.ctl c t (onward (found s.ctl t)
        (putX (found s.ctl t) rd' (BitVec.ofNat 32 (lane (rdV (tile s.ctl t) va) l)))) 0) ∧
  (∀ rd' xa l, l < 64 →
    ∃ c v, exec (.vins t rd' xa l) s = .next { s with ctl := settled c } ∧
      (∀ i, i < 64 → lane v i = if i = l then rdX (tile s.ctl t) xa else lane (rdV (tile s.ctl t) rd') i) ∧
      Issued s.ctl c t (onward (found s.ctl t) { found s.ctl t with v := smSet (tile s.ctl t).v 0 rd' v }) 0)

/-- NSEND, NMEQ, DECW and TRIMW (R266, R270, R271, R272, R303): four flits join the send queue; the 64 bytes of a descriptor, an event reference
with its verdict, and a trim value, of a partition that is ON or, the model's choice (Assumption 68), draining, leave the tile; memory stays as it was. A queued flit (R140, R144, R266 to R268) leaves in the first phase
that its partition owns at its router, and is due after its hops and 4 tc; the flit due first is written as a line of its destination tile and
counts in the channel's counter. -/
def Obligations.TilesSendAndFlitsCrossTheNetwork : Prop :=
  (∀ (s : State) (t : Nat), TileReady s t → Straight (tile s.ctl t) →
  (∀ rd' xa xb, bits (rdX (tile s.ctl t) xa) 12 10 < 6 →
      tileOwner s.ctl (rdX (tile s.ctl t) xa % 1024) = tileOwner s.ctl t → rdX (tile s.ctl t) xb % 64 = 0 →
      rdX (tile s.ctl t) xb + 256 ≤ 524288 → (tile s.ctl t).sendq.length + 4 ≤ 32 →
    ∃ c q, exec (.nsend t rd' xa xb) s = .next { s with ctl := settled c } ∧ q.length = 4 ∧
      (∀ i, i < 4 → q[i]? = some ⟨t, rdX (tile s.ctl t) xa % 1024, bits (rdX (tile s.ctl t) xa) 12 10,
        rdX (tile s.ctl t) xb + 64 * i, BitVec.ofNat 512 ((rdV (tile s.ctl t) rd').toNat >>> (512 * i))⟩) ∧
      Issued s.ctl c t { onward (found s.ctl t) (found s.ctl t) with
        sendq := (tile s.ctl t).sendq ++ q,
        phaseAt := if (tile s.ctl t).sendq = [] then max (tile s.ctl t).phaseAt (s.ctl.time.ftc + 1) else (tile s.ctl t).phaseAt } 0) ∧
  (∀ xa xb, rdX (tile s.ctl t) xa % 64 = 0 → rdX (tile s.ctl t) xa + 64 ≤ 524288 →
      CodesSound s.mem t (rdX (tile s.ctl t) xa) 64 → (tile s.ctl t).nmeq < 4 →
    ∃ c, exec (.nmeq t xa xb) s = .next { s with ctl := settled c } ∧
      c.noc = { s.ctl.noc with nmeq := s.ctl.noc.nmeq ++
        [{ tile := t, part := tileOwner s.ctl t, nme := rdX (tile s.ctl t) xb % 256,
           desc := readBytes s.mem.tm (tmAt t (rdX (tile s.ctl t) xa)) 64, due := s.ctl.time.ftc + 24 }] } ∧
      Issued s.ctl { c with noc := s.ctl.noc } t
        { onward (found s.ctl t) (found s.ctl t) with nmeq := (tile s.ctl t).nmeq + 1 } 0) ∧
  (∀ xa xb,
    ∃ c, exec (.decw t xa xb) s = .next { s with ctl := settled c } ∧
      c.noc = { s.ctl.noc with decw := s.ctl.noc.decw ++
        [{ tile := t, part := tileOwner s.ctl t, ref := rdX (tile s.ctl t) xa, verdict := rdX (tile s.ctl t) xb,
           due := s.ctl.time.ftc + 8 }] } ∧
      Issued s.ctl { c with noc := s.ctl.noc } t (onward (found s.ctl t) (found s.ctl t)) 0) ∧
  (∀ xa, grantFlag s.ctl (tileOwner s.ctl t) 1 = true →
    ∃ c, exec (.trimw t xa) s = .next { s with ctl := settled c } ∧
      c.noc = (if ptState s.ctl (tileOwner s.ctl t) = 1 ∨ ptState s.ctl (tileOwner s.ctl t) = 2 then { s.ctl.noc with trim := some (wordX (tile s.ctl t) xa) } else s.ctl.noc) ∧
      Issued s.ctl { c with noc := s.ctl.noc } t (onward (found s.ctl t) (found s.ctl t)) 0)) ∧
  (∀ (s : State) (t f : Nat) (fl : Flit) (r : List Flit), alive s.ctl = true → inForce s.ctl = true → s.ctl.time.phase = 0 →
      s.ctl.pwr.chip = false → tileOwner s.ctl t < 32 → (tile s.ctl t).sendq = fl :: r →
      firstPhase s.ctl t (tileOwner s.ctl t) (max s.ctl.time.ftc (tile s.ctl t).phaseAt) = some f → f < nextBoundary s.ctl →
    ∃ c, exec (.flitInjection t) s = .next { s with ctl := settled c } ∧ c.time = { s.ctl.time with ftc := f } ∧
      nocOwner s.ctl t (f % 64) = tileOwner s.ctl t ∧ s.ctl.time.ftc ≤ f ∧
      tile c t = { tile s.ctl t with sendq := r, phaseAt := f + 1 } ∧ (∀ u, u ≠ t → tile c u = tile s.ctl u) ∧
      c.noc = { s.ctl.noc with flight := s.ctl.noc.flight ++ [(fl, f + hops t fl.dst + 4)] } ∧
      { c with time := s.ctl.time, tiles := s.ctl.tiles, noc := s.ctl.noc } = s.ctl) ∧
  (∀ (s : State) (e : Flit × Nat), alive s.ctl = true → firstFlit s.ctl = some e → tileOwner s.ctl e.1.dst < 32 →
      clearing s.ctl e.1.dst = false → e.1.addr % 64 = 0 →
    ∃ c m, exec .flitWrite s = .next { s with ctl := settled c, mem := m } ∧
      readLe m.tm (tmAt e.1.dst e.1.addr) 64 = e.1.data.toNat ∧
      (∀ j, ¬ (tmAt e.1.dst e.1.addr ≤ j ∧ j < tmAt e.1.dst e.1.addr + 64) → smGet m.tm 0 j = smGet s.mem.tm 0 j) ∧
      rdAcnt (tile c e.1.dst) e.1.ch = satU 16 (rdAcnt (tile s.ctl e.1.dst) e.1.ch + 1) ∧
      c.noc.flight = s.ctl.noc.flight.erase e ∧ (∀ u, u ≠ e.1.dst → tile c u = tile s.ctl u) ∧ c.regs = s.ctl.regs ∧
      { m with tm := s.mem.tm, badWord := s.mem.badWord, weakWord := s.mem.weakWord } = s.mem)

/-- The vector slot's integer and bitwise operations (R273, R327, R329): each lane that KM selects takes the exact result, saturated under
SAT and wrapped otherwise, and the other lanes keep their value; besides VD only STICKY changes, and its old bits stay set. -/
def Obligations.VectorIntegerLanes : Prop :=
  ∀ (s : State) (t vd va vb km : Nat), TileReady s t → Straight (tile s.ctl t) →
  (let x := tile s.ctl t
   let f := found s.ctl t
   let A := fun i => sx 32 (lane (rdV x va) i)
   let B := fun i => sx 32 (lane (rdV x vb) i)
   let D := fun i => sx 32 (lane (rdV x vd) i)
   let Does := fun (i : Instr) (r : Nat → Nat) => ∃ c v g, exec i s = .next { s with ctl := settled c } ∧
     LanesAre x km (rdV x vd) v r ∧ Issued s.ctl c t (onward f { wrV f vd v with sticky := f.sticky ||| g }) 0
   Does (.vadd t vd va vb km 0) (fun i => intLane x.mode (A i + B i)) ∧
   Does (.vsub t vd va vb km 0) (fun i => intLane x.mode (A i - B i)) ∧
   Does (.vmul t vd va vb km 0) (fun i => intLane x.mode (A i * B i)) ∧
   Does (.vfma t vd va vb km 0) (fun i => intLane x.mode (D i + A i * B i)) ∧
   Does (.vmin t vd va vb km 0) (fun i => ux 32 (min (A i) (B i))) ∧
   Does (.vmax t vd va vb km 0) (fun i => ux 32 (max (A i) (B i))) ∧
   Does (.vlog t vd va vb km 0) (fun i => lane (rdV x va) i &&& lane (rdV x vb) i) ∧
   Does (.vlog t vd va vb km 1) (fun i => lane (rdV x va) i ||| lane (rdV x vb) i) ∧
   Does (.vlog t vd va vb km 2) (fun i => lane (rdV x va) i ^^^ lane (rdV x vb) i) ∧
   Does (.vlog t vd va vb km 3) (fun i => lane (rdV x va) i - (lane (rdV x va) i &&& lane (rdV x vb) i)) ∧
   Does (.vsh t vd va vb km 0) (fun i => (lane (rdV x va) i * 2 ^ (lane (rdV x vb) i % 32)) % 2 ^ 32) ∧
   Does (.vsh t vd va vb km 2) (fun i => lane (rdV x va) i / 2 ^ (lane (rdV x vb) i % 32)) ∧
   Does (.vsh t vd va vb km 4) (fun i => ux 32 (A i / (2 ^ (lane (rdV x vb) i % 32) : Nat))) ∧
   Does (.vsh t vd va vb km 1) (fun i => (lane (rdV x va) i * 2 ^ vb) % 2 ^ 32) ∧
   Does (.vsh t vd va vb km 3) (fun i => lane (rdV x va) i / 2 ^ vb) ∧
   Does (.vsh t vd va vb km 5) (fun i => ux 32 (A i / (2 ^ vb : Nat))) ∧
   Does (.vperm t vd va vb km) (fun i => lane (rdV x va) (lane (rdV x vb) i % 64)) ∧
   (∃ c v, exec (.vsel t vd va vb km) s = .next { s with ctl := settled c } ∧
     (∀ i, i < 64 → lane v i = if bitN (rdK x km) i then lane (rdV x va) i else lane (rdV x vb) i) ∧
     Issued s.ctl c t (onward f (wrV f vd v)) 0) ∧
   (∀ k fn, 1 ≤ k → k < 8 → fn ≤ 5 → ∃ c w, exec (.vcmp t k va vb km 0 fn) s = .next { s with ctl := settled c } ∧
     (∀ i, i < 64 → bitN w i = if bitN (rdK x km) i then cmpInt fn (A i) (B i) else bitN (rdK x k) i) ∧
     Issued s.ctl c t (onward f (wrK f k w)) 0))

/-- The vector slot's FP32 operations and conversions (R273, R274, R324, R327, R328, R330): each selected lane takes the operation's rounded
result under MODE and the lane's draw, the others keep their value, and the flags of the selected lanes join STICKY. -/
def Obligations.VectorFloatLanes : Prop :=
  ∀ (s : State) (t vd va vb km : Nat), TileReady s t → Straight (tile s.ctl t) →
  (let x := tile s.ctl t
   let f := found s.ctl t
   let rnd := rndOf x.mode
   let draw := fun i => if rnd = 4 then drawOf (tileKey s.ctl t) x.issued 0 0 i else 0
   let a := fun i => fp32 (lane (rdV x va) i)
   let b := fun i => fp32 (lane (rdV x vb) i)
   let Does := fun (i : Instr) (r : Nat → Nat × Nat) => ∃ c v g, exec i s = .next { s with ctl := settled c } ∧
     LanesAre x km (rdV x vd) v (fun i => (r i).1 % 2 ^ 32) ∧
     (∀ i k, i < 64 → k < 9 → bitN (rdK x km) i = true → (r i).2.testBit k = true → (0x00BF01FF : Nat).testBit k = true →
       g.testBit k = true) ∧
     Issued s.ctl c t (onward f { wrV f vd v with sticky := f.sticky ||| g }) 0
   Does (.vadd t vd va vb km 1) (fun i => fpAdd rnd (draw i) (a i) (b i)) ∧
   Does (.vsub t vd va vb km 1) (fun i => fpAdd rnd (draw i) (a i) (fpNeg (b i))) ∧
   Does (.vmul t vd va vb km 1) (fun i => fpMul rnd (draw i) (a i) (b i)) ∧
   Does (.vfma t vd va vb km 1) (fun i => fpFma rnd (draw i) (a i) (b i) (fp32 (lane (rdV x vd) i))) ∧
   Does (.vmin t vd va vb km 1) (fun i => fpMinMax false (lane (rdV x va) i) (lane (rdV x vb) i)) ∧
   Does (.vmax t vd va vb km 1) (fun i => fpMinMax true (lane (rdV x va) i) (lane (rdV x vb) i)) ∧
   (∀ fn, fn < 8 ∨ (0x20 ≤ fn ∧ fn ≤ 0x3F) → Does (.vcvt t vd va km fn)
     (fun i => (vcvtLane fn rnd (satOf x.mode) (draw i) (lane (rdV x va) i)).getD (lane (rdV x vd) i, 0))) ∧
   Does (.vcvt t vd va km 8) (fun i => (if i < 16 then
     lane (rdV x va) (4 * i) % 256 + lane (rdV x va) (4 * i + 1) % 256 * 2 ^ 8 + lane (rdV x va) (4 * i + 2) % 256 * 2 ^ 16 +
       lane (rdV x va) (4 * i + 3) % 256 * 2 ^ 24 else 0, 0)) ∧
   (∀ k fn, 1 ≤ k → k < 8 → fn ≤ 5 → ∃ c w g, exec (.vcmp t k va vb km 1 fn) s = .next { s with ctl := settled c } ∧
     (∀ i, i < 64 → bitN w i =
       if bitN (rdK x km) i then (fpCmp fn (lane (rdV x va) i) (lane (rdV x vb) i)).1 else bitN (rdK x k) i) ∧
     Issued s.ctl c t (onward f { wrK f k w with sticky := f.sticky ||| g }) 0))

/-- The wide accumulators (R249, R273, R337 to R343): WACC adds a term exactly into each selected lane, WFOLD puts the sum of all lanes into
lane 0 and 0 into the others, WRD reads lanes into a vector register, WCLR makes the selected lanes 0; other accumulators are left alone. -/
def Obligations.WideAccumulatorsAreExact : Prop :=
  ∀ (s : State) (t w km : Nat), TileReady s t → Straight (tile s.ctl t) → w < 4 →
  (let x := tile s.ctl t
   let f := found s.ctl t
   (∀ va, ∃ c y, exec (.wacc t w va km 0 0) s = .next { s with ctl := settled c } ∧
     (∀ i, i < 64 → (rdW y w i).1 =
       if bitN (rdK x km) i then BitVec.ofInt 256 ((rdW x w i).1.toInt + sx 32 (lane (rdV x va) i) * (2 ^ 128 : Nat))
       else (rdW x w i).1) ∧
     (∀ u i, u < 4 → u ≠ w → i < 64 → rdW y u i = rdW x u i) ∧
     Issued s.ctl c t (onward f { f with wv := y.wv, ws := y.ws, sticky := y.sticky }) 0) ∧
   (∀ va ty fn, ty ≤ 1 → waccListed ty fn = true →
     ∃ c y, exec (.wacc t w va km ty fn) s = .next { s with ctl := settled c } ∧
     (∀ i, i < 64 → rdW y w i =
       if bitN (rdK x km) i then
         ((waccLane ty fn (rdW x w i).1 (rdW x w i).2 (lane (rdV x va) i)).map (fun r => (r.1, r.2.1))).getD (rdW x w i)
       else rdW x w i) ∧
     Issued s.ctl c t (onward f { f with wv := y.wv, ws := y.ws, sticky := y.sticky }) 0) ∧
   (∃ c y, exec (.wfold t w) s = .next { s with ctl := settled c } ∧
     (rdW y w 0).1 = BitVec.ofInt 256 ((List.range 64).foldl (fun n i => n + (rdW x w i).1.toInt) 0) ∧
     (∀ i, 1 ≤ i → i < 64 → rdW y w i = (0, 0)) ∧ (∀ u i, u < 4 → u ≠ w → i < 64 → rdW y u i = rdW x u i) ∧
     Issued s.ctl c t (onward f { f with wv := y.wv, ws := y.ws, sticky := y.sticky }) 0) ∧
   (∃ c y, exec (.wclr t w km) s = .next { s with ctl := settled c } ∧
     (∀ i, i < 64 → rdW y w i = if bitN (rdK x km) i then (0, 0) else rdW x w i) ∧
     (∀ u i, u < 4 → u ≠ w → i < 64 → rdW y u i = rdW x u i) ∧
     Issued s.ctl c t (onward f { f with wv := y.wv, ws := y.ws }) 0) ∧
   (∀ vd ty fn, ty ≤ 1 → waccListed ty fn = true →
     ∃ c v g, exec (.wrd t vd w km ty fn) s = .next { s with ctl := settled c } ∧
     LanesAre x km (rdV x vd) v (fun i => ((wrdLane ty fn (rndOf x.mode) (satOf x.mode)
       (if rndOf x.mode = 4 then drawOf (tileKey s.ctl t) x.issued 0 0 i else 0) (rdW x w i).1 (rdW x w i).2).getD
         (lane (rdV x vd) i, 0)).1 % 2 ^ 32) ∧
     Issued s.ctl c t (onward f { wrV f vd v with sticky := f.sticky ||| g }) 0))

/-- The matrix slot (R249, R275 to R277, R331): MMA adds the product of a quarter of a vector register with a weight buffer to one row of an
accumulator, two rows under MXFP4; MCLR makes every row of an accumulator 0 and MCLRR one row; other rows are left alone. -/
def Obligations.MatrixRowsAccumulate : Prop :=
  ∀ (s : State) (t k : Nat), TileReady s t → Straight (tile s.ctl t) → k < 2 →
  (let x := tile s.ctl t
   let f := found s.ctl t
   (∀ r vs q b xs, r < 64 → mfmtOf x.mode ≠ 3 →
     (let acts := (List.range 64).map (fun i => mxEl (mfmtOf x.mode) (vbyte (rdV x vs) (64 * q + i)))
      let scale := fun h => bits (rdX x xs) (8 * h + 7) (8 * h)
      let row := mmaRow x.mode (tileKey s.ctl t) x.issued 0 x ⟨1, k, r, vs, q, b, xs, 0⟩ acts scale (rdMA x k r)
      ∃ c g, exec (.mma t k r vs q b xs) s = .next { s with ctl := settled c } ∧
      Issued s.ctl c t (onward f { wrMA f k r row.1 with sticky := f.sticky ||| g }) 0)) ∧
   (∀ r vs q b xs, r < 63 → r % 2 = 0 → mfmtOf x.mode = 3 →
     ∃ c, exec (.mma t k r vs q b xs) s = .next { s with ctl := settled c } ∧
     (∀ i, i ≠ r → i ≠ r + 1 → i < 64 → rdMA (tile c t) k i = rdMA x k i) ∧
     (∀ j i, j < 2 → j ≠ k → i < 64 → rdMA (tile c t) j i = rdMA x j i) ∧
     Issued s.ctl c t (onward f { f with ma := (tile c t).ma, sticky := (tile c t).sticky }) 0) ∧
   (∃ c, exec (.mclr t k) s = .next { s with ctl := settled c } ∧ (∀ i, i < 64 → rdMA (tile c t) k i = 0) ∧
     (∀ j i, j < 2 → j ≠ k → i < 64 → rdMA (tile c t) j i = rdMA x j i) ∧
     Issued s.ctl c t (onward f { f with ma := (tile c t).ma }) 0) ∧
   (∀ r, ∃ c, exec (.mclrr t k r) s = .next { s with ctl := settled c } ∧
     Issued s.ctl c t (onward f { f with ma := smSet x.ma 0 (64 * k + r) 0 }) 0))

/-- Exceptions (R214, R216, R251, R265, R297, R298): TRAP, an illegal encoding and a misaligned access halt the tile, record its place,
cause, slot and address, and put the partition in the error halt of cause 0x01 with every tile of it halted; memory stays as it was. -/
def Obligations.ExceptionsHaltThePartition : Prop :=
  ∀ (s : State) (t p : Nat), TileReady s t → Straight (tile s.ctl t) → tileOwner s.ctl t = p → rbit s.ctl (ptStat p) 5 = false →
  (let Takes := fun (i : Instr) (cause slot addr : Nat) => ∃ c, exec i s = .next { s with ctl := settled c } ∧
     (tile c t).halted = true ∧ (tile c t).exc = true ∧ rd c (tlEpc t) = (tile s.ctl t).pc % 2 ^ 32 ∧
     fld c (tlEcause t) 7 0 = cause ∧ fld c (tlEcause t) 10 8 = slot ∧ rbit c (tlEcause t) 15 = false ∧ rd c (tlEaddr t) = addr ∧
     rbit c (ptStat p) 5 = true ∧ fld c (ptStat p) 23 16 = 1 ∧ rbit c (ptStat p) 4 = true ∧
     (∀ u, u ∈ tilesOf s.ctl p → (tile c u).halted = true) ∧
     (∀ u, u < 1024 → u ∉ tilesOf s.ctl p → tile c u = tile s.ctl u)
   (∀ code, code < 2 ^ 16 → Takes (.trap t code) 7 1 code) ∧
   (∀ xd xa xb fn, 10 < fn → Takes (.alu t xd xa xb fn) 1 1 0) ∧
   (∀ r xa imm, moveTo (tile s.ctl t) xa imm 4 % 4 ≠ 0 →
     Takes (.ldw t r xa imm) 4 2 (moveTo (tile s.ctl t) xa imm 4) ∧ Takes (.stw t xa r imm) 4 2 (moveTo (tile s.ctl t) xa imm 4)))

/-- The end-of-pass wait and QUIET (R291, R300): a tile whose WAITP has issued waits once nothing of it is queued and its last result is
written, and a halted tile is quiet then; a tile that is halted or stands in no pass issues nothing. -/
def Obligations.TilesComeToRest : Prop :=
  (∀ (s : State) (t : Nat), alive s.ctl = true → (tile s.ctl t).run = .ending → tileDone s.ctl t = true → s.ctl.time.phase = 0 →
      doneFrom (tile s.ctl t) ≤ s.ctl.time.ftc → (s.ctl.time.epoch = true → s.ctl.time.ftc < nextBoundary s.ctl) →
    ∃ c, exec (.endOfPassWait t) s = .next { s with ctl := settled c } ∧ (tile c t).run = .waiting ∧
      (tile c t).busy = passTc s.ctl ∧ (tile c t).score = [] ∧ (∀ u, u ≠ t → tile c u = tile s.ctl u) ∧
      { c with tiles := s.ctl.tiles, time := s.ctl.time } = s.ctl) ∧
  (∀ (s : State) (t : Nat), alive s.ctl = true → (tile s.ctl t).halted = true → (tile s.ctl t).sendq = [] → s.ctl.time.phase = 0 →
      doneFrom (tile s.ctl t) ≤ s.ctl.time.ftc → (s.ctl.time.epoch = true → s.ctl.time.ftc < nextBoundary s.ctl) →
    ∃ c, exec (.tileQuiet t) s = .next { s with ctl := settled c } ∧ (tile c t).quiet = true ∧ (tile c t).halted = true ∧
      (∀ u, u ≠ t → tile c u = tile s.ctl u) ∧ { c with tiles := s.ctl.tiles, time := s.ctl.time } = s.ctl) ∧
  (∀ (s : State) (t : Nat) (b : Slots), tileIssues s.ctl t = false → issueCmd t b s = .next { s with ctl := settled s.ctl })

/-! Headgates and decisions. -/

/-- A received frame runs the tests of R436 in their order. A good HEARTBEAT is stored, a good NOTICE raises its event, a DECISION is
dropped as a format error, a DATA frame while no epoch runs is counted, and one that is admitted, like a CAL frame, is offered as lines due
before its L, 56 tc later, with its landing noted for that instant (R397, R400, R406, R417, R421, R429 to R431, R436). -/
def Obligations.FramesAreTestedAndLand : Prop :=
  (∀ (s : State) (n : Nat) (fec : FecSeen) (raw : Bytes), FrameGood s.ctl n raw → fec.hit = false →
      fType (rxWire s.ctl n raw).body = 2 →
    (let b := (rxWire s.ctl n raw).body
     ∃ c, exec (.heartbeat n fec raw) s = .next { s with ctl := settled c } ∧ fld c (hgStn n (fStn b) 3) 31 16 = leAt b 0xE 2 ∧
      fld c (hgStn n (fStn b) 3) 15 0 = (fSeq b + 1) % 65536 ∧ smGet c.hg.heard false (n * 64 + fStn b) = true ∧
      FrameCounted s.ctl c n fec ∧
      RegsBut [hgCnt n 0, hgCnt n 1, hgCnt n 11, hgStn n (fStn b) 3] s.ctl c ∧
      { c with regs := s.ctl.regs, hg := s.ctl.hg } = s.ctl)) ∧
  (∀ (s : State) (n : Nat) (fec : FecSeen) (raw : Bytes), FrameGood s.ctl n raw → fec.hit = false →
      fType (rxWire s.ctl n raw).body = 5 →
    (let b := (rxWire s.ctl n raw).body
     ∃ c, exec (.notice n fec raw) s = .next { s with ctl := settled (raise c 0x0202 noPart (unitOf c 3 n)
          (fStn b + leAt b 8 2 * 2 ^ 16 + leAt b 0xC 4 * 2 ^ 32)) } ∧
      FrameCounted s.ctl c n fec ∧
      RegsBut [hgCnt n 0, hgCnt n 1, hgCnt n 11, hgStn n (fStn b) 3] s.ctl c ∧
      { c with regs := s.ctl.regs, hg := s.ctl.hg } = s.ctl)) ∧
  (∀ (s : State) (n : Nat) (fec : FecSeen) (raw : Bytes), FrameComes s.ctl n → (rxWire s.ctl n raw).crcOk = true →
      fec.hit = false → onAt s.ctl n = true →
      fType (rxWire s.ctl n raw).body = 4 →
    ∃ c, exec (.decisionReceived n fec raw) s = .next { s with ctl := settled c } ∧ FrameCounted s.ctl c n fec ∧
      rd c (hgCnt n 3) = satU 32 (rd s.ctl (hgCnt n 3) + 1) ∧ OnlyRegs [hgCnt n 0, hgCnt n 1, hgCnt n 3] s.ctl c) ∧
  (∀ (s : State) (n : Nat) (fec : FecSeen) (raw : Bytes), FrameGood s.ctl n raw → fec.hit = false →
      fType (rxWire s.ctl n raw).body = 1 → epochAt s.ctl = false →
    ∃ c, exec (.dataFrame n fec raw) s = .next { s with ctl := settled c } ∧ FrameCounted s.ctl c n fec ∧ rd c (hgCnt n 7) = satU 32 (rd s.ctl (hgCnt n 7) + 1) ∧
      c.hg.landing = s.ctl.hg.landing ∧ c.hg.lines = s.ctl.hg.lines) ∧
  (∀ (s : State) (n : Nat) (fec : FecSeen) (raw : Bytes) (le : LandEnt) (i : Instr), FrameGood s.ctl n raw → fec.hit = false →
      (i = .dataFrame n fec raw ∧ fType (rxWire s.ctl n raw).body = 1) ∨
        (i = .calFrame n fec raw ∧ fType (rxWire s.ctl n raw).body = 3) →
      Admitted s.ctl n (rxWire s.ctl n raw).body le →
    (let b := (rxWire s.ctl n raw).body
     ∃ c fr ls, exec i s = .next { s with ctl := settled c } ∧ c.hg.landing = s.ctl.hg.landing ++ [fr] ∧
      fr.due = s.ctl.time.ftc + 56 ∧ fr.hg = n ∧ fr.stn = fStn b ∧ fr.evn = fEvn b ∧ fr.part = le.part ∧ fr.tile = landTile le b ∧
      fr.lpass = landPass s.ctl ∧ fr.cal = decide (fType b = 3) ∧
      smGet c.hg.lines [] (landTile le b) = smGet s.ctl.hg.lines [] (landTile le b) ++ ls ∧ ls.length = landLines b ∧
      (∀ l, l ∈ ls → l.due < fr.due ∧ l.data.length = 64) ∧ FrameCounted s.ctl c n fec ∧
      RegsBut [hgCnt n 0, hgCnt n 1, hgCnt n 10, hgCnt n 11, hgStn n (fStn b) 3] s.ctl c ∧
      { c with regs := s.ctl.regs, hg := s.ctl.hg } = s.ctl)) ∧
  (∀ (s : State) (n : Nat) (fec : FecSeen) (raw : Bytes), n < 16 → alive s.ctl = true → rbit s.ctl (hgBase n + 8) 8 = true →
      (smGet s.ctl.hg.resetAt 0 n = 0 ∨ smGet s.ctl.hg.resetAt 0 n + frameTc ≤ s.ctl.time.ftc + 1) →
      fType (rxWire s.ctl n raw).body = 1 → raw ≠ [] →
      (rxWire s.ctl n raw).crcOk = false ∨ fec.hit = true ∨ lockAgo s.ctl n parseTc = false →
    ∃ c, exec (.dataFrame n fec raw) s = .next { s with ctl := settled c } ∧ rd c (hgCnt n 2) = satU 32 (rd s.ctl (hgCnt n 2) + 1) ∧
      rd c (hgCnt n 1) = satU 32 (rd s.ctl (hgCnt n 1) + fec.uncorr) ∧ OnlyRegs [hgCnt n 1, hgCnt n 2] s.ctl c) ∧
  (∀ (s : State) (n : Nat) (fec : FecSeen) (raw : Bytes), n < 16 → alive s.ctl = true → smGet s.ctl.hg.resetAt 0 n ≠ 0 →
      s.ctl.time.ftc + 1 < smGet s.ctl.hg.resetAt 0 n + frameTc →
    exec (.dataFrame n fec raw) s = .next { s with ctl := settled s.ctl })

/-- Stations (R404, R405, R408): EN is written and makes an OFF station ACTIVE with MISSED 0, or any station OFF; REJOIN makes an ABSENT one
ACTIVE and sends NOTICE 2, but in the HCLK cycle in which it became ABSENT, and does nothing to another; a station whose MISSED has reached
STN_TIMEOUT becomes ABSENT, with an event and NOTICE 1. A NOTICE that finds the transmit pipeline busy waits for it. -/
def Obligations.StationsComeAndGo : Prop :=
  (∀ (s : State) (n q : Nat) (en : Bool), n < 16 → q < 64 → regsServed s.ctl = true →
    ∃ c, exec (.stationEn n q en) s = .next { s with ctl := settled c } ∧ rbit c (hgStn n q 0) 8 = en ∧
      stnState c n q = (if en = false then 0 else if stnState s.ctl n q = 0 then 1 else stnState s.ctl n q) ∧
      stnMissed c n q = (if en = true ∧ stnState s.ctl n q = 0 then 0 else stnMissed s.ctl n q) ∧
      RegsBut [hgStn n q 0, hgStn n q 2] s.ctl c ∧ { c with regs := s.ctl.regs, hg := s.ctl.hg } = s.ctl ∧
      { c.hg with seqSet := s.ctl.hg.seqSet, heard := s.ctl.hg.heard } = s.ctl.hg) ∧
  (∀ (s : State) (n q : Nat), n < 16 → q < 64 → regsServed s.ctl = true → stnState s.ctl n q = 2 →
      (smGet s.ctl.hg.absAt 0 (n * 64 + q) = 0 ∨ (smGet s.ctl.hg.absAt 0 (n * 64 + q) - 1) / 2 ≠ s.ctl.time.ftc / 2) →
    ∃ c, exec (.rejoin n q) s = .next { s with ctl := settled c } ∧ stnState c n q = 1 ∧ stnMissed c n q = 0 ∧
      c = hgNotice (stnActive s.ctl n q) n q 2 ∧ RegsBut [hgStn n q 0, hgStn n q 2, hgCnt n 14] s.ctl c ∧
      { c with regs := s.ctl.regs, hg := s.ctl.hg, outs := s.ctl.outs } = s.ctl) ∧
  (∀ (s : State) (n q : Nat), regsServed s.ctl = true → stnState s.ctl n q ≠ 2 →
    exec (.rejoin n q) s = .next { s with ctl := settled s.ctl }) ∧
  (∀ (s : State) (n q : Nat), n < 16 → q < 64 → alive s.ctl = true → s.ctl.time.epoch = true → stnState s.ctl n q = 1 →
      smGet s.ctl.hg.absDue false (n * 64 + q) = true → s.ctl.time.ftc = s.ctl.time.passAt →
    ∃ c, exec (.stationAbsent n q) s = .next { s with ctl := settled c } ∧ stnState c n q = 2 ∧
      c.ev = (raise s.ctl 0x4203 noPart (unitOf s.ctl 3 n) q).ev ∧ c.time = s.ctl.time ∧
      smGet c.hg.absAt 0 (n * 64 + q) = s.ctl.time.ftc + 1 ∧
      (hgState s.ctl n ≠ 1 → hgState s.ctl n ≠ 2 → c.hg.txq = s.ctl.hg.txq)) ∧
  (∀ (s : State) (n q : Nat), n < 16 → q < 64 → regsServed s.ctl = true → stnState s.ctl n q = 0 →
    ∃ c, exec (.stationEn n q true) s = .next { s with ctl := settled c } ∧ stnState c n q = 1 ∧ stnMissed c n q = 0 ∧
      rbit c (hgStn n q 0) 8 = true ∧ RegsBut [hgStn n q 0, hgStn n q 2] s.ctl c ∧
      { c with regs := s.ctl.regs, hg := s.ctl.hg } = s.ctl) ∧
  (∀ (s : State) (n q : Nat), n < 16 → q < 64 → regsServed s.ctl = true →
    ∃ c, exec (.stationEn n q false) s = .next { s with ctl := settled c } ∧ stnState c n q = 0 ∧ rbit c (hgStn n q 0) 8 = false ∧
      OnlyRegs [hgStn n q 0] s.ctl c) ∧
  (∀ (s : State) (n q : Nat), n < 16 → q < 64 → regsServed s.ctl = true → stnState s.ctl n q = 2 →
      (smGet s.ctl.hg.absAt 0 (n * 64 + q) = 0 ∨ (smGet s.ctl.hg.absAt 0 (n * 64 + q) - 1) / 2 ≠ s.ctl.time.ftc / 2) →
      TxFree s.ctl n 16 →
    ∃ c, exec (.rejoin n q) s = .next { s with ctl := settled c } ∧ stnState c n q = 1 ∧ stnMissed c n q = 0 ∧
      c.outs = .hgFrame n q (noticeWire s.ctl n q 2) :: s.ctl.outs ∧
      smGet c.hg.txFree 0 n = s.ctl.time.ftc + txOccupies (rbit s.ctl (hgCtrl n) 1) 16 ∧
      RegsBut [hgStn n q 0, hgStn n q 2, hgCnt n 14] s.ctl c ∧
      { c with regs := s.ctl.regs, hg := s.ctl.hg, outs := s.ctl.outs } = s.ctl) ∧
  (∀ (s : State) (n q : Nat), n < 16 → q < 64 → regsServed s.ctl = true → stnState s.ctl n q = 2 →
      (smGet s.ctl.hg.absAt 0 (n * 64 + q) = 0 ∨ (smGet s.ctl.hg.absAt 0 (n * 64 + q) - 1) / 2 ≠ s.ctl.time.ftc / 2) →
      hgState s.ctl n = 1 → (∀ r, r ∈ s.ctl.hg.txq → r.hg ≠ n) → s.ctl.time.ftc < smGet s.ctl.hg.txFree 0 n →
    ∃ c, exec (.rejoin n q) s = .next { s with ctl := settled c } ∧ stnState c n q = 1 ∧ c.outs = s.ctl.outs ∧
      c.hg.txq = s.ctl.hg.txq ++ [⟨n, q, 5, 2, s.ctl.time.ftc⟩] ∧ OnlyRegs [hgStn n q 0, hgStn n q 2] s.ctl { c with hg := s.ctl.hg }) ∧
  (∀ (s : State) (n q : Nat), n < 16 → q < 64 → regsServed s.ctl = true → stnState s.ctl n q = 2 →
      0 < smGet s.ctl.hg.absAt 0 (n * 64 + q) → (smGet s.ctl.hg.absAt 0 (n * 64 + q) - 1) / 2 = s.ctl.time.ftc / 2 →
    exec (.rejoin n q) s = .next { s with ctl := settled s.ctl }) ∧
  (∀ (s : State) (n q : Nat), n < 16 → q < 64 → alive s.ctl = true → s.ctl.time.epoch = true → stnState s.ctl n q = 1 →
      smGet s.ctl.hg.absDue false (n * 64 + q) = true → s.ctl.time.ftc = s.ctl.time.passAt → TxFree s.ctl n 16 →
    ∃ c, exec (.stationAbsent n q) s = .next { s with ctl := settled c } ∧ stnState c n q = 2 ∧
      c.ev = (raise s.ctl 0x4203 noPart (unitOf s.ctl 3 n) q).ev ∧ c.outs = .hgFrame n q (noticeWire s.ctl n q 1) :: s.ctl.outs)

/-- The PCS lock, landing lines and the landing instant (R389, R429, R430, R432, R446, R459): a change of lock is shown and reported; a
line is written into its tile at its phase and nowhere else; at L the tile's counter 7 counts the frame, and a DATA frame without an entry
makes one. -/
def Obligations.LandedFramesReachTheirTileAndEntry : Prop :=
  (∀ (s : State) (n : Nat) (lock : Bool), n < 16 → alive s.ctl = true → rbit s.ctl (hgBase n + 8) 8 = true →
      rbit s.ctl (hgStat n) 4 = !lock →
    ∃ c, exec (.pcsLock n lock false) s = .next { s with ctl := settled (raise c 0x4201 noPart (unitOf c 3 n) (b2n lock)) } ∧
      rbit c (hgStat n) 4 = lock ∧ OnlyRegs [hgStat n] s.ctl { c with hg := s.ctl.hg }) ∧
  (∀ (s : State) (n : Nat) (cut : Bool), n < 16 → alive s.ctl = true → rbit s.ctl (hgStat n) 4 = true →
    ∃ c, exec (.pcsLock n false cut) s = .next { s with ctl := settled (raise c 0x4201 noPart (unitOf c 3 n) 0) } ∧
      rbit c (hgStat n) 4 = false ∧ rd c (hgCnt n 2) = (if cut = true then satU 32 (rd s.ctl (hgCnt n 2) + 1) else rd s.ctl (hgCnt n 2)) ∧
      OnlyRegs [hgStat n, hgCnt n 2] s.ctl { c with hg := s.ctl.hg }) ∧
  (∀ (s : State) (t : Nat) (l : LandLine) (r : List LandLine), alive s.ctl = true → smGet s.ctl.hg.lines [] t = l :: r →
      tileOwner s.ctl t < 32 → clearing s.ctl t = false → l.data.length = 64 → l.addr % 64 = 0 → Ahead s.ctl l.due →
    ∃ c m, exec (.landingLineWrite t) s = .next { s with ctl := settled c, mem := m } ∧ c.time.ftc = l.due ∧
      smGet c.hg.lines [] t = r ∧ readBytes m.tm (tmAt t l.addr) 64 = l.data ∧
      (∀ j, ¬ (tmAt t l.addr ≤ j ∧ j < tmAt t l.addr + 64) → smGet m.tm 0 j = smGet s.mem.tm 0 j) ∧
      { m with tm := s.mem.tm, badWord := s.mem.badWord, weakWord := s.mem.weakWord } = s.mem ∧ c.regs = s.ctl.regs ∧
      (∀ u, u ≠ t → tile c u = tile s.ctl u)) ∧
  (∀ (s : State) (f : Landing), alive s.ctl = true → firstLanding s.ctl.hg.landing = some f → Ahead s.ctl f.due →
      tileOwner s.ctl f.tile < 32 → clearing s.ctl f.tile = false → f.cal = false → s.ctl.dc.pend = [] → f.hg < 16 →
    ∃ c e, exec .landingInstant s = .next { s with ctl := settled c } ∧ c.time = { s.ctl.time with ftc := f.due } ∧
      c.hg.landing = s.ctl.hg.landing.erase f ∧
      rdAcnt (tile c f.tile) 7 = satU 16 (rdAcnt (tile s.ctl f.tile) 7 + 1) ∧ (∀ u, u ≠ f.tile → tile c u = tile s.ctl u) ∧
      c.dc.pend = [e] ∧ e.hg = f.hg ∧ e.stn = f.stn ∧ e.evn = f.evn ∧ e.part = f.part ∧ e.lpass = f.lpass ∧ e.k = dcK s.ctl f.part ∧
      e.count = 0 ∧ e.handAt = none ∧ RegsBut [dcPend f.hg] s.ctl c) ∧
  (∀ (s : State) (f : Landing), alive s.ctl = true → firstLanding s.ctl.hg.landing = some f → Ahead s.ctl f.due →
      tileOwner s.ctl f.tile < 32 → clearing s.ctl f.tile = false → f.cal = true →
    ∃ c, exec .landingInstant s = .next { s with ctl := settled c } ∧
      rdAcnt (tile c f.tile) 7 = satU 16 (rdAcnt (tile s.ctl f.tile) 7 + 1) ∧ c.dc = s.ctl.dc ∧ c.regs = s.ctl.regs)

/-- Verdicts and decisions (R461, R464 to R466, R477, R481): a verdict joins the entry that its reference names, or is counted; an entry is
decided at its due release, or after WAIT for a GMERGE partition, or with the default and REASON LATE when the guard comes first; and its
DECISION frame is handed to an ON headgate for an ACTIVE station. -/
def Obligations.VerdictsBecomeDecisions : Prop :=
  (∀ (s : State) (w : DecWord) (e : Pend), alive s.ctl = true → firstDecw s.ctl.noc.decw = some w → Ahead s.ctl w.due → w.part < 32 →
      bits w.verdict 7 2 = 0 → grantFlag s.ctl w.part 2 = false → s.ctl.dc.pend = [e] → pendHit w.part w.ref e = true → e.handAt = none →
    ∃ c, exec .verdictArrival s = .next { s with ctl := settled c } ∧ c.time = { s.ctl.time with ftc := w.due } ∧
      c.noc = { s.ctl.noc with decw := s.ctl.noc.decw.erase w } ∧
      c.dc = { s.ctl.dc with pend := [{ e with
                                        count := e.count + 1, orAcc := e.orAcc || bitN w.verdict 0, andAcc := e.andAcc && bitN w.verdict 0,
                                        tag := e.tag ||| bits w.verdict 15 8, hole := e.hole || bitN w.verdict 1 }] } ∧
      { c with time := s.ctl.time, noc := s.ctl.noc, dc := s.ctl.dc } = s.ctl) ∧
  (∀ (s : State) (w : DecWord), alive s.ctl = true → firstDecw s.ctl.noc.decw = some w → Ahead s.ctl w.due → w.part < 32 →
      grantFlag s.ctl w.part 2 = false → s.ctl.dc.pend = [] → s.ctl.dc.gone = [] →
    ∃ c, exec .verdictArrival s = .next { s with ctl := settled c } ∧
      rd c (dcCnt w.part 7) = satU 32 (rd s.ctl (dcCnt w.part 7) + 1) ∧ RegsBut [dcCnt w.part 7] s.ctl c ∧ c.dc = s.ctl.dc) ∧
  (∀ (s : State) (e : Pend) (b : Nat), alive s.ctl = true → s.ctl.time.epoch = true → s.ctl.dc.pend = [e] → e.closed = none →
      e.handAt = none → e.lpass + e.k + 1 ≤ s.ctl.time.pass → b = boundaryOf s.ctl (e.lpass + e.k + 1) →
      grantFlag s.ctl e.part 2 = false → guarded s.ctl { e with closed := some b } = false →
      smGet s.ctl.dc.holeAt 0 e.part ≤ b →
    ∃ c, exec .dueRelease s = .next { s with ctl := settled c } ∧ c.dc.pend = [{ e with
                 closed := some b, reason := (answers s.ctl e).1, accept := (answers s.ctl e).2.1, tag := (answers s.ctl e).2.2,
                 handAt := some (b + 50), dpass := s.ctl.time.pass % 2 ^ 48 }] ∧
      RegsBut [dcCnt e.part (answers s.ctl e).1] s.ctl c ∧
      ((answers s.ctl e).1 ≠ 0 → rd c (dcCnt e.part (answers s.ctl e).1) = satU 32 (rd s.ctl (dcCnt e.part (answers s.ctl e).1) + 1)) ∧
      { c with regs := s.ctl.regs, dc := s.ctl.dc } = s.ctl) ∧
  (∀ (s : State) (e : Pend) (b : Nat), alive s.ctl = true → s.ctl.dc.pend = [e] → e.closed = some b → e.handAt = none →
      grantFlag s.ctl e.part 2 = true → guarded s.ctl e = false → Ahead s.ctl (b + dcWait s.ctl e.part) →
      smGet s.ctl.dc.holeAt 0 e.part ≤ b →
    ∃ c, exec .globalDecision s = .next { s with ctl := settled c } ∧ c.time.ftc = b + dcWait s.ctl e.part ∧
      c.dc.pend = [{ e with
                     reason := (answers s.ctl e).1, accept := (answers s.ctl e).2.1, tag := (answers s.ctl e).2.2,
                     handAt := some (b + dcWait s.ctl e.part + 50), dpass := s.ctl.time.pass % 2 ^ 48 }] ∧
      RegsBut [dcCnt e.part (answers s.ctl e).1] s.ctl c) ∧
  (∀ (s : State) (e : Pend) (g : Nat), alive s.ctl = true → s.ctl.dc.pend = [e] → e.handAt = none → guarded s.ctl e = true →
      guardFtc s.ctl e = some g → Ahead s.ctl g →
    ∃ c, exec .guardDefault s = .next { s with ctl := settled c } ∧ c.time.ftc = g ∧
      c.dc.pend = [{ e with
                     reason := 4, accept := dcDefault s.ctl e.part, tag := 0, handAt := some g,
                     dpass := s.ctl.time.pass % 2 ^ 48 }] ∧
      rd c (dcCnt e.part 4) = satU 32 (rd s.ctl (dcCnt e.part 4) + 1) ∧ RegsBut [dcCnt e.part 4] s.ctl c) ∧
  (∀ (s : State) (e : Pend) (h : Nat), alive s.ctl = true → s.ctl.dc.pend = [e] → e.handAt = some h → e.hg < 16 → e.stn < 64 →
      e.part < 32 → (∀ r, r ∈ s.ctl.hg.txq → r.hg ≠ e.hg) → Ahead s.ctl (max h (smGet s.ctl.hg.txFree 0 e.hg)) → hgState s.ctl e.hg = 1 → stnState s.ctl e.hg e.stn = 1 →
    ∃ c, exec .decisionHandoff s = .next { s with ctl := settled c } ∧ c.dc.pend = [] ∧
      c.outs = .hgFrame e.hg e.stn (txWire s.ctl e.hg e.stn (leBytes 1 4 ++ leBytes 1 1 ++ leBytes 1 e.stn ++ leBytes 1 0 ++ leBytes 2 28 ++
        leBytes 2 (smGet s.ctl.hg.txSeq 0 (e.hg * 64 + e.stn)) ++ decBody [e] e.dpass)) :: s.ctl.outs ∧
      rd c (hgCnt e.hg 14) = satU 32 (rd s.ctl (hgCnt e.hg 14) + 1) ∧
      smGet c.hg.txFree 0 e.hg = max h (smGet s.ctl.hg.txFree 0 e.hg) + txOccupies (rbit s.ctl (hgCtrl e.hg) 1) 28 ∧
      RegsBut [hgCnt e.hg 14, dcPend e.hg, dcCnt e.part 0] s.ctl c)

/-! Device memory and the near-memory engines. -/

/-- The six operations are accepted at their lead 24 tc after NMEQ or later (R523, R524, R526): one whose checks hold joins the
partition's operations with no end yet, a failed one is counted, reported and ends 8 tc later; the tile's credit returns. -/
def Obligations.NearMemoryOperationsAreAccepted : Prop :=
  (∀ (s : State) (nme p k : Nat) (i : Instr) (h : NmeHand),
      (i = .fill nme p ∧ k = 1) ∨ (i = .copy nme p ∧ k = 2) ∨ (i = .compare nme p ∧ k = 3) ∨ (i = .reduce nme p ∧ k = 4) ∨
        (i = .tload nme p ∧ k = 5) ∨ (i = .tstore nme p ∧ k = 6) →
      p < 32 → alive s.ctl = true → s.ctl.time.phase = 0 → s.ctl.pwr.chip = false →
      (s.ctl.time.epoch = true → h.due < nextBoundary s.ctl) → s.ctl.noc.nmeq.find? (fun x => x.nme = nme ∧ x.part = p) = some h → dOp h.desc = k →
      ((nmeOps s.ctl p).filter (fun o => o.lead = nme)).length < 8 → descStatus s.ctl p h.desc = 0 →
    ∃ c o, exec i s = .next { s with ctl := settled c } ∧ nmeOps c p = insertOp o (nmeOps s.ctl p) ∧ o.tile = h.tile ∧ o.part = p ∧
      o.lead = nme ∧ o.desc = h.desc ∧ o.acc = max s.ctl.time.ftc h.due ∧ o.status = 0 ∧ o.fin = none ∧ o.beats = {} ∧
      c.time.ftc = max s.ctl.time.ftc h.due ∧ (tile c h.tile).nmeq = (tile s.ctl h.tile).nmeq - 1 ∧
      (∀ t, t ≠ h.tile → tile c t = tile s.ctl t) ∧ (∀ r, r ≠ p → nmeOps c r = nmeOps s.ctl r) ∧
      c.noc = { s.ctl.noc with nmeq := s.ctl.noc.nmeq.erase h } ∧ c.regs = s.ctl.regs) ∧
  (∀ (s : State) (nme p k : Nat) (i : Instr) (h : NmeHand),
      (i = .fill nme p ∧ k = 1) ∨ (i = .copy nme p ∧ k = 2) ∨ (i = .compare nme p ∧ k = 3) ∨ (i = .reduce nme p ∧ k = 4) ∨
        (i = .tload nme p ∧ k = 5) ∨ (i = .tstore nme p ∧ k = 6) →
      p < 32 → alive s.ctl = true → s.ctl.time.phase = 0 → s.ctl.pwr.chip = false →
      (s.ctl.time.epoch = true → h.due < nextBoundary s.ctl) → s.ctl.noc.nmeq.find? (fun x => x.nme = nme ∧ x.part = p) = some h → dOp h.desc = k →
      ((nmeOps s.ctl p).filter (fun o => o.lead = nme)).length < 8 → descStatus s.ctl p h.desc ≠ 0 →
    ∃ c o, exec i s = .next { s with ctl := settled (raise c 0x52C1 p (unitOf c 1 nme)
          (descStatus s.ctl p h.desc + dTag h.desc * 2 ^ 32)) } ∧
      nmeOps c p = insertOp o (nmeOps s.ctl p) ∧ o.desc = h.desc ∧ o.status = descStatus s.ctl p h.desc ∧
      o.fin = some (max s.ctl.time.ftc h.due + 8) ∧ rd c (0x6104 + 16 * p) = satU 32 (rd s.ctl (0x6104 + 16 * p) + 1) ∧
      RegsBut [0x6104 + 16 * p] s.ctl c)

/-- What the operations move (R502a, R527, R531 to R533, R536, R537): a slot of a FILL writes its pattern into up to 15 beats and no other
byte, a slot of a COMPARE reads up to 15 beats, a line of a TLOAD goes into tile memory, and an operation that ends is counted and frees its place in the pass in
which it ends; its record is written into tile memory, and its arrival counted, in the first phase from 32 tc after that on. -/
def Obligations.NearMemoryOperationsMoveData : Prop :=
  (∀ (s : State) (p q slot t : Nat) (o : NmeOp) (ws : List Nat), alive s.ctl = true → p < 32 → s.ctl.time.phase = 0 →
      s.ctl.pwr.chip = false → nmeOps s.ctl p = [o] → slotFor s.ctl q slot p = some t → o.status = 0 → o.fin = none → dOp o.desc = 1 →
      dDst o.desc % 32 = 0 → o.acc + 8 ≤ t → pchFailed s.ctl q = false →
      ws = (writeBeats o.desc q).filter (fun a => !smGet o.written false (a / 32)) → ws ≠ [] →
    ∃ c m, exec (.nmeSlotTransfer p q slot) s = .next { s with ctl := settled c, mem := m } ∧
      (∀ a, a ∈ ws.take 15 → readLe m.dm a 32 = dPattern o.desc * (1 + 2 ^ 64 + 2 ^ 128 + 2 ^ 192) % 2 ^ 256 ∧
        smGet m.poison false (a / 32) = false) ∧
      (∀ j, (∀ a, a ∈ ws.take 15 → ¬ (a ≤ j ∧ j < a + 32)) → smGet m.dm 0 j = smGet s.mem.dm 0 j) ∧
      { m with dm := s.mem.dm, poison := s.mem.poison, badBeat := s.mem.badBeat, weakBeat := s.mem.weakBeat } = s.mem ∧
      (∀ o', nmeOps c p = [o'] → ∀ a, a ∈ ws.take 15 → smGet o'.written false (a / 32) = true) ∧ c.regs = s.ctl.regs) ∧
  (∀ (s : State) (p q slot t : Nat) (o : NmeOp) (rs : List Nat), alive s.ctl = true → p < 32 → s.ctl.time.phase = 0 →
      s.ctl.pwr.chip = false → nmeOps s.ctl p = [o] → slotFor s.ctl q slot p = some t → o.status = 0 → o.fin = none → dOp o.desc = 3 →
      o.acc + 8 ≤ t → pchFailed s.ctl q = false → rs = (readBeats o.desc q).filter (fun a => (beatOf o a).isNone) → rs ≠ [] →
      dSrc o.desc % 32 = 0 → dDst o.desc % 32 = 0 →
      (∀ a, a ∈ rs → smGet s.mem.poison false (a / 32) = false ∧ smGet s.mem.badBeat false (a / 32) = false ∧
        smGet s.mem.weakBeat false (a / 32) = false) →
    ∃ c o', exec (.nmeSlotTransfer p q slot) s = .next { s with ctl := settled c } ∧ nmeOps c p = [o'] ∧
      (∀ a, a ∈ rs.take 15 → beatOf o' a = some ⟨t, false, BitVec.ofNat 256 (readLe s.mem.dm a 32)⟩) ∧ c.regs = s.ctl.regs) ∧
  (∀ (s : State) (tl t i : Nat) (o : NmeOp) (x y : BeatIn), alive s.ctl = true → tileOwner s.ctl tl < 32 →
      clearing s.ctl tl = false → Ahead s.ctl t → dDst o.desc % 64 = 0 → nmeOps s.ctl (tileOwner s.ctl tl) = [o] → o.part = tileOwner s.ctl tl → dTile o.desc = tl →
      dOp o.desc = 5 → phaseFrom s.ctl tl (tileOwner s.ctl tl) (max (max s.ctl.time.ftc (tile s.ctl tl).phaseAt)
        (((linesReady s.ctl tl (2 ^ 64)).map (·.1)).foldl min (2 ^ 64))) = some t →
      firstLine (linesReady s.ctl tl t) = some (o, i) → linesReady s.ctl tl (2 ^ 64) ≠ [] →
      beatOf o (dSrc o.desc + 64 * i) = some x → beatOf o (dSrc o.desc + 64 * i + 32) = some y → x.poison = false → y.poison = false →
    ∃ c m, exec (.nmeTileLine tl) s = .next { s with ctl := settled c, mem := m } ∧
      readBytes m.tm (tmAt tl (dDst o.desc + 64 * i)) 64 = leBytes 32 x.data.toNat ++ leBytes 32 y.data.toNat ∧
      (∀ j, ¬ (tmAt tl (dDst o.desc + 64 * i) ≤ j ∧ j < tmAt tl (dDst o.desc + 64 * i) + 64) → smGet m.tm 0 j = smGet s.mem.tm 0 j) ∧
      { m with tm := s.mem.tm, badWord := s.mem.badWord, weakWord := s.mem.weakWord } = s.mem ∧
      (∀ u, u ≠ tl → tile c u = tile s.ctl u) ∧ c.regs = s.ctl.regs) ∧
  (∀ (s : State) (p e t : Nat) (o : NmeOp), alive s.ctl = true → s.ctl.time.phase = 0 → s.ctl.pwr.chip = false →
      nmeOps s.ctl p = [o] → o.part = p → s.ctl.nme.recs = [] → o.fin = some e → dRec o.desc = true → dCnt o.desc = true →
      dCmpl o.desc + 64 ≤ 2 ^ 19 → dCmpl o.desc % 64 = 0 → tileOwner s.ctl o.tile < 32 → clearing s.ctl o.tile = false →
      phaseFrom s.ctl o.tile p (max (e + 32) (tile s.ctl o.tile).phaseAt) = some t →
      (s.ctl.time.epoch = true → t < nextBoundary s.ctl) → opStatus o = 0 →
    ∃ c m, exec (.nmeCompletion p) s = .next { s with ctl := settled c, mem := m } ∧
      readBytes m.tm (tmAt o.tile (dCmpl o.desc)) 64 = cmplRecord o ∧
      (∀ j, ¬ (tmAt o.tile (dCmpl o.desc) ≤ j ∧ j < tmAt o.tile (dCmpl o.desc) + 64) → smGet m.tm 0 j = smGet s.mem.tm 0 j) ∧
      rdAcnt (tile c o.tile) (dNotify o.desc % 8) = satU 16 (rdAcnt (tile s.ctl o.tile) (dNotify o.desc % 8) + 1) ∧
      nmeOps c p = [] ∧ c.nme.recs = [] ∧ c.time.ftc = max s.ctl.time.ftc t ∧
      rd c (0x6100 + 16 * p) = satU 32 (rd s.ctl (0x6100 + 16 * p) + 1) ∧ RegsBut [0x6100 + 16 * p] s.ctl c) ∧
  (∀ (s : State) (p e t : Nat) (o : NmeOp), alive s.ctl = true → s.ctl.time.epoch = true → s.ctl.time.phase = 0 → s.ctl.pwr.chip = false →
      nmeOps s.ctl p = [o] → o.part = p → s.ctl.nme.recs = [] → o.fin = some e → e < nextBoundary s.ctl → (dRec o.desc || dCnt o.desc) = true →
      phaseFrom s.ctl o.tile p (max (e + 32) (tile s.ctl o.tile).phaseAt) = some t → nextBoundary s.ctl ≤ t → o.status = 0 → opStatus o = 0 →
    ∃ c, exec (.nmeCompletion p) s = .next { s with ctl := settled c } ∧ nmeOps c p = [] ∧ c.nme.recs = [o] ∧
      c.time.ftc = max s.ctl.time.ftc e ∧ rd c (0x6100 + 16 * p) = satU 32 (rd s.ctl (0x6100 + 16 * p) + 1) ∧
      RegsBut [0x6100 + 16 * p] s.ctl c ∧ c.tiles = s.ctl.tiles) ∧
  (∀ (s : State) (p t : Nat) (o : NmeOp), alive s.ctl = true → s.ctl.time.phase = 0 → s.ctl.pwr.chip = false →
      s.ctl.nme.recs = [o] → o.part = p → dRec o.desc = true → dCmpl o.desc + 64 ≤ 2 ^ 19 → dCmpl o.desc % 64 = 0 →
      tileOwner s.ctl o.tile < 32 → clearing s.ctl o.tile = false →
      phaseFrom s.ctl o.tile p (max (o.fin.getD 0 + 32) (tile s.ctl o.tile).phaseAt) = some t →
      (s.ctl.time.epoch = true → t < nextBoundary s.ctl) →
    ∃ c m, exec (.nmeCompletion p) s = .next { s with ctl := settled c, mem := m } ∧
      readBytes m.tm (tmAt o.tile (dCmpl o.desc)) 64 = cmplRecord o ∧
      (∀ j, ¬ (tmAt o.tile (dCmpl o.desc) ≤ j ∧ j < tmAt o.tile (dCmpl o.desc) + 64) → smGet m.tm 0 j = smGet s.mem.tm 0 j) ∧
      c.nme = { s.ctl.nme with recs := [] } ∧ c.time.ftc = max s.ctl.time.ftc t ∧ c.regs = s.ctl.regs)

/-- Failure, repair and patrol of device memory (R513, R516 to R518, R629): a failing pseudo-channel sets its bit, is reported, and makes
the FREE granules of its stack BROKEN; a repair starts only while refresh is with the fallback engine; its end shows RESULT and the spares
left; the patrol goes on by 15 beats. -/
def Obligations.DeviceMemoryFailsAndIsRepaired : Prop :=
  (∀ (s : State) (q why : Nat), q < 512 → regsServed s.ctl = true → pchFailed s.ctl q = false →
    ∃ c, exec (.pchFailed q why) s = .next { s with ctl := settled c } ∧ pchFailed c q = true ∧
      (∀ r, r < 512 → r ≠ q → pchFailed c r = pchFailed s.ctl r) ∧
      (∀ g, g < 1024 → gtState c g = if poolIsFatal s.ctl = false ∧ g % 8 = q / 64 ∧ gtState s.ctl g = gFREE then gBROKEN else gtState s.ctl g) ∧
      c.ev = (raise s.ctl 0x2283 noPart (unitBlock s.ctl 0x0A) (q + why * 2 ^ 9)).ev ∧ RegsBut [hbFail q] s.ctl c) ∧
  (∀ (s : State) (q why : Nat), q < 512 → pchFailed s.ctl q = true →
    exec (.pchFailed q why) s = .next { s with ctl := settled s.ctl }) ∧
  (∀ (s : State) (st why : Nat), st < 8 → regsServed s.ctl = true → (∀ q, q < 512 → pchFailed s.ctl q = false) →
    ∃ c, exec (.pchFailed (512 + st) why) s = .next { s with ctl := settled c } ∧
      (∀ q, q < 512 → pchFailed c q = decide (q / 64 = st)) ∧
      (∀ g, g < 1024 →
        gtState c g = if poolIsFatal s.ctl = false ∧ g % 8 = st ∧ gtState s.ctl g = gFREE then gBROKEN else gtState s.ctl g) ∧
      c.time = s.ctl.time) ∧
  (∀ (s : State) (q bank row : Nat) (hard : Bool) (i : Instr), i = (if hard then .hardRepair q bank row else .softRepair q bank row) →
      alive s.ctl = true → rbit s.ctl 0x5098 0 = false → rbit s.ctl rPlStat 4 = true → q < 512 → bank < 32 → row < 2 ^ 18 →
    ∃ c, exec i s = .next { s with ctl := settled c } ∧ rbit c 0x5098 0 = true ∧ fld c 0x5098 3 1 = 0 ∧ fld c 0x5090 17 0 = row ∧
      fld c 0x5094 8 0 = q ∧ fld c 0x5094 13 9 = bank ∧ rbit c 0x5094 30 = hard ∧ c.nme = { s.ctl.nme with repairing := (q, bank, row, hard) } ∧
      RegsBut [0x5090, 0x5094, 0x5098] s.ctl c ∧ { c with regs := s.ctl.regs, nme := s.ctl.nme } = s.ctl) ∧
  (∀ (s : State) (q bank row : Nat) (hard : Bool) (i : Instr), i = (if hard then .hardRepair q bank row else .softRepair q bank row) →
      alive s.ctl = true → rbit s.ctl 0x5098 0 = false → rbit s.ctl rPlStat 4 = false →
    ∃ c, exec i s = .next { s with ctl := settled (discard c 0x5094 0) } ∧ rbit c 0x5098 0 = false ∧ fld c 0x5098 3 1 = 3 ∧
      OnlyRegs [0x5090, 0x5094, 0x5098] s.ctl c) ∧
  (∀ (s : State) (result spares : Nat), alive s.ctl = true → rbit s.ctl 0x5098 0 = true → result < 8 → spares < 256 → result ≠ 1 →
    ∃ c, exec (.repairDone result spares) s = .next { s with ctl := settled c } ∧ rbit c 0x5098 0 = false ∧ fld c 0x5098 3 1 = result ∧
      fld c 0x5098 15 8 = spares ∧ OnlyRegs [0x5098] s.ctl c) ∧
  (∀ (s : State) (spares : Nat), alive s.ctl = true → rbit s.ctl 0x5098 0 = true → spares < 256 →
    ∃ c m, exec (.repairDone 1 spares) s = .next { s with ctl := settled c, mem := m } ∧ rbit c 0x5098 0 = false ∧
      fld c 0x5098 3 1 = 1 ∧ fld c 0x5098 15 8 = spares ∧
      c.nme.repairs = s.ctl.nme.repairs ++ [s.ctl.nme.repairing] ∧
      { m with dm := s.mem.dm } = s.mem ∧ RegsBut [0x5098] s.ctl c) ∧
  (∀ (s : State) (slot : Nat), alive s.ctl = true → rbit s.ctl 0x5080 0 = true → inForce s.ctl = true → s.ctl.nme.fixes = [] →
      s.ctl.nme.walked = 0 → (∃ q, q < 512 ∧ patrolSkips s.ctl q = false) →
      (∀ q, q < 512 → patrolSkips s.ctl q = true ∨ slotFor s.ctl q slot 0x41 ≠ none) →
      (∀ b, smGet s.mem.poison false b = false ∧ smGet s.mem.badBeat false b = false ∧ smGet s.mem.weakBeat false b = false) →
    ∃ c, exec (.patrolScrub slot) s = .next { s with ctl := settled c } ∧
      rd c 0x5084 = (if rd s.ctl 0x5084 + 15 ≥ 2 ^ 24 then 0 else rd s.ctl 0x5084 + 15) ∧ c.nme.walked = 0 ∧
      RegsBut [0x5084] s.ctl c) ∧
  (∀ (s : State) (slot q a t : Nat), alive s.ctl = true → rbit s.ctl 0x5080 0 = true → inForce s.ctl = true →
      s.ctl.nme.fixes = [] → q < 512 → bitN s.ctl.nme.walked q = false → patrolSkips s.ctl q = false →
      slotFor s.ctl q slot 0x41 = some t → (∀ r, r < 512 → r ≠ q → slotFor s.ctl r slot 0x41 = none) →
      a ∈ patrolBeats q (rd s.ctl 0x5084) → smGet s.mem.weakBeat false (a / 32) = true → smGet s.mem.badBeat false (a / 32) = false →
      smGet s.mem.poison false (a / 32) = false → rd s.ctl 0x5028 = 0 →
    ∃ c m, exec (.patrolScrub slot) s = .next { s with ctl := settled c, mem := m } ∧ a ∈ c.nme.fixes ∧
      rd s.ctl 0x5010 ≤ rd c 0x5010 ∧ m = s.mem ∧ smGet c.nme.slotNext 0 q = t + 16) ∧
  (∀ (s : State) (slot a t : Nat), alive s.ctl = true → rbit s.ctl 0x5080 0 = true → inForce s.ctl = true → s.ctl.nme.fixes = [a] →
      a % 32 = 0 → pchOf a < 512 → slotFor s.ctl (pchOf a) slot 0x41 = some t → patrolSkips s.ctl (pchOf a) = false →
      (∀ q, q < 512 → q ≠ pchOf a → patrolSkips s.ctl q = true ∨ slotFor s.ctl q slot 0x41 = none) →
    ∃ c m, exec (.patrolScrub slot) s = .next { s with ctl := settled c, mem := m } ∧ (∀ j, smGet m.dm 0 j = smGet s.mem.dm 0 j) ∧
      smGet m.weakBeat false (a / 32) = false ∧ c.nme.fixes = [] ∧ c.time = (advanceTo s.ctl t).time ∧
      RegsBut [0x5084] s.ctl c)

/-! The memory pool. -/

/-- A request at the end of its decode (R555, R558, R559, R586): one that is granted takes a tracker and waits at its host's weir; one that
is not answers at once, a read with poison and zeros and a write with its data dropped, and is counted. -/
def Obligations.RequestsAreGrantedOrUnmapped : Prop :=
  (∀ (s : State) (spid : Option Nat) (hpa tag h d : Nat), Requests s.ctl spid hpa h d → granted s.ctl h d false = true →
    ∃ c, exec (.poolRead spid hpa tag) s = .next { s with ctl := settled c } ∧
      c.pool = { s.ctl.pool with waiting := s.ctl.pool.waiting ++ [{ tag := tag, host := h, kind := 0, dpa := d / 64 * 64 }] } ∧
      rd c (weUsed h) = rd s.ctl (weUsed h) + 1 ∧ RegsBut [weUsed h] s.ctl c ∧
      { c with regs := s.ctl.regs, pool := s.ctl.pool } = s.ctl) ∧
  (∀ (s : State) (spid : Option Nat) (hpa tag h d : Nat) (data : BitVec 512) (mask : Dword), Requests s.ctl spid hpa h d →
      granted s.ctl h d true = true → mask ≠ 0 →
    ∃ c, exec (.poolWrite spid hpa tag data mask) s = .next { s with ctl := settled c } ∧
      c.pool = { s.ctl.pool with waiting := s.ctl.pool.waiting ++
        [{ tag := tag, host := h, kind := if mask.toNat = 2 ^ 64 - 1 then 1 else 2, dpa := d / 64 * 64, data := data, mask := mask.toNat }] } ∧
      rd c (weUsed h) = rd s.ctl (weUsed h) + 1 ∧ RegsBut [weUsed h] s.ctl c ∧
      { c with regs := s.ctl.regs, pool := s.ctl.pool } = s.ctl) ∧
  (∀ (s : State) (spid : Option Nat) (hpa tag h d : Nat), Requests s.ctl spid hpa h d → granted s.ctl h d false = false →
    ∃ c dl, exec (.poolRead spid hpa tag) s = .next { s with ctl := settled c } ∧
      Emit.cxlAnswer tag 1 dl (zeroBytes 64) ∈ c.outs ∧ c.pool.waiting = s.ctl.pool.waiting ∧
      rd c (weCnt h 3) = satU 32 (rd s.ctl (weCnt h 3) + 1) ∧ RegsBut [weCnt h 3] s.ctl c) ∧
  (∀ (s : State) (spid : Option Nat) (hpa tag h d : Nat) (data : BitVec 512) (mask : Dword), Requests s.ctl spid hpa h d →
      granted s.ctl h d true = false →
    ∃ c dl, exec (.poolWrite spid hpa tag data mask) s = .next { s with ctl := settled c } ∧
      Emit.cxlAnswer tag 2 dl [] ∈ c.outs ∧ c.pool.waiting = s.ctl.pool.waiting ∧
      rd c (weCnt h 3) = satU 32 (rd s.ctl (weCnt h 3) + 1) ∧ RegsBut [weCnt h 3] s.ctl c)

/-- The weirs meter and the POOL slots serve (R510, R511, R579, R580, R585 to R589, R598, R619): a refill brings the RATE and
BURST written into force and adds RATE to every live weir up to BURST lines; a passage takes 16 tokens a line; a slot serves a line, deciphered or enciphered, 80 tc and 40 tc before its answer; the answer
goes out and the tracker is free. -/
def Obligations.WeirsMeterAndSlotsServe : Prop :=
  (∀ s : State, alive s.ctl = true →
    ∃ c, exec .weirRefill s = .next { s with ctl := settled c } ∧
      (∀ h, h < 64 → rd c (weTok h) = if hostDead s.ctl h = true then rd s.ctl (weTok h)
        else min (rd s.ctl (weTok h) + fld s.ctl (weCfg h) 31 16) (16 * fld s.ctl (weCfg h) 15 0)) ∧
      c.time = (advanceTo s.ctl s.ctl.pool.refillAt).time ∧ c.pool.refillAt = (c.time.ftc / 64 + 1) * 64 ∧
      (∀ h, h < 64 → weRate c h = fld s.ctl (weCfg h) 31 16 ∧ weBurst c h = fld s.ctl (weCfg h) 15 0) ∧
      c.pool.waiting = s.ctl.pool.waiting ∧ c.pool.lines = s.ctl.pool.lines ∧
      RegsBut ((List.range 64).flatMap (fun h => [weTok h, weCnt h 5])) s.ctl c) ∧
  (∀ (s : State) (h : Nat) (r : PoolReq), alive s.ctl = true → oldest s.ctl h = some r → weRate s.ctl h ≠ 0 →
      16 * reqCost r ≤ rd s.ctl (weTok h) →
    ∃ c l, exec (.weirPassage h) s = .next { s with ctl := settled c } ∧
      c.pool = { s.ctl.pool with waiting := s.ctl.pool.waiting.erase r, lines := s.ctl.pool.lines ++ l } ∧
      (∀ x, x ∈ l → x.req = r ∧ x.key = keyFor s.ctl r.host (bits r.dpa 37 28)) ∧
      l.map (·.write) = (if r.kind = 0 then [false] else if r.kind = 1 then [true] else [false, true]) ∧
      l.map (·.elig) = (if r.kind = 0 then [some s.ctl.time.ftc] else if r.kind = 1 then [some (s.ctl.time.ftc + 16)]
        else [some s.ctl.time.ftc, none]) ∧
      rd c (weTok h) = rd s.ctl (weTok h) - 16 * reqCost r ∧ RegsBut [weTok h] s.ctl c ∧
      { c with regs := s.ctl.regs, pool := s.ctl.pool } = s.ctl) ∧
  (∀ (s : State) (h : Nat) (r : PoolReq), alive s.ctl = true → oldest s.ctl h = some r →
      (weRate s.ctl h = 0 ∨ rd s.ctl (weTok h) < 16 * reqCost r) →
    ∃ c, exec (.weirPassage h) s = .next { s with ctl := settled c } ∧ smGet c.pool.waited false h = true ∧
      c.pool = { s.ctl.pool with waited := c.pool.waited } ∧ RegsBut [weCnt h 5] s.ctl c) ∧
  (∀ (s : State) (q slot t : Nat) (l : PoolLine) (rest : List PoolLine), alive s.ctl = true → q < 512 →
      slotFor s.ctl q slot 0x40 = some t → scrubTakes (advanceTo s.ctl t) q = false → fillSlot s.ctl q t = (rest, [l]) →
      l.write = false → l.req.dpa % 64 = 0 → s.ctl.pool.closing = {} → pchFailed s.ctl (pchOf l.req.dpa) = false →
      pchFailed s.ctl (pchOf (l.req.dpa + 32)) = false → (∀ b, b = l.req.dpa / 32 ∨ b = l.req.dpa / 32 + 1 →
        smGet s.mem.poison false b = false ∧ smGet s.mem.badBeat false b = false ∧ smGet s.mem.weakBeat false b = false) →
    ∃ c, exec (.poolSlot q slot) s = .next { s with ctl := settled c } ∧ c.pool.lines = rest ∧
      c.pool.reads = s.ctl.pool.reads ++ [{
        line := l, poison := false, due := t + 80,
        data := BitVec.ofNat 512 (xtsBeat true l.key l.req.dpa (readLe s.mem.dm l.req.dpa 32) +
          xtsBeat true l.key (l.req.dpa + 32) (readLe s.mem.dm (l.req.dpa + 32) 32) * 2 ^ 256) }] ∧
      smGet c.pool.rotor 0 q = (l.req.host + 1) % 64 ∧
      rd c (weCnt l.req.host 0) = satU 32 (rd s.ctl (weCnt l.req.host 0) + 1) ∧ RegsBut [weCnt l.req.host 0] s.ctl c) ∧
  (∀ (s : State) (q slot t : Nat) (l : PoolLine) (rest : List PoolLine), alive s.ctl = true → q < 512 →
      slotFor s.ctl q slot 0x40 = some t → scrubTakes (advanceTo s.ctl t) q = false → fillSlot s.ctl q t = (rest, [l]) →
      l.write = true → l.psn = false → l.req.dpa % 64 = 0 → s.ctl.pool.closing = {} → pchFailed s.ctl (pchOf l.req.dpa) = false →
      pchFailed s.ctl (pchOf (l.req.dpa + 32)) = false →
    ∃ c m, exec (.poolSlot q slot) s = .next { s with ctl := settled c, mem := m } ∧ c.pool.lines = rest ∧
      c.pool.writes = s.ctl.pool.writes ++ [{ line := l, due := t + 40 }] ∧
      readLe m.dm l.req.dpa 32 = xtsBeat false l.key l.req.dpa (l.req.data.toNat % 2 ^ 256) % 2 ^ 256 ∧
      readLe m.dm (l.req.dpa + 32) 32 = xtsBeat false l.key (l.req.dpa + 32) (l.req.data.toNat / 2 ^ 256) % 2 ^ 256 ∧
      (∀ j, ¬ (l.req.dpa ≤ j ∧ j < l.req.dpa + 64) → smGet m.dm 0 j = smGet s.mem.dm 0 j) ∧
      { m with dm := s.mem.dm, poison := s.mem.poison, badBeat := s.mem.badBeat, weakBeat := s.mem.weakBeat } = s.mem ∧
      rd c (weCnt l.req.host 1) = satU 32 (rd s.ctl (weCnt l.req.host 1) + 1) ∧ RegsBut [weCnt l.req.host 1] s.ctl c) ∧
  (∀ (s : State) (b : PoolBack), regsServed s.ctl = true → firstBack s.ctl.pool.reads = some b → b.line.req.kind ≠ 2 →
      b.line.req.pm = none → s.ctl.pool.closing = {} → 1 ≤ rd s.ctl (weUsed b.line.req.host) →
    ∃ c dl, exec .poolReadData s = .next { s with ctl := settled c } ∧
      c.outs = .cxlAnswer b.line.req.tag (b2n b.poison) dl (leBytes 64 b.data.toNat) :: s.ctl.outs ∧
      c.pool = { s.ctl.pool with reads := s.ctl.pool.reads.erase b } ∧ c.time = (advanceTo s.ctl b.due).time ∧
      rd c (weUsed b.line.req.host) = rd s.ctl (weUsed b.line.req.host) - 1 ∧ RegsBut [weUsed b.line.req.host] s.ctl c) ∧
  (∀ (s : State) (b : PoolBack), regsServed s.ctl = true → firstBack s.ctl.pool.writes = some b → b.line.req.pm = none →
      s.ctl.pool.closing = {} →
      1 ≤ rd s.ctl (weUsed b.line.req.host) →
    ∃ c dl, exec .poolWriteCompletion s = .next { s with ctl := settled c } ∧
      c.outs = .cxlAnswer b.line.req.tag 2 dl [] :: s.ctl.outs ∧
      c.pool = { s.ctl.pool with writes := s.ctl.pool.writes.erase b } ∧ c.time = (advanceTo s.ctl b.due).time ∧
      rd c (weUsed b.line.req.host) = rd s.ctl (weUsed b.line.req.host) - 1 ∧ RegsBut [weUsed b.line.req.host] s.ctl c)

/-- The mailboxes (R550 to R553, R569): while the host port answers, each command answers with its code and its output, and only
the two Set commands and the clearing of a log change anything else. -/
def Obligations.MailboxesAnswer : Prop :=
  ∀ s : State, hostUp s.ctl = true →
    Answers .identify s .success (.nums [rd s.ctl 0]) ∧
    Answers .backgroundOperationStatus s .success (.nums [0]) ∧
    (∀ h log, Answers (.getEventRecords h log) s .success
      (.recs (smGet s.ctl.pool.logs [] (h * 8 + log)) (smGet s.ctl.pool.overflow 0 (h * 8 + log)))) ∧
    (∀ h log n, ∃ c, exec (.clearEventRecords h log n) s = .next { s with ctl := settled (mbAnswer c .success .none) } ∧
      smGet c.pool.logs [] (h * 8 + log) = (smGet s.ctl.pool.logs [] (h * 8 + log)).drop n ∧
      smGet c.pool.overflow 0 (h * 8 + log) = 0 ∧
      (∀ k, k ≠ h * 8 + log → smGet c.pool.logs [] k = smGet s.ctl.pool.logs [] k ∧
        smGet c.pool.overflow 0 k = smGet s.ctl.pool.overflow 0 k) ∧
      { c with pool := { c.pool with logs := s.ctl.pool.logs, overflow := s.ctl.pool.overflow } } = s.ctl) ∧
    Answers .getEventInterruptPolicy s .success (.nums [s.ctl.pool.policy]) ∧
    (∀ pol, exec (.setEventInterruptPolicy pol) s = .next { s with
      ctl := settled (mbAnswer { s.ctl with pool := { s.ctl.pool with policy := pol % 2 ^ 40 } } .success .none) }) ∧
    Answers .getTimestamp s .success (.nums [cxlTime s.ctl]) ∧
    (∀ ns, exec (.setTimestamp ns) s = .next { s with
      ctl := settled (mbAnswer { s.ctl with pool := { s.ctl.pool with tsBase := ns % 2 ^ 64, tsAt := some s.ctl.time.ftc } } .success .none) }) ∧
    Answers .getSupportedLogs s .success (.nums [0]) ∧
    Answers (.getLog 0) s .success (.nums mbOpcodes) ∧
    (∀ w, w ≠ 0 → Answers (.getLog w) s .invalidInput .none) ∧
    Answers .identifyMemoryDevice s .success (.nums [0, 0]) ∧
    (∀ h, Answers (.getDynamicCapacityConfiguration h) s .success (.nums [0, 2 ^ 38, 2 ^ 28])) ∧
    (∀ h, Answers (.getDynamicCapacityExtentList h) s .success (.extents (mappedExts s.ctl h))) ∧
    Answers .getDcdInfo s .success (.nums [1, 64, 0, 2 ^ 38, 2 ^ 28]) ∧
    (∀ h, h < 64 → Answers (.getHostDcRegionConfiguration h) s .success (.nums [0, 2 ^ 38, 2 ^ 28])) ∧
    (∀ h, 64 ≤ h → Answers (.getHostDcRegionConfiguration h) s .invalidInput .none) ∧
    Answers (.setDcRegionConfiguration 0 (2 ^ 28)) s .success .none ∧
    (∀ r b, r ≠ 0 ∨ b ≠ 2 ^ 28 → Answers (.setDcRegionConfiguration r b) s .invalidInput .none) ∧
    (∀ h, Answers (.getDcRegionExtentLists h) s .success (.extentLists (allExts s.ctl h) s.ctl.pool.fmView)) ∧
    (∀ op, Answers (.unsupportedMailboxOpcode op) s .unsupported .none) ∧
    (∀ a h i, h ≤ 63 → hostValid s.ctl h = true → a = h + innerOp i * 2 ^ 16 →
      (∀ log, i = .getEventRecords log → exec (.hostProxy a i) s = exec (.getEventRecords h log) s) ∧
      (∀ log n, i = .clearEventRecords log n → exec (.hostProxy a i) s = exec (.clearEventRecords h log n) s) ∧
      (i = .getConfiguration → exec (.hostProxy a i) s = exec (.getDynamicCapacityConfiguration h) s) ∧
      (i = .getExtentList → exec (.hostProxy a i) s = exec (.getDynamicCapacityExtentList h) s) ∧
      (∀ l, i = .addResponse l → exec (.hostProxy a i) s = exec (.addDynamicCapacityResponse h l) s) ∧
      (∀ l, i = .release l → exec (.hostProxy a i) s = exec (.releaseDynamicCapacity h l) s) ∧
      (∀ op, i = .other op → Answers (.hostProxy a i) s .unsupported .none)) ∧
    (∀ a i, 63 < bits a 7 0 ∨ hostValid s.ctl (bits a 7 0) = false → Answers (.hostProxy a i) s .invalidInput .none)

/-- The life of a private extent (R565 to R569, R571, R599, R607, R610, R612, R613): offered by the policy Free or Contiguous or as named,
accepted into its entry 64 tc later unless it expires first, released to its unmap 64 tc later, or withdrawn after OFFER_TMO; scrubbed and FREE
again. A forced release beside a KILL of the same HCLK cycle fails, which is the model's reading (Assumption 84). -/
def Obligations.ExtentsComeAndGo : Prop :=
  (∀ (s : State) (h len policy tag : Nat), hostUp s.ctl = true → hostValid s.ctl h = true → poolIsFatal s.ctl = false →
      pwrState s.ctl ≠ 3 → keyLoaded s.ctl 0 h = true → policy ≤ 1 → len % 2 ^ 28 = 0 → len ≠ 0 →
      (∀ es, chooseExts s.ctl policy (len / 2 ^ 28) [] = some es → es.length ≤ hrtFree s.ctl →
        ∃ c, exec (.initiateDynamicCapacityAdd h len policy false tag []) s = .next { s with ctl := settled (mbAnswer c .success .none) } ∧
          c.pool.offers = s.ctl.pool.offers ++ es.map (fun e => ⟨h, e.1, e.2, none, s.ctl.time.ftc⟩) ∧
          (∀ e g, e ∈ es → e.1 ≤ g → g < e.1 + e.2 → gtState c g = gOFFERED ∧ gtHost c g = h % 64) ∧
          (∀ g, (∀ e, e ∈ es → ¬ (e.1 ≤ g ∧ g < e.1 + e.2)) → gtState c g = gtState s.ctl g) ∧ c.regs = s.ctl.regs) ∧
      (chooseExts s.ctl policy (len / 2 ^ 28) [] = none →
        Answers (.initiateDynamicCapacityAdd h len policy false tag []) s .resourcesExhausted .none)) ∧
  (∀ (s : State) (h : Nat) (o : Offer), hostUp s.ctl = true → s.ctl.pool.offers = [o] → o.host = h → o.first + o.cnt ≤ 1024 →
      1 ≤ o.cnt → s.ctl.time.ftc / 2 < offerEnds s.ctl o / 2 →
    ∃ c, exec (.addDynamicCapacityResponse h [(o.first * 2 ^ 28, o.cnt * 2 ^ 28)]) s = .next { s with
        ctl := settled (mbAnswer c .success .none) } ∧
      c = { s.ctl with pool := { s.ctl.pool with
              offers := [],
              mapping := s.ctl.pool.mapping ++ [⟨h, o.first, o.cnt, o.shared, false, s.ctl.time.ftc + 64⟩] } }) ∧
  (∀ (s : State) (h : Nat) (o : Offer), hostUp s.ctl = true → s.ctl.pool.offers = [o] → poolIsFatal s.ctl = false →
      o.first + o.cnt ≤ 1024 → 1 ≤ o.cnt → offerEnds s.ctl o / 2 ≤ s.ctl.time.ftc / 2 →
    ∃ c, exec (.addDynamicCapacityResponse h [(o.first * 2 ^ 28, o.cnt * 2 ^ 28)]) s = .next { s with
        ctl := settled (mbAnswer c .invalidInput .none) } ∧
      c.pool.offers = [] ∧ c.pool.mapping = s.ctl.pool.mapping ∧ OfferEnds s.ctl o c) ∧
  (∀ (s : State) (x : ExtWait), regsServed s.ctl = true → s.ctl.pool.mapping = [x] → x.shared = none → hrtFree s.ctl ≠ 0 → poolIsFatal s.ctl = false →
      x.first < 1024 → x.cnt ≤ 1024 → 1 ≤ x.cnt → x.host < 64 →
      (∃ e, e < 1024 ∧ hrtValid (smGet s.ctl.pool.hrt 0 e) = false) →
    ∃ c, exec .extentMap s = .next { s with ctl := settled c } ∧ c.pool.mapping = [] ∧ c.time = (advanceTo s.ctl x.due).time ∧
      (∃ e v, hrtValid (smGet s.ctl.pool.hrt 0 e) = false ∧
        smGet c.pool.hrt 0 e = v ∧ hrtValid v = true ∧ hrtHost v = x.host ∧ hrtFirst v = x.first ∧ hrtCount v = x.cnt ∧
        hrtShared v = false ∧ hrtRo v = false ∧ (∀ k, k ≠ e → smGet c.pool.hrt 0 k = smGet s.ctl.pool.hrt 0 k)) ∧
      (∀ g, gtState c g = if x.first ≤ g ∧ g < x.first + x.cnt then gMAPPED else gtState s.ctl g) ∧ c.regs = s.ctl.regs) ∧
  (∀ (s : State) (h f n : Nat) (e : Nat × Nat), hostUp s.ctl = true → poolIsFatal s.ctl = false → hostDead s.ctl h = false →
      f + n ≤ 1024 → 1 ≤ n → entryOf s.ctl h f n = some e → hrtShared e.2 = false → unmapWaits s.ctl h f n = false →
    ∃ c, exec (.releaseDynamicCapacity h [(f * 2 ^ 28, n * 2 ^ 28)]) s = .next { s with ctl := settled (mbAnswer c .success .none) } ∧
      c.pool.unmapping = s.ctl.pool.unmapping ++ [⟨h, f, n, none, false, s.ctl.time.ftc + 64⟩] ∧
      (∀ g, gtState c g = if f ≤ g ∧ g < f + n ∧ gtState s.ctl g = gMAPPED then gRELEASING else gtState s.ctl g) ∧
      c.pool.hrt = s.ctl.pool.hrt ∧ c.regs = s.ctl.regs) ∧
  (∀ (s : State) (h f n : Nat), hostUp s.ctl = true → hostDead s.ctl h = false → f + n ≤ 1024 → 1 ≤ n → entryOf s.ctl h f n = none →
    Answers (.releaseDynamicCapacity h [(f * 2 ^ 28, n * 2 ^ 28)]) s .invalidInput .none) ∧
  (∀ (s : State) (h f n : Nat) (o : Offer), hostUp s.ctl = true → h < 64 → poolIsFatal s.ctl = false → f + n ≤ 1024 → 1 ≤ n →
      s.ctl.pool.offers = [o] → o.host = h → o.first = f → o.cnt = n →
    ∃ c, exec (.initiateDynamicCapacityRelease h [(f * 2 ^ 28, n * 2 ^ 28)]) s = .next { s with
        ctl := settled (mbAnswer c .success .none) } ∧ c.pool.offers = [] ∧ OfferEnds s.ctl o c ∧ c.regs = s.ctl.regs) ∧
  (∀ (s : State) (h f n : Nat) (e : Nat × Nat), hostUp s.ctl = true → h < 64 → poolIsFatal s.ctl = false → hostDead s.ctl h = false →
      f + n ≤ 1024 → 1 ≤ n → s.ctl.pool.offers = [] → entryOf s.ctl h f n = some e → hrtShared e.2 = false →
      unmapWaits s.ctl h f n = false → gtState s.ctl f ≠ gQUARANTINE →
    ∃ c, exec (.initiateDynamicCapacityRelease h [(f * 2 ^ 28, n * 2 ^ 28)]) s = .next { s with
        ctl := settled (mbAnswer c .success .none) } ∧
      (∀ g, gtState c g = if f ≤ g ∧ g < f + n ∧ gtState s.ctl g = gMAPPED then gRELEASING else gtState s.ctl g) ∧
      c.pool.unmapping = s.ctl.pool.unmapping ∧ c.pool.hrt = s.ctl.pool.hrt ∧ c.regs = s.ctl.regs) ∧
  (∀ (s : State) (h f n : Nat) (e : Nat × Nat), hostUp s.ctl = true → h < 64 → poolIsFatal s.ctl = false → f + n ≤ 1024 → 1 ≤ n →
      s.ctl.pool.offers = [] → entryOf s.ctl h f n = some e → hrtShared e.2 = false → unmapWaits s.ctl h f n = false →
      gtState s.ctl f ≠ gQUARANTINE → killNow s.ctl h = false →
    ∃ c, exec (.forcedRelease h [(f * 2 ^ 28, n * 2 ^ 28)]) s = .next { s with ctl := settled (mbAnswer c .success .none) } ∧
      c.pool.unmapping = s.ctl.pool.unmapping ++ [⟨h, f, n, none, true, s.ctl.time.ftc + 64⟩] ∧
      (∀ g, gtState c g = if f ≤ g ∧ g < f + n ∧ gtState s.ctl g = gMAPPED then gRELEASING else gtState s.ctl g) ∧
      c.regs = s.ctl.regs) ∧
  (∀ (s : State) (h f n : Nat), hostUp s.ctl = true → h < 64 → f + n ≤ 1024 → 1 ≤ n → s.ctl.pool.offers = [] →
      gtState s.ctl f ≠ gQUARANTINE → killNow s.ctl h = true →
    Answers (.forcedRelease h [(f * 2 ^ 28, n * 2 ^ 28)]) s .invalidInput .none) ∧
  (∀ (s : State) (x : ExtWait) (e : Nat × Nat), regsServed s.ctl = true → s.ctl.pool.kills = [] → s.ctl.pool.unmapping = [x] → x.shared = none → poolIsFatal s.ctl = false →
      entryOf s.ctl x.host x.first x.cnt = some e → hrtShared e.2 = false →
    ∃ c, exec .unmap s = .next { s with ctl := settled c } ∧ c.pool.unmapping = [] ∧ smGet c.pool.hrt 0 e.1 = 0 ∧
      (∀ k, k ≠ e.1 → smGet c.pool.hrt 0 k = smGet s.ctl.pool.hrt 0 k) ∧ c.time = (advanceTo s.ctl x.due).time ∧
      (∀ r, r ∈ c.pool.waiting → ¬ (r.host = x.host ∧ hrtCovers e.2 (bits r.dpa 37 28) = true))) ∧
  (∀ (s : State) (o : Offer), regsServed s.ctl = true → poolIsFatal s.ctl = false → s.ctl.pool.offers = [o] →
    ∃ c, exec .offerTimeout s = .next { s with ctl := settled c } ∧ c.pool.offers = [] ∧
      c.time = (advanceTo s.ctl (offerEnds s.ctl o)).time ∧
      (∃ ts, c.pool.fmView = s.ctl.pool.fmView ++ [{ kind := 2, what := 8, dpa := o.first * 2 ^ 28, len := o.cnt * 2 ^ 28, ts := ts }]) ∧
      OfferEnds s.ctl o c ∧ c.regs = s.ctl.regs) ∧
  (∀ (s : State) (st k : Nat), st < 8 → regsServed s.ctl = true → smGet s.ctl.pool.scrubbing 0 st = k → k ≠ 0 → k ≤ 1024 → (k - 1) % 8 = st →
      poolIsFatal s.ctl = false →
      (∀ i, i < 64 → scrubSlots ≤ smGet s.ctl.pool.scrubDone 0 (64 * st + i)) →
    ∃ c, exec (.scrubComplete st) s = .next { s with ctl := settled c } ∧
      gtState c (k - 1) = (if granFailed s.ctl (k - 1) = true then gBROKEN else gFREE) ∧
      (∀ g, g ≠ k - 1 → gtState c g = gtState s.ctl g) ∧ c.regs = s.ctl.regs)

/-- Shared regions, keys and hosts (R555, R573, R577, R581, R583, R602, R619, R624, R631 to R633): definition and deletion, loading and
erasing a key, the death and the revival of a host, the decoder's base, and endpoint-fatal state. -/
def Obligations.RegionsKeysAndHosts : Prop :=
  (∀ (s : State) (r : Nat), r < 64 → regsServed s.ctl = true → srDef s.ctl r = false → keyLoaded s.ctl 1 r = true → srTag s.ctl r ≠ 0 →
      (∀ k, k < 64 → srDef s.ctl k = true → srTag s.ctl k ≠ srTag s.ctl r) →
    ∃ c, exec (.srDefine r) s = .next { s with ctl := settled c } ∧ srDef c r = true ∧ OnlyRegs [srBase r] s.ctl c) ∧
  (∀ (s : State) (r : Nat), regsServed s.ctl = true → srDef s.ctl r = false → srTag s.ctl r = 0 →
    exec (.srDefine r) s = .next { s with ctl := settled (discard s.ctl (srBase r) 0) }) ∧
  (∀ (s : State) (r : Nat), r < 64 → regsServed s.ctl = true → srMembers s.ctl r = 0 → s.ctl.pool.offers = [] → s.ctl.pool.mapping = [] →
      poolIsFatal s.ctl = false →
    ∃ c, exec (.srDelete r) s = .next { s with ctl := settled c } ∧ srDef c r = false ∧ OnlyRegs [srBase r] { s.ctl with pool := c.pool } c ∧
      (∀ g, g < 1024 → gtState c g = if srHas s.ctl r g = true then gSCRUB else gtState s.ctl g)) ∧
  (∀ (s : State) (r : Nat), regsServed s.ctl = true → srMembers s.ctl r ≠ 0 →
    exec (.srDelete r) s = .next { s with ctl := settled (discard s.ctl (srBase r) 0) }) ∧
  (∀ (s : State) (kind slot : Nat), kind < 2 → slot < 64 → regsServed s.ctl = true → s.ctl.pool.keyTill ≤ s.ctl.time.ftc →
      keyLoaded s.ctl kind slot = false → keyWords s.ctl % 2 ^ 256 ≠ keyWords s.ctl / 2 ^ 256 → keyWords s.ctl % 2 ^ 256 ≠ 0 →
      keyWords s.ctl / 2 ^ 256 ≠ 0 →
    ∃ c, exec (.keyLoad kind slot) s = .next { s with ctl := settled c } ∧ keyLoaded c kind slot = true ∧
      smGet c.pool.keys 0 (64 * kind + slot) = BitVec.ofNat 512 (keyWords s.ctl) ∧ c.pool.keyData = {} ∧
      c.pool.keyTill = s.ctl.time.ftc + 64 ∧ fld c 0x26044 2 0 = 1 ∧
      RegsBut [0x26040, 0x26044, 0x26048 + 8 * kind + 4 * (slot / 32)] s.ctl c) ∧
  (∀ (s : State) (kind slot : Nat), kind < 2 → slot < 64 → regsServed s.ctl = true → s.ctl.pool.keyTill ≤ s.ctl.time.ftc →
    ∃ c, exec (.keyErase kind slot) s = .next { s with ctl := settled c } ∧ c.pool.keyData = {} ∧
      (keyInUse s.ctl kind slot = true → fld c 0x26044 2 0 = 4 ∧ c.pool.keys = s.ctl.pool.keys) ∧
      (keyInUse s.ctl kind slot = false → fld c 0x26044 2 0 = 1 ∧ keyLoaded c kind slot = false ∧
        smGet c.pool.keys 0 (64 * kind + slot) = 0) ∧
      (∀ k, k ≠ 64 * kind + slot → smGet c.pool.keys 0 k = smGet s.ctl.pool.keys 0 k) ∧
      RegsBut [0x26040, 0x26044, 0x26048 + 8 * kind + 4 * (slot / 32)] s.ctl c) ∧
  (∀ (s : State) (h : Nat), h < 64 → regsServed s.ctl = true → hostValid s.ctl h = true →
    ∃ c, exec (.kill h) s = .next { s with ctl := settled c } ∧ c.pool.kills = s.ctl.pool.kills ++ [(h, s.ctl.time.ftc + 64)] ∧
      fld c 0x2000C 9 8 = 1 ∧ fld c 0x2000C 5 0 = h ∧ (∀ x, x ∈ c.pool.unmapping → x ∈ s.ctl.pool.unmapping) ∧
      OnlyRegs [0x2000C] s.ctl { c with pool := s.ctl.pool }) ∧
  (∀ (s : State) (h : Nat), regsServed s.ctl = true → hostValid s.ctl h = false →
    exec (.kill h) s = .next { s with ctl := settled (discard s.ctl 0x2000C 0) }) ∧
  (∀ (s : State) (h due : Nat) (r : List (Nat × Nat)), h < 64 → regsServed s.ctl = true → s.ctl.pool.kills = (h, due) :: r →
      (∀ x, x ∈ s.ctl.pool.unmapping → due ≤ x.due) →
    ∃ c, exec .unmap s = .next { s with ctl := settled c } ∧ hostDead c h = true ∧ rd c (weTok h) = 0 ∧ c.pool.kills = r ∧
      c.time = (advanceTo s.ctl due).time ∧
      (∀ o, o ∈ c.pool.offers → o.host ≠ h) ∧ (∀ x, x ∈ c.pool.mapping ++ c.pool.unmapping → x.host ≠ h) ∧
      (∀ r, r < 64 → bitN (srMembers c r) h = false) ∧ (∀ k, k < 64 → k ≠ h → hostDead c k = hostDead s.ctl k)) ∧
  (∀ (s : State) (h : Nat), h < 64 → regsServed s.ctl = true → hostValid s.ctl h = true → hrtOf s.ctl h = [] → s.ctl.pool.gt = {} →
    ∃ c, exec (.revive h) s = .next { s with ctl := settled c } ∧ hostDead c h = false ∧ rd c (weTok h) = 0 ∧
      OnlyRegs [0x2000C, hitLo h, weTok h] s.ctl c) ∧
  (∀ (s : State) (base : Nat), hostUp s.ctl = true → hitHeld s.ctl (localHost s.ctl) = false →
      spidTaken s.ctl (localHost s.ctl) (fld s.ctl (hitLo (localHost s.ctl)) 11 0) = false → overTracked s.ctl (localHost s.ctl) = false →
    ∃ c, exec (.hdmDecoderCommit base) s = .next { s with ctl := settled c } ∧ hostValid c (localHost s.ctl) = true ∧
      hpaBase c (localHost s.ctl) = base / 2 ^ 28 % 2 ^ 24 * 2 ^ 28 ∧
      OnlyRegs [hitLo (localHost s.ctl), hitHi (localHost s.ctl)] s.ctl c) ∧
  (∀ (s : State) (base : Nat), hostUp s.ctl = true → hitHeld s.ctl (localHost s.ctl) = false → overTracked s.ctl (localHost s.ctl) = true →
    ∃ c, exec (.hdmDecoderCommit base) s = .next { s with ctl := settled c } ∧ hostValid c (localHost s.ctl) = false ∧
      OnlyRegs [hitHi (localHost s.ctl)] s.ctl c) ∧
  (∀ (s : State) (cause : Nat), poolIsFatal s.ctl = false → cause < 8 →
    ∃ c, exec (.endpointFatal cause) s = .next { s with ctl := settled c } ∧ poolIsFatal c = true ∧ fld c 0x20014 3 1 = cause ∧
      c.pool.waiting = [] ∧ c.pool.lines = [] ∧ c.pool.reads = [] ∧ Emit.errMsg 2 ∈ c.outs) ∧
  (∀ (s : State) (cause : Nat), poolIsFatal s.ctl = true → exec (.endpointFatal cause) s = .next { s with ctl := settled s.ctl })

/-- PAGE_MOVE and its pages (R592, R593, R913): a command that fails a check completes with its status; one that passes is queued and its
first page's lines join the weir; when all of a page's lines are back it goes to the host, as writes of the owning function, and the next page,
or the next command, starts; a command whose read of host memory failed ends after that page with STATUS 5. -/
def Obligations.PageMoversMovePages : Prop :=
  (∀ (s : State) (fn : Nat) (page : Option Bytes) (e : Bytes), Taken s.ctl fn 0 0x30 e → s.ctl.ev.contained = false →
      pmCheck s.ctl fn (leAt e 8 1) (pmCmdOf e (refOf fn 0 e)) ≠ 0 →
    ∃ c, exec (.pageMove fn page) s = .next { s with ctl := settled c } ∧
      c.hi.done = s.ctl.hi.done ++ [⟨refOf fn 0 e, 0, pmCheck s.ctl fn (leAt e 8 1) (pmCmdOf e (refOf fn 0 e)), 0⟩] ∧
      { c with hi := s.ctl.hi } = s.ctl) ∧
  (∀ (s : State) (fn : Nat) (page : Option Bytes) (e : Bytes) (m : Nat) (k : PmCmd), Taken s.ctl fn 0 0x30 e → s.ctl.ev.contained = false → m = leAt e 8 1 →
      k = pmCmdOf e (refOf fn 0 e) → pmCheck s.ctl fn m k = 0 → (pmOf s.ctl m).cmds = [] → (pmOf s.ctl m).page = false →
      (k.dir = 1 → pageBytes k ≤ (page.getD []).length) → (∀ i, i < pageLines k → granted s.ctl k.host (pageDpa k + 64 * i) (decide (k.dir = 1)) = true) → poolIsFatal s.ctl = false →
    ∃ c, exec (.pageMove fn page) s = .next { s with ctl := settled c } ∧ (pmOf c m).cmds = [k] ∧ (pmOf c m).page = true ∧
      c.pool.waiting.map (fun r => (r.host, r.dpa, r.pm, r.idx)) = s.ctl.pool.waiting.map (fun r => (r.host, r.dpa, r.pm, r.idx)) ++
        (List.range (pageLines k)).map (fun i => (k.host, pageDpa k + 64 * i, some m, i)) ∧
      c.hi.done = s.ctl.hi.done ∧ RegsBut [pmStat m] s.ctl c) ∧
  (∀ (s : State) (m : Nat) (k : PmCmd) (page : Option Bytes), alive s.ctl = true → (pmOf s.ctl m).cmds = [k] → (pmOf s.ctl m).page = true → m < 16 →
      pageLines k ≤ (pmOf s.ctl m).got.entries.length → k.npages ≤ k.moved + 1 → k.dir = 1 → k.ref.ring ≠ 0xFF → k.moved < 256 →
      (pmOf s.ctl m).dma = false →
    ∃ c, exec (.pageDone m page) s = .next { s with ctl := settled c } ∧ (pmOf c m).cmds = [] ∧ (pmOf c m).page = false ∧
      c.hi.done = s.ctl.hi.done ++ [⟨k.ref, 0, if k.poison then 6 else 0, k.moved + 1⟩] ∧
      rd c (pmCtrl m + 8) = satU 32 (rd s.ctl (pmCtrl m + 8) + 1) ∧ RegsBut [pmCtrl m + 8, pmStat m] s.ctl c) ∧
  (∀ (s : State) (m : Nat) (k : PmCmd) (page : Option Bytes) (d : Nat → BitVec 512), alive s.ctl = true → (pmOf s.ctl m).cmds = [k] →
      (pmOf s.ctl m).page = true → m < 16 → (pmOf s.ctl m).got.entries.length = pageLines k →
      (∀ x, x ∈ (pmOf s.ctl m).got.entries → x.2 = some (d x.1, false)) →
      (∀ i, i < pageLines k → smGet (pmOf s.ctl m).got none i = some (d i, false)) →
      k.npages ≤ k.moved + 1 → k.dir = 0 → k.ref.ring ≠ 0xFF → k.moved < 256 → (pmOf s.ctl m).dma = false →
    ∃ c, exec (.pageDone m page) s = .next { s with ctl := settled c } ∧ (pmOf c m).cmds = [] ∧
      (∀ i, i < pageLines k → Emit.pageWrite k.ref.fn (pageHost k + 64 * i) false (leBytes 64 (d i).toNat) ∈ c.outs) ∧
      c.hi.done = s.ctl.hi.done ++ [⟨k.ref, 0, if k.poison then 6 else 0, k.moved + 1⟩] ∧
      RegsBut [pmCtrl m + 8, pmStat m] s.ctl c) ∧
  (∀ (s : State) (m : Nat) (k : PmCmd) (page : Option Bytes), alive s.ctl = true → (pmOf s.ctl m).cmds = [k] → (pmOf s.ctl m).page = true →
      m < 16 → pageLines k ≤ (pmOf s.ctl m).got.entries.length → k.ref.ring ≠ 0xFF → (pmOf s.ctl m).dma = true →
    ∃ c, exec (.pageDone m page) s = .next { s with ctl := settled c } ∧ (pmOf c m).cmds = [] ∧ (pmOf c m).page = false ∧
      c.hi.done = s.ctl.hi.done ++ [⟨k.ref, 0, 5, k.moved % 512⟩] ∧ RegsBut [pmStat m] s.ctl c)

/-! The links. -/

/-- A link trains and comes UP (R655 to R659, R708): ADAPT, ALIGN, EXCHANGE, MEASURE, UP, one step at a time; an identity that is not the
one configured, a NACK, a delay out of bounds or 25 ms end it in FAULT with its CAUSE; the NACK owed for a wrong identity leaves in the link's next
frame, before the squelch. -/
def Obligations.LinksTrainAndComeUp : Prop :=
  (∀ (s : State) (l : Nat), alive s.ctl = true → lkLive s.ctl l = true → lkStep s.ctl l = 1 →
    ∃ c, exec (.adaptComplete l) s = .next { s with ctl := settled c } ∧ lkStep c l = 2 ∧ lkState c l = lkState s.ctl l ∧
      OnlyRegs [lkStat l] s.ctl c) ∧
  (∀ (s : State) (m : MarkersSeen), alive s.ctl = true → lkLive s.ctl m.link = true → lkStep s.ctl m.link = 2 → m.gap = 1024 →
      m.first.toNat / 2 ^ 16 = 0x9E4B17D26C35 → m.second.toNat / 2 ^ 16 = 0x9E4B17D26C35 → m.first.toNat % 2 ^ 8 < 32 →
      m.second.toNat % 2 ^ 8 < 32 →
    ∃ c, exec (.alignComplete m) s = .next { s with ctl := settled c } ∧ lkStep c m.link = 3 ∧
      lkState c m.link = lkState s.ctl m.link ∧ (strm c m.link).rxCode = 2 ∧ (strm c m.link).rxMiss = 0 ∧
      OnlyRegs [lkStat m.link] s.ctl { c with lk := s.ctl.lk }) ∧
  (∀ (s : State) (m : MarkersSeen), m.gap ≠ 1024 ∨ m.first.toNat / 2 ^ 16 ≠ 0x9E4B17D26C35 ∨ m.second.toNat / 2 ^ 16 ≠ 0x9E4B17D26C35 →
    exec (.alignComplete m) s = .next { s with ctl := settled s.ctl }) ∧
  (∀ l n, l < 32 → isMarker (alignMarker l n) = true ∧ alignMarker l n / 2 ^ 16 = 0x9E4B17D26C35 ∧ alignMarker l n % 2 ^ 8 = l ∧
    alignMarker l n / 2 ^ 8 % 2 ^ 8 = n % 2 ^ 8) ∧
  (∀ i (bs : List Bool), bs.length ≤ bodyBits i → scramble i (scramble i bs) = bs) ∧
  (∀ (s : State) (l pay : Nat), alive s.ctl = true → lkLive s.ctl l = true → 3 ≤ lkStep s.ctl l → bitN pay 49 = false →
      bitN pay 50 = false → bits pay 47 32 = fld s.ctl (lkPeer l) 31 16 → bits pay 28 24 = fld s.ctl (lkPeer l) 12 8 →
      bits pay 15 0 = fld s.ctl rGlbFabric 31 16 →
    ∃ c, exec (.ident l pay) s = .next { s with ctl := settled c } ∧
      lkStep c l = (if bitN pay 48 = true ∧ lkStep s.ctl l = 3 then 4 else lkStep s.ctl l) ∧ lkState c l = lkState s.ctl l ∧
      rd c (lkSeen l) = bits pay 47 32 * 2 ^ 16 + bits pay 28 24 * 2 ^ 8 + 1 ∧ smGet c.lk.acked false l = true ∧
      RegsBut [lkStat l, lkSeen l] s.ctl c ∧ c.ev = s.ctl.ev ∧ c.outs = s.ctl.outs) ∧
  (∀ (s : State) (l pay : Nat), alive s.ctl = true → lkLive s.ctl l = true → 3 ≤ lkStep s.ctl l → bitN pay 49 = true →
    ∃ c, exec (.ident l pay) s = .next { s with ctl := settled c } ∧ lkState c l = 3 ∧ fld c (lkStat l) 15 12 = 3 ∧ lkStep c l = 0 ∧
      c.ev = (raise s.ctl 0x43C3 noPart (unitLk s.ctl l) 0).ev ∧ RegsBut ([lkStat l, lkSeen l] ++ cutCnts s.ctl l) s.ctl c) ∧
  (∀ (s : State) (l pay : Nat), alive s.ctl = true → lkLive s.ctl l = true → 3 ≤ lkStep s.ctl l → bitN pay 49 = false →
      bits pay 47 32 ≠ fld s.ctl (lkPeer l) 31 16 →
    ∃ c, exec (.ident l pay) s = .next { s with ctl := settled c } ∧ lkState c l = 3 ∧ fld c (lkStat l) 15 12 = 2 ∧ lkStep c l = 0 ∧
      smGet c.lk.owed 0 l = identPayload s.ctl l false true + 1 ∧
      RegsBut ([lkStat l, lkSeen l] ++ cutCnts s.ctl l) s.ctl c) ∧
  (∀ (s : State) (l k w : Nat), l < 32 → linksRun s.ctl = true → lkState s.ctl l = 3 → smGet s.ctl.lk.owed 0 l = w + 1 →
      s.ctl.time.epoch = true → k = slotFrom (max s.ctl.time.ftc (smGet s.ctl.lk.sent 0 l) - s.ctl.time.passAt) → k < lslots s.ctl →
    ∃ c, exec (.parcelTransmit l) s = .next { s with ctl := settled c } ∧ Departs s.ctl c l k (frameBytes 1 k (6 * 2 ^ 60 + w) []) ∧
      smGet c.lk.owed 0 l = 0 ∧ RegsBut [lkCnt l 12] s.ctl c) ∧
  (∀ (s : State) (l : Nat) (ex : List (Nat × Nat)) (m : Int), alive s.ctl = true → lkLive s.ctl l = true → lkStep s.ctl l = 4 →
      (ex.map (fun x => (x.1 : Int) - x.2)).sum = 32 * m → m ≤ 960 →
    ∃ c, exec (.measureComplete l ex) s = .next { s with ctl := settled c } ∧ rd c (lkDelay l) = ux 16 m ∧
      smGet c.lk.mayUp 0 l = 1 + (if s.ctl.time.epoch = true then firstPassAfter s.ctl s.ctl.time.ftc else 0) ∧
      c.lk = { s.ctl.lk with mayUp := c.lk.mayUp } ∧ RegsBut [lkDelay l] s.ctl c) ∧
  (∀ (s : State) (l : Nat) (ex : List (Nat × Nat)), alive s.ctl = true → lkLive s.ctl l = true → lkStep s.ctl l = 4 →
      32 * 960 < (ex.map (fun x => (x.1 : Int) - x.2)).sum →
    ∃ c, exec (.measureComplete l ex) s = .next { s with ctl := settled c } ∧ lkState c l = 3 ∧ fld c (lkStat l) 15 12 = 4 ∧
      lkStep c l = 0 ∧ RegsBut ([lkStat l, lkDelay l] ++ cutCnts s.ctl l) s.ctl c) ∧
  (∀ (s : State) (l : Nat), alive s.ctl = true → lkLive s.ctl l = true → lkStep s.ctl l = 4 → smGet s.ctl.lk.mayUp 0 l ≠ 0 →
      (s.ctl.time.epoch = false ∨ smGet s.ctl.lk.mayUp 0 l ≤ s.ctl.time.pass + 1) →
    ∃ c, exec (.linkUp l) s = .next { s with ctl := settled c } ∧ lkUp c l = true ∧ smGet c.lk.mayUp 0 l = 0 ∧
      smGet c.lk.notUp 0 l = 0 ∧ OnlyRegs [lkStat l] { s.ctl with lk := c.lk } c) ∧
  (∀ (s : State) (l : Nat), alive s.ctl = true → lkState s.ctl l = 1 → lkStep s.ctl l ≠ 5 → s.ctl.time.epoch = false →
    ∃ c, exec (.trainTimeout l) s = .next { s with ctl := settled c } ∧ lkState c l = 3 ∧ fld c (lkStat l) 15 12 = 1 ∧ lkStep c l = 0 ∧
      c.time = (advanceTo s.ctl (smGet s.ctl.lk.trainAt 0 l + 31250000)).time ∧ RegsBut [lkStat l] s.ctl c)

/-- Parcels cross the fabric (R660, R666, R674 to R678, R681, R686): a line is read from the sending tile, a frame leaves in its slot, a
frame in its window fills its receive buffer, a parcel is written into the receiving tile and counts an arrival, or goes on by its route, in the next pass when its slot lies there, or is
dropped and counted without one; a delivery that a boundary cut goes on. -/
def Obligations.ParcelsCrossTheFabric : Prop :=
  (∀ (s : State) (l k p n f : Nat) (e : Bytes) (old : TxBuf), alive s.ctl = true → s.ctl.time.epoch = true → k < lslots s.ctl →
      p = linkOwner s.ctl l k → p < 32 →
      n = (if s.ctl.time.passAt + slotOff k ≥ s.ctl.time.ftc then s.ctl.time.pass else s.ctl.time.pass + 1) →
      lowest ((acting s.ctl p l k n false).filter (fun e => !xFwd e)) = some e →
      (smGet s.ctl.lk.tx none (l * 1024 + k) = some old ∧ old.pass = n ∨
        smGet s.ctl.lk.tx none (l * 1024 + k) = none ∧ old = ⟨n, [], 0, false⟩) → old.data.length < 256 →
      firstPhase s.ctl (xTile e) p (max (max (lslotStart s.ctl n k - 160) s.ctl.time.ftc)
        (max (tile s.ctl (xTile e)).phaseAt old.lastAt)) = some f →
      parcelBefore s.ctl l k n (xTile e) = false → s.ctl.time.phase = 0 → s.ctl.pwr.chip = false → f < nextBoundary s.ctl →
      CodesSound s.mem (xTile e) (xAddr e k + old.data.length) 64 →
    ∃ c b, exec (.parcelLineRead l k) s = .next { s with ctl := settled c } ∧ smGet c.lk.tx none (l * 1024 + k) = some b ∧
      b = { old with
            data := old.data ++ readBytes s.mem.tm (tmAt (xTile e) (xAddr e k + old.data.length)) 64,
            lastAt := f } ∧
      c.time = (advanceTo s.ctl f).time ∧ c.regs = s.ctl.regs ∧ (∀ u, u ≠ xTile e → tile c u = tile s.ctl u) ∧
      tile c (xTile e) = { tile s.ctl (xTile e) with
        phaseAt := f + 1, rxUsed := (f :: (tile s.ctl (xTile e)).rxUsed).take 64, rxBank := (xAddr e k + old.data.length) / 64 % 16 }) ∧
  (∀ (s : State) (l k n : Nat) (e : Bytes), s.ctl.time.epoch = true → alive s.ctl = true →
      n = (if s.ctl.time.passAt + slotOff k ≥ s.ctl.time.ftc then s.ctl.time.pass else s.ctl.time.pass + 1) →
      lowest ((acting s.ctl (linkOwner s.ctl l k) l k n false).filter (fun e => !xFwd e)) = some e → parcelBefore s.ctl l k n (xTile e) = true →
    exec (.parcelLineRead l k) s = .next { s with ctl := settled s.ctl }) ∧
  (∀ (s : State) (l k kind lose : Nat) (pay : Bytes), linksRun s.ctl = true → l < 32 → lkState s.ctl l = 1 → lkStep s.ctl l = 5 →
      s.ctl.time.epoch = true → k = slotFrom (max s.ctl.time.ftc (smGet s.ctl.lk.sent 0 l) - s.ctl.time.passAt) → k < lslots s.ctl →
      slotContent s.ctl l k s.ctl.time.pass = (kind, pay, lose, false) → kind ≠ 4 →
    ∃ c sb, exec (.parcelTransmit l) s = .next { s with ctl := settled c } ∧
      Departs s.ctl c l k (frameBytes kind k sb pay) ∧
      rd c (lkCnt l 0) = satU 32 (rd s.ctl (lkCnt l 0) + (if kind = 2 ∨ kind = 3 then 1 else 0)) ∧
      rd c (lkCnt l 10) = satU 32 (rd s.ctl (lkCnt l 10) + lose) ∧
      smGet c.lk.sent 0 l = s.ctl.time.passAt + slotOff k + 1 ∧ RegsBut [lkCnt l 0, lkCnt l 10] s.ctl c) ∧
  (∀ (s : State) (l ago fill k a : Nat) (crc : Byte) (raw early : Bytes) (codes : List LinkCode), alive s.ctl = true →
      lkLive s.ctl l = true → lkStep s.ctl l = 5 → lkTakes s.ctl l s.ctl.time.pass = true →
      (streamRead s.ctl l fill codes).frame = some raw → s.ctl.time.epoch = true → k < lslots s.ctl → leAt raw 0 1 = 0x20 + k % 16 → a = ftc16 s.ctl - ago →
      a ≤ 16 * (lslotStart s.ctl s.ctl.time.pass k + 20) + fld s.ctl (lkDelay l) 15 0 + 256 →
      16 * (lslotStart s.ctl s.ctl.time.pass k + 20) + fld s.ctl (lkDelay l) 15 0 ≤ a + 256 →
      s.ctl.time.ftc ≤ lslotStart s.ctl s.ctl.time.pass k + 288 → smGet s.ctl.lk.rx none (l * 8 + k % 8) = none →
    ∃ c, exec (.linkFrame l ago fill crc early codes) s = .next { s with ctl := settled c } ∧
      smGet c.lk.rx none (l * 8 + k % 8) = some ⟨s.ctl.time.pass, k, 2, slotOwner s.ctl l k s.ctl.time.pass, slice raw 10 256⟩ ∧
      smGet c.lk.got (0, 0) (l * 1024 + k) = (s.ctl.time.pass + 1, 2) ∧
      rd c (lkCnt l 1) = satU 32 (rd s.ctl (lkCnt l 1) + 1) ∧
      rd c (lkCnt l 2) = satU 32 (rd s.ctl (lkCnt l 2) + (streamRead s.ctl l fill codes).corr) ∧
      strm c l = strm (streamRead s.ctl l fill codes).ctl l ∧
      RegsBut [lkCnt l 1, lkCnt l 2, lkCnt l 3, lkCnt l 4, lkCnt l 14, lkCnt l 15] s.ctl c) ∧
  (∀ (s : State) (l ago fill : Nat) (crc : Byte) (early : Bytes) (codes : List LinkCode), alive s.ctl = true → lkLive s.ctl l = true →
      3 ≤ lkStep s.ctl l → (strm s.ctl l).rxCode ≠ 0 → (streamRead s.ctl l fill codes).frame = none →
    ∃ c, exec (.linkFrame l ago fill crc early codes) s = .next { s with ctl := settled c } ∧
      rd c (lkCnt l 3) = satU 32 (rd s.ctl (lkCnt l 3) + (codes.filter (fun w => (decodeCode w).isNone)).length) ∧
      c.lk = (streamRead s.ctl l fill codes).ctl.lk ∧ RegsBut [lkCnt l 2, lkCnt l 3, lkCnt l 4, lkCnt l 14, lkCnt l 15] s.ctl c) ∧
  (∀ (s : State) (l k n p t0 t : Nat) (b : RxBuf) (e : Bytes), alive s.ctl = true → s.ctl.time.epoch = true → l < 32 → k < lslots s.ctl →
      n = slotDue s.ctl k 312 (smGet s.ctl.lk.done 0 (l * 1024 + k)) → smGet s.ctl.lk.done 0 (l * 1024 + k) ≤ n →
      t0 = lslotStart s.ctl n k + 312 → Ahead s.ctl t0 → (∀ w, w ∈ s.ctl.lk.work → ¬ (w.link = l ∧ w.slot = k)) → s.ctl.noc.flight = [] →
      smGet s.ctl.lk.got (0, 0) (l * 1024 + k) = (n + 1, 2) → smGet s.ctl.lk.rx none (l * 8 + k % 8) = some b → b.pass = n →
      b.slot = k → b.kind = 2 → p = slotOwner s.ctl l k n → p < 32 →
      lowest ((acting s.ctl p l k n true).filter (fun e => !xFwd e)) = some e →
      xReduce e = false → t = xTile e → ptPasses s.ctl p = true → tileOwner s.ctl t < 32 → clearing s.ctl t = false →
      xAddr e k % 64 = 0 → xAddr e k + 256 ≤ 2 ^ 19 →
      (nextPhases s.ctl t p 4 (max t0 (tile s.ctl t).phaseAt)).length = 4 →
      (∀ f, f ∈ nextPhases s.ctl t p 4 (max t0 (tile s.ctl t).phaseAt) → f < nextBoundary s.ctl) →
    ∃ c m, exec (.parcelDelivery l k) s = .next { s with ctl := settled c, mem := m } ∧
      readBytes m.tm (tmAt t (xAddr e k)) 256 = slice b.data 0 256 ∧
      (∀ j, ¬ (tmAt t (xAddr e k) ≤ j ∧ j < tmAt t (xAddr e k) + 256) → smGet m.tm 0 j = smGet s.mem.tm 0 j) ∧
      { m with tm := s.mem.tm, badWord := s.mem.badWord, weakWord := s.mem.weakWord } = s.mem ∧
      rdAcnt (tile c t) 6 = satU 16 (rdAcnt (tile s.ctl t) 6 + 1) ∧ (∀ u, u ≠ t → tile c u = tile s.ctl u) ∧
      rd c (lkCnt l 7) = rd s.ctl (lkCnt l 7) ∧ smGet c.lk.rx none (l * 8 + k % 8) = none ∧ c.regs = s.ctl.regs) ∧
  (∀ (s : State) (l k : Nat) (w : RxWork), alive s.ctl = true → s.ctl.time.epoch = true →
      s.ctl.lk.work.find? (fun w => w.link = l ∧ w.slot = k) = some w →
    exec (.parcelDelivery l k) s = .next { s with
      ctl := settled (deliverOn w (s.ctl, s.mem)).1, mem := (deliverOn w (s.ctl, s.mem)).2 }) ∧
  (∀ (s : State) (l k n t0 x p : Nat) (b : RxBuf) (e : Bytes), alive s.ctl = true → s.ctl.time.epoch = true → l < 32 → k < lslots s.ctl →
      n = slotDue s.ctl k 288 (max (smGet s.ctl.lk.done 0 (l * 1024 + k)) (smGet s.ctl.lk.passed 0 (l * 1024 + k))) →
      smGet s.ctl.lk.done 0 (l * 1024 + k) ≤ n → n ≤ s.ctl.time.pass → t0 = lslotStart s.ctl n k + 288 → Ahead s.ctl t0 →
      smGet s.ctl.lk.got (0, 0) (l * 1024 + k) = (n + 1, 2) → smGet s.ctl.lk.rx none (l * 8 + k % 8) = some b → b.pass = n →
      b.slot = k → b.kind = 2 → p = slotOwner s.ctl l k n → p < 32 → lowest ((acting s.ctl p l k n true).filter xFwd) = some e →
      smGet s.ctl.lk.passed 0 (l * 1024 + k) ≤ n →
    ∃ c, exec (.parcelForward l k) s = .next { s with ctl := settled c } ∧ c.time = { s.ctl.time with ftc := t0 } ∧
      (k + 6 < lslots s.ctl → xPeer e ≠ plezorId s.ctl → routeTo s.ctl (xPeer e) = some x → lkUp s.ctl x = true →
        lkTakes s.ctl x n = true → linkOwner s.ctl x (k + 6) = p →
        c.lk.fwd = s.ctl.lk.fwd ++ [⟨x, k + 6, n, 2, b.data, p, xPeer e, l, k, n⟩] ∧ c.regs = s.ctl.regs ∧ c.lk.rx = s.ctl.lk.rx) ∧
      (k + 6 < lslots s.ctl → routeTo s.ctl (xPeer e) = none → c.lk.fwd = s.ctl.lk.fwd ∧ smGet c.lk.rx none (l * 8 + k % 8) = none ∧
        rd c (lkCnt l 11) = satU 32 (rd s.ctl (lkCnt l 11) + 1) ∧ RegsBut [lkCnt l 11] s.ctl c) ∧
      (lslots s.ctl ≤ k + 6 → n = s.ctl.time.pass →
        c.lk.fwd = s.ctl.lk.fwd ++ [⟨32, k + 6 - lslots s.ctl, n + 1, 2, b.data, p, xPeer e, l, k, n⟩] ∧ c.regs = s.ctl.regs ∧ c.lk.rx = s.ctl.lk.rx))

/-- Failures, detours and what else links bring (R672, R692 to R700, R966, R967): an UP link that fails is in FAULT, recorded, and told on
every other UP link; a FAIL received is recorded once; a partition with an alternative switches at its boundary, for a failure recorded while no epoch ran at the first one of the epoch; CLR makes an entry
invalid; a TRIG fires its channels; the third word of a stamp makes it known. -/
def Obligations.FailuresDetoursAndSidebands : Prop :=
  (∀ (s : State) (l why n e id o : Nat), alive s.ctl = true → s.ctl.pwr.chip = false → lkUp s.ctl l = true →
      (why = 5 ∧ n ≤ 64 ∨ why = 6 ∧ fld s.ctl rLkCfg 7 0 ≤ ((strm s.ctl l).rxBad.filter (fun b => b)).length ∨
        why = 7 ∧ 2 ≤ (strm s.ctl l).rxMiss) → e < 32 → failValid s.ctl e = false →
      (∀ j, j < e → failValid s.ctl j = true) → id = smGet s.ctl.lk.lastId 0 l - 1 → o < 32 → o ≠ l → lkUp s.ctl o = true →
      lkState s.ctl o = 1 →
    ∃ c, exec (.linkFailure l why n) s = .next { s with ctl := settled c } ∧ lkState c l = 3 ∧ fld c (lkStat l) 15 12 = why ∧
      lkStep c l = 0 ∧ failValid c e = true ∧ rbit c (lkFail e) 30 = true ∧ failId c e = id % 2 ^ 16 ∧ failLink c e = id / 2 ^ 16 % 32 ∧
      failPass c e = passNo s.ctl ∧
      smGet c.lk.sb [] o = smGet s.ctl.lk.sb [] o ++ [⟨5, failPayload id (id / 2 ^ 16) (passNo s.ctl), none⟩] ∧
      RegsBut ([lkStat l, lkFail e, lkFail e + 4, lkFail e + 8] ++ cutCnts s.ctl l) s.ctl c) ∧
  (∀ (s : State) (l n : Nat), 64 < n → exec (.linkFailure l 5 n) s = .next { s with ctl := settled s.ctl }) ∧
  (∀ (s : State) (l pay e pf : Nat), alive s.ctl = true → lkLive s.ctl l = true → 3 ≤ lkStep s.ctl l →
      pf = ux 48 (nearestMod ((passNo s.ctl : Nat) : Int) (pay % 2 ^ 32) (2 ^ 32)) →
      (∀ j, j < 32 → ¬ (failValid s.ctl j = true ∧ failId s.ctl j = bits pay 55 40 ∧ failLink s.ctl j = bits pay 39 35 ∧
        failPass s.ctl j = pf)) → e < 32 → failValid s.ctl e = false → (∀ j, j < e → failValid s.ctl j = true) →
    ∃ c, exec (.fail l pay) s = .next { s with ctl := settled c } ∧ failValid c e = true ∧ rbit c (lkFail e) 30 = false ∧
      failId c e = bits pay 55 40 ∧ failLink c e = bits pay 39 35 ∧ failPass c e = pf ∧
      (∀ o, o < 32 → o ≠ l → lkUp s.ctl o = true → lkState s.ctl o = 1 →
        smGet c.lk.sb [] o = smGet s.ctl.lk.sb [] o ++ [⟨5, failPayload (bits pay 55 40) (bits pay 39 35) pf, none⟩]) ∧
      smGet c.lk.sb [] l = smGet s.ctl.lk.sb [] l ∧ RegsBut [lkFail e, lkFail e + 4, lkFail e + 8] s.ctl c) ∧
  (∀ (s : State) (l pay j : Nat), alive s.ctl = true → lkLive s.ctl l = true → 3 ≤ lkStep s.ctl l → j < 32 →
      failValid s.ctl j = true → failId s.ctl j = bits pay 55 40 → failLink s.ctl j = bits pay 39 35 →
      failPass s.ctl j = ux 48 (nearestMod ((passNo s.ctl : Nat) : Int) (pay % 2 ^ 32) (2 ^ 32)) →
    exec (.fail l pay) s = .next { s with ctl := settled s.ctl }) ∧
  (∀ (s : State) (e p : Nat), alive s.ctl = true → s.ctl.time.epoch = true → s.ctl.lk.switched = [] → e < 32 → failValid s.ctl e = true →
      (∀ j, j < 32 → j ≠ e → failValid s.ctl j = false) → p < 32 → smGet s.ctl.lk.failRec 0 e ≠ 0 →
      smGet s.ctl.lk.failRec 0 e - 1 < failPass s.ctl e + detourD s.ctl p → failPass s.ctl e + detourD s.ctl p ≤ s.ctl.time.pass →
    ∃ c, exec .detourSwitch s = .next { s with ctl := settled c } ∧
      (⟨p, failId s.ctl e, failLink s.ctl e, failPass s.ctl e, failPass s.ctl e + detourD s.ctl p,
        (altFor s.ctl p (failId s.ctl e) (failLink s.ctl e)).isSome⟩ : Detoured) ∈ c.lk.switched ∧ c.regs = s.ctl.regs) ∧
  (∀ (s : State) (e p f : Nat), alive s.ctl = true → s.ctl.time.epoch = true → s.ctl.lk.switched = [] → e < 32 → failValid s.ctl e = true →
      (∀ j, j < 32 → j ≠ e → failValid s.ctl j = false) → p < 32 → smGet s.ctl.lk.failRec 0 e = 0 → f = rd64 s.ctl rEpochFirst % 2 ^ 48 →
      failPass s.ctl e + detourD s.ctl p ≤ f ∨ failPass s.ctl e = 2 ^ 48 - 1 → f ≤ s.ctl.time.pass →
    ∃ c, exec .detourSwitch s = .next { s with ctl := settled c } ∧
      (⟨p, failId s.ctl e, failLink s.ctl e, failPass s.ctl e, f,
        (altFor s.ctl p (failId s.ctl e) (failLink s.ctl e)).isSome⟩ : Detoured) ∈ c.lk.switched ∧ c.regs = s.ctl.regs) ∧
  (∀ (s : State) (e : Nat), e < 32 → regsServed s.ctl = true → stagedWait s.ctl = false → failValid s.ctl e = true →
    ∃ c, exec (.failClear e) s = .next { s with ctl := settled c } ∧ failValid c e = false ∧
      (∀ d, d ∈ c.lk.switched → ¬ (d.id = failId s.ctl e ∧ d.link = failLink s.ctl e ∧ d.pfail = failPass s.ctl e)) ∧
      RegsBut [lkFail e, lkFail e + 4, lkFail e + 8] s.ctl c) ∧
  (∀ (s : State) (e : Nat), e < 32 → regsServed s.ctl = true → stagedWait s.ctl = true →
    exec (.failClear e) s = .next { s with ctl := settled { s.ctl with staged := s.ctl.staged ++
      [{ off := lkFail e, hi := 29, lo := 29, val := 1, acc := s.ctl.time.ftc, vf := false }] } }) ∧
  (∀ (s : State) (l ch src seq : Nat), l < 32 → rootLock s.ctl = true → s.ctl.time.refclk = true →
      bitN (rd s.ctl (hub 0x100)) l = true → rbit s.ctl rEvCtrl 19 = false →
    ∃ c, exec (.trig l ch src seq) s = .next { s with ctl := settled (fireCh c (ch % 2 ^ 16 &&& bits (rd s.ctl (hub 0x104)) 31 16) false) } ∧
      (∀ k, k < 32 → smGet c.lk.sb [] k = smGet s.ctl.lk.sb [] k ++
        (if ch % 2 ^ 16 &&& bits (rd s.ctl (hub 0x104)) 15 0 ≠ 0 ∧ bitN (rd s.ctl (hub 0x100)) k = true ∧ Sys2Proof.Machine.linkUp s.ctl k = true ∧
             sbTakes s.ctl k 2 = true ∧ k ≠ l
         then [⟨2, trigPayload (ch % 2 ^ 16 &&& bits (rd s.ctl (hub 0x104)) 15 0) src seq, none⟩] else [])) ∧
      c.regs = s.ctl.regs) ∧
  (∀ (s : State) (l ch src seq : Nat), l < 32 → rootLock s.ctl = true → s.ctl.time.refclk = true →
      bitN (rd s.ctl (hub 0x100)) l = false →
    ∃ c, exec (.trig l ch src seq) s = .next { s with ctl := settled c } ∧
      rd c (hub 0x804) = satU 32 (rd s.ctl (hub 0x804) + 1) ∧ OnlyRegs [hub 0x804] s.ctl c) ∧
  (∀ (s : State) (l a b pay : Nat), alive s.ctl = true → lkLive s.ctl l = true → 3 ≤ lkStep s.ctl l → spMaster s.ctl = false →
      fld s.ctl rStampIn 4 0 = l → rbit s.ctl rStampIn 5 = true → s.ctl.lk.stampIn = [a, b] → bits pay 55 54 = 2 →
      bits a 53 48 = bits pay 53 48 →
    ∃ c, exec (.stampWord l pay) s = .next { s with ctl := settled c } ∧ c.lk.stampIn = [] ∧
      c.sp = { s.ctl.sp with relayed := s.ctl.sp.relayed ++ [({
                              pass := bits a 47 0, seq := bits a 53 48, angle := bits b 47 24, speed := bits b 23 0,
                              source := bits pay 47 32, mt := bits pay 31 16, status := bits pay 15 0 }, s.ctl.time.ftc)] }) ∧
  (∀ (s : State) (l pay : Nat), alive s.ctl = true → lkLive s.ctl l = true → 3 ≤ lkStep s.ctl l → spMaster s.ctl = false →
      fld s.ctl rStampIn 4 0 = l → rbit s.ctl rStampIn 5 = true → s.ctl.lk.stampIn = [] → bits pay 55 54 = 0 →
    exec (.stampWord l pay) s = .next { s with ctl := settled { s.ctl with lk := { s.ctl.lk with stampIn := [pay] } } }) ∧
  (∀ (s : State) (l pay : Nat), alive s.ctl = true → lkLive s.ctl l = true → 3 ≤ lkStep s.ctl l → spMaster s.ctl = false →
      fld s.ctl rStampIn 4 0 = l → rbit s.ctl rStampIn 5 = true → s.ctl.lk.stampIn = [] → bits pay 55 54 ≠ 0 →
    ∃ c, exec (.stampWord l pay) s = .next { s with ctl := settled c } ∧ c.lk = s.ctl.lk ∧
      rd c (lkCnt l 4) = satU 32 (rd s.ctl (lkCnt l 4) + 1) ∧ OnlyRegs [lkCnt l 4] s.ctl c)

/-! The spindle. -/

/-- Sampling, the observer and its faults (R366, R367, R715, R718 to R722, R726, R730, R731, R734, R735, R739, R759): a pair of samples is
the correlation of its modulator bits with the excitation, corrected; an update moves the observer on in TRACK and not in HOLD, and ACQ
ends in TRACK; a conversion fault puts it in HOLD and its end in ACQ; ramps, SP_SET, HOME edges and captures take effect. -/
def Obligations.SpindleSamplesAndObserves : Prop :=
  (∀ (s : State) (sb cb t div h cyc : Nat), alive s.ctl = true → s.ctl.time.phase = 0 → s.ctl.pwr.chip = false →
      t = nextGrid s.ctl 800 s.ctl.sp.pairAt → (s.ctl.time.epoch = false ∨ t ≤ nextBoundary s.ctl) → div = max 1 (spDiv s.ctl) →
      h = shiftBits s.ctl.sp.sBits sb → cyc = (s.ctl.sp.cyc + 16) % div → capturing s.ctl 0 = false → lateAt s.ctl t = [] →
    ∃ c, exec (.samplePair sb cb) s = .next { s with ctl := settled c } ∧ c.time = { s.ctl.time with ftc := t } ∧ c.sp.pairAt = t + 1 ∧
      c.sp.cyc = cyc ∧ c.sp.sBits = h ∧ c.sp.cBits = shiftBits s.ctl.sp.cBits cb ∧
      c.sp.sm = demodQ div ((List.range div).map (fun j => (if bitN h j = true then 1 else -1) *
        sinTurn (((cyc + 2 * div - j) % div * 65536 + (65536 - rd s.ctl (sp 0x0C) % 65536) * div) % (div * 65536)) (div * 65536))).sum ∧
      (c.sp.s, c.sp.c) = correct s.ctl c.sp.sm c.sp.cm ∧ c.regs = s.ctl.regs) ∧
  (∀ (s : State) (sb cb t x : Nat), alive s.ctl = true → s.ctl.time.phase = 0 → s.ctl.pwr.chip = false →
      t = nextGrid s.ctl 800 s.ctl.sp.pairAt → (s.ctl.time.epoch = false ∨ t ≤ nextBoundary s.ctl) → s.ctl.sp.pairAt ≠ 0 →
      s.ctl.sp.exc = 2 → x = s.ctl.sp.pairAt - 1 + 50 * (max 1 (spDiv s.ctl) - s.ctl.sp.cyc) → x ≤ t → s.ctl.sp.crossAt ≠ x + 1 →
      lateAt s.ctl t = [] →
    ∃ c, exec (.samplePair sb cb) s = .next { s with ctl := settled c } ∧
      c.sp.amp = (if x < s.ctl.sp.ampFrom then s.ctl.sp.ampOld else spAmp s.ctl) ∧ c.sp.crossAt = x + 1 ∧
      c.outs = (if c.sp.amp = s.ctl.sp.amp then s.ctl.outs else .pin 5 c.sp.amp :: s.ctl.outs)) ∧
  (∀ s : State, alive s.ctl = true → s.ctl.time.phase = 0 → s.ctl.pwr.chip = false → spObs s.ctl = 1 →
      (s.ctl.time.epoch = false ∨ nextGrid s.ctl 6400 s.ctl.sp.updAt ≤ nextBoundary s.ctl) → lateAt s.ctl (nextGrid s.ctl 6400 s.ctl.sp.updAt) = [] →
    ∃ c, exec .observerUpdate s = .next { s with ctl := settled c } ∧ c.time = { s.ctl.time with ftc := nextGrid s.ctl 6400 s.ctl.sp.updAt } ∧
      c.sp.en = obsEn s.ctl ∧ c.sp.w = satS 32 (s.ctl.sp.w + k2Delta (fld s.ctl rSpCfg 6 4) (obsEn s.ctl)) ∧
      c.sp.th = ux 40 ((s.ctl.sp.th : Int) + 16 * c.sp.w + k1Delta (fld s.ctl rSpCfg 6 4) (obsEn s.ctl)) ∧ c.sp.updAt = c.time.ftc + 1 ∧
      rd c (sp 0x4C) = ux 32 (spSpeed c) ∧ spObs c = 1) ∧
  (∀ s : State, alive s.ctl = true → s.ctl.time.phase = 0 → s.ctl.pwr.chip = false → spObs s.ctl = 2 →
      (s.ctl.time.epoch = false ∨ nextGrid s.ctl 6400 s.ctl.sp.updAt ≤ nextBoundary s.ctl) → lateAt s.ctl (nextGrid s.ctl 6400 s.ctl.sp.updAt) = [] →
    ∃ c, exec .observerUpdate s = .next { s with ctl := settled c } ∧ c.sp.en = obsEn s.ctl ∧ c.sp.w = s.ctl.sp.w ∧
      c.sp.th = s.ctl.sp.th ∧ spObs c = 2) ∧
  (∀ s : State, alive s.ctl = true → s.ctl.time.phase = 0 → s.ctl.pwr.chip = false → spObs s.ctl = 0 → 511 ≤ s.ctl.sp.acqN →
      63 ≤ s.ctl.sp.inWin → deltaOver (obsEn s.ctl) 256 = false → fld s.ctl (sp 0x58) 21 0 = 0 →
      (s.ctl.time.epoch = false ∨ nextGrid s.ctl 6400 s.ctl.sp.updAt ≤ nextBoundary s.ctl) → lateAt s.ctl (nextGrid s.ctl 6400 s.ctl.sp.updAt) = [] →
    ∃ c, exec .observerUpdate s = .next { s with ctl := settled c } ∧ spObs c = 1 ∧ spValid c = true ∧ c.sp.tracked = true) ∧
  (∀ (s : State) (i : Nat), i < 4 → alive s.ctl = true → converting s.ctl = true → rbit s.ctl (sp 0x5C) (4 + i) = false →
      faultNeed i ≤ smGet s.ctl.sp.faultN 0 i →
    ∃ c, exec (.conversionFault i) s = .next { s with ctl := settled c } ∧ rbit c (sp 0x5C) (4 + i) = true ∧ rbit c (sp 0x5C) i = true ∧
      spObs c = 2 ∧ spValid c = false ∧ rd c (sp 0xA0) = satU 32 (rd s.ctl (sp 0xA0) + 1) ∧
      c.ev = (raise s.ctl 0x6401 noPart (unitSp s.ctl) (fld c (sp 0x5C) 7 4)).ev ∧
      RegsBut [sp 0x5C, sp 0xA0, rSpStat, ee 0x0C] s.ctl c) ∧
  (∀ (s : State) (i : Nat), i < 4 → alive s.ctl = true → rbit s.ctl (sp 0x5C) (4 + i) = true → 64 ≤ smGet s.ctl.sp.clearN 0 i →
      converting s.ctl = true →
    ∃ c, exec (.conversionFaultEnd i) s = .next { s with ctl := settled c } ∧ rbit c (sp 0x5C) (4 + i) = false ∧
      (∀ j, j < 4 → j ≠ i → rbit c (sp 0x5C) (4 + j) = rbit s.ctl (sp 0x5C) (4 + j)) ∧ spObs c = 0 ∧ c.sp.acqN = 0 ∧
      RegsBut [sp 0x5C, rSpStat] s.ctl c ∧ { c with regs := s.ctl.regs, sp := s.ctl.sp } = s.ctl) ∧
  (∀ s : State, alive s.ctl = true → s.ctl.sp.exc = 1 → (s.ctl.time.epoch = false ∨
      (s.ctl.sp.rampEnd ≤ nextBoundary s.ctl ∧ s.ctl.time.phase = 0)) →
    ∃ c, exec .excitationRampEnd s = .next { s with ctl := settled c } ∧ c.sp.exc = 2 ∧ spObs c = 0 ∧
      c.sp.amp = (ampCross (advanceTo s.ctl s.ctl.sp.rampEnd)).sp.amp ∧ c.outs = .pin 5 c.sp.amp :: s.ctl.outs ∧ OnlyRegs [rSpStat] { s.ctl with sp := c.sp, outs := c.outs, time := c.time } c) ∧
  (∀ s : State, alive s.ctl = true → s.ctl.sp.exc = 3 → (s.ctl.time.epoch = false ∨
      (s.ctl.sp.rampEnd ≤ nextBoundary s.ctl ∧ s.ctl.time.phase = 0)) →
    ∃ c, exec .excitationRampEnd s = .next { s with ctl := settled c } ∧
      c.sp = { (ampCross (advanceTo s.ctl s.ctl.sp.rampEnd)).sp with exc := 0 } ∧
      c.outs = .pin 5 0 :: s.ctl.outs ∧ c.regs = s.ctl.regs) ∧
  (∀ (s : State) (v : Word), alive s.ctl = true → bitN v.toNat 31 = true → spValid s.ctl = true → bits v.toNat 18 16 < spP s.ctl →
    ∃ c, exec (.spSet v) s = .next { s with ctl := settled c } ∧
      c.sp = { s.ctl.sp with setLoad := some (bits v.toNat 18 16, bits v.toNat 15 0) } ∧ RegsBut [sp 0x50] s.ctl c ∧
      { c with regs := s.ctl.regs, sp := s.ctl.sp } = s.ctl) ∧
  (∀ (s : State) (v : Word), alive s.ctl = true → bitN v.toNat 31 = true → spValid s.ctl = false →
    exec (.spSet v) s = .next { s with ctl := settled (discard s.ctl (sp 0x50) 0) }) ∧
  (∀ (s : State) (falling : Bool), alive s.ctl = true → rbit s.ctl (sp 0x54) 31 = true → spValid s.ctl = true →
      rbit s.ctl (sp 0x54) 30 = falling →
    ∃ c, exec (.homeEdge falling) s = .next { s with ctl := settled c } ∧ rbit c (sp 0x54) 31 = false ∧
      c.sp = { s.ctl.sp with homeLoad := some (fld s.ctl (sp 0x54) 18 16 % spP s.ctl, fld s.ctl (sp 0x54) 15 0) } ∧
      OnlyRegs [sp 0x54] { s.ctl with sp := c.sp } c) ∧
  (∀ (s : State) (falling : Bool), alive s.ctl = true → rbit s.ctl (sp 0x54) 30 ≠ falling →
    exec (.homeEdge falling) s = .next { s with ctl := settled s.ctl }) ∧
  (∀ (s : State) (v : Word), alive s.ctl = true → bitN v.toNat 31 = true → rbit s.ctl (sp 0x90) 29 = false → bits v.toNat 23 8 ≠ 0 →
    ∃ c, exec (.spindleCapture v) s = .next { s with ctl := settled c } ∧ fld c (sp 0x90) 23 8 = bits v.toNat 23 8 ∧
      fld c (sp 0x90) 0 0 = v.toNat % 2 ∧ rbit c (sp 0x90) 29 = true ∧ rbit c (sp 0x90) 30 = false ∧
      c.sp = { s.ctl.sp with captN := 0, captSkip := 0 } ∧ OnlyRegs [sp 0x90] { s.ctl with sp := c.sp } c) ∧
  (∀ (s : State) (v : Word), alive s.ctl = true → bitN v.toNat 31 = true → rbit s.ctl (sp 0x90) 29 = true →
    ∃ c, exec (.spindleCapture v) s = .next { s with ctl := settled (discard c (sp 0x90) 0) } ∧ fld c (sp 0x90) 0 0 = v.toNat % 2 ∧
      fld c (sp 0x90) 23 8 = (if bits v.toNat 23 8 = 0 then fld s.ctl (sp 0x90) 23 8 else bits v.toNat 23 8) ∧
      rbit c (sp 0x90) 29 = true ∧ OnlyRegs [sp 0x90] s.ctl c)

/-- Stamps, latch and encoder (R741 to R748, R751 to R758): the windows of a pass hold its stamp; a master relays it on its links; an edge
of SPINDLE_LATCH makes an entry and POP takes the oldest, or clears D0 to D3 with none; the emulator moves one count toward its target and shows it on ENC. -/
def Obligations.StampsLatchesAndEncoderCounts : Prop :=
  (∀ (s : State) (p t f a : Nat) (x : AngleStamp), alive s.ctl = true → s.ctl.time.epoch = true → s.ctl.time.phase = 0 →
      s.ctl.sp.windowAt ≠ s.ctl.time.pass + 1 → spSrc s.ctl = false → s.ctl.sp.stamp = some x → x.pass = s.ctl.time.pass % 2 ^ 48 →
      p < 32 → stampTile s.ctl p = some t → (∀ q, q < 32 → q ≠ p → stampTile s.ctl q = none) →
      firstPhase s.ctl t 0x44 (s.ctl.time.passAt + 16) = some f → tileOwner s.ctl t < 32 → clearing s.ctl t = false →
      a = params s.ctl p 8 4 % 2 ^ 19 → a % 64 = 0 → a + 64 ≤ 2 ^ 19 →
    ∃ c m, exec .stampWindowWrite s = .next { s with ctl := settled c, mem := m } ∧ c.sp.windowAt = s.ctl.time.pass + 1 ∧
      readBytes m.tm (tmAt t a) 64 = stampBytes s.ctl (some x) ∧ readLe m.tm (tmAt t a) 6 = x.pass ∧
      readLe m.tm (tmAt t a + 8) 4 = x.angle % 2 ^ 32 ∧
      (∀ j, ¬ (tmAt t a ≤ j ∧ j < tmAt t a + 64) → smGet m.tm 0 j = smGet s.mem.tm 0 j) ∧
      { m with tm := s.mem.tm, badWord := s.mem.badWord, weakWord := s.mem.weakWord } = s.mem ∧ c.regs = s.ctl.regs) ∧
  (∀ (s : State) (x : AngleStamp) (l : Nat), alive s.ctl = true → s.ctl.time.epoch = true → spMaster s.ctl = true →
      s.ctl.sp.stamp = some x → x.pass = s.ctl.time.pass % 2 ^ 48 → s.ctl.time.pass % max 1 (fld s.ctl (sp 0x60) 15 8) = 0 →
      s.ctl.sp.relayAt ≠ s.ctl.time.pass + 1 → l < 32 → bitN (rd s.ctl rStampOut) l = true → lkUp s.ctl l = true →
      (∀ w, w ∈ smGet s.ctl.lk.sb [] l → w.kind ≠ 3) →
    ∃ c, exec .stampRelay s = .next { s with ctl := settled c } ∧
      c.sp = { s.ctl.sp with seq := (s.ctl.sp.seq + 1) % 64, relayAt := s.ctl.time.pass + 1 } ∧
      smGet c.lk.sb [] l = smGet s.ctl.lk.sb [] l ++
        [⟨3, s.ctl.sp.seq % 64 * 2 ^ 48 + x.pass, none⟩, ⟨3, 2 ^ 54 + s.ctl.sp.seq % 64 * 2 ^ 48 + x.angle * 2 ^ 24 + x.speed, none⟩,
         ⟨3, 2 * 2 ^ 54 + s.ctl.sp.seq % 64 * 2 ^ 48 + x.source * 2 ^ 32 + x.mt * 2 ^ 16 + x.status, none⟩]) ∧
  (∀ (s : State) (rising : Bool), alive s.ctl = true → rbit s.ctl (sp 0x70) 0 = true →
      rbit s.ctl (sp 0x70) (if rising = true then 1 else 2) = true → s.ctl.sp.latch.length < 16 →
    ∃ c ts d2 d3, exec (.latchEdge rising) s = .next { s with ctl := settled c } ∧ c.sp.latch = s.ctl.sp.latch ++ [(ts, d2, d3)] ∧
      ts = stampBack s.ctl (s.ctl.time.ftc / 10 * 10 - 20) ∧ d2.testBit 31 = rising ∧ d2.testBit 30 = spValid s.ctl ∧
      bits d2 23 0 = (anglesAt s.ctl (s.ctl.time.ftc / 10 * 10 - 20)).2 ∧ bits d3 31 16 = spMt s.ctl ∧
      fld c (sp 0x74) 4 0 = s.ctl.sp.latch.length + 1 ∧ OnlyRegs [sp 0x74] { s.ctl with sp := c.sp } c) ∧
  (∀ (s : State) (rising : Bool), alive s.ctl = true → rbit s.ctl (sp 0x70) 0 = true →
      rbit s.ctl (sp 0x70) (if rising = true then 1 else 2) = true → 16 ≤ s.ctl.sp.latch.length →
    ∃ c, exec (.latchEdge rising) s = .next { s with ctl := settled c } ∧ c.sp = s.ctl.sp ∧ rbit c (sp 0x74) 8 = true ∧
      rd c (sp 0xA4) = satU 32 (rd s.ctl (sp 0xA4) + 1) ∧ OnlyRegs [sp 0x74, sp 0xA4] { s.ctl with w1cSet := c.w1cSet } c) ∧
  (∀ (s : State) (ts d2 d3 : Nat) (r : List (Nat × Nat × Nat)), alive s.ctl = true → s.ctl.sp.latch = (ts, d2, d3) :: r →
      ts < 2 ^ 64 → d2 < 2 ^ 32 → d3 < 2 ^ 32 →
    ∃ c, exec .latchPop s = .next { s with ctl := settled c } ∧ c.sp.latch = r ∧ rd64 c (sp 0x80) = ts ∧ rd c (sp 0x88) = d2 ∧
      rd c (sp 0x8C) = d3 ∧ fld c (sp 0x74) 4 0 = r.length % 32 ∧
      OnlyRegs [sp 0x74, sp 0x80, sp 0x84, sp 0x88, sp 0x8C] { s.ctl with sp := c.sp } c) ∧
  (∀ s : State, alive s.ctl = true → s.ctl.sp.latch = [] →
    ∃ c, exec .latchPop s = .next { s with ctl := settled c } ∧ rd64 c (sp 0x80) = 0 ∧ rd c (sp 0x88) = 0 ∧ rd c (sp 0x8C) = 0 ∧
      OnlyRegs [sp 0x80, sp 0x84, sp 0x88, sp 0x8C] s.ctl c) ∧
  (∀ (s : State) (t target : Nat), alive s.ctl = true → rbit s.ctl (ee 0) 0 = true → rbit s.ctl (ee 0x0C) 1 = false →
      eeValid s.ctl = true → s.ctl.time.phase = 0 → s.ctl.pwr.chip = false → (s.ctl.time.epoch = false ∨ t ≤ nextBoundary s.ctl) →
      t = ceilDiv (max s.ctl.time.ftc (if s.ctl.sp.edgeAt = 0 then 0 else s.ctl.sp.edgeAt - 1 + 10 * fld s.ctl (ee 0) 15 8)) 10 * 10 →
      target = eeTarget s.ctl t → 0 < eeLag s.ctl target → 4 * (eeLag s.ctl target).natAbs < eeN s.ctl →
      (eeLag s.ctl target).natAbs ≤ rd s.ctl (ee 8) % 2 ^ 18 → chainHeld s.ctl = false →
    ∃ c, exec .encoderCount s = .next { s with ctl := settled c } ∧ c.time = { s.ctl.time with ftc := t } ∧
      rd c (ee 0x10) = (rd s.ctl (ee 0x10) + 1) % eeN s.ctl ∧ c.sp = { s.ctl.sp with edgeAt := t + 1 } ∧
      c.outs = .pin 2 (encLevels s.ctl (rd c (ee 0x10))) :: s.ctl.outs ∧ RegsBut [ee 0x0C, ee 0x10, ee 0x14] s.ctl c) ∧
  (∀ s : State, alive s.ctl = true → rbit s.ctl (ee 0) 0 = false → eeValid s.ctl = true →
    ∃ c, exec (.encoderRun true) s = .next { s with ctl := settled c } ∧ rbit c (ee 0) 0 = true ∧ rbit c (ee 0x0C) 0 = true ∧
      rbit c (ee 0x0C) 1 = false ∧ rd c (ee 0x10) = eeTarget s.ctl s.ctl.time.ftc ∧ OnlyRegs [ee 0, ee 0x0C, ee 0x10, ee 0x14] s.ctl c) ∧
  (∀ s : State, alive s.ctl = true →
    ∃ c, exec (.encoderRun false) s = .next { s with ctl := settled c } ∧ rbit c (ee 0) 0 = false ∧ rbit c (ee 0x0C) 0 = false ∧
      OnlyRegs [ee 0, ee 0x0C] s.ctl c)

/-! The control engine and its tuning tools. -/

/-- Samples, commands and outputs (R773 to R777, R779, R780, R793, R794, R808 to R813, R818, R819): a sample takes its inputs, acts on the
commands accepted 8 tc before it and moves the generator; ARM, hardware inputs, misses and stale trims change MSTATE and the outputs as the
rules say; an output instant sends u. -/
def Obligations.ControlEngineSamplesAndCommands : Prop :=
  (∀ (s : State) (a0 a1 t : Nat) (ext : Bool), Sampled s.ctl t → mstate s.ctl = 1 → s.ctl.ce.cmds = [] → s.ctl.ce.home = 0 →
      s.ctl.ce.safeHeld = false →
    ∃ c, exec (.ceSample a0 a1 ext) s = .next { s with ctl := settled c } ∧ c.time = { s.ctl.time with ftc := t } ∧ mstate c = 1 ∧
      c.ce.sampleAt = t + 1 ∧ c.ce.mech = rd s.ctl (sp 0x40) % 2 ^ 24 ∧ c.ce.pos = spMt s.ctl * 2 ^ 24 + c.ce.mech ∧
      c.ce.v = spSpeed s.ctl ∧ c.ce.rp = c.ce.pos * 2 ^ 24 ∧ c.ce.rv = c.ce.v * 2 ^ 24 ∧ c.ce.ra = 0 ∧ c.ce.u = s.ctl.ce.u ∧
      c.ce.trimApp = 0 ∧ c.ce.outDue = some (t + 10 * fld s.ctl (ce 0x104) 9 0, false) ∧ fld c (ce 0x110) 11 0 = a0 % 2 ^ 12 ∧
      fld c (ce 0x110) 27 16 = a1 % 2 ^ 12 ∧ RegsBut [rCeStat, ce 0x110, ce 0xF8] s.ctl c) ∧
  (∀ (s : State) (a0 a1 t : Nat) (ext : Bool) (vt dv : Int), Sampled s.ctl t → mstate s.ctl = 2 → s.ctl.ce.cmds = [] → s.ctl.ce.home = 0 →
      s.ctl.ce.safeHeld = false → fld s.ctl rCeMode 11 10 = 0 → jMax s.ctl = 0 → unidir s.ctl = false →
      vt = clampI (-(vMax s.ctl)) (vMax s.ctl) (vTgt s.ctl) → dv = dvOf s.ctl (sgn (vt - s.ctl.ce.rv) * aMax s.ctl) →
    ∃ c, exec (.ceSample a0 a1 ext) s = .next { s with ctl := settled c } ∧ mstate c = 2 ∧
      c.ce.rv = (if vt ≠ s.ctl.ce.rv ∧ sgn (vt - (s.ctl.ce.rv + dv)) ≠ sgn (vt - s.ctl.ce.rv) then vt else s.ctl.ce.rv + dv) ∧
      c.ce.rp = ux 64 ((s.ctl.ce.rp : Int) + dpOf s.ctl c.ce.rv) ∧ c.ce.v = spSpeed s.ctl) ∧
  (∀ (s : State) (a0 a1 t t0 : Nat) (ext : Bool) (x : Ctl), Sampled s.ctl t → mstate s.ctl = 1 → s.ctl.ce.cmds = [(1, t0)] → t0 + 8 ≤ t →
      s.ctl.ce.home = 0 → x = ceInputs a0 a1 (advanceTo s.ctl t) →
      startErr x (fld s.ctl rCeMode 11 10) (commandedDir x (fld s.ctl rCeMode 11 10)) = 0 →
    ∃ c, exec (.ceSample a0 a1 ext) s = .next { s with ctl := settled c } ∧ mstate c = 2 ∧ fld c rCeStat 23 20 = 0 ∧ c.ce.cmds = [] ∧
      c.ce.rp = c.ce.pos * 2 ^ 24 ∧ c.ce.rv = c.ce.v * 2 ^ 24) ∧
  (∀ (s : State) (a0 a1 t t0 : Nat) (ext : Bool) (x : Ctl), Sampled s.ctl t → mstate s.ctl = 1 → s.ctl.ce.cmds = [(1, t0)] → t0 + 8 ≤ t →
      s.ctl.ce.home = 0 → s.ctl.ce.safeHeld = false → x = ceInputs a0 a1 (advanceTo s.ctl t) →
      startErr x (fld s.ctl rCeMode 11 10) (commandedDir x (fld s.ctl rCeMode 11 10)) ≠ 0 →
    ∃ c, exec (.ceSample a0 a1 ext) s = .next { s with ctl := settled c } ∧ mstate c = 1 ∧
      fld c rCeStat 23 20 = startErr x (fld s.ctl rCeMode 11 10) (commandedDir x (fld s.ctl rCeMode 11 10)) ∧
      rd c (ce 0x128) = satU 32 (rd s.ctl (ce 0x128) + 1)) ∧
  (∀ (s : State) (a0 a1 t t0 : Nat) (ext : Bool), Sampled s.ctl t → mstate s.ctl = 2 → s.ctl.ce.cmds = [(2, t0)] → t0 + 8 ≤ t →
      s.ctl.ce.home = 0 → ceU s.ctl 24 0xBC < ((spSpeed s.ctl).natAbs : Int) →
    ∃ c, exec (.ceSample a0 a1 ext) s = .next { s with ctl := settled c } ∧ mstate c = 3 ∧ c.ce.cmds = []) ∧
  (∀ (s : State) (a0 a1 t t0 : Nat) (ext : Bool), Sampled s.ctl t → mstate s.ctl = 2 ∨ mstate s.ctl = 3 → s.ctl.ce.cmds = [(3, t0)] →
      t0 + 8 ≤ t →
    ∃ c, exec (.ceSample a0 a1 ext) s = .next { s with ctl := settled c } ∧ mstate c = 1 ∧ c.ce.cmds = []) ∧
  (∀ (s : State) (a0 a1 t t0 : Nat) (ext : Bool), Sampled s.ctl t → mstate s.ctl = 5 → s.ctl.ce.cmds = [(4, t0)] → t0 + 8 ≤ t →
      s.ctl.ce.home = 0 → stopLow s.ctl = false → mfaultLow s.ctl = false → ceTimingOk s.ctl = true →
    ∃ c, exec (.ceSample a0 a1 ext) s = .next { s with ctl := settled c } ∧ mstate c = 1 ∧ fld c rCeStat 19 16 = 0) ∧
  (∀ (s : State) (a0 a1 t t0 : Nat) (ext : Bool), Sampled s.ctl t → mstate s.ctl = 1 → s.ctl.ce.cmds = [(5, t0)] → t0 + 8 ≤ t →
      homeV s.ctl ≠ 0 → (unidir s.ctl = false ∨ 0 < homeV s.ctl) →
      startErr (ceInputs a0 a1 (advanceTo s.ctl t)) 0 (homeV s.ctl) = 0 →
    ∃ c, exec (.ceSample a0 a1 ext) s = .next { s with ctl := settled c } ∧ mstate c = 2 ∧ c.ce.home = 1 ∧ rbit c rCeStat 14 = false ∧
      rbit c (sp 0x54) 31 = true) ∧
  (∀ (s : State) (i : Instr) (op : Nat), (i = .start ∧ op = 1) ∨ (i = .stop ∧ op = 2) ∨ (i = .qstop ∧ op = 3) ∨ (i = .clrFault ∧ op = 4) ∨
      (i = .home ∧ op = 5) → alive s.ctl = true → mstate s.ctl ≠ 4 →
    exec i s = .next { s with ctl := settled { s.ctl with ce := { s.ctl.ce with cmds := s.ctl.ce.cmds ++ [(op, s.ctl.time.ftc)] } } }) ∧
  (∀ (s : State) (i : Instr), i = .stop ∨ i = .qstop → alive s.ctl = true → mstate s.ctl = 4 →
    ∃ c, exec i s = .next { s with ctl := settled c } ∧ mstate c = 1 ∧ c.ce.cmds = s.ctl.ce.cmds ∧ RegsBut [rCeStat] s.ctl c) ∧
  (∀ s : State, alive s.ctl = true → rbit s.ctl rCeCtrl 0 = false → ceTimingOk s.ctl = true →
    ∃ c, exec (.ceArm true) s = .next { s with ctl := settled c } ∧ mstate c = 1 ∧ rbit c rCeCtrl 0 = true ∧
      RegsBut [rCeCtrl, rCeStat, ce 0x140] s.ctl c) ∧
  (∀ s : State, alive s.ctl = true → rbit s.ctl rCeCtrl 0 = false → ceTimingOk s.ctl = false →
    ∃ c, exec (.ceArm true) s = .next { s with ctl := settled (settled (fireSrc c srcCeFault)) } ∧ mstate c = 5 ∧ fld c rCeStat 19 16 = 1 ∧
      rbit c rCeCtrl 0 = true ∧ RegsBut [rCeCtrl, rCeStat, ce 0x124, ce 0x140] s.ctl c) ∧
  (∀ s : State, alive s.ctl = true →
    ∃ c, exec (.ceArm false) s = .next { s with ctl := settled c } ∧ mstate c = 0 ∧ rbit c rCeCtrl 0 = false ∧
      c.ce.mot = false ∧ c.ce.aout = 0 ∧ c.ce.outDue = none ∧
      RegsBut [rCeCtrl, rCeStat, ce 0x140] s.ctl c) ∧
  (∀ (s : State) (i : Instr) (bit cause : Nat), (i = .stopN true ∧ bit = 10 ∧ cause = 3) ∨ (i = .motFaultN true ∧ bit = 11 ∧ cause = 4) →
      alive s.ctl = true → chainHeld s.ctl = false → mstate s.ctl ≠ 0 → mstate s.ctl ≠ 5 →
    ∃ c, exec i s = .next { s with ctl := settled (settled (fireSrc c srcCeFault)) } ∧ mstate c = 5 ∧ fld c rCeStat 19 16 = cause ∧
      rbit c rCeStat bit = true ∧ (bit = 10 → c.ce.mot = false) ∧ rd c (ce 0x124) = satU 32 (rd s.ctl (ce 0x124) + 1) ∧
      c.ev = (raise s.ctl 0x6481 noPart (unitCe s.ctl) cause).ev ∧ RegsBut [rCeStat, ce 0x124, ce 0x140] s.ctl c) ∧
  (∀ (s : State) (i : Instr) (bit : Nat) (low : Bool), (i = .stopN low ∧ bit = 10) ∨ (i = .motFaultN low ∧ bit = 11) →
      alive s.ctl = true → chainHeld s.ctl = false → mstate s.ctl = 0 →
    ∃ c, exec i s = .next { s with ctl := settled c } ∧ mstate c = 0 ∧ rbit c rCeStat bit = low ∧ RegsBut [rCeStat] s.ctl c) ∧
  (∀ (s : State) (fwd rev : Bool), alive s.ctl = true → mstate s.ctl ≠ 0 → ¬ (fwd = true ∧ rev = true ∧ moving s.ctl = true) →
      limFwd s.ctl = false → limRev s.ctl = false →
    ∃ c, exec (.limitInput fwd rev) s = .next { s with ctl := settled c } ∧ limFwd c = fwd ∧ limRev c = rev ∧ mstate c = mstate s.ctl ∧
      rd c (ce 0x130) = satU 32 (rd s.ctl (ce 0x130) + (b2n fwd + b2n rev)) ∧ RegsBut [rCeStat, ce 0x130] s.ctl c ∧ c.ce = s.ctl.ce) ∧
  (∀ s : State, alive s.ctl = true → moving s.ctl = true → fld s.ctl (ce 0x108) 2 0 ≤ fld s.ctl rCeStat 26 24 →
    ∃ c, exec .missFault s = .next { s with ctl := settled (settled (fireSrc c srcCeFault)) } ∧ mstate c = 5 ∧ fld c rCeStat 19 16 = 2 ∧
      rd c (ce 0x124) = satU 32 (rd s.ctl (ce 0x124) + 1) ∧ RegsBut [rCeStat, ce 0x124, ce 0x140] s.ctl c) ∧
  (∀ s : State, alive s.ctl = true → s.ctl.ce.trimOn = true → fld s.ctl (ce 0xE0) 15 8 ≤ rd s.ctl (ce 0xFC) →
    ∃ c, exec .trimTimeout s = .next { s with ctl := settled c } ∧ c.ce = { s.ctl.ce with trimOn := false } ∧
      rd c (ce 0xF4) = (if trimDst s.ctl = 4 then rd s.ctl (ce 0xF4) else 0) ∧
      rd c (ce 0x12C) = satU 32 (rd s.ctl (ce 0x12C) + 1) ∧ RegsBut [ce 0xF4, ce 0x12C] s.ctl c) ∧
  (∀ (s : State) (x : Nat) (i : Instr) (b : Bool), (i = .loopOpen x ∧ b = true) ∨ (i = .loopClose x ∧ b = false) → x < 4 →
      alive s.ctl = true → tuneOn s.ctl x = false →
    ∃ c, exec i s = .next { s with ctl := settled c } ∧ rbit c rCeOpen x = b ∧ (∀ y, y < 4 → y ≠ x → rbit c rCeOpen y = rbit s.ctl rCeOpen y) ∧
      OnlyRegs [rCeOpen] { s.ctl with recent := c.recent } c) ∧
  (∀ (s : State) (t : Nat), alive s.ctl = true → s.ctl.ce.outDue = some (t, false) → lateAt s.ctl t = [] → s.ctl.time.phase = 0 → s.ctl.pwr.chip = false →
      (s.ctl.time.epoch = false ∨ t ≤ nextBoundary s.ctl) → moving s.ctl = true → s.ctl.ce.safeHeld = false → stopLow s.ctl = false →
      rbit s.ctl rCeCtrl 26 = false → fld s.ctl rCeCtrl 17 16 = 2 → chainHeld s.ctl = false → s.ctl.ce.capt.go = none →
      s.ctl.ce.capt.on = false →
    ∃ c, exec .outputInstant s = .next { s with ctl := settled c } ∧ c.time = (advanceTo s.ctl t).time ∧ c.ce.outDue = none ∧
      c.ce.mot = true ∧ c.ce.aout = ux 16 (satS 16 (rneShift s.ctl.ce.u 16)) ∧
      c.outs.head? = some (.drvFrame (drvFrame 0 true (ux 20 (satS 20 (rneShift s.ctl.ce.u 12))))) ∧ RegsBut [rCeStat] s.ctl c) ∧
  (∀ (s : State) (t : Nat) (miss : Bool), alive s.ctl = true → s.ctl.ce.outDue = some (t, miss) → lateAt s.ctl t = [] → s.ctl.time.phase = 0 →
      s.ctl.pwr.chip = false → (s.ctl.time.epoch = false ∨ t ≤ nextBoundary s.ctl) → moving s.ctl = false → safeMode s.ctl = 0 →
      fld s.ctl rCeCtrl 17 16 = 0 → chainHeld s.ctl = false → s.ctl.ce.capt.go = none → s.ctl.ce.capt.on = false →
    ∃ c, exec .outputInstant s = .next { s with ctl := settled c } ∧ c.ce.outDue = none ∧ c.ce.mot = false ∧
      c.outs.head? = some (.drvFrame (drvFrame 1 false 0)) ∧ RegsBut [rCeStat] s.ctl c)

/-- The tuning tools (R840, R848, R849, R851, R853, R855, R857 to R859, R861 to R863): each GO is kept for its sample or refused, each
STOP and ABORT ends what runs, each end shows its results, and the detector acts as its ACTION says. -/
def Obligations.TuningToolsStartAndEnd : Prop :=
  (∀ s : State, alive s.ctl = true → mstate s.ctl = 2 → rbit s.ctl (ce 0x140) 29 = false → s.ctl.ce.tune.run = 0 →
      s.ctl.ce.inj.go = none →
    exec .injectionGo s = .next { s with ctl := settled { s.ctl with ce := { s.ctl.ce with
      inj := { s.ctl.ce.inj with go := some s.ctl.time.ftc } } } }) ∧
  (∀ s : State, alive s.ctl = true → mstate s.ctl ≠ 2 ∨ rbit s.ctl (ce 0x140) 29 = true ∨ s.ctl.ce.tune.run ≠ 0 →
    ∃ c, exec .injectionGo s = .next { s with ctl := settled c } ∧ rbit c (ce 0x140) 27 = true ∧
      OnlyRegs [ce 0x140] { s.ctl with w1cSet := c.w1cSet } c) ∧
  (∀ s : State, alive s.ctl = true → rbit s.ctl (ce 0x140) 29 = true →
    exec .injectionStop s = .next { s with ctl := settled { s.ctl with ce := { s.ctl.ce with
      inj := { s.ctl.ce.inj with stop := true } } } }) ∧
  (∀ s : State, alive s.ctl = true → rbit s.ctl (ce 0x140) 29 = true → fld s.ctl (ce 0x150) 23 0 ≤ s.ctl.ce.inj.k →
    ∃ c, exec .injectionEnd s = .next { s with ctl := settled c } ∧ rbit c (ce 0x140) 29 = false ∧ rbit c (ce 0x140) 28 = true ∧
      c.ce.d = 0 ∧ OnlyRegs [ce 0x140] { s.ctl with ce := c.ce, w1cSet := c.w1cSet } c) ∧
  (∀ s : State, alive s.ctl = true → rbit s.ctl (ce 0x160) 29 = false →
    ∃ c, exec .captureGo s = .next { s with ctl := settled c } ∧ fld c (ce 0x160) 29 28 = 2 ∧
      c.ce = { s.ctl.ce with capt := { go := some s.ctl.time.ftc } } ∧ OnlyRegs [ce 0x160] { s.ctl with ce := c.ce } c) ∧
  (∀ s : State, alive s.ctl = true → rbit s.ctl (ce 0x160) 29 = true →
    exec .captureGo s = .next { s with ctl := settled (discard s.ctl (ce 0x160) 0) }) ∧
  (∀ s : State, alive s.ctl = true → rbit s.ctl (ce 0x160) 29 = true →
    ∃ c, exec .captureAbort s = .next { s with ctl := settled c } ∧ rbit c (ce 0x160) 29 = false ∧
      c.ce = { s.ctl.ce with capt := {} } ∧ OnlyRegs [ce 0x160] { s.ctl with ce := c.ce } c) ∧
  (∀ (s : State) (t : Nat), alive s.ctl = true → rbit s.ctl (ce 0x160) 29 = true → s.ctl.ce.capt.trig = some t →
      t + 16384 - captPre s.ctl ≤ s.ctl.ce.capt.n →
    ∃ c, exec .captureDone s = .next { s with ctl := settled c } ∧ fld c (ce 0x160) 29 28 = 1 ∧
      rd c (ce 0x178) = (t + 16384 - captPre s.ctl) % 16384 ∧ c.ce = { s.ctl.ce with capt := {} } ∧
      OnlyRegs [ce 0x160, ce 0x178] { s.ctl with ce := c.ce } c) ∧
  (∀ s : State, alive s.ctl = true →
    exec .autotuneGo s = .next { s with ctl := settled { s.ctl with ce := { s.ctl.ce with
      tune := { s.ctl.ce.tune with go := some s.ctl.time.ftc } } } }) ∧
  (∀ s : State, alive s.ctl = true → s.ctl.ce.tune.run = 1 →
    exec .autotuneAbort s = .next { s with ctl := settled { s.ctl with ce := { s.ctl.ce with
      tune := { s.ctl.ce.tune with abort := true } } } }) ∧
  (∀ (s : State) (n : Nat), alive s.ctl = true → s.ctl.ce.tune.results = true → n = fld s.ctl (ce 0x180) 5 0 → n ≠ 0 →
      s.ctl.ce.tune.sumL ≠ 0 → s.ctl.ce.tune.sumPp ≠ 0 →
    ∃ c, exec .autotuneComplete s = .next { s with ctl := settled c } ∧ fld c (ce 0x194) 4 0 = 1 ∧
      rd c (ce 0x198) = satU 32 (rneDiv (256 * (s.ctl.ce.tune.sumL : Int)) n).toNat ∧
      rd c (ce 0x19C) = ux 32 (satS 32 (rneDiv s.ctl.ce.tune.sumPp (2 * n))) ∧
      rd c (ce 0x1A0) = ux 32 (satS 32 (rneDiv s.ctl.ce.tune.sumE s.ctl.ce.tune.sumL)) ∧
      rd c (ce 0x1A4) = satU 32 (rneDiv (8 * ceU s.ctl 32 0x184 * n * 2 ^ 144) (pi128 * s.ctl.ce.tune.sumPp)).toNat ∧
      c.ce = { s.ctl.ce with tune := { s.ctl.ce.tune with results := false } } ∧
      RegsBut [ce 0x194, ce 0x198, ce 0x19C, ce 0x1A0, ce 0x1A4, ce 0x1A8] s.ctl c) ∧
  (∀ s : State, alive s.ctl = true → s.ctl.ce.tune.run = 1 → fld s.ctl (ce 0x190) 23 0 ≤ s.ctl.ce.tune.n →
    ∃ c, exec .autotuneTimeout s = .next { s with ctl := settled c } ∧ fld c (ce 0x194) 4 0 = 3 ∧
      c.ce = { s.ctl.ce with tune := { s.ctl.ce.tune with run := 2, results := false } } ∧
      c.ev = (raise s.ctl 0x6488 noPart (unitCe s.ctl) 3).ev ∧ RegsBut [ce 0x194] s.ctl c) ∧
  (∀ s : State, alive s.ctl = true → s.ctl.ce.osc.hit = true → fld s.ctl (ce 0x1C0) 11 10 = 1 →
    ∃ c, exec .oscDetect s = .next { s with ctl := settled c } ∧ rbit c (ce 0x1C0) 31 = true ∧
      rd c (ce 0x1D0) = satU 32 (rd s.ctl (ce 0x1D0) + 1) ∧ fld c rCeOpen 3 0 = fld s.ctl rCeOpen 3 0 ||| fld s.ctl (ce 0x1C0) 15 12 ∧
      c.ce.osc.hit = false ∧ c.ce.osc.swings = [] ∧ RegsBut [ce 0x1C0, ce 0x1D0, rCeOpen] s.ctl c) ∧
  (∀ s : State, alive s.ctl = true → s.ctl.ce.osc.hit = true → fld s.ctl (ce 0x1C0) 11 10 = 2 → moving s.ctl = true →
    ∃ c, exec .oscDetect s = .next { s with ctl := settled (settled (fireSrc c srcCeFault)) } ∧ mstate c = 5 ∧ fld c rCeStat 19 16 = 6 ∧
      rd c (ce 0x1D0) = satU 32 (rd s.ctl (ce 0x1D0) + 1))

/-! The host port. -/

/-- Rings, doorbells, dispatch, completions and signals (R879, R881 to R890, R894 to R901, R905, R906, R918 to R920, R923, R926): each acts on
the ring's indices, its entries and its completion slots as the rules say, and writes its bytes to host memory. -/
def Obligations.RingsCarryCommandsAndCompletions : Prop :=
  (∀ (s : State) (fn r : Nat), hostUp s.ctl = true → ringIs s.ctl fn r = true → ringRuns s.ctl fn r = false →
      (fn = 0 → monRuns s.ctl = true) →
    ∃ c, exec (.ringStart fn r) s = .next { s with ctl := settled c } ∧ ringRuns c fn r = true ∧ rbit c (ringStat fn r) 0 = true ∧
      rd c (ringBase fn r + 0x10) = 0 ∧ rd c (ringBase fn r + 0x20) = 0 ∧
      ring c fn r = { ring s.ctl fn r with head := 0, tail := 0, db := 0, phase := true, pend := 0, urgent := false, fetched := [] } ∧
      (∀ f q, f * 8 + q ≠ fn * 8 + r → ring c f q = ring s.ctl f q) ∧
      RegsBut [ringCtrl fn r, ringStat fn r, ringBase fn r + 0x10, ringBase fn r + 0x20] s.ctl c) ∧
  (∀ (s : State) (r : Nat), hostUp s.ctl = true → r < 5 → ringRuns s.ctl 0 r = false → monRuns s.ctl = false →
    exec (.ringStart 0 r) s = .next { s with ctl := settled (discard s.ctl (ringCtrl 0 r) 0) }) ∧
  (∀ (s : State) (fn r : Nat), hostUp s.ctl = true → ringIs s.ctl fn r = true → ringRuns s.ctl fn r = true → r ≠ 1 → r ≠ 3 →
    ∃ c, exec (.ringStop fn r) s = .next { s with ctl := settled c } ∧ ringRuns c fn r = false ∧ rbit c (ringStat fn r) 0 = false ∧
      ringErr c fn r = false ∧ fld c (ringStat fn r) 7 4 = 0 ∧
      ring c fn r = { ring s.ctl fn r with fetched := [], pend := 0, urgent := false } ∧ c.hi.done = s.ctl.hi.done ∧
      RegsBut [ringCtrl fn r, ringStat fn r] s.ctl c) ∧
  (∀ (s : State) (fn r : Nat), hostUp s.ctl = true → ringIs s.ctl fn r = true → r = 1 ∨ r = 3 →
    ∃ c, exec (.ringReset fn r) s = .next { s with ctl := settled c } ∧ ringRuns c fn r = false ∧ ringErr c fn r = false ∧
      rd c (ringBase fn r + 0x10) = 0 ∧ (ring c fn r).head = 0 ∧ (ring c fn r).tail = 0 ∧
      c.hi.done = s.ctl.hi.done.filter (fun d => !(decide (d.ref.fn = fn ∧ d.ref.ring + 1 = r))) ∧
      RegsBut [ringCtrl fn r, ringStat fn r, ringBase fn r + 0x10] s.ctl c) ∧
  (∀ (s : State) (fn r tail : Nat) (es : List Bytes), hostUp s.ctl = true → ringIs s.ctl fn r = true → ringOk s.ctl fn r = true →
      r = 0 ∨ r = 2 → (ring s.ctl fn r).db ≠ tail → tail < ringSize s.ctl fn r → (fn = 0 → monRuns s.ctl = true) →
      (∀ e, e ∈ es → e.length = 64) →
      es.length = (tail + ringSize s.ctl fn r - (ring s.ctl fn r).head) % ringSize s.ctl fn r →
    ∃ c, exec (.submissionDoorbell fn r tail es) s = .next { s with ctl := settled c } ∧
      (ring c fn r).fetched = (ring s.ctl fn r).fetched ++ es ∧ (ring c fn r).db = tail ∧
      (ring c fn r).head = ((ring s.ctl fn r).head + es.length) % ringSize s.ctl fn r ∧
      ringErr c fn r = false ∧ RegsBut [ringBase fn r + 0x10] s.ctl c) ∧
  (∀ (s : State) (fn r tail : Nat) (es : List Bytes), hostUp s.ctl = true → ringIs s.ctl fn r = true → ringOk s.ctl fn r = true →
      r = 0 ∨ r = 2 → (ring s.ctl fn r).db ≠ tail → ringSize s.ctl fn r ≤ tail →
    ∃ c, exec (.submissionDoorbell fn r tail es) s = .next { s with
        ctl := settled (raise c 0x44C2 noPart (unitBlock c 0x13) (r + 2 ^ 4 + fn * 2 ^ 16)) } ∧
      ringErr c fn r = true ∧ fld c (ringStat fn r) 7 4 = 1 ∧ OnlyRegs [ringStat fn r] s.ctl c) ∧
  (∀ (s : State) (fn r head : Nat), hostUp s.ctl = true → ringIs s.ctl fn r = true → ringOk s.ctl fn r = true →
      r = 1 ∨ r = 3 ∨ r = 4 → (ring s.ctl fn r).db ≠ head → head < ringSize s.ctl fn r →
      (head + ringSize s.ctl fn r - (ring s.ctl fn r).tail) % ringSize s.ctl fn r ≤
        ((ring s.ctl fn r).head + ringSize s.ctl fn r - (ring s.ctl fn r).tail) % ringSize s.ctl fn r →
    ∃ c, exec (.completionDoorbell fn r head) s = .next { s with ctl := settled c } ∧
      ring c fn r = { ring s.ctl fn r with db := head, tail := head } ∧ c.regs = s.ctl.regs) ∧
  (∀ (s : State) (fn r : Nat) (e : Bytes) (rest : List Bytes), regsServed s.ctl = true → r = 0 ∨ r = 2 → (ring s.ctl fn r).fetched = e :: rest →
      ringOk s.ctl fn r = true → (fn = 0 → monRuns s.ctl = true ∧ s.ctl.db.coreHalted = false) →
      (bitN (eFlags e) 0 = true → (ring s.ctl fn r).busy = 0) → (ring s.ctl fn r).busy < 64 →
      (ringOk s.ctl fn (r + 1) = true → (ring s.ctl fn r).busy < ringFree s.ctl fn (r + 1)) →
    ∃ c, exec (.commandDispatch fn r) s = .next { s with ctl := settled c } ∧ (ring c fn r).fetched = rest ∧
      (ring c fn r).busy = (ring s.ctl fn r).busy + 1 ∧
      (genOf fn r e = 0 → (ring c fn r).todo = (ring s.ctl fn r).todo ++ [e] ∧ c.hi.done = s.ctl.hi.done) ∧
      (genOf fn r e ≠ 0 → (ring c fn r).todo = (ring s.ctl fn r).todo ∧
        c.hi.done = s.ctl.hi.done ++ [⟨refOf fn r e, genOf fn r e, 0, 0⟩]) ∧ c.regs = s.ctl.regs) ∧
  (∀ (s : State) (fn r : Nat) (d : Done), regsServed s.ctl = true → r = 0 ∨ r = 2 → ringOk s.ctl fn (r + 1) = true → ringFree s.ctl fn (r + 1) ≠ 0 →
      s.ctl.hi.done.find? (fun d => d.ref.fn = fn ∧ d.ref.ring = r) = some d →
    ∃ c, exec (.completionWrite fn r) s = .next { s with ctl := settled c } ∧
      c.outs = .hostWrite (ringAddr s.ctl fn (r + 1) + (ring s.ctl fn (r + 1)).head * 16) (doneBytes s.ctl d) :: s.ctl.outs ∧
      c.hi.done = s.ctl.hi.done.erase d ∧ (ring c fn r).busy = (ring s.ctl fn r).busy - 1 ∧
      (ring c fn (r + 1)).head = ((ring s.ctl fn (r + 1)).head + 1) % ringSize s.ctl fn (r + 1) ∧
      (ring c fn (r + 1)).pend = (ring s.ctl fn (r + 1)).pend + 1 ∧ RegsBut [ringBase fn (r + 1) + 0x10] s.ctl c) ∧
  (∀ (s : State) (fn r : Nat), rbit s.ctl (ringCtrl fn r) 16 = true → ringOk s.ctl fn r = true → 0 < (ring s.ctl fn r).pend →
      (max (fld s.ctl (ringBase fn r + 0xC) 15 0) 1 ≤ (ring s.ctl fn r).pend ∨ (ring s.ctl fn r).urgent = true) →
      (s.ctl.time.epoch = true → s.ctl.time.ftc < nextBoundary s.ctl) →
      smGet s.ctl.hi.unmasked false (fn * 4096 + fld s.ctl (ringCtrl fn r) 10 0) = true →
    ∃ c, exec (.msixMessage fn r) s = .next { s with ctl := settled c } ∧
      c.outs = .msix fn (fld s.ctl (ringCtrl fn r) 10 0) :: s.ctl.outs ∧
      ring c fn r = { ring s.ctl fn r with pend := 0, urgent := false } ∧ c.regs = s.ctl.regs) ∧
  (∀ (s : State) (fn vec : Nat),
    ∃ c, exec (.msixVectorUnmask fn vec) s = .next { s with ctl := settled c } ∧
      smGet c.hi.unmasked false (fn * 4096 + vec) = true ∧ smGet c.hi.pba false (fn * 4096 + vec) = false ∧
      c.outs = (if smGet s.ctl.hi.pba false (fn * 4096 + vec) = true then [Emit.msix fn vec] else []) ++ s.ctl.outs ∧ c.regs = s.ctl.regs) ∧
  (∀ (s : State) (fn : Nat), fn ≤ 32 → s.ctl.plan.loader.stage = .idle →
    ∃ c, exec (.busMasterDisable fn) s = .next { s with ctl := settled c } ∧
      (∀ r, r < 5 → ringRuns s.ctl fn r = true → ringErr c fn r = true ∧
        (ringErr s.ctl fn r = false → fld c (ringStat fn r) 7 4 = 4)) ∧
      RegsBut ((List.range 5).map (ringStat fn)) s.ctl c ∧ c.hi = s.ctl.hi) ∧
  (∀ s : State, hostUp s.ctl = true →
    ∃ c, exec (.functionLevelReset 0) s = .next { s with ctl := settled c } ∧
      (∀ o, 0x1100 ≤ o → o < 0x1240 → rd c o = (regReset o).toNat) ∧ (∀ o, o < 0x1100 ∨ 0x1240 ≤ o → rd c o = rd s.ctl o) ∧
      (∀ r, r < 5 → (ring c 0 r).fetched = [] ∧ (ring c 0 r).head = 0 ∧ (ring c 0 r).tail = 0) ∧
      (∀ v, v < 4096 → smGet c.hi.unmasked false v = false ∧ smGet c.hi.pba false v = false) ∧ c.hi.done = s.ctl.hi.done)

/-- The commands of the rings and the monitor (R882, R908, R910, R911, R915, R916): NOP completes; REG_WRITE writes its registers in order;
PART_START, PART_STOP and PART_RESUME stage their write, or fail where AT_PASS has no epoch; PART_RESET begins a reset; LOG_READ and KEEP_READ
copy to host memory; the monitor is loaded, checked and started. -/
def Obligations.RingCommandsTakeEffect : Prop :=
  (∀ (s : State) (fn r : Nat) (e : Bytes), Taken s.ctl fn r 0x00 e → r ≠ 0xFF →
    ∃ c, exec (.nop fn r) s = .next { s with ctl := settled c } ∧ c.hi.done = s.ctl.hi.done ++ [⟨refOf fn r e, 0, 0, 0⟩] ∧
      { c with hi := s.ctl.hi } = s.ctl) ∧
  (∀ (s : State) (fn : Nat) (e : Bytes) (c0 : Ctl) (a b : Ctl × Mem), takeCmd s.ctl fn 0 0x01 = some (e, c0) → leAt e 8 1 = 2 →
      a = barWrite fn (leAt e 0x10 4) 4 (BitVec.ofNat 64 (leAt e 0x14 4)) (c0, s.mem) →
      b = barWrite fn (leAt e 0x18 4) 4 (BitVec.ofNat 64 (leAt e 0x1C 4)) a →
    exec (.regWrite fn) s = .next { s with ctl := settled (complete b.1 (refOf fn 0 e) 0 0 0), mem := b.2 }) ∧
  (∀ (s : State) (fn p opc v : Nat) (i : Instr) (e : Bytes), (i = .partStart fn ∧ opc = 0x20 ∧ v = 1) ∨ (i = .partStop fn ∧ opc = 0x21 ∧ v = 0) →
      Taken s.ctl fn 0 opc e → p = cmdPart e (refOf fn 0 e) → p < 32 → ePass e 8 = none → (part s.ctl p).resetting = false →
      rbit s.ctl (ptCtrl p) 1 = false → (v = 1 → swapChanges s.ctl p = false) → ptState s.ctl p ≠ 2 → s.ctl.time.epoch = true →
    ∃ c, exec i s = .next { s with ctl := settled c } ∧ c.staged = s.ctl.staged ++
        [{ off := ptCtrl p, hi := 0, lo := 0, val := v, acc := s.ctl.time.ftc, vf := decide (fn ≠ 0), cmd := some (refOf fn 0 e) }] ∧
      c.hi.done = s.ctl.hi.done ∧ RegsBut [] s.ctl c) ∧
  (∀ (s : State) (fn p : Nat) (e : Bytes), Taken s.ctl fn 0 0x22 e → p = cmdPart e (refOf fn 0 e) → p < 32 → ePass e 8 = none →
      (part s.ctl p).resetting = false → rbit s.ctl (ptCtrl p) 1 = false → rbit s.ctl (ptStat p) 5 = true →
      (fld s.ctl (ptStat p) 23 16 = 2 ∨ fld s.ctl (ptStat p) 23 16 = 4) → s.ctl.time.epoch = true →
    ∃ c, exec (.partResume fn) s = .next { s with ctl := settled c } ∧ c.staged = s.ctl.staged ++
        [{ off := ptCtrl p, hi := 3, lo := 3, val := 1, acc := s.ctl.time.ftc, vf := decide (fn ≠ 0), cmd := some (refOf fn 0 e) }] ∧
      c.hi.done = s.ctl.hi.done ∧ RegsBut [] s.ctl c) ∧
  (∀ (s : State) (fn opc : Nat) (i : Instr) (e : Bytes), (i = .partStart fn ∧ opc = 0x20) ∨ (i = .partStop fn ∧ opc = 0x21) ∨
      (i = .partResume fn ∧ opc = 0x22) → Taken s.ctl fn 0 opc e → (ePass e 8).isSome = true → s.ctl.time.epoch = false →
    ∃ c, exec i s = .next { s with ctl := settled c } ∧ c.hi.done = s.ctl.hi.done ++ [⟨refOf fn 0 e, 0, 7, 0⟩] ∧
      { c with hi := s.ctl.hi } = s.ctl) ∧
  (∀ (s : State) (fn p : Nat) (e : Bytes), Taken s.ctl fn 0 0x23 e → p = cmdPart e (refOf fn 0 e) → p < 32 →
      (part s.ctl p).resetting = false → (part s.ctl p).heldAt = none → inDump s.ctl p = false → s.ctl.ev.contained = false →
    ∃ c, exec (.partReset fn) s = .next { s with ctl := settled c } ∧ (part c p).resetting = true ∧
      (refOf fn 0 e, 2, s.ctl.time.ftc) ∈ (part c p).waiting) ∧
  (∀ (s : State) (e : Bytes) (want : Nat) (got : List EvRec), Taken s.ctl 0 0 0x50 e → want = leAt e 8 8 % 2 ^ 48 →
      got = (s.ctl.ev.log.reverse.filter (fun r => decide (want ≤ r.seq))).take (leAt e 0x18 2) → got ≠ [] →
    ∃ c, exec .logRead s = .next { s with ctl := settled c } ∧
      c.outs = .hostWrite (leAt e 0x10 8) (got.flatMap evBytes) :: s.ctl.outs ∧
      (∃ st, c.hi.done = s.ctl.hi.done ++ [⟨refOf 0 0 e, 0, st, ((got.head?.map (·.seq)).getD 0) % 2 ^ 48 + got.length * 2 ^ 48⟩]) ∧
      c.ev = s.ctl.ev ∧ c.regs = s.ctl.regs) ∧
  (∀ (s : State) (e : Bytes) (o n : Nat), Taken s.ctl 0 0 0x51 e → o = leAt e 8 4 → n = leAt e 0xC 4 → o + n ≤ 262144 → n ≠ 0 →
      s.ctl.dump.sums = [] →
    ∃ c, exec .keepRead s = .next { s with ctl := settled c } ∧
      c.outs = .hostWrite (leAt e 0x10 8) ((List.range n).map (fun i => keepByte s.mem (o + i))) :: s.ctl.outs ∧
      c.hi.done = s.ctl.hi.done ++ [⟨refOf 0 0 e, 0, 0, n⟩] ∧ c.regs = s.ctl.regs) ∧
  (∀ (s : State) (e : Bytes), Taken s.ctl 0 0 0x51 e → 262144 < leAt e 8 4 + leAt e 0xC 4 →
    ∃ c, exec .keepRead s = .next { s with ctl := settled c } ∧ c.hi.done = s.ctl.hi.done ++ [⟨refOf 0 0 e, 0, 1, 0⟩] ∧
      { c with hi := s.ctl.hi } = s.ctl) ∧
  (∀ s : State, regsServed s.ctl = true → fld s.ctl 0x1004 1 0 ≠ 1 → fld s.ctl 0x1004 1 0 ≠ 2 →
    ∃ c, exec .monitorLoad s = .next { s with ctl := settled c } ∧ fld c 0x1004 1 0 = 1 ∧ fld c 0x1004 11 8 = 0 ∧ c.hi.monVer = none ∧
      OnlyRegs [0x1004] { s.ctl with hi := c.hi } c) ∧
  (∀ s : State, regsServed s.ctl = true → fld s.ctl 0x1004 1 0 = 1 ∨ fld s.ctl 0x1004 1 0 = 2 →
    exec .monitorLoad s = .next { s with ctl := settled (discard s.ctl 0x1000 0) }) ∧
  (∀ (s : State) (img : Option Bytes), regsServed s.ctl = true → fld s.ctl 0x1004 1 0 = 1 → s.ctl.hi.monVer = none → monErr img ≠ 0 →
    ∃ c, exec (.monitorImageCheck img) s = .next { s with ctl := settled c } ∧ fld c 0x1004 1 0 = 3 ∧ fld c 0x1004 11 8 = monErr img ∧
      OnlyRegs [0x1004] s.ctl c) ∧
  (∀ (s : State) (b : Bytes), regsServed s.ctl = true → fld s.ctl 0x1004 1 0 = 1 → s.ctl.hi.monVer = none → monErr (some b) = 0 →
    exec (.monitorImageCheck (some b)) s = .next { s with
      ctl := settled { s.ctl with hi := { s.ctl.hi with monVer := some (leAt b 0x10 8) } } }) ∧
  (∀ (s : State) (v : Nat), regsServed s.ctl = true → fld s.ctl 0x1004 1 0 = 1 → s.ctl.hi.monVer = some v → v < 2 ^ 64 →
    ∃ c, exec .monitorReady s = .next { s with ctl := settled c } ∧ fld c 0x1004 1 0 = 2 ∧ rd64 c 0x1010 = v ∧
      c.db = { s.ctl.db with mwdog := s.ctl.time.ftc } ∧ OnlyRegs [0x1004, 0x1010, 0x1014] { s.ctl with db := c.db } c)

/-! Fliwell. -/

/-- Requests to the hub (R931, R934 to R938, R941 to R943, R970 to R974): the scan port and the debug ring hand them in, in order; a
malformed one, one out of reach and one without a route are answered with their STATUS; a READ and a WRITE act on the unit they name;
other Plezors' requests are carried out and answered, floods are passed on, and responses end the request that waits. -/
def Obligations.HubRequestsAreAnswered : Prop :=
  (∀ (s : State) (e : Bytes) (q : HubReq), Taken s.ctl 0 2 0x60 e →
      q = { origin := 1, ref := refOf 0 2 e, bytes := slice e 8 56, acc := s.ctl.time.ftc } → hOp q ∈ hubOps →
      (∀ r, r ∈ s.ctl.db.reqs → hOp r ∈ hubOps) →
    ∃ c, exec .dbgReq s = .next { s with ctl := settled c } ∧ c.db = { s.ctl.db with reqs := s.ctl.db.reqs ++ [q] } ∧
      c.hi.done = s.ctl.hi.done ∧ c.regs = s.ctl.regs) ∧
  (∀ (s : State) (e : Bytes), Taken s.ctl 0 2 0x60 e → leAt e 8 1 ∉ hubOps → s.ctl.db.reqs = [] → (refOf 0 2 e).ring ≠ 0xFF →
    ∃ c, exec .dbgReq s = .next { s with ctl := settled c } ∧ c.db.reqs = [] ∧
      c.hi.done = s.ctl.hi.done ++ [⟨refOf 0 2 e, 0, 1, 0⟩] ∧ c.regs = s.ctl.regs) ∧
  (∀ (s : State) (b : Bytes) (q : HubReq), q = { origin := 0, bytes := slice b 0 56, acc := s.ctl.time.ftc } → hOp q ∈ hubOps →
      (∀ r, r ∈ s.ctl.db.reqs → hOp r ∈ hubOps ∧ r.origin ≠ 0) →
    ∃ c, exec (.dbreq b) s = .next { s with ctl := settled c } ∧
      c.db = { s.ctl.db with
               ir := 0x10, reqs := s.ctl.db.reqs ++ [q], scanOvr := false, scanDone := false, scanOp := leAt b 0 1 } ∧
      { c with db := s.ctl.db, outs := s.ctl.outs } = s.ctl) ∧
  (∀ (s : State) (b : Bytes) (r : HubReq), r ∈ s.ctl.db.reqs → r.origin = 0 →
    ∃ c, exec (.dbreq b) s = .next { s with ctl := settled c } ∧ c.db = { s.ctl.db with ir := 0x10, scanOvr := true } ∧
      { c with db := s.ctl.db, outs := s.ctl.outs } = s.ctl) ∧
  (∀ (s : State) (busy : Bool), busy = s.ctl.db.reqs.any (fun r => decide (r.origin = 0)) →
    ∃ c, exec .dbresp s = .next { s with ctl := settled c } ∧ c.db = { s.ctl.db with ir := 0x11 } ∧
      c.outs.head? = some (.tap (s.ctl.db.scanResult * 2 ^ 64 + s.ctl.db.scanStatus * 2 ^ 40 + s.ctl.db.scanOp * 2 ^ 32 +
        b2n s.ctl.db.scanOvr * 4 + b2n (s.ctl.db.scanDone && !busy) * 2 + b2n busy)) ∧
      { c with db := s.ctl.db, outs := s.ctl.outs } = s.ctl) ∧
  (∀ (s : State) (push : Option Word), s.ctl.db.wfifo.length < 256 →
    ∃ c, exec (.dbdata push) s = .next { s with ctl := settled c } ∧
      c.outs.head? = some (.tap (match s.ctl.db.rfifo with | w :: _ => w.1 + b2n w.2 * 2 ^ 32 + 2 ^ 33 | [] => 0)) ∧
      c.db = { s.ctl.db with
               ir := 0x12, rfifo := s.ctl.db.rfifo.tail,
               wfifo := s.ctl.db.wfifo ++ (match push with | some v => [v.toNat] | none => []) } ∧
      { c with db := s.ctl.db, outs := s.ctl.outs } = s.ctl) ∧
  (∀ (s : State) (i : Instr) (op : Nat) (q : HubReq) (rest : List HubReq), hubRow i = some op → HubTurn s.ctl op q rest → checkReq q ≠ 0 →
    ∃ c, exec i s = .next { s with ctl := settled c } ∧ HubDone s.ctl c q rest (checkReq q) 0 ∧ c.regs = s.ctl.regs) ∧
  (∀ (s : State) (i : Instr) (op : Nat) (q : HubReq) (rest : List HubReq), hubRow i = some op → op = 0x01 ∨ op = 0x02 →
      HubHere s.ctl op q rest → unitReached s.ctl (hCls q) (hIdx q) (hAddr q) (hLen q) = false →
    ∃ c, exec i s = .next { s with ctl := settled c } ∧ HubDone s.ctl c q rest 3 0 ∧ c.regs = s.ctl.regs) ∧
  (∀ (s : State) (i : Instr) (op : Nat) (q : HubReq) (rest : List HubReq), hubRow i = some op → 0x10 ≤ op → HubTurn s.ctl op q rest →
      checkReq q = 0 → hFab q = false → hUnit q / 2 ^ 16 ≠ plezorId s.ctl → routeTo s.ctl (hUnit q / 2 ^ 16) = none →
    ∃ c, exec i s = .next { s with ctl := settled c } ∧ HubDone s.ctl c q rest 6 0 ∧ c.regs = s.ctl.regs) ∧
  (∀ (s : State) (i : Instr) (op l : Nat) (q : HubReq) (rest : List HubReq), hubRow i = some op → 0x10 ≤ op → HubTurn s.ctl op q rest →
      checkReq q = 0 → hFab q = false → hUnit q / 2 ^ 16 ≠ plezorId s.ctl → routeTo s.ctl (hUnit q / 2 ^ 16) = some l →
      sbTakes s.ctl l 4 = true →
    ∃ c r, exec i s = .next { s with ctl := settled c } ∧ c.db.relay = some r ∧ r.tag = s.ctl.db.tag ∧ c.db.reqs = s.ctl.db.reqs ∧
      c.db.tag = (s.ctl.db.tag + 1) % 256 ∧ c.regs = s.ctl.regs ∧
      smGet c.lk.sb [] l = smGet s.ctl.lk.sb [] l ++
        (msgWords 0 (hUnit q / 2 ^ 16) (plezorId s.ctl) s.ctl.db.tag (slice q.bytes 0 0x20)).map (fun w => ⟨4, w, none⟩)) ∧
  (∀ (s : State) (q : HubReq) (rest : List HubReq) (o : Nat), HubHere s.ctl 0x01 q rest → regsServed s.ctl = true → hCls q = 0xF →
      hLen q = 4 → hInline q = true → Unmoved q → o = hAddr q → latchedBy o = [] → o ≠ hub 0x30 →
      smGet s.ctl.latched none (o * 64 + whoHub) = none →
    ∃ c, exec .read s = .next { s with ctl := settled c } ∧ HubDone s.ctl c q rest 0 (regView s.ctl s.mem o % 2 ^ 32) ∧
      c.regs = s.ctl.regs) ∧
  (∀ (s : State) (q : HubReq) (rest : List HubReq) (t a : Nat), HubHere s.ctl 0x01 q rest → s.ctl.pwr.chip = false → hCls q = 0 →
      t = hIdx q → a = hAddr q → a < 0x80000 → hLen q = 4 → hInline q = true → Unmoved q → (moveAt 0 t a s.ctl).isSome = true →
      tilesUp s.ctl = true → tilesGated s.ctl = false → tileOwner s.ctl t < 32 → clearing s.ctl t = false → CodesSound s.mem t a 4 →
    ∃ c, exec .read s = .next { s with ctl := settled c } ∧ HubDone s.ctl c q rest 0 (readLe s.mem.tm (tmAt t a) 4) ∧
      c.regs = s.ctl.regs ∧ { tile c t with rxUsed := (tile s.ctl t).rxUsed, rxBank := (tile s.ctl t).rxBank } = tile s.ctl t ∧
      (∀ u, u ≠ t → tile c u = tile s.ctl u)) ∧
  (∀ (s : State) (q : HubReq) (rest : List HubReq), HubHere s.ctl 0x01 q rest → hCls q = 0 → 0 < hLen q → Unmoved q →
      unitReached s.ctl 0 (hIdx q) (hAddr q) (hLen q) = true → moveAt 0 (hIdx q) (hAddr q) s.ctl = none →
    ∃ c d, exec .read s = .next { s with ctl := settled c } ∧ c.db.reqs = { q with data := d } :: rest ∧
      { c with db := { c.db with reqs := s.ctl.db.reqs } } = s.ctl) ∧
  (∀ (s : State) (q : HubReq) (rest : List HubReq) (data : Bytes) (b : Ctl × Mem), HubHere s.ctl 0x02 q rest → regsServed s.ctl = true →
      hCls q = 0xF → hLen q = 4 → hInline q = true → Unmoved q →
      b = busWord 0 whoHub (hAddr q) (hAddr q) (leAt q.bytes 0x28 4) (s.ctl, s.mem) →
    exec (.write data) s = .next { s with ctl := settled (hubNext (hubFinish 0 4 [] b.1)), mem := b.2 }) ∧
  (∀ (s : State) (q : HubReq) (rest : List HubReq) (data : Bytes) (t n : Nat), HubHere s.ctl 0x02 q rest → s.ctl.pwr.chip = false →
      hCls q = 0 → t = hIdx q → n < 32 → hAddr q = 0x200000 + 4 * n → hLen q = 4 → hInline q = true → Unmoved q →
      (moveAt 0 t (hAddr q) s.ctl).isSome = true → tilesUp s.ctl = true → tilesGated s.ctl = false → tileOwner s.ctl t < 32 →
      clearing s.ctl t = false → (tile s.ctl t).halted = true →
    ∃ c, exec (.write data) s = .next { s with ctl := settled c } ∧ HubDone s.ctl c q rest 0 4 ∧ c.regs = s.ctl.regs ∧
      tile c t = { putX (tile s.ctl t) n (BitVec.ofNat 32 (leAt q.bytes 0x28 4)) with
        touched := (tile s.ctl t).touched || s.ctl.dump.running.isSome } ∧ (∀ u, u ≠ t → tile c u = tile s.ctl u)) ∧
  (∀ (s : State) (l : Nat) (ws : List Nat), l < 32 → linkUp s.ctl l = true → s.ctl.pwr.chip = false → s.ctl.time.refclk = true →
      parseMsg ws = none →
    ∃ c, exec (.relayReq l ws) s = .next { s with ctl := settled c } ∧ exec (.relayRsp l ws) s = .next { s with ctl := settled c } ∧
      exec (.flood l ws) s = .next { s with ctl := settled c } ∧ rd c (hub 0x800) = satU 32 (rd s.ctl (hub 0x800) + 1) ∧
      OnlyRegs [hub 0x800] s.ctl c) ∧
  (∀ (s : State) (l dst src tag : Nat) (ws : List Nat) (body : Bytes), dst ≠ plezorId s.ctl →
    (Message s.ctl l ws 0 dst src tag body → exec (.relayReq l ws) s = .next { s with ctl := settled (sendTo s.ctl dst ws) }) ∧
    (Message s.ctl l ws 1 dst src tag body → exec (.relayRsp l ws) s = .next { s with ctl := settled (sendTo s.ctl dst ws) })) ∧
  (∀ (s : State) (l src tag : Nat) (ws : List Nat) (body : Bytes) (q : HubReq), Message s.ctl l ws 0 (plezorId s.ctl) src tag body →
      s.ctl.db.reqs = [] → s.ctl.db.relay = none → q = { origin := 2, tag := tag, src := src, bytes := body, acc := s.ctl.time.ftc } →
      hOp q = 0x10 → checkReq q = 0 → s.ctl.ev.contained = false →
    ∃ c, exec (.relayReq l ws) s = .next { s with
        ctl := settled (sendTo c src (msgWords 1 src (plezorId s.ctl) tag (rspBody 0 (passNo s.ctl) []))) } ∧ c.db.reqs = [] ∧
      (∀ p, p < 32 → rbit c (ptStat p) 6 = (rbit s.ctl (ptStat p) 6 || bitN (hMask q) p))) ∧
  (∀ (s : State) (l src tag : Nat) (ws : List Nat) (body : Bytes) (q : HubReq) (rest : List HubReq) (r : Relay),
      Message s.ctl l ws 1 (plezorId s.ctl) src tag body → s.ctl.db.relay = some r → s.ctl.db.reqs = q :: rest → r.tag = tag →
      hUnit q / 2 ^ 16 = src →
    (hMoves q = false → exec (.relayRsp l ws) s =
      .next { s with ctl := settled (hubNext (hubFinish (leAt body 0 1) (leAt body 8 8) [] s.ctl)) }) ∧
    (hOp q = 0x01 → leAt body 0 1 = 0 → r.len ≤ r.off + 64 → r.off ≤ r.len → bitN (leAt body 1 1) 0 = false →
      r.data.any (·.2) = false → exec (.relayRsp l ws) s =
      .next { s with ctl := settled (hubNext (hubFinish 0 r.len
        (r.data ++ (wordsIn (slice body 0x10 (r.len - r.off))).map (fun w => (w, false))) s.ctl)) })) ∧
  (∀ (s : State) (l src tag : Nat) (ws : List Nat) (body : Bytes), Message s.ctl l ws 1 (plezorId s.ctl) src tag body →
      (∀ r, s.ctl.db.relay = some r → r.tag ≠ tag) → exec (.relayRsp l ws) s = .next { s with ctl := settled s.ctl }) ∧
  (∀ (s : State) (l dst src tag : Nat) (ws : List Nat) (body : Bytes) (q : HubReq), Message s.ctl l ws 2 dst src tag body →
      rbit s.ctl (hub 0x100) l = true → s.ctl.db.reqs = [] → s.ctl.db.relay = none →
      q = { origin := 4, tag := tag, src := src, bytes := padTo 56 (body.take 0x20), acc := s.ctl.time.ftc } → hOp q = 0x10 →
      checkReq q = 0 → s.ctl.ev.contained = false →
    ∃ c, exec (.flood l ws) s = .next { s with ctl := settled c } ∧ c.db.reqs = [] ∧ c.hi.done = s.ctl.hi.done ∧
      (∀ p, p < 32 → rbit c (ptStat p) 6 = (rbit s.ctl (ptStat p) 6 || bitN (hMask q) p)) ∧
      (∀ k, k < 32 → smGet c.lk.sb [] k = smGet s.ctl.lk.sb [] k ++
        (if bitN (rd s.ctl (hub 0x100)) k = true ∧ linkUp s.ctl k = true ∧ sbTakes s.ctl k 4 = true ∧ k ≠ l then ws.map (fun w => ⟨4, w, none⟩) else []))) ∧
  (∀ (s : State) (l dst src tag : Nat) (ws : List Nat) (body : Bytes), Message s.ctl l ws 2 dst src tag body →
      rbit s.ctl (hub 0x100) l = false →
    ∃ c, exec (.flood l ws) s = .next { s with ctl := settled c } ∧ rd c (hub 0x804) = satU 32 (rd s.ctl (hub 0x804) + 1) ∧
      OnlyRegs [hub 0x804] s.ctl c) ∧
  (∀ (s : State) (q : HubReq) (rest : List HubReq) (r : Relay) (t : Nat), HubTurn { s.ctl with db := { s.ctl.db with relay := none } } (hOp q) q rest →
      s.ctl.db.relay = some r → r.sent = some t → Ahead s.ctl (t + fld s.ctl (hub 0x10) 15 0 * 1250) →
    ∃ c, exec .relayTimeout s = .next { s with ctl := settled c } ∧ c.time.ftc = t + fld s.ctl (hub 0x10) 15 0 * 1250 ∧
      rd c (hub 0x808) = satU 32 (rd s.ctl (hub 0x808) + 1) ∧
      HubDone s.ctl c q rest 5 r.off)

/-- Run control (R946 to R957, R984): HALT debug-halts the partitions, the engine and the core it names and answers the pass; RELEASE and
PSTEP wait for their boundary, PSTEP arms the stop COUNT passes on; BSTOP arms its stop, or the first that 64 tc leave; without the epoch
they answer NO_EPOCH, where a release waits or a dump holds BUSY; in CHIP containment the status of the partitions stays (R246); FSTEP runs one bundle of a tile and halts it again. -/
def Obligations.RunControlTakesEffect : Prop :=
  (∀ (s : State) (q : HubReq) (rest : List HubReq), HubHere s.ctl 0x10 q rest → s.ctl.ev.contained = true →
    ∃ c, exec .halt s = .next { s with ctl := settled c } ∧ HubDone s.ctl c q rest 0 (passNo s.ctl) ∧
      (∀ p, p < 32 → rd c (ptStat p) = rd s.ctl (ptStat p))) ∧
  (∀ (s : State) (q : HubReq) (rest : List HubReq), HubHere s.ctl 0x10 q rest → s.ctl.ev.contained = false →
    ∃ c, exec .halt s = .next { s with ctl := settled c } ∧ HubDone s.ctl c q rest 0 (passNo s.ctl) ∧
      (∀ p, p < 32 → rbit c (ptStat p) 6 = (rbit s.ctl (ptStat p) 6 || bitN (hMask q) p)) ∧
      (∀ t, t < 1024 → tileOwner s.ctl t < 32 → bitN (hMask q) (tileOwner s.ctl t) = true →
        rbit s.ctl (ptStat (tileOwner s.ctl t)) 6 = false → (tile c t).halted = true) ∧
      c.db.ceHalted = (s.ctl.db.ceHalted || (bitN (hSel q) 0 && rbit s.ctl (hub 0) 1)) ∧
      c.db.coreHalted = (s.ctl.db.coreHalted || bitN (hSel q) 1)) ∧
  (∀ (s : State) (q : HubReq) (rest : List HubReq), HubHere s.ctl 0x11 q rest → hAt q = false → dumpHolds s.ctl (hMask q) = false →
    ∃ c, exec .release s = .next { s with ctl := settled c } ∧
      HubDone s.ctl c q rest 0 (if s.ctl.time.epoch = true then firstPassAfter s.ctl s.ctl.time.ftc % 2 ^ 48 else 2 ^ 48 - 1) ∧
      c.db.relSoon = s.ctl.db.relSoon ++ (if hMask q = 0 then [] else [(s.ctl.time.ftc, hMask q)]) ∧
      c.db.ceHalted = (s.ctl.db.ceHalted && !bitN (hSel q) 0) ∧ c.db.coreHalted = (s.ctl.db.coreHalted && !bitN (hSel q) 1) ∧
      c.regs = s.ctl.regs) ∧
  (∀ (s : State) (q : HubReq) (rest : List HubReq), HubHere s.ctl 0x11 q rest → hAt q = true → s.ctl.time.epoch = true →
      hMask q ≠ 0 → s.ctl.db.relArmed = false → dumpHolds s.ctl (hMask q) = false →
      firstPassAfter s.ctl s.ctl.time.ftc ≤ hPass q →
    ∃ c, exec .release s = .next { s with ctl := settled c } ∧ HubDone s.ctl c q rest 0 (hPass q) ∧ c.db.relArmed = true ∧
      rd64 c (hub 0x60) = hPass q ∧ rd c (hub 0x68) = hMask q ∧ RegsBut [hub 0x60, hub 0x64, hub 0x68] s.ctl c) ∧
  (∀ (s : State) (i : Instr) (op : Nat) (q : HubReq) (rest : List HubReq), (i = .release ∧ op = 0x11 ∧ hAt q = true) ∨
      (i = .pstep ∧ op = 0x13) ∨ (i = .bstop ∧ op = 0x14) → HubHere s.ctl op q rest → s.ctl.time.epoch = false →
    ∃ c, exec i s = .next { s with ctl := settled c } ∧ HubDone s.ctl c q rest 0xB 0 ∧ c.regs = s.ctl.regs) ∧
  (∀ (s : State) (i : Instr) (op : Nat) (q : HubReq) (rest : List HubReq), (i = .release ∧ op = 0x11 ∧ hAt q = true) ∨
      (i = .pstep ∧ op = 0x13) → HubHere s.ctl op q rest → s.ctl.time.epoch = true →
      dumpHolds s.ctl (hMask q) = true ∨ (hMask q ≠ 0 ∧ s.ctl.db.relArmed = true) →
    ∃ c, exec i s = .next { s with ctl := settled c } ∧ HubDone s.ctl c q rest 0xA 0 ∧ c.regs = s.ctl.regs) ∧
  (∀ (s : State) (q : HubReq) (rest : List HubReq), HubHere s.ctl 0x13 q rest → s.ctl.time.epoch = true → hMask q ≠ 0 →
      s.ctl.db.relArmed = false → dumpHolds s.ctl (hMask q) = false → firstPassAfter s.ctl s.ctl.time.ftc ≤ hPass q →
      rbit s.ctl rBstopStat 0 = false →
    ∃ c, exec .pstep s = .next { s with ctl := settled c } ∧ HubDone s.ctl c q rest 0 (hPass q) ∧ c.db.relArmed = true ∧
      rd64 c (hub 0x60) = hPass q ∧ rd c (hub 0x68) = hMask q ∧ rd64 c rBstop = hPass q + hCount q ∧ rd c rBstopMask = hMask q ∧
      rbit c rBstopStat 0 = true ∧ rbit c rBstopStat 1 = false ∧
      RegsBut [hub 0x60, hub 0x64, hub 0x68, rBstop, rBstop + 4, rBstopMask, rBstopStat] s.ctl c) ∧
  (∀ (s : State) (q : HubReq) (rest : List HubReq), HubHere s.ctl 0x14 q rest → s.ctl.time.epoch = true →
      firstPassAfter s.ctl s.ctl.time.ftc ≤ hPass q → rbit s.ctl rBstopStat 0 = false →
    ∃ c, exec .bstop s = .next { s with ctl := settled c } ∧ HubDone s.ctl c q rest 0 (hPass q) ∧ rd64 c rBstop = hPass q ∧
      rd c rBstopMask = hMask q ∧ rbit c rBstopStat 0 = true ∧ rbit c rBstopStat 1 = bitN (hSel q) 2 ∧
      (bitN (hSel q) 2 = true → rd64 c rStopAt = hPass q ∧ rbit c rTimCtrl 17 = true) ∧
      (bitN (hSel q) 2 = false → RegsBut [rBstop, rBstop + 4, rBstopMask, rBstopStat] s.ctl c) ∧
      RegsBut [rBstop, rBstop + 4, rBstopMask, rBstopStat, rStopAt, rStopAt + 4, rTimCtrl] s.ctl c) ∧
  (∀ (s : State) (q : HubReq) (rest : List HubReq), HubHere s.ctl 0x14 q rest → s.ctl.time.epoch = true →
      hPass q < firstPassAfter s.ctl s.ctl.time.ftc → firstPassAfter s.ctl s.ctl.time.ftc < 2 ^ 48 → rbit s.ctl rBstopStat 0 = false →
    ∃ c, exec .bstop s = .next { s with ctl := settled c } ∧ HubDone s.ctl c q rest 0 (firstPassAfter s.ctl s.ctl.time.ftc) ∧
      rd64 c rBstop = firstPassAfter s.ctl s.ctl.time.ftc ∧ rbit c rBstopStat 0 = true ∧ rbit c rBstopStat 2 = true ∧
      rd c (hub 0x80C) = satU 32 (rd s.ctl (hub 0x80C) + 1)) ∧
  (∀ (s : State) (q : HubReq) (rest : List HubReq) (no : Nat), HubHere s.ctl 0x12 q rest →
      stepRefused (enterWait s.ctl (hIdx q)) (hIdx q) = no → no ≠ 0 →
    exec .fstep s = .next { s with ctl := settled (hubNext (hubFinish no 0 [] (enterWait s.ctl (hIdx q)))) }) ∧
  (∀ (s : State) (q : HubReq) (rest : List HubReq) (t : Nat) (c go : Ctl), HubHere s.ctl 0x12 q rest → t = hIdx q →
      c = enterWait s.ctl t → stepRefused c t = 0 → (tile c t).run ≠ .ending →
      go = updTile (loadState c s.mem t) t (fun x =>
        { x with halted := false, exc := false, quiet := false, run := if x.run = .idle then .run else x.run }) →
    (stepStalls go t (fetched (go, s.mem) t (tile go t).pc).2 = false →
      ∃ d m st res, exec .fstep s = .next { s with ctl := settled (hubNext (hubFinish st res [] d)), mem := m } ∧
        (st = 0 ∨ st = 8) ∧ (tile d t).halted = true ∧ fld d (dbtStep t) 31 24 = st) ∧
    (stepStalls go t (fetched (go, s.mem) t (tile go t).pc).2 = true → c.time.ftc < q.acc + fld c (hub 0x14) 15 0 →
      exec .fstep s = .next { s with ctl := settled c }) ∧
    (stepStalls go t (fetched (go, s.mem) t (tile go t).pc).2 = true → q.acc + fld c (hub 0x14) 15 0 ≤ c.time.ftc →
      exec .fstep s = .next { s with
        ctl := settled (hubNext (hubFinish 7 (fld c (tlEpc t) 11 0) [] (wr c (dbtStep t) (7 * 2 ^ 24 + (tile go t).pc)))) }))

/-- The rest of Fliwell (R929, R932, R933, R963, R964, R966, R975, R976, R982, R1158): the TAP's instructions and the boundary-scan register,
the virtual terminal, the management watchdog, the traces' control, SPILL_IN, SPILL_OUT and the debug reset. -/
def Obligations.FliwellServesItsPinsAndTools : Prop :=
  (∀ (s : State) (shift balls : Nat),
    ∃ c v, exec (.extest shift balls) s = .next { s with ctl := settled c } ∧
      c.db = { s.ctl.db with ir := 0, bsr := shift % 2 ^ 29 } ∧ v &&& 0x1F80394F = balls &&& 0x1F80394F ∧
      c.outs.take 2 = [.chain 0 (if stopLow s.ctl = true then setBits (shift % 2 ^ 29) 22 22 0 else shift % 2 ^ 29), .tap v] ∧
      { c with db := s.ctl.db, outs := s.ctl.outs, free := s.ctl.free } = s.ctl) ∧
  (∀ (s : State) (shift balls : Nat),
    ∃ c v, exec (.samplePreload shift balls) s = .next { s with ctl := settled c } ∧
      c.db = { s.ctl.db with ir := 1, bsr := shift % 2 ^ 29 } ∧ v &&& 0x1F80394F = balls &&& 0x1F80394F ∧
      c.outs.head? = some (.tap v) ∧ { c with db := s.ctl.db, outs := s.ctl.outs, free := s.ctl.free } = s.ctl) ∧
  (∀ (s : State) (i : Instr) (ir v : Nat), (i = .idcode ∧ ir = 2 ∧ v = 0x13200563) ∨ (i = .clamp ∧ ir = 3 ∧ v = 0) ∨
      (i = .highz ∧ ir = 4 ∧ v = 0) ∨ (i = .bypass ∧ ir = 0xFF ∧ v = 0) →
    ∃ c, exec i s = .next { s with ctl := settled c } ∧ c.db = { s.ctl.db with ir := ir } ∧ c.outs.head? = some (.tap v) ∧
      { c with db := s.ctl.db, outs := s.ctl.outs } = s.ctl) ∧
  (∀ s : State,
    ∃ c, exec .trstN s = .next { s with ctl := settled c } ∧ c.db = { s.ctl.db with ir := 2 } ∧
      (chainHeld s.ctl = false → c.outs = s.ctl.outs) ∧ { c with db := s.ctl.db, outs := s.ctl.outs } = s.ctl) ∧
  (∀ (s : State) (i : Instr) (o : Nat) (b : Byte),
      (i = .vtTxWrite b ∧ o = hub 0x30 ∧ monRuns s.ctl = true ∧ s.ctl.db.coreHalted = false) ∨
        (i = .vtRxWrite b ∧ o = hub 0x34 ∧ s.ctl.time.refclk = true) →
    ∃ c, exec i s = .next { s with ctl := settled c } ∧ OnlyRegs [o] s.ctl c ∧ rbit c o 8 = true ∧
      (rbit s.ctl o 8 = true → rbit c o 9 = true ∧ fld c o 7 0 = fld s.ctl o 7 0) ∧
      (rbit s.ctl o 8 = false → rbit c o 9 = rbit s.ctl o 9 ∧ fld c o 7 0 = b.toNat)) ∧
  (∀ (s : State) (i : Instr) (o : Nat), (i = .vtTxRead ∧ o = hub 0x30 ∧ s.ctl.time.refclk = true) ∨
        (i = .vtRxRead ∧ o = hub 0x34 ∧ monRuns s.ctl = true ∧ s.ctl.db.coreHalted = false) →
    ∃ c, exec i s = .next { s with ctl := settled c } ∧ c.outs = .regRead (rd s.ctl o % 2 ^ 10) :: s.ctl.outs ∧ rbit c o 8 = false ∧
      fld c o 7 0 = fld s.ctl o 7 0 ∧ RegsBut [o] s.ctl c ∧ { c with outs := s.ctl.outs, regs := s.ctl.regs } = s.ctl) ∧
  (∀ (s : State) (rx : Option Byte),
    ∃ c, exec (.dbvt rx) s = .next { s with ctl := settled c } ∧ c.db = { s.ctl.db with ir := 0x13 } ∧
      c.outs.head? = some (.tap (rd s.ctl (hub 0x30) % 2 ^ 8 + fld s.ctl (hub 0x30) 8 8 * 2 ^ 19 + fld s.ctl (hub 0x34) 8 8 * 2 ^ 18)) ∧
      rbit c (hub 0x30) 8 = false ∧ (∀ b, rx = some b → rbit c (hub 0x34) 8 = true ∧
        (rbit s.ctl (hub 0x34) 8 = false → fld c (hub 0x34) 7 0 = b.toNat)) ∧
      (rx = none → rd c (hub 0x34) = rd s.ctl (hub 0x34)) ∧ RegsBut [hub 0x30, hub 0x34] s.ctl c) ∧
  (∀ s : State, monRuns s.ctl = true →
    exec .mwdogKick s = .next { s with ctl := settled { s.ctl with db := { s.ctl.db with mwdog := s.ctl.time.ftc } } }) ∧
  (∀ s : State, monRuns s.ctl = false → exec .mwdogKick s = .next { s with ctl := settled s.ctl }) ∧
  (∀ s : State, monRuns s.ctl = true → mwdogTc s.ctl ≠ 0 → rbit s.ctl (hub 0) 2 = false → s.ctl.time.refclk = true →
      Ahead s.ctl (s.ctl.db.mwdog + mwdogTc s.ctl) → rbit s.ctl rDmCtrl 1 = false →
    ∃ c, exec .mwdogExpired s = .next { s with ctl := settled (fireSrc (raise c 0x0502 noPart (unitOf c 0xD 0) 0) 100) } ∧
      c.time.ftc = s.ctl.db.mwdog + mwdogTc s.ctl ∧ fld c 0x1004 1 0 = 3 ∧ rbit c (hub 0x28) 1 = true ∧
      RegsBut [0x1004, hub 0x28] s.ctl c) ∧
  (∀ (s : State) (p : Nat) (v : Word), p < 32 → s.ctl.time.refclk = true → bitN v.toNat 31 = true →
    ∃ c m, exec (.traceEn p v) s = .next { s with ctl := settled c, mem := m } ∧
      fld c (trcCtrl p) 29 28 = b2n (!bitN v.toNat 19) ∧ rd c (trcCtrl p + 12) = 0 ∧ rd c (trcCtrl p + 16) = 0 ∧
      smGet c.db.traceQ [] p = [] ∧ RegsBut [trcCtrl p, trcCtrl p + 12, trcCtrl p + 16] s.ctl c ∧ m.tm = s.mem.tm ∧ m.dm = s.mem.dm) ∧
  (∀ (s : State) (p : Nat) (v : Word), p < 32 → s.ctl.time.refclk = true → bitN v.toNat 31 = false →
    ∃ c m, exec (.traceEn p v) s = .next { s with ctl := settled c, mem := m } ∧ rbit c (trcCtrl p) 28 = false ∧
      RegsBut [trcCtrl p, trcCtrl p + 12, trcCtrl p + 16] s.ctl c ∧ m.tm = s.mem.tm ∧ m.dm = s.mem.dm) ∧
  (∀ (s : State) (n ch : Nat), rootLock s.ctl = true → s.ctl.time.refclk = true → fld s.ctl (hub 0x108) 27 24 + 1 ≤ n →
      ch = fld s.ctl (hub (0x200 + 4 * 98)) 15 0 → ch ≠ 0 →
    exec (.spillIn n) s = .next { s with ctl := settled { s.ctl with db := { s.ctl.db with fireQ := s.ctl.db.fireQ ++ [(ch, true)] } } }) ∧
  (∀ (s : State) (n : Nat), rootLock s.ctl = false ∨ s.ctl.time.refclk = false ∨ n < fld s.ctl (hub 0x108) 27 24 + 1 →
    exec (.spillIn n) s = .next { s with ctl := settled s.ctl }) ∧
  (∀ (s : State) (ch : Nat), regsServed s.ctl = true → ch % 2 ^ 16 ≠ 0 → exec (.spillFire ch) s = .next { s with
    ctl := settled { s.ctl with db := { s.ctl.db with fireQ := s.ctl.db.fireQ ++ [(ch % 2 ^ 16, true)] } } }) ∧
  (∀ (s : State) (ch : Nat), regsServed s.ctl = true → ch < 2 ^ 16 → ch ≠ 0 → s.ctl.db.fireQ = [] →
      (∀ g, g < 8 → rd s.ctl (hub (0x80 + 8 * g)) % 2 ^ 16 &&& ch = 0) → bits (rd s.ctl (hub 0x50)) 31 16 &&& ch = 0 →
      (∀ p, p < 32 → rbit s.ctl (trcCtrl p) 31 = false) → ch &&& fld s.ctl (hub 0x104) 15 0 = 0 →
      bits (rd s.ctl rDmTrig) 31 16 &&& ch = 0 → rd s.ctl (hub 0x108) % 2 ^ 16 &&& ch ≠ 0 →
    ∃ c, exec (.spillFire ch) s = .next { s with ctl := c } ∧
      c.db = { s.ctl.db with
               spillOut := true, spillTill := s.ctl.time.ftc + 8 + 16 * bits (rd s.ctl (hub 0x108)) 23 16,
               captTrig := s.ctl.db.captTrig ||| ch } ∧
      (chainHeld s.ctl = false → c.outs = (if s.ctl.db.spillOut = true then [] else [.pin 1 1]) ++ s.ctl.outs) ∧
      { c with db := s.ctl.db, outs := s.ctl.outs } = s.ctl) ∧
  (∀ s : State, regsServed s.ctl = true → s.ctl.db.spillOut = true → rbit s.ctl (hub 0x108) 30 = false → Ahead s.ctl s.ctl.db.spillTill →
    ∃ c, exec .spillOutPulseEnd s = .next { s with ctl := settled c } ∧ c.db = { s.ctl.db with spillOut := false } ∧
      c.time.ftc = s.ctl.db.spillTill ∧ (chainHeld s.ctl = false → c.outs = .pin 1 0 :: s.ctl.outs) ∧ c.regs = s.ctl.regs) ∧
  (∀ s : State, regsServed s.ctl = true → s.ctl.db.spillOut = true → rbit s.ctl (hub 0x108) 30 = true →
    ∃ c, exec .spillOutClear s = .next { s with ctl := settled c } ∧ c.db = { s.ctl.db with spillOut := false } ∧
      (chainHeld s.ctl = false → c.outs = .pin 1 0 :: s.ctl.outs) ∧ { c with db := s.ctl.db, outs := s.ctl.outs } = s.ctl) ∧
  (∀ s : State, s.ctl.db.fireQ = [] →
    ∃ c m, exec .dbgReset s = .next { s with ctl := settled c, mem := m } ∧
      c.db = { mwdog := s.ctl.time.ftc, captTrig := s.ctl.db.captTrig } ∧ c.dump = {} ∧
      (∀ o, debugReg o = true → rd c o = (regReset o).toNat) ∧
      (∀ p, p < 32 → rbit s.ctl (ptStat p) 6 = true → rbit c (ptStat p) 6 = false ∧ (part c p).holdTill = s.ctl.time.ftc + 64) ∧
      (∀ p, p < 32 → rbit s.ctl (ptStat p) 6 = false → rd c (ptStat p) = rd s.ctl (ptStat p)) ∧
      m.tm = s.mem.tm ∧ m.im = s.mem.im ∧ m.dm = s.mem.dm)

/-! Dumps and events. -/

/-- Dumps (R993 to R1002, R1010 to R1013, R1017, R1019): DUMP_REQ halts or arms a stop and joins the queue; a dump takes the lowest free
catalog and its place, lays out its records and writes them beat by beat, and ends COMPLETE or PARTIAL; one without a catalog or space
ends at once; a catalog is freed; a hold that expires lets the reset go on. -/
def Obligations.DumpsRunAndEnd : Prop :=
  (∀ (s : State) (fn p : Nat) (e : Bytes), Taken s.ctl fn 0 0x40 e → leAt e 8 1 = 0 → ePass e 0x10 = none → s.ctl.time.epoch = false →
      s.ctl.ev.contained = false →
      p = cmdPart e (refOf fn 0 e) → p < 32 → s.ctl.dump.queue = [] →
    ∃ c r, exec (.dumpReq fn) s = .next { s with ctl := settled c } ∧ c.dump.queue = [r] ∧ r.trigger = 1 ∧ r.scope = 0 ∧ r.mask = 2 ^ p ∧
      r.origin = plezorId s.ctl ∧ r.pass = passNo s.ctl ∧ r.ref = some (refOf fn 0 e) ∧ rbit c (ptStat p) 6 = true ∧
      c.hi.done = s.ctl.hi.done) ∧
  (∀ (s : State) (fn p : Nat) (e : Bytes), Taken s.ctl fn 0 0x40 e → leAt e 8 1 = 0 → ePass e 0x10 = none → s.ctl.time.epoch = false →
      s.ctl.ev.contained = false →
      p = cmdPart e (refOf fn 0 e) → p < 32 → s.ctl.dump.queue.length = 4 → (∀ q, q ∈ s.ctl.dump.queue → q.scope = 0 → q.mask ≠ 2 ^ p) →
      (∀ q, q ∈ s.ctl.dump.queue → q.ref ≠ some (refOf fn 0 e)) →
    ∃ c, exec (.dumpReq fn) s = .next { s with ctl := settled c } ∧ c.dump.queue = s.ctl.dump.queue ∧ c.dump.seq = s.ctl.dump.seq + 1 ∧
      rd c (rDmCnt 3) = satU 32 (rd s.ctl (rDmCnt 3) + 1) ∧ rbit c (ptStat p) 6 = true ∧
      c.hi.done = s.ctl.hi.done ++ [⟨refOf fn 0 e, 0, 4, passNo s.ctl % 2 ^ 48⟩]) ∧
  (∀ (s : State) (fn p n : Nat) (e : Bytes), Taken s.ctl fn 0 0x40 e → leAt e 8 1 = 0 → s.ctl.time.epoch = true →
      p = cmdPart e (refOf fn 0 e) → p < 32 → n = (ePass e 0x10).getD (firstPassAfter s.ctl s.ctl.time.ftc) → n < 2 ^ 48 →
      firstPassAfter s.ctl s.ctl.time.ftc ≤ n → rbit s.ctl rBstopStat 0 = false →
    ∃ c r, exec (.dumpReq fn) s = .next { s with ctl := settled c } ∧ c.dump.armed = s.ctl.dump.armed ++ [r] ∧ r.awaits = some n ∧
      r.mask = 2 ^ p ∧ r.late = false ∧ r.ref = some (refOf fn 0 e) ∧ rd64 c rBstop = n ∧ rbit c rBstopStat 0 = true ∧
      rd c rBstopMask = 2 ^ p ∧ c.hi.done = s.ctl.hi.done ∧ RegsBut [rBstop, rBstop + 4, rBstopMask, rBstopStat] s.ctl c) ∧
  (∀ (s : State) (fn : Nat) (e : Bytes), Taken s.ctl fn 0 0x40 e → (ePass e 0x10).isSome = true → s.ctl.time.epoch = false →
    ∃ c, exec (.dumpReq fn) s = .next { s with ctl := settled c } ∧ c.hi.done = s.ctl.hi.done ++ [⟨refOf fn 0 e, 0, 5, 0⟩] ∧
      { c with hi := s.ctl.hi } = s.ctl) ∧
  (∀ (s : State) (r0 : DumpReq) (rest : List DumpReq) (mask cat base : Nat) (recs : List (Nat × Nat × Nat)),
      s.ctl.dump.queue = r0 :: rest → s.ctl.dump.running = none → s.ctl.dump.cut = none → mask = scopeMask s.ctl r0 →
      scopeQuiet s.ctl (mask - (mask &&& r0.lost)) = true → dmUp s.ctl = true → cat < 16 → (smGet s.ctl.dump.cats none cat).isNone = true →
      (∀ i, i < cat → (smGet s.ctl.dump.cats none i).isSome = true) → recs = scopeRecs s.ctl { r0 with mask := mask } mask →
      placeFor s.ctl (recs.map (fun e => e.2.2)).sum = some base →
    ∃ c m d, exec .dumpStart s = .next { s with ctl := settled c, mem := m } ∧ c.dump.running = some d ∧ d.cat = cat ∧ d.base = base ∧
      d.req = { r0 with mask := mask } ∧ d.startTs = stamp s.ctl ∧ d.seq = s.ctl.dump.seq + 1 ∧
      d.ents.map (fun e => (e.kind, e.unit, e.len)) = recs ∧ (∀ e, e ∈ d.ents → base ≤ e.off ∧
        e.state = (if (List.range 32).any (fun p => bitN r0.lost p && entOfPart s.ctl p e) = true then 3 else 0)) ∧ c.dump.queue = rest ∧
      smGet c.dump.cats none cat = some (base, (recs.map (fun e => e.2.2)).sum) ∧
      rd c (rDmCnt 0) = satU 32 (rd s.ctl (rDmCnt 0) + 1) ∧ m.tm = s.mem.tm ∧ m.im = s.mem.im) ∧
  (∀ (s : State) (r0 : DumpReq) (rest : List DumpReq) (mask st : Nat) (ref : CmdRef) (recs : List (Nat × Nat × Nat)),
      s.ctl.dump.queue = r0 :: rest → s.ctl.dump.running = none → s.ctl.dump.cut = none → mask = scopeMask s.ctl r0 →
      scopeQuiet s.ctl (mask - (mask &&& r0.lost)) = true → dmUp s.ctl = true → recs = scopeRecs s.ctl { r0 with mask := mask } mask →
      (st = 3 ∧ ∀ i, i < 16 → (smGet s.ctl.dump.cats none i).isSome = true) ∨
        (st = 2 ∧ (∃ i, i < 16 ∧ (smGet s.ctl.dump.cats none i).isNone = true) ∧
          placeFor s.ctl (recs.map (fun e => e.2.2)).sum = none) →
      r0.ref = some ref → ref.ring ≠ 0xFF → (∀ p, p < 32 → (part s.ctl p).heldAt = none) →
    ∃ c m, exec .dumpStart s = .next { s with ctl := settled c, mem := m } ∧ c.dump.running = none ∧ c.dump.queue = rest ∧
      c.dump.cats = s.ctl.dump.cats ∧ c.hi.done = s.ctl.hi.done ++ [⟨ref, 0, st, dumpResult r0 0⟩] ∧
      rd c (rDmCnt 2) = satU 32 (rd s.ctl (rDmCnt 2) + (if st = 2 then 1 else 0)) ∧ m.tm = s.mem.tm ∧ m.dm = s.mem.dm) ∧
  (∀ (s : State) (q slot o t : Nat) (c1 : Ctl) (b : (Ctl × Mem) × Nat) (r : Ctl × Mem), dmUp s.ctl = true → q < 512 →
      s.ctl.db.traceQ.entries = [] → inForce s.ctl = true →
      (hbmOwner s.ctl q slot = o ∧ o < 32) ∨ (hbmOwner s.ctl q slot = 0x41 ∧ o = 32) →
      slotFor s.ctl q slot (if o < 32 then o else 0x41) = some t →
      c1 = useSlot { s.ctl with dump := { s.ctl.dump with turn := o } } q t →
      b = (if o = 32 then catBeats q (c1, s.mem) else ((c1, s.mem), 15)) →
      r = dumpDone (Nat.fold b.2 (fun _ _ cm => dumpBeat o q cm) b.1) →
    exec (.dumpRecordWrite q slot) s = .next { s with ctl := settled r.1, mem := r.2 } ∧ r.2.tm = s.mem.tm ∧ r.2.im = s.mem.im) ∧
  (∀ (c c1 : Ctl) (m : Mem) (d : Dump) (e : DumpEnt) (i r f o q : Nat), c.dump.running = some d → e.state = 1 →
      d.ents.zipIdx.find? (fun e => decide (e.1.state < 2 ∧ pathOf c e.1 q = o) &&
          ((entNext (regionGrans c) d o q e.1).bind (fun r => (lineRead c d e.1 r).map (fun f => (r, f)))).isSome) = some (e, i) →
      entNext (regionGrans c) d o q e = some r → lineRead c d e r = some f →
      pchFailed c (pchOf (regionAddr (regionGrans c) r)) = false →
      c1 = (if e.kind = 1 ∧ (r - e.off) % 64 = 0 then rxUse c (e.unit % 4096) 0 false else c) →
    ∃ d1, (dumpBeat o q (c, m)).1.dump.running = some d1 ∧ progOf d1 o q = r + 32 ∧
      (e.kind = 1 ∧ (r - e.off) % 64 = 0 → smGet d1.readAt 0 (e.unit % 4096) = f + 1 ∧
        tile (dumpBeat o q (c, m)).1 (e.unit % 4096) = tile c1 (e.unit % 4096)) ∧
      dmBeat (dumpBeat o q (c, m)).2 (32 * (regionAddr (regionGrans c) r / 32)) = BitVec.ofNat 256
        (leAt (recLine c1 m d.req (i + 309 - d.ents.length) e ((r - e.off) / 64)).1
          (32 * ((r - e.off) % 64 / 32)) 32)) ∧
  (∀ (s : State) (d : Dump) (ref : CmdRef), s.ctl.dump.running = some d → d.ents.all (fun e => decide (e.state ≥ 2)) = true →
      dmUp s.ctl = true → d.req.ref = some ref → ref.ring ≠ 0xFF → (∀ p, p < 32 → (part s.ctl p).heldAt = none) →
      inForce s.ctl = false ∨ (s.ctl.dump.catq = [] ∧
        ∃ t, nextSlot s.ctl (pchOf (regionAddr (regionGrans s.ctl) (65536 * d.cat))) 0x41 = some t ∧ Ahead s.ctl t) →
    ∃ c m, exec .dumpEnd s = .next { s with ctl := settled c, mem := m } ∧ c.dump.running = none ∧ c.dump.cats = s.ctl.dump.cats ∧
      c.hi.done = s.ctl.hi.done ++ [⟨ref, 0, b2n (decide (entCount d.ents 3 ≠ 0 ∨ d.req.lost ≠ 0)), dumpResult d.req d.cat⟩] ∧
      rd c (rDmCnt 1) = satU 32 (rd s.ctl (rDmCnt 1) + b2n (decide (entCount d.ents 3 ≠ 0 ∨ d.req.lost ≠ 0))) ∧ m.tm = s.mem.tm) ∧
  (∀ (s : State) (d : Dump), s.ctl.dump.running = some d → inForce s.ctl = true → s.ctl.dump.catq ≠ [] →
    exec .dumpEnd s = .next { s with ctl := settled s.ctl }) ∧
  (∀ (s : State) (d : Dump), s.ctl.dump.cut = some d → dmUp s.ctl = true → d.req.ref = none →
      (∀ p, p < 32 → (part s.ctl p).heldAt = none) →
    ∃ c m, exec .catalogCompletion s = .next { s with ctl := settled c, mem := m } ∧ c.dump.cut = none ∧ c.dump.running = none ∧
      c.dump.cats = s.ctl.dump.cats ∧ c.hi.done = s.ctl.hi.done ∧ m.tm = s.mem.tm) ∧
  (∀ (s : State) (cat : Nat), cat < 16 → regsServed s.ctl = true → (∀ d, s.ctl.dump.running = some d → d.cat ≠ cat) → (∀ d, s.ctl.dump.cut = some d → d.cat ≠ cat) →
    ∃ c, exec (.catalogFree cat) s = .next { s with ctl := settled c } ∧ smGet c.dump.cats none cat = none ∧
      (∀ k, k ≠ cat → smGet c.dump.cats none k = smGet s.ctl.dump.cats none k) ∧ fld c rDmCatFree 3 0 = cat ∧
      RegsBut [rDmCatFree] s.ctl c) ∧
  (∀ (s : State) (cat : Nat) (d : Dump), cat < 16 → regsServed s.ctl = true → s.ctl.dump.running = some d → d.cat = cat →
    exec (.catalogFree cat) s = .next { s with ctl := settled (discard (setFld s.ctl rDmCatFree 3 0 cat) rDmCatFree 0) }) ∧
  (∀ (s : State) (p a t : Nat), p < 32 → regsServed s.ctl = true → s.ctl.ev.contained = false → (part s.ctl p).heldAt = some a → t = a + fld s.ctl rDmHoldMax 15 0 * 1250 → Ahead s.ctl t →
      s.ctl.dump.queue = [] →
    ∃ c m, exec (.holdExpired p) s = .next { s with ctl := settled c, mem := m } ∧ c.time.ftc = t ∧ (part c p).resetting = true ∧
      (part c p).heldAt = none ∧ rd c (rDmCnt 4) = satU 32 (rd s.ctl (rDmCnt 4) + 1) ∧ m.tm = s.mem.tm ∧
      (∀ d, s.ctl.dump.running = some d → bitN d.req.mask p = true →
        c.dump.running = some { d with req := { d.req with lost := d.req.lost ||| 2 ^ p }
                                       ents := loseParts s.ctl (loseOne p d.req) d.ents }) ∧
      (s.ctl.dump.running = none → c.dump = s.ctl.dump))

/-- Events enter the buffer in their order and are delivered (R1030, R1034 to R1038, R898, R899): the first cause becomes a record with the
next SEQ, counted by its severity, or is suppressed in a storm; a record overwritten before the monitor took it is lost; the monitor takes
the oldest, and PF0's event ring carries it, or counts it when it is full. -/
def Obligations.EventsAreRecordedAndDelivered : Prop :=
  (∀ (s : State) (e : EvCause) (n k : Nat), regsServed s.ctl = true → firstCause s.ctl.ev.causes = some e →
      n = smGet (if s.ctl.ev.window = stormWindow s.ctl then s.ctl.ev.entered else {}) 0 e.code →
      2 ≤ e.sev ∨ fld s.ctl rEvCtrl 7 0 = 0 ∨ n < fld s.ctl rEvCtrl 7 0 → s.ctl.ev.seq < s.ctl.ev.taken + 256 → k = rEvCnt (min e.sev 4) →
    ∃ c, exec .eventRecordEntry s = .next { s with ctl := settled c } ∧ c.ev.causes = s.ctl.ev.causes.erase e ∧
      c.ev.seq = s.ctl.ev.seq + 1 ∧ c.ev.taken = s.ctl.ev.taken ∧ c.ev.lost = s.ctl.ev.lost ∧
      smGet c.ev.buf {} (s.ctl.ev.seq % 256) =
        { code := e.code, sev := e.sev, part := e.part, unit := e.unit, ts := e.ts, seq := s.ctl.ev.seq,
          count := satU 16 (1 + smGet s.ctl.ev.suppressed 0 e.code), detail := e.detail } ∧
      (∀ j, j ≠ s.ctl.ev.seq % 256 → smGet c.ev.buf {} j = smGet s.ctl.ev.buf {} j) ∧ smGet c.ev.entered 0 e.code = n + 1 ∧
      smGet c.ev.suppressed 0 e.code = 0 ∧ rd c k = satU 32 (rd s.ctl k + 1) ∧ RegsBut [k] s.ctl c) ∧
  (∀ (s : State) (e : EvCause), regsServed s.ctl = true → firstCause s.ctl.ev.causes = some e → 2 ≤ e.sev →
      s.ctl.ev.seq = s.ctl.ev.taken + 256 →
    ∃ c, exec .eventRecordEntry s = .next { s with ctl := settled c } ∧ c.ev.seq = s.ctl.ev.seq + 1 ∧ c.ev.taken = s.ctl.ev.taken + 1 ∧
      c.ev.lost = s.ctl.ev.lost + 1 ∧ rd c (rEvCnt 5) = satU 32 (rd s.ctl (rEvCnt 5) + 1)) ∧
  (∀ (s : State) (e : EvCause), regsServed s.ctl = true → firstCause s.ctl.ev.causes = some e → e.sev ≤ 1 → fld s.ctl rEvCtrl 7 0 ≠ 0 →
      s.ctl.ev.window = stormWindow s.ctl → fld s.ctl rEvCtrl 7 0 ≤ smGet s.ctl.ev.entered 0 e.code →
    ∃ c, exec .eventRecordEntry s = .next { s with ctl := settled c } ∧ c.ev.causes = s.ctl.ev.causes.erase e ∧
      c.ev.seq = s.ctl.ev.seq ∧ c.ev.buf = s.ctl.ev.buf ∧
      smGet c.ev.suppressed 0 e.code = smGet s.ctl.ev.suppressed 0 e.code + 1 ∧
      rd c (rEvCnt 6) = satU 32 (rd s.ctl (rEvCnt 6) + 1) ∧ RegsBut [rEvCnt 6] s.ctl c) ∧
  (∀ s : State, regsServed s.ctl = false → exec .eventRecordEntry s = .next { s with ctl := settled s.ctl } ∧
    exec .eventDelivery s = .next { s with ctl := settled s.ctl }) ∧
  (∀ (s : State) (r : EvRec) (h : Nat), regsServed s.ctl = true → s.ctl.ev.vfTodo = [] → monRuns s.ctl = true → s.ctl.db.coreHalted = false →
      s.ctl.ev.taken < s.ctl.ev.seq → s.ctl.ev.lost = 0 → ringOk s.ctl 0 4 = true → ringFree s.ctl 0 4 ≠ 0 →
      r = smGet s.ctl.ev.buf {} (s.ctl.ev.taken % 256) → h = ((ring s.ctl 0 4).head + 1) % ringSize s.ctl 0 4 →
    ∃ c, exec .eventDelivery s = .next { s with ctl := settled c } ∧ c.ev.taken = s.ctl.ev.taken + 1 ∧
      c.ev.log = (r :: s.ctl.ev.log).take 8192 ∧ (ring c 0 4).head = h ∧ (ring c 0 4).pend = (ring s.ctl 0 4).pend + 1 ∧
      (ring c 0 4).urgent = ((ring s.ctl 0 4).urgent || decide (2 ≤ r.sev)) ∧
      c.outs = .hostWrite (rd64 s.ctl (ringBase 0 4 + 0x18)) (leBytes 4 h ++ leBytes 4 (rd s.ctl (ringBase 0 4 + 0x20))) ::
        .hostWrite (ringAddr s.ctl 0 4 + (ring s.ctl 0 4).head * 32) (evBytes r) :: s.ctl.outs ∧
      RegsBut [ringBase 0 4 + 0x10] s.ctl c) ∧
  (∀ s : State, regsServed s.ctl = true → s.ctl.ev.vfTodo = [] → monRuns s.ctl = true → s.ctl.db.coreHalted = false →
      s.ctl.ev.taken < s.ctl.ev.seq → s.ctl.ev.lost = 0 → ringOk s.ctl 0 4 = true → ringFree s.ctl 0 4 = 0 →
    ∃ c, exec .eventDelivery s = .next { s with ctl := settled c } ∧ c.ev.taken = s.ctl.ev.taken + 1 ∧ c.outs = s.ctl.outs ∧
      rbit c (ringStat 0 4) 3 = true ∧ rd c (ringBase 0 4 + 0x20) = satU 32 (rd s.ctl (ringBase 0 4 + 0x20) + 1) ∧
      RegsBut [ringStat 0 4, ringBase 0 4 + 0x20] s.ctl c) ∧
  (∀ (s : State) (r : EvRec) (rest : List EvRec), regsServed s.ctl = true → s.ctl.ev.vfTodo = r :: rest →
      ringIs s.ctl (r.part + 1) 4 = false ∨ ringOk s.ctl (r.part + 1) 4 = false →
    exec .eventDelivery s = .next { s with ctl := settled { s.ctl with ev := { s.ctl.ev with vfTodo := rest } } }) ∧
  (∀ s : State, regsServed s.ctl = true → s.ctl.ev.vfTodo = [] →
      monRuns s.ctl = false ∨ s.ctl.db.coreHalted = true ∨ s.ctl.ev.seq ≤ s.ctl.ev.taken →
    exec .eventDelivery s = .next { s with ctl := settled s.ctl })

/-! Power and resets. -/

/-- Power states and resets (R1062 to R1076, R1085, R1096, R1097, R1101, R1104, R1105): a request is refused with its reason, waits for the
boundary, or begins; S1 is there at once, S2 puts stacks in self-refresh, S3 discards plans and clears the tiles; POR, CHIP reset and BLK
reset return their domains' state, a POR all but the hard repairs (R516); the CHIP reset ends with its last source. -/
def Obligations.PowerStatesAndResets : Prop :=
  (∀ (s : State) (i : Instr) (st : Nat), powerRow i = some st → regsServed s.ctl = true → fld s.ctl rPwrCtrl 1 0 ≠ st →
      refuseCode s.ctl st ≠ 0 →
    ∃ c, exec i s = .next { s with ctl := settled c } ∧ fld c rPwrStat 15 12 = refuseCode s.ctl st ∧ OnlyRegs [rPwrStat] s.ctl c) ∧
  (∀ (s : State) (i : Instr) (st : Nat), powerRow i = some st → fld s.ctl rPwrCtrl 1 0 = st ∨ regsServed s.ctl = false →
    exec i s = .next { s with ctl := settled s.ctl }) ∧
  (∀ (s : State) (i : Instr) (st : Nat), powerRow i = some st → regsServed s.ctl = true → fld s.ctl rPwrCtrl 1 0 ≠ st →
      refuseCode s.ctl st = 0 → s.ctl.time.epoch = true →
    ∃ c, exec i s = .next { s with ctl := settled c } ∧ c.pwr = { s.ctl.pwr with next := some (st, s.ctl.time.ftc, false) } ∧
      fld c rPwrCtrl 1 0 = st ∧ rbit c rPwrStat 3 = true ∧ pwrState c = pwrState s.ctl ∧
      OnlyRegs [rPwrCtrl, rPwrStat] { s.ctl with pwr := c.pwr } c) ∧
  (∀ s : State, regsServed s.ctl = true → fld s.ctl rPwrCtrl 1 0 ≠ 1 → refuseCode s.ctl 1 = 0 → s.ctl.time.epoch = false →
    ∃ c, exec .requestS1 s = .next { s with ctl := settled c } ∧ pwrState c = 1 ∧ rbit c rPwrStat 3 = false ∧
      c.pwr = { s.ctl.pwr with next := none, s1div := fld s.ctl rPwrCtrl 12 8, s1new := none } ∧
      OnlyRegs [rPwrCtrl, rPwrStat] { s.ctl with pwr := c.pwr } c) ∧
  (∀ s : State, regsServed s.ctl = true → fld s.ctl rPwrCtrl 1 0 ≠ 2 → refuseCode s.ctl 2 = 0 → s.ctl.time.epoch = false →
    ∃ c, exec .requestS2 s = .next { s with ctl := settled c } ∧ rbit c rPwrStat 3 = true ∧ rbit c rPwrStat 4 = sleepEmu s.ctl ∧
      c.pwr.next = some (2, s.ctl.time.ftc, true) ∧
      c.pwr.sref = (if sleepEmu s.ctl = true then s.ctl.pwr.sref else fld s.ctl rPwrCtrl 23 16) ∧
      OnlyRegs [rPwrCtrl, rPwrStat] { s.ctl with pwr := c.pwr } c) ∧
  (∀ s : State, regsServed s.ctl = true → fld s.ctl rPwrCtrl 1 0 ≠ 3 → refuseCode s.ctl 3 = 0 → s.ctl.time.epoch = false →
    ∃ c m, exec .requestS3 s = .next { s with ctl := settled c, mem := m } ∧ c.pwr.next = some (3, s.ctl.time.ftc, true) ∧
      (∀ p, p < 32 → partPlan c p = none) ∧ (sleepEmu s.ctl = true → m = s.mem ∧ c.tiles = s.ctl.tiles ∧ c.pwr.sref = s.ctl.pwr.sref) ∧
      (sleepEmu s.ctl = false → c.pwr.sref = 0xFF ∧ (∀ t, t < 1024 → tile c t = {}) ∧ (∀ a, a < 2 ^ 29 → smGet m.tm 0 a = 0) ∧
        (∀ a, a < 2 ^ 26 → smGet m.im 0 a = 0) ∧ m.dm = s.mem.dm)) ∧
  (∀ s : State, regsServed s.ctl = true → fld s.ctl rPwrCtrl 1 0 ≠ 0 → refuseCode s.ctl 0 = 0 → s.ctl.time.epoch = false → pwrState s.ctl ≠ 1 →
    ∃ c, exec .requestS0 s = .next { s with ctl := settled c } ∧ c.pwr = { s.ctl.pwr with next := some (0, s.ctl.time.ftc, true) } ∧
      rbit c rPwrStat 3 = true ∧ OnlyRegs [rPwrCtrl, rPwrStat] { s.ctl with pwr := c.pwr } c) ∧
  (∀ (s : State) (st a : Nat), regsServed s.ctl = true → s.ctl.pwr.next = some (st, a, true) → st ≤ 3 →
    ∃ c, exec .powerTransitionComplete s = .next { s with ctl := settled c } ∧ pwrState c = st ∧ rbit c rPwrStat 3 = false ∧
      c.pwr.next = none ∧ (st = 0 → c.pwr.sref = 0 ∧ rbit c rPwrStat 4 = false) ∧ (st ≠ 0 → c.pwr.sref = s.ctl.pwr.sref) ∧
      RegsBut [rPwrStat] s.ctl c) ∧
  (∀ s : State, s.ctl.pwr.next = none → exec .powerTransitionComplete s = .next { s with ctl := settled s.ctl }) ∧
  (∀ s : State, s.ctl.pwr.save = none →
    ∃ c m, exec .por s = .next { s with ctl := settled c, mem := m } ∧ c.pwr.chip = true ∧ c.pwr.por = true ∧ c.ce.mot = false ∧
      (∀ o, o ≠ rCeStat → rd c o = (regReset o).toNat) ∧ c.tiles = {} ∧ c.parts = {} ∧ c.db = {} ∧ c.hi = {} ∧ c.dump = {} ∧
      c.time.epoch = false ∧ c.time.ftc = 0 ∧ c.nme = { repairs := s.ctl.nme.repairs.filter (·.2.2.2) } ∧ m.tm = {} ∧ m.dm = {} ∧ readLe m.keep 8 4 = (readLe s.mem.keep 8 4 + 1) % 2 ^ 32 ∧
      (∀ a, a < 8 ∨ 12 ≤ a → smGet m.keep 0 a = smGet s.mem.keep 0 a)) ∧
  (∀ (s : State) (v : SaveSt), s.ctl.pwr.save = some v →
    exec .por s = .next { s with ctl := settled { s.ctl with pwr := { s.ctl.pwr with porWaits := true } } }) ∧
  (∀ s : State, s.ctl.pwr.chip = true →
    exec .chipReset s = .next { s with ctl := settled { s.ctl with pwr := { s.ctl.pwr with wrst := true } } } ∧
    ∀ v, exec (.pwrRst v) s = .next { s with ctl := settled s.ctl }) ∧
  (∀ (s : State) (v : Nat), v ≠ 0xC1 → exec (.pwrRst v) s = .next { s with ctl := settled s.ctl }) ∧
  (∀ (s : State) (i : Instr) (hw : Bool), (i = .chipReset ∧ hw = true) ∨ (i = .pwrRst 0xC1 ∧ hw = false) → s.ctl.pwr.chip = false →
      s.ctl.pwr.save = none →
    ∃ c m, exec i s = .next { s with ctl := settled c, mem := m } ∧ c.pwr.chip = true ∧
      c.pwr.wrst = (s.ctl.pwr.wrst || hw) ∧ c.pwr.byReg = (s.ctl.pwr.byReg || !hw) ∧ c.pwr.next = none ∧
      c.pwr.resetRef = (rootLock s.ctl && s.ctl.time.refclk) ∧
      c.pwr.sref = (if (rootLock s.ctl && s.ctl.time.refclk) = true then s.ctl.pwr.sref else 0xFF) ∧
      (rbit s.ctl rPwrStat 8 = false → ∃ v, c.pwr.save = some v ∧ v.cause = 3) ∧
      (rbit s.ctl rPwrStat 8 = true → c.pwr.save = none) ∧
      (∀ o, keptReg o = false → o ≠ rPwrCtrl → o ≠ rCeStat → (∀ p, p < 32 → o ≠ ptStat p) → rd c o = (regReset o).toNat) ∧
      (∀ o, (0x60000 ≤ o ∧ o < 0x61000) ∨ (0x90000 ≤ o ∧ o < 0x92000) ∨ (0xA0000 ≤ o ∧ o < 0xA1000) → rd c o = rd s.ctl o) ∧
      (∀ p, p < 32 → rbit c (ptStat p) 6 = rbit s.ctl (ptStat p) 6) ∧ c.ce.mot = false ∧ c.time.epoch = false ∧ c.time.ftc = 0 ∧
      c.tiles = {} ∧ c.ev = {} ∧ c.staged = [] ∧ c.dump.queue = [] ∧ c.dump.running = none ∧ m.tm = {} ∧ m.im = {} ∧
      m.dm = s.mem.dm) ∧
  (∀ (s : State) (src : Nat), LastSource s.ctl src →
    ∃ c, exec (.chipResetRelease src) s = .next { s with ctl := settled c } ∧ c.pwr.chip = false ∧ rbit c rPwrStat 8 = false ∧
      c.snap.frozen = false ∧ RegsBut [rPwrStat] s.ctl c ∧
      (restorable s.mem = false → ∃ e, c.ev.causes = s.ctl.ev.causes ++ [e] ∧ e.code = 0x0101) ∧
      (restorable s.mem = true → c.ev = s.ctl.ev)) ∧
  (∀ s : State, s.ctl.pwr.chip = true → s.ctl.pwr.byReg = true →
    exec (.chipResetRelease 0) s = .next { s with ctl := settled { s.ctl with pwr := { s.ctl.pwr with wrst := false } } }) ∧
  (∀ s : State, s.ctl.pwr.train = true → rootLock s.ctl = true → regsServed s.ctl = true →
    ∃ c, exec (.hbmTrainingDone []) s = .next { s with ctl := settled c } ∧ rbit c rPwrStat 9 = false ∧
      c.pwr = { s.ctl.pwr with train := false, trained := 0xFF, sref := 0, ready := true } ∧ c.plan.nextRefresh = s.ctl.time.ftc ∧
      RegsBut [rPwrStat] s.ctl c) ∧
  (∀ (s : State) (failed : List Nat), s.ctl.pwr.train = true → rootLock s.ctl = true → regsServed s.ctl = true →
    ∃ c, exec (.hbmTrainingDone failed) s = .next { s with ctl := settled c } ∧ c.pwr.train = false ∧ c.pwr.ready = true ∧
      (∀ q, q ∈ failed → q < 512 → pchFailed c q = true)) ∧
  (∀ s : State, exec (.perstN true) s = .next { s with ctl := settled { s.ctl with pwr := { s.ctl.pwr with perst := true } } }) ∧
  (∀ s : State, s.ctl.pwr.perst = true → s.ctl.pwr.chip = false →
    ∃ c, exec (.perstN false) s = .next { s with ctl := settled c } ∧ c.pwr = { s.ctl.pwr with perst := false } ∧ c.hi.numVfs = 32 ∧
      (∀ o, 0x1100 ≤ o → o < 0x1240 → rd c o = (regReset o).toNat) ∧
      (∀ fn r, fn ≤ 32 → r < 5 → (ring c fn r).fetched = [] ∧ (ring c fn r).head = 0 ∧ (ring c fn r).tail = 0) ∧
      (∀ v, v < 33 * 4096 → smGet c.hi.unmasked false v = false)) ∧
  (∀ (s : State) (kind idx lo n : Nat), regsServed s.ctl = true → s.ctl.ev.contained = false → (kind = 0 ∧ idx < 16 ∧ lo = hgBase idx ∧ n = 8) ∨
      (kind = 1 ∧ idx < 32 ∧ lo = lkBase idx ∧ n = 0x100) ∨ (kind = 2 ∧ idx = 0 ∧ lo = 0x40000 ∧ n = 0x20000) ∨
      (kind = 4 ∧ idx < 16 ∧ lo = pmCtrl idx ∧ n = 0x20) →
    ∃ c, exec (.blkReset kind idx) s = .next { s with ctl := settled c } ∧ (∀ o, lo ≤ o → o < lo + n → rd c o = (regReset o).toNat) ∧
      (∀ w, w ∈ c.staged → ¬ (lo ≤ w.off ∧ w.off < lo + n)) ∧ c.tiles = s.ctl.tiles ∧ c.time = s.ctl.time) ∧
  (∀ (s : State) (kind idx : Nat) (b : Blk), regsServed s.ctl = true → s.ctl.ev.contained = true → blkOf kind idx = some b →
    ∃ c, exec (.blkReset kind idx) s = .next { s with ctl := settled c } ∧ fld c (blkStat b) 2 0 = fld s.ctl (blkStat b) 2 0 ∧
      c.tiles = s.ctl.tiles ∧ c.time = s.ctl.time) ∧
  (∀ s : State, regsServed s.ctl = false → ∀ kind idx, exec (.blkReset kind idx) s = .next { s with ctl := settled s.ctl })

/-- Saves, sensors, supplies and the SMBus (R1070, R1077 to R1084, R1087 to R1094, R1140 to R1142): a sag starts its save and contains the
Plezor; a save writes the bank that does not hold the newest record; readings stand in their registers, and a trip puts the stacks in
self-refresh; each SMBus command answers the words of R1142. -/
def Obligations.SavesSensorsAndSmbus : Prop :=
  (∀ (s : State) (i : Nat), i ≤ 11 → s.ctl.pwr.por = false → rbit s.ctl rPwrStat 8 = false → s.ctl.pwr.save = none → s.ctl.staged = [] →
      s.ctl.plan.loader.stage = .idle → mstate s.ctl = 0 →
    ∃ c m v, exec (.supplySag i) s = .next { s with ctl := settled c, mem := m } ∧ rbit c rPwrSag (if i = 11 then 16 else i) = true ∧
      rbit c rPwrStat 8 = true ∧ rbit c rKsStat 7 = true ∧ c.pwr.save = some v ∧ v.cause = (if i = 11 then 1 else 2) ∧
      v.ts = stamp s.ctl ∧ v.pass = passNo s.ctl ∧ c.snap.frozen = true ∧ c.time.epoch = false ∧ c.ev.contained = true ∧
      (i = 7 ∨ i = 8 ∨ i = 9 → rbit c rPwrStat 9 = true ∧ m.dm = {}) ∧ (i < 7 ∨ 9 < i → m.dm = s.mem.dm)) ∧
  (∀ (s : State) (i : Nat), i < 7 → s.ctl.pwr.por = false → rbit s.ctl rPwrStat 8 = false → s.ctl.pwr.save = none →
      s.ctl.time.epoch = false → moving s.ctl = true →
    ∃ c v, exec (.supplySag i) s = .next { s with ctl := settled c } ∧ c.pwr.save = some v ∧ v.wait = true ∧ v.cause = 2 ∧
      rbit c rPwrStat 8 = true ∧ c.snap.frozen = false ∧ c.ev = s.ctl.ev ∧ RegsBut [rPwrSag, rPwrStat, rKsStat] s.ctl c) ∧
  (∀ (s : State) (i : Nat), i < 11 → s.ctl.pwr.por = true → exec (.supplySag i) s = .next { s with ctl := settled s.ctl }) ∧
  (∀ (s : State) (result b q : Nat) (v : SaveSt), 1 ≤ result → result ≤ 2 → s.ctl.pwr.save = some v → v.wait = false →
      s.ctl.pwr.porWaits = false → (newestBank s.mem = none ∧ b = 0 ∧ q = 1) ∨
        (∃ a, newestBank s.mem = some a ∧ b = 1 - a ∧ q = bankSeq s.mem a + 1) → q < 2 ^ 32 →
    ∃ c m, exec (.saveComplete result) s = .next { s with ctl := settled c, mem := m } ∧ c.pwr.save = none ∧ rbit c rKsStat 7 = false ∧
      fld c rKsStat 23 16 = result ∧ rd c rKsSeq = q ∧ rbit c rKsStat 5 = decide (b = 1) ∧ bankMagic m b = true ∧ bankSeq m b = q ∧
      readLe m.keep (bankAt b + 8) 2 = 1 ∧
      readLe m.keep (bankAt b + 0xFF8) 4 = crc32c (readBytes m.keep (bankAt b) 0xFF8) % 2 ^ 32 ∧
      (∀ a, a < bankAt b ∨ bankAt b + 0x1000 ≤ a → smGet m.keep 0 a = smGet s.mem.keep 0 a) ∧ RegsBut [rKsStat, rKsSeq] s.ctl c ∧
      { m with keep := s.mem.keep } = s.mem) ∧
  (∀ (s : State) (result : Nat), s.ctl.pwr.save = none → exec (.saveComplete result) s = .next { s with ctl := settled s.ctl }) ∧
  (∀ s : State, s.ctl.pwr.por = false →
    ∃ c, exec .keepStoreCheck s = .next { s with ctl := settled c } ∧ OnlyRegs [rKsStat, rKsSeq] s.ctl c ∧
      (newestBank s.mem = none → fld c rKsStat 1 0 = 0 ∧ rd c rKsSeq = 0 ∧ rbit c rKsStat 5 = false) ∧
      (∀ b, newestBank s.mem = some b → fld c rKsStat 1 0 = (if bankGood s.mem b = true then 1 else 2) ∧ rd c rKsSeq = bankSeq s.mem b ∧
        rbit c rKsStat 5 = decide (b = 1))) ∧
  (∀ (s : State) (temps : List Nat) (mv : Nat), s.ctl.pwr.por = false → temps.length = 24 →
      s.ctl.pwr.tripped = 0 ∨ rbit s.ctl rPwrStat 11 = true →
    ∃ c, exec (.temperatureUpdate temps mv) s = .next { s with ctl := settled c } ∧
      (∀ i, i < 24 → rd c (rPwrTemp i) = temps.getD i 0 % 2 ^ 16) ∧ fld c rPwrHold 15 0 = mv % 2 ^ 16 ∧
      rbit c rPwrStat 5 = decide (4500 ≤ mv) ∧ c.pwr.measured = true ∧ c.pwr.sref = s.ctl.pwr.sref ∧
      (∀ i, i < 24 → bitN c.pwr.tripped i =
        decide (((fld s.ctl rPwrTherm 23 16 * 16 : Nat) : Int) ≤ sx 16 (temps.getD i 0))) ∧
      RegsBut (rPwrHold :: rPwrStat :: (List.range 24).map rPwrTemp) s.ctl c) ∧
  (∀ (s : State) (temps : List Nat) (mv i : Nat), s.ctl.pwr.por = false → temps.length = 24 → i < 24 → rbit s.ctl rPwrStat 11 = false →
      bitN s.ctl.pwr.tripped i = true → ((fld s.ctl rPwrTherm 23 16 * 16 : Nat) : Int) ≤ sx 16 (temps.getD i 0) →
      s.ctl.time.epoch = false → s.ctl.plan.loader.stage = .idle →
    ∃ c m, exec (.temperatureUpdate temps mv) s = .next { s with ctl := settled c, mem := m } ∧ c.ev.contained = true ∧
      rbit c rPwrStat 11 = true ∧ c.pwr.sref = 0xFF) ∧
  (∀ (s : State) (uf : Option Nat), s.ctl.pwr.por = false →
    ∃ c, exec (.holdcapCharged uf) s = .next { s with ctl := settled c } ∧ rbit c rPwrStat 5 = true ∧
      (∀ u, uf = some u → fld c rPwrHold 31 16 = u % 2 ^ 16 ∧ rbit c rPwrStat 6 = decide (u % 2 ^ 16 < 1410)) ∧
      (uf = none → rd c rPwrHold = rd s.ctl rPwrHold) ∧ RegsBut [rPwrStat, rPwrHold] s.ctl c) ∧
  (∀ (s : State) (straps : Nat) (low : Bool), s.ctl.pwr.por = true →
    exec (.porstNRise straps low) s = .next { s with ctl := settled { s.ctl with
      pwr := { s.ctl.pwr with por := false, porHold := true, straps := straps % 8, wrst := low } } }) ∧
  (∀ s : State, exec .smbId s = .next { s with ctl := settled (emit s.ctl (.smbus (leBytes 4 (rd s.ctl 0)))) }) ∧
  (∀ s : State, ∃ v, exec .smbStatus s = .next { s with ctl := settled (emit s.ctl (.smbus (leBytes 2 v))) } ∧
    bitN v 0 = s.ctl.pwr.chip ∧ bitN v 1 = monRuns s.ctl ∧ bitN v 2 = s.ctl.time.epoch ∧ bitN v 3 = rbit s.ctl rPwrStat 8 ∧
    bitN v 4 = rbit s.ctl rPwrStat 11 ∧ bitN v 5 = rbit s.ctl rPwrStat 5 ∧ bitN v 6 = warmNow s.ctl ∧ bitN v 7 = s.ctl.ev.contained ∧
    v / 256 = pwrState s.ctl) ∧
  (∀ s : State, exec .smbStraps s = .next { s with ctl := settled (emit s.ctl (.smbus (leBytes 1 s.ctl.pwr.straps))) }) ∧
  (∀ s : State, ∃ v, exec .tempMax s = .next { s with ctl := settled (emit s.ctl (.smbus (leBytes 2 v))) } ∧
    (s.ctl.pwr.measured = false → v = 0xFFFF) ∧ (s.ctl.pwr.measured = true → ∃ i, i < 24 ∧ v = rd s.ctl (rPwrTemp i) ∧
      ∀ j, j < 24 → tempOf s.ctl j ≤ tempOf s.ctl i)) ∧
  (∀ (s : State) (i : Nat), i < 24 → exec (.temp i) s = .next { s with
    ctl := settled (emit s.ctl (.smbus (leBytes 2 (if s.ctl.pwr.measured = true then rd s.ctl (rPwrTemp i) else 0xFFFF)))) }) ∧
  (∀ (s : State) (i v : Nat), i ≤ 10 →
    ∃ c, exec (.vsup i (some v)) s = .next { s with ctl := settled (emit c (.smbus (leBytes 2 (v % 2 ^ 16)))) } ∧
      smGet c.pwr.supply 0xFFFF i = v % 2 ^ 16 ∧ { c with pwr := s.ctl.pwr } = s.ctl) ∧
  (∀ (s : State) (i : Nat), i ≤ 10 → exec (.vsup i none) s = .next { s with
    ctl := settled (emit s.ctl (.smbus (leBytes 2 (smGet s.ctl.pwr.supply 0xFFFF i)))) }) ∧
  (∀ s : State, exec .vhold s = .next { s with
    ctl := settled (emit s.ctl (.smbus (leBytes 2 (if s.ctl.pwr.vhold = true then fld s.ctl rPwrHold 15 0 else 0xFFFF)))) }) ∧
  (∀ s : State, exec .capUf s = .next { s with ctl := settled (emit s.ctl (.smbus (leBytes 2 (fld s.ctl rPwrHold 31 16)))) }) ∧
  (∀ s : State, s.ctl.pwr.alert = true → chainHeld s.ctl = false → exec .clearAlert s = .next { s with
    ctl := settled { s.ctl with outs := .pin 6 1 :: s.ctl.outs, pwr := { s.ctl.pwr with alert := false } } }) ∧
  (∀ s : State, exec .alertResponse s = .next { s with
    ctl := settled (emit s.ctl (.smbus (leBytes 1 (0x58 + s.ctl.pwr.straps % 4)))) })
end

