-- ==== Sys2Proof/Laws/Sparse.lean ====
section
/-! SUPPORT. The laws of the sparse maps: a read after a write, and the canonical form, which every write and every clear keeps. -/
namespace Sys2Proof.Machine

variable {α : Type}

/-! Reading after writing. -/
theorem lookupD_insertAt (d v : α) (k j : Nat) (l : List (Nat × α)) :
    lookupD d (insertAt k v l) j = if j = k then v else lookupD d l j := by
  induction l with
  | nil => simp only [insertAt, lookupD, eq_comm]
  | cons e r ih =>
    obtain ⟨a, b⟩ := e
    simp only [insertAt]
    by_cases hj : j = k
    · subst hj
      split_ifs <;> simp_all [lookupD]
      intro h; exact absurd h.symm ‹_›
    · split_ifs with h1 h2
      · simp [lookupD, Ne.symm hj]
      · subst h2; simp [lookupD, Ne.symm hj]
      · simp [lookupD, ih, hj]

theorem lookupD_eraseAt (d : α) (k j : Nat) (l : List (Nat × α)) :
    lookupD d (eraseAt k l) j = if j = k then d else lookupD d l j := by
  induction l with
  | nil => simp [eraseAt, lookupD]
  | cons e r ih =>
    obtain ⟨a, b⟩ := e
    simp only [eraseAt]
    by_cases hj : j = k
    · subst hj
      split_ifs <;> simp_all [lookupD]
      intro h; exact absurd h.symm ‹_›
    · split_ifs with h1
      · subst h1; simp [lookupD, ih, hj, Ne.symm hj]
      · simp [lookupD, ih, hj]

/-- A read after a write gives the value written at its key, and what it gave before at every other. -/
theorem smGet_smSet [DecidableEq α] (m : SMap α) (d v : α) (k j : Nat) :
    smGet (smSet m d k v) d j = if j = k then v else smGet m d j := by
  unfold smGet smSet
  split
  · subst_vars; exact lookupD_eraseAt ..
  · exact lookupD_insertAt ..

@[simp] theorem smGet_smSet_same [DecidableEq α] (m : SMap α) (d v : α) (k : Nat) : smGet (smSet m d k v) d k = v := by
  simp [smGet_smSet]

theorem smGet_smSet_ne [DecidableEq α] {k j : Nat} (h : j ≠ k) (m : SMap α) (d v : α) :
    smGet (smSet m d k v) d j = smGet m d j := by simp [smGet_smSet, h]

theorem smGet_smUpd [DecidableEq α] (m : SMap α) (d : α) (k j : Nat) (f : α → α) :
    smGet (smUpd m d k f) d j = if j = k then f (smGet m d k) else smGet m d j := by
  simp [smUpd, smGet_smSet]

@[simp] theorem smGet_empty (d : α) (k : Nat) : smGet ({} : SMap α) d k = d := rfl

theorem lookupD_filter (d : α) (p : Nat → Bool) (k : Nat) (l : List (Nat × α)) :
    lookupD d (l.filter (fun e => !p e.1)) k = if p k then d else lookupD d l k := by
  induction l with
  | nil => simp [lookupD]
  | cons e r ih =>
    obtain ⟨a, b⟩ := e
    simp only [List.filter_cons]
    split
    · simp only [lookupD, ih]
      split
      · subst_vars; simp_all
      · rfl
    · rw [ih]
      simp only [lookupD]
      split
      · rfl
      · split
        · subst_vars; simp_all
        · rfl

theorem smGet_smClear (m : SMap α) (d : α) (p : Nat → Bool) (k : Nat) :
    smGet (smClear m p) d k = if p k then d else smGet m d k := lookupD_filter d p k m.entries

theorem smGet_smClearRange (m : SMap α) (d : α) (lo hi k : Nat) :
    smGet (smClearRange m lo hi) d k = if lo ≤ k ∧ k < hi then d else smGet m d k := by
  simp [smClearRange, smGet_smClear]

/-! The canonical form. -/
/-- Keys rise strictly and no entry equals its default. -/
def SMap.Ok (d : Nat → α) (m : SMap α) : Prop :=
  m.entries.Pairwise (fun a b => a.1 < b.1) ∧ ∀ e ∈ m.entries, e.2 ≠ d e.1

theorem smWf_iff [DecidableEq α] (d : Nat → α) (m : SMap α) : smWf d m = true ↔ m.Ok d := by
  simp [smWf, SMap.Ok]

theorem mem_insertAt {k : Nat} {v : α} {l : List (Nat × α)} {e : Nat × α} (h : e ∈ insertAt k v l) : e = (k, v) ∨ e ∈ l := by
  induction l with
  | nil => simpa [insertAt] using h
  | cons a r ih =>
    obtain ⟨x, y⟩ := a
    simp only [insertAt] at h
    split at h
    · simp only [List.mem_cons] at h ⊢; tauto
    · split at h
      · simp only [List.mem_cons] at h ⊢; tauto
      · simp only [List.mem_cons] at h ⊢
        rcases h with h | h
        · tauto
        · rcases ih h with h | h <;> tauto

theorem pairwise_insertAt (k : Nat) (v : α) (l : List (Nat × α)) (h : l.Pairwise (fun a b => a.1 < b.1)) :
    (insertAt k v l).Pairwise (fun a b => a.1 < b.1) := by
  induction l with
  | nil => simp [insertAt]
  | cons a r ih =>
    obtain ⟨x, y⟩ := a
    rw [List.pairwise_cons] at h
    simp only [insertAt]
    split
    · rename_i hk
      refine List.pairwise_cons.2 ⟨?_, List.pairwise_cons.2 h⟩
      intro b hb
      rcases List.mem_cons.1 hb with rfl | hb
      · exact hk
      · exact lt_trans hk (h.1 b hb)
    · split
      · rename_i hk; subst hk
        exact List.pairwise_cons.2 ⟨h.1, h.2⟩
      · refine List.pairwise_cons.2 ⟨?_, ih h.2⟩
        intro b hb
        rcases mem_insertAt hb with rfl | hb
        · simp only; omega
        · exact h.1 b hb

theorem eraseAt_eq_filter (k : Nat) (l : List (Nat × α)) : eraseAt k l = l.filter (fun e => decide (k ≠ e.1)) := by
  induction l with
  | nil => rfl
  | cons a r ih => obtain ⟨x, y⟩ := a; simp only [eraseAt, List.filter_cons, ih]; split <;> simp_all

/-- A write keeps the canonical form, where the default given is the key's own. -/
theorem smSet_ok [DecidableEq α] {d : Nat → α} {m : SMap α} (h : m.Ok d) (k : Nat) (v : α) : (smSet m (d k) k v).Ok d := by
  unfold smSet
  split
  · refine ⟨?_, ?_⟩
    · simp only [eraseAt_eq_filter]; exact h.1.filter _
    · intro e he
      simp only [eraseAt_eq_filter, List.mem_filter] at he
      exact h.2 e he.1
  · refine ⟨pairwise_insertAt _ _ _ h.1, ?_⟩
    intro e he
    rcases mem_insertAt he with rfl | he
    · assumption
    · exact h.2 e he

/-- The same for a map with one default. -/
theorem smSet_ok1 [DecidableEq α] {d : α} {m : SMap α} (h : m.Ok (fun _ => d)) (k : Nat) (v : α) :
    (smSet m d k v).Ok (fun _ => d) := smSet_ok (d := fun _ => d) h k v

theorem smUpd_ok1 [DecidableEq α] {d : α} {m : SMap α} (h : m.Ok (fun _ => d)) (k : Nat) (f : α → α) :
    (smUpd m d k f).Ok (fun _ => d) := smSet_ok1 h k _

theorem smClear_ok {d : Nat → α} {m : SMap α} (h : m.Ok d) (p : Nat → Bool) : (smClear m p).Ok d := by
  refine ⟨h.1.filter _, ?_⟩
  intro e he
  exact h.2 e (List.mem_filter.1 he).1

theorem smClearRange_ok {d : Nat → α} {m : SMap α} (h : m.Ok d) (lo hi : Nat) : (smClearRange m lo hi).Ok d := smClear_ok h _

theorem empty_ok (d : Nat → α) : ({} : SMap α).Ok d := ⟨List.Pairwise.nil, by simp⟩

theorem writeBytes_ok {m : SMap Byte} (h : m.Ok (fun _ => 0)) (a : Nat) (bs : Bytes) : (writeBytes m a bs).Ok (fun _ => 0) := by
  induction bs generalizing m a with
  | nil => exact h
  | cons b r ih => exact ih (smSet_ok1 h a b) (a + 1)

/-- Bytes of a map after a write of bytes. -/
theorem smGet_writeBytes (m : SMap Byte) (a : Nat) (bs : Bytes) (j : Nat) :
    smGet (writeBytes m a bs) 0 j = if a ≤ j ∧ j < a + bs.length then bs.getD (j - a) 0 else smGet m 0 j := by
  induction bs generalizing m a with
  | nil => simp [writeBytes]
  | cons b r ih =>
    rw [writeBytes, ih]
    by_cases h : a + 1 ≤ j ∧ j < a + 1 + r.length
    · have e : j - a = (j - (a + 1)) + 1 := by omega
      rw [if_pos h, if_pos (by simp only [List.length_cons]; omega), e, List.getD_cons_succ]
    · rw [if_neg h, smGet_smSet]
      by_cases hj : j = a
      · subst hj; simp
      · rw [if_neg hj, if_neg (by simp only [List.length_cons]; omega)]

@[simp] theorem readBytes_length (m : SMap Byte) (a n : Nat) : (readBytes m a n).length = n := by
  induction n generalizing a with
  | zero => rfl
  | succ n ih => simp [readBytes, ih]

theorem readBytes_congr {m m' : SMap Byte} {a n : Nat} (h : ∀ j, a ≤ j → j < a + n → smGet m 0 j = smGet m' 0 j) :
    readBytes m a n = readBytes m' a n := by
  induction n generalizing a with
  | zero => rfl
  | succ n ih =>
    simp only [readBytes]
    rw [h a (le_refl _) (by omega), ih (fun j h1 h2 => h j (by omega) (by omega))]

/-- What was written is read back. -/
theorem readBytes_writeBytes (m : SMap Byte) (a : Nat) (bs : Bytes) : readBytes (writeBytes m a bs) a bs.length = bs := by
  have key : ∀ n k, k + n = bs.length → readBytes (writeBytes m a bs) (a + k) n = bs.drop k := by
    intro n
    induction n with
    | zero => intro k hk; simp [readBytes, List.drop_eq_nil_of_le (by omega : bs.length ≤ k)]
    | succ n ih =>
      intro k hk
      have hlt : k < bs.length := by omega
      have h1 := ih (k + 1) (by omega)
      simp only [readBytes, smGet_writeBytes]
      rw [if_pos (by omega), show a + k - a = k by omega, show a + k + 1 = a + (k + 1) by omega, h1, List.getD_eq_getElem _ _ hlt]
      exact (List.drop_eq_getElem_cons hlt).symm
  simpa using key bs.length 0 (by omega)

/-- Bytes apart from those written read as before. -/
theorem readBytes_writeBytes_apart (m : SMap Byte) (a b n : Nat) (bs : Bytes) (h : b + n ≤ a ∨ a + bs.length ≤ b) :
    readBytes (writeBytes m a bs) b n = readBytes m b n := by
  apply readBytes_congr
  intro j h1 h2
  rw [smGet_writeBytes, if_neg (by omega)]

end Sys2Proof.Machine
end

