-- ==== Sys2Proof/Laws/State.lean ====
section
/-! SUPPORT. What each update of the control state leaves as it was, field by field, and what a read gives after a write. -/
namespace Sys2Proof.Machine

variable {c : Ctl}

/-! The fields that an update does not touch. -/
@[simp] theorem wr_held (c : Ctl) (o v : Nat) : (wr c o v).held = c.held := rfl
@[simp] theorem wr_recent (c : Ctl) (o v : Nat) : (wr c o v).recent = c.recent := rfl
@[simp] theorem wr_w1cSet (c : Ctl) (o v : Nat) : (wr c o v).w1cSet = c.w1cSet := rfl
@[simp] theorem wr_latched (c : Ctl) (o v : Nat) : (wr c o v).latched = c.latched := rfl
@[simp] theorem wr_staged (c : Ctl) (o v : Nat) : (wr c o v).staged = c.staged := rfl
@[simp] theorem wr_free (c : Ctl) (o v : Nat) : (wr c o v).free = c.free := rfl
@[simp] theorem wr_outs (c : Ctl) (o v : Nat) : (wr c o v).outs = c.outs := rfl
@[simp] theorem wr_time (c : Ctl) (o v : Nat) : (wr c o v).time = c.time := rfl
@[simp] theorem wr_plan (c : Ctl) (o v : Nat) : (wr c o v).plan = c.plan := rfl
@[simp] theorem wr_parts (c : Ctl) (o v : Nat) : (wr c o v).parts = c.parts := rfl
@[simp] theorem wr_tiles (c : Ctl) (o v : Nat) : (wr c o v).tiles = c.tiles := rfl
@[simp] theorem wr_noc (c : Ctl) (o v : Nat) : (wr c o v).noc = c.noc := rfl
@[simp] theorem wr_ev (c : Ctl) (o v : Nat) : (wr c o v).ev = c.ev := rfl
@[simp] theorem wr_hg (c : Ctl) (o v : Nat) : (wr c o v).hg = c.hg := rfl
@[simp] theorem wr_drainAt (c : Ctl) (o v : Nat) : (wr c o v).drainAt = c.drainAt := rfl
@[simp] theorem wr_dc (c : Ctl) (o v : Nat) : (wr c o v).dc = c.dc := rfl
@[simp] theorem wr_nme (c : Ctl) (o v : Nat) : (wr c o v).nme = c.nme := rfl
@[simp] theorem wr_pool (c : Ctl) (o v : Nat) : (wr c o v).pool = c.pool := rfl
@[simp] theorem wr_lk (c : Ctl) (o v : Nat) : (wr c o v).lk = c.lk := rfl
@[simp] theorem wr_sp (c : Ctl) (o v : Nat) : (wr c o v).sp = c.sp := rfl
@[simp] theorem wr_snap (c : Ctl) (o v : Nat) : (wr c o v).snap = c.snap := rfl
@[simp] theorem wr_ce (c : Ctl) (o v : Nat) : (wr c o v).ce = c.ce := rfl
@[simp] theorem wr_hi (c : Ctl) (o v : Nat) : (wr c o v).hi = c.hi := rfl
@[simp] theorem wr_dump (c : Ctl) (o v : Nat) : (wr c o v).dump = c.dump := rfl
@[simp] theorem wr_db (c : Ctl) (o v : Nat) : (wr c o v).db = c.db := rfl
@[simp] theorem wr_pwr (c : Ctl) (o v : Nat) : (wr c o v).pwr = c.pwr := rfl

@[simp] theorem setFld_held (c : Ctl) (o h l v : Nat) : (setFld c o h l v).held = c.held := rfl
@[simp] theorem setFld_recent (c : Ctl) (o h l v : Nat) : (setFld c o h l v).recent = c.recent := rfl
@[simp] theorem setFld_w1cSet (c : Ctl) (o h l v : Nat) : (setFld c o h l v).w1cSet = c.w1cSet := rfl
@[simp] theorem setFld_latched (c : Ctl) (o h l v : Nat) : (setFld c o h l v).latched = c.latched := rfl
@[simp] theorem setFld_staged (c : Ctl) (o h l v : Nat) : (setFld c o h l v).staged = c.staged := rfl
@[simp] theorem setFld_free (c : Ctl) (o h l v : Nat) : (setFld c o h l v).free = c.free := rfl
@[simp] theorem setFld_outs (c : Ctl) (o h l v : Nat) : (setFld c o h l v).outs = c.outs := rfl
@[simp] theorem setFld_time (c : Ctl) (o h l v : Nat) : (setFld c o h l v).time = c.time := rfl
@[simp] theorem setFld_plan (c : Ctl) (o h l v : Nat) : (setFld c o h l v).plan = c.plan := rfl
@[simp] theorem setFld_parts (c : Ctl) (o h l v : Nat) : (setFld c o h l v).parts = c.parts := rfl
@[simp] theorem setFld_tiles (c : Ctl) (o h l v : Nat) : (setFld c o h l v).tiles = c.tiles := rfl
@[simp] theorem setFld_noc (c : Ctl) (o h l v : Nat) : (setFld c o h l v).noc = c.noc := rfl
@[simp] theorem setFld_ev (c : Ctl) (o h l v : Nat) : (setFld c o h l v).ev = c.ev := rfl
@[simp] theorem setFld_hg (c : Ctl) (o h l v : Nat) : (setFld c o h l v).hg = c.hg := rfl
@[simp] theorem setFld_drainAt (c : Ctl) (o h l v : Nat) : (setFld c o h l v).drainAt = c.drainAt := rfl
@[simp] theorem setFld_dc (c : Ctl) (o h l v : Nat) : (setFld c o h l v).dc = c.dc := rfl
@[simp] theorem setFld_nme (c : Ctl) (o h l v : Nat) : (setFld c o h l v).nme = c.nme := rfl
@[simp] theorem setFld_pool (c : Ctl) (o h l v : Nat) : (setFld c o h l v).pool = c.pool := rfl
@[simp] theorem setFld_lk (c : Ctl) (o h l v : Nat) : (setFld c o h l v).lk = c.lk := rfl
@[simp] theorem setFld_sp (c : Ctl) (o h l v : Nat) : (setFld c o h l v).sp = c.sp := rfl
@[simp] theorem setFld_snap (c : Ctl) (o h l v : Nat) : (setFld c o h l v).snap = c.snap := rfl
@[simp] theorem setFld_ce (c : Ctl) (o h l v : Nat) : (setFld c o h l v).ce = c.ce := rfl
@[simp] theorem setFld_hi (c : Ctl) (o h l v : Nat) : (setFld c o h l v).hi = c.hi := rfl
@[simp] theorem setFld_dump (c : Ctl) (o h l v : Nat) : (setFld c o h l v).dump = c.dump := rfl
@[simp] theorem setFld_db (c : Ctl) (o h l v : Nat) : (setFld c o h l v).db = c.db := rfl
@[simp] theorem setFld_pwr (c : Ctl) (o h l v : Nat) : (setFld c o h l v).pwr = c.pwr := rfl

@[simp] theorem setBit_held (c : Ctl) (o i : Nat) (b : Bool) : (setBit c o i b).held = c.held := rfl
@[simp] theorem setBit_recent (c : Ctl) (o i : Nat) (b : Bool) : (setBit c o i b).recent = c.recent := rfl
@[simp] theorem setBit_w1cSet (c : Ctl) (o i : Nat) (b : Bool) : (setBit c o i b).w1cSet = c.w1cSet := rfl
@[simp] theorem setBit_latched (c : Ctl) (o i : Nat) (b : Bool) : (setBit c o i b).latched = c.latched := rfl
@[simp] theorem setBit_staged (c : Ctl) (o i : Nat) (b : Bool) : (setBit c o i b).staged = c.staged := rfl
@[simp] theorem setBit_free (c : Ctl) (o i : Nat) (b : Bool) : (setBit c o i b).free = c.free := rfl
@[simp] theorem setBit_outs (c : Ctl) (o i : Nat) (b : Bool) : (setBit c o i b).outs = c.outs := rfl
@[simp] theorem setBit_time (c : Ctl) (o i : Nat) (b : Bool) : (setBit c o i b).time = c.time := rfl
@[simp] theorem setBit_plan (c : Ctl) (o i : Nat) (b : Bool) : (setBit c o i b).plan = c.plan := rfl
@[simp] theorem setBit_parts (c : Ctl) (o i : Nat) (b : Bool) : (setBit c o i b).parts = c.parts := rfl
@[simp] theorem setBit_tiles (c : Ctl) (o i : Nat) (b : Bool) : (setBit c o i b).tiles = c.tiles := rfl
@[simp] theorem setBit_noc (c : Ctl) (o i : Nat) (b : Bool) : (setBit c o i b).noc = c.noc := rfl
@[simp] theorem setBit_ev (c : Ctl) (o i : Nat) (b : Bool) : (setBit c o i b).ev = c.ev := rfl
@[simp] theorem setBit_hg (c : Ctl) (o i : Nat) (b : Bool) : (setBit c o i b).hg = c.hg := rfl
@[simp] theorem setBit_drainAt (c : Ctl) (o i : Nat) (b : Bool) : (setBit c o i b).drainAt = c.drainAt := rfl
@[simp] theorem setBit_dc (c : Ctl) (o i : Nat) (b : Bool) : (setBit c o i b).dc = c.dc := rfl
@[simp] theorem setBit_nme (c : Ctl) (o i : Nat) (b : Bool) : (setBit c o i b).nme = c.nme := rfl
@[simp] theorem setBit_pool (c : Ctl) (o i : Nat) (b : Bool) : (setBit c o i b).pool = c.pool := rfl
@[simp] theorem setBit_lk (c : Ctl) (o i : Nat) (b : Bool) : (setBit c o i b).lk = c.lk := rfl
@[simp] theorem setBit_sp (c : Ctl) (o i : Nat) (b : Bool) : (setBit c o i b).sp = c.sp := rfl
@[simp] theorem setBit_snap (c : Ctl) (o i : Nat) (b : Bool) : (setBit c o i b).snap = c.snap := rfl
@[simp] theorem setBit_ce (c : Ctl) (o i : Nat) (b : Bool) : (setBit c o i b).ce = c.ce := rfl
@[simp] theorem setBit_hi (c : Ctl) (o i : Nat) (b : Bool) : (setBit c o i b).hi = c.hi := rfl
@[simp] theorem setBit_dump (c : Ctl) (o i : Nat) (b : Bool) : (setBit c o i b).dump = c.dump := rfl
@[simp] theorem setBit_db (c : Ctl) (o i : Nat) (b : Bool) : (setBit c o i b).db = c.db := rfl
@[simp] theorem setBit_pwr (c : Ctl) (o i : Nat) (b : Bool) : (setBit c o i b).pwr = c.pwr := rfl

@[simp] theorem wr64_held (c : Ctl) (o v : Nat) : (wr64 c o v).held = c.held := rfl
@[simp] theorem wr64_recent (c : Ctl) (o v : Nat) : (wr64 c o v).recent = c.recent := rfl
@[simp] theorem wr64_w1cSet (c : Ctl) (o v : Nat) : (wr64 c o v).w1cSet = c.w1cSet := rfl
@[simp] theorem wr64_latched (c : Ctl) (o v : Nat) : (wr64 c o v).latched = c.latched := rfl
@[simp] theorem wr64_staged (c : Ctl) (o v : Nat) : (wr64 c o v).staged = c.staged := rfl
@[simp] theorem wr64_free (c : Ctl) (o v : Nat) : (wr64 c o v).free = c.free := rfl
@[simp] theorem wr64_outs (c : Ctl) (o v : Nat) : (wr64 c o v).outs = c.outs := rfl
@[simp] theorem wr64_time (c : Ctl) (o v : Nat) : (wr64 c o v).time = c.time := rfl
@[simp] theorem wr64_plan (c : Ctl) (o v : Nat) : (wr64 c o v).plan = c.plan := rfl
@[simp] theorem wr64_parts (c : Ctl) (o v : Nat) : (wr64 c o v).parts = c.parts := rfl
@[simp] theorem wr64_tiles (c : Ctl) (o v : Nat) : (wr64 c o v).tiles = c.tiles := rfl
@[simp] theorem wr64_noc (c : Ctl) (o v : Nat) : (wr64 c o v).noc = c.noc := rfl
@[simp] theorem wr64_ev (c : Ctl) (o v : Nat) : (wr64 c o v).ev = c.ev := rfl
@[simp] theorem wr64_hg (c : Ctl) (o v : Nat) : (wr64 c o v).hg = c.hg := rfl
@[simp] theorem wr64_drainAt (c : Ctl) (o v : Nat) : (wr64 c o v).drainAt = c.drainAt := rfl
@[simp] theorem wr64_dc (c : Ctl) (o v : Nat) : (wr64 c o v).dc = c.dc := rfl
@[simp] theorem wr64_nme (c : Ctl) (o v : Nat) : (wr64 c o v).nme = c.nme := rfl
@[simp] theorem wr64_pool (c : Ctl) (o v : Nat) : (wr64 c o v).pool = c.pool := rfl
@[simp] theorem wr64_lk (c : Ctl) (o v : Nat) : (wr64 c o v).lk = c.lk := rfl
@[simp] theorem wr64_sp (c : Ctl) (o v : Nat) : (wr64 c o v).sp = c.sp := rfl
@[simp] theorem wr64_snap (c : Ctl) (o v : Nat) : (wr64 c o v).snap = c.snap := rfl
@[simp] theorem wr64_ce (c : Ctl) (o v : Nat) : (wr64 c o v).ce = c.ce := rfl
@[simp] theorem wr64_hi (c : Ctl) (o v : Nat) : (wr64 c o v).hi = c.hi := rfl
@[simp] theorem wr64_dump (c : Ctl) (o v : Nat) : (wr64 c o v).dump = c.dump := rfl
@[simp] theorem wr64_db (c : Ctl) (o v : Nat) : (wr64 c o v).db = c.db := rfl
@[simp] theorem wr64_pwr (c : Ctl) (o v : Nat) : (wr64 c o v).pwr = c.pwr := rfl

@[simp] theorem cntAdd_held (c : Ctl) (o h n : Nat) : (cntAdd c o h n).held = c.held := rfl
@[simp] theorem cntAdd_recent (c : Ctl) (o h n : Nat) : (cntAdd c o h n).recent = c.recent := rfl
@[simp] theorem cntAdd_w1cSet (c : Ctl) (o h n : Nat) : (cntAdd c o h n).w1cSet = c.w1cSet := rfl
@[simp] theorem cntAdd_latched (c : Ctl) (o h n : Nat) : (cntAdd c o h n).latched = c.latched := rfl
@[simp] theorem cntAdd_staged (c : Ctl) (o h n : Nat) : (cntAdd c o h n).staged = c.staged := rfl
@[simp] theorem cntAdd_free (c : Ctl) (o h n : Nat) : (cntAdd c o h n).free = c.free := rfl
@[simp] theorem cntAdd_outs (c : Ctl) (o h n : Nat) : (cntAdd c o h n).outs = c.outs := rfl
@[simp] theorem cntAdd_time (c : Ctl) (o h n : Nat) : (cntAdd c o h n).time = c.time := rfl
@[simp] theorem cntAdd_plan (c : Ctl) (o h n : Nat) : (cntAdd c o h n).plan = c.plan := rfl
@[simp] theorem cntAdd_parts (c : Ctl) (o h n : Nat) : (cntAdd c o h n).parts = c.parts := rfl
@[simp] theorem cntAdd_tiles (c : Ctl) (o h n : Nat) : (cntAdd c o h n).tiles = c.tiles := rfl
@[simp] theorem cntAdd_noc (c : Ctl) (o h n : Nat) : (cntAdd c o h n).noc = c.noc := rfl
@[simp] theorem cntAdd_ev (c : Ctl) (o h n : Nat) : (cntAdd c o h n).ev = c.ev := rfl
@[simp] theorem cntAdd_hg (c : Ctl) (o h n : Nat) : (cntAdd c o h n).hg = c.hg := rfl
@[simp] theorem cntAdd_drainAt (c : Ctl) (o h n : Nat) : (cntAdd c o h n).drainAt = c.drainAt := rfl
@[simp] theorem cntAdd_dc (c : Ctl) (o h n : Nat) : (cntAdd c o h n).dc = c.dc := rfl
@[simp] theorem cntAdd_nme (c : Ctl) (o h n : Nat) : (cntAdd c o h n).nme = c.nme := rfl
@[simp] theorem cntAdd_pool (c : Ctl) (o h n : Nat) : (cntAdd c o h n).pool = c.pool := rfl
@[simp] theorem cntAdd_lk (c : Ctl) (o h n : Nat) : (cntAdd c o h n).lk = c.lk := rfl
@[simp] theorem cntAdd_sp (c : Ctl) (o h n : Nat) : (cntAdd c o h n).sp = c.sp := rfl
@[simp] theorem cntAdd_snap (c : Ctl) (o h n : Nat) : (cntAdd c o h n).snap = c.snap := rfl
@[simp] theorem cntAdd_ce (c : Ctl) (o h n : Nat) : (cntAdd c o h n).ce = c.ce := rfl
@[simp] theorem cntAdd_hi (c : Ctl) (o h n : Nat) : (cntAdd c o h n).hi = c.hi := rfl
@[simp] theorem cntAdd_dump (c : Ctl) (o h n : Nat) : (cntAdd c o h n).dump = c.dump := rfl
@[simp] theorem cntAdd_db (c : Ctl) (o h n : Nat) : (cntAdd c o h n).db = c.db := rfl
@[simp] theorem cntAdd_pwr (c : Ctl) (o h n : Nat) : (cntAdd c o h n).pwr = c.pwr := rfl

@[simp] theorem cnt1_held (c : Ctl) (o : Nat) : (cnt1 c o).held = c.held := rfl
@[simp] theorem cnt1_recent (c : Ctl) (o : Nat) : (cnt1 c o).recent = c.recent := rfl
@[simp] theorem cnt1_w1cSet (c : Ctl) (o : Nat) : (cnt1 c o).w1cSet = c.w1cSet := rfl
@[simp] theorem cnt1_latched (c : Ctl) (o : Nat) : (cnt1 c o).latched = c.latched := rfl
@[simp] theorem cnt1_staged (c : Ctl) (o : Nat) : (cnt1 c o).staged = c.staged := rfl
@[simp] theorem cnt1_free (c : Ctl) (o : Nat) : (cnt1 c o).free = c.free := rfl
@[simp] theorem cnt1_outs (c : Ctl) (o : Nat) : (cnt1 c o).outs = c.outs := rfl
@[simp] theorem cnt1_time (c : Ctl) (o : Nat) : (cnt1 c o).time = c.time := rfl
@[simp] theorem cnt1_plan (c : Ctl) (o : Nat) : (cnt1 c o).plan = c.plan := rfl
@[simp] theorem cnt1_parts (c : Ctl) (o : Nat) : (cnt1 c o).parts = c.parts := rfl
@[simp] theorem cnt1_tiles (c : Ctl) (o : Nat) : (cnt1 c o).tiles = c.tiles := rfl
@[simp] theorem cnt1_noc (c : Ctl) (o : Nat) : (cnt1 c o).noc = c.noc := rfl
@[simp] theorem cnt1_ev (c : Ctl) (o : Nat) : (cnt1 c o).ev = c.ev := rfl
@[simp] theorem cnt1_hg (c : Ctl) (o : Nat) : (cnt1 c o).hg = c.hg := rfl
@[simp] theorem cnt1_drainAt (c : Ctl) (o : Nat) : (cnt1 c o).drainAt = c.drainAt := rfl
@[simp] theorem cnt1_dc (c : Ctl) (o : Nat) : (cnt1 c o).dc = c.dc := rfl
@[simp] theorem cnt1_nme (c : Ctl) (o : Nat) : (cnt1 c o).nme = c.nme := rfl
@[simp] theorem cnt1_pool (c : Ctl) (o : Nat) : (cnt1 c o).pool = c.pool := rfl
@[simp] theorem cnt1_lk (c : Ctl) (o : Nat) : (cnt1 c o).lk = c.lk := rfl
@[simp] theorem cnt1_sp (c : Ctl) (o : Nat) : (cnt1 c o).sp = c.sp := rfl
@[simp] theorem cnt1_snap (c : Ctl) (o : Nat) : (cnt1 c o).snap = c.snap := rfl
@[simp] theorem cnt1_ce (c : Ctl) (o : Nat) : (cnt1 c o).ce = c.ce := rfl
@[simp] theorem cnt1_hi (c : Ctl) (o : Nat) : (cnt1 c o).hi = c.hi := rfl
@[simp] theorem cnt1_dump (c : Ctl) (o : Nat) : (cnt1 c o).dump = c.dump := rfl
@[simp] theorem cnt1_db (c : Ctl) (o : Nat) : (cnt1 c o).db = c.db := rfl
@[simp] theorem cnt1_pwr (c : Ctl) (o : Nat) : (cnt1 c o).pwr = c.pwr := rfl

@[simp] theorem resetRegs_held (c : Ctl) (lo hi : Nat) : (resetRegs c lo hi).held = c.held := rfl
@[simp] theorem resetRegs_recent (c : Ctl) (lo hi : Nat) : (resetRegs c lo hi).recent = c.recent := rfl
@[simp] theorem resetRegs_w1cSet (c : Ctl) (lo hi : Nat) : (resetRegs c lo hi).w1cSet = c.w1cSet := rfl
@[simp] theorem resetRegs_latched (c : Ctl) (lo hi : Nat) : (resetRegs c lo hi).latched = c.latched := rfl
@[simp] theorem resetRegs_staged (c : Ctl) (lo hi : Nat) : (resetRegs c lo hi).staged = c.staged := rfl
@[simp] theorem resetRegs_free (c : Ctl) (lo hi : Nat) : (resetRegs c lo hi).free = c.free := rfl
@[simp] theorem resetRegs_outs (c : Ctl) (lo hi : Nat) : (resetRegs c lo hi).outs = c.outs := rfl
@[simp] theorem resetRegs_time (c : Ctl) (lo hi : Nat) : (resetRegs c lo hi).time = c.time := rfl
@[simp] theorem resetRegs_plan (c : Ctl) (lo hi : Nat) : (resetRegs c lo hi).plan = c.plan := rfl
@[simp] theorem resetRegs_parts (c : Ctl) (lo hi : Nat) : (resetRegs c lo hi).parts = c.parts := rfl
@[simp] theorem resetRegs_tiles (c : Ctl) (lo hi : Nat) : (resetRegs c lo hi).tiles = c.tiles := rfl
@[simp] theorem resetRegs_noc (c : Ctl) (lo hi : Nat) : (resetRegs c lo hi).noc = c.noc := rfl
@[simp] theorem resetRegs_ev (c : Ctl) (lo hi : Nat) : (resetRegs c lo hi).ev = c.ev := rfl
@[simp] theorem resetRegs_hg (c : Ctl) (lo hi : Nat) : (resetRegs c lo hi).hg = c.hg := rfl
@[simp] theorem resetRegs_drainAt (c : Ctl) (lo hi : Nat) : (resetRegs c lo hi).drainAt = c.drainAt := rfl
@[simp] theorem resetRegs_dc (c : Ctl) (lo hi : Nat) : (resetRegs c lo hi).dc = c.dc := rfl
@[simp] theorem resetRegs_nme (c : Ctl) (lo hi : Nat) : (resetRegs c lo hi).nme = c.nme := rfl
@[simp] theorem resetRegs_pool (c : Ctl) (lo hi : Nat) : (resetRegs c lo hi).pool = c.pool := rfl
@[simp] theorem resetRegs_lk (c : Ctl) (lo hi : Nat) : (resetRegs c lo hi).lk = c.lk := rfl
@[simp] theorem resetRegs_sp (c : Ctl) (lo hi : Nat) : (resetRegs c lo hi).sp = c.sp := rfl
@[simp] theorem resetRegs_snap (c : Ctl) (lo hi : Nat) : (resetRegs c lo hi).snap = c.snap := rfl
@[simp] theorem resetRegs_ce (c : Ctl) (lo hi : Nat) : (resetRegs c lo hi).ce = c.ce := rfl
@[simp] theorem resetRegs_hi (c : Ctl) (lo hi : Nat) : (resetRegs c lo hi).hi = c.hi := rfl
@[simp] theorem resetRegs_dump (c : Ctl) (lo hi : Nat) : (resetRegs c lo hi).dump = c.dump := rfl
@[simp] theorem resetRegs_db (c : Ctl) (lo hi : Nat) : (resetRegs c lo hi).db = c.db := rfl
@[simp] theorem resetRegs_pwr (c : Ctl) (lo hi : Nat) : (resetRegs c lo hi).pwr = c.pwr := rfl

@[simp] theorem updPart_regs (c : Ctl) (p : Nat) (f : PartSt → PartSt) : (updPart c p f).regs = c.regs := rfl
@[simp] theorem updPart_held (c : Ctl) (p : Nat) (f : PartSt → PartSt) : (updPart c p f).held = c.held := rfl
@[simp] theorem updPart_recent (c : Ctl) (p : Nat) (f : PartSt → PartSt) : (updPart c p f).recent = c.recent := rfl
@[simp] theorem updPart_w1cSet (c : Ctl) (p : Nat) (f : PartSt → PartSt) : (updPart c p f).w1cSet = c.w1cSet := rfl
@[simp] theorem updPart_latched (c : Ctl) (p : Nat) (f : PartSt → PartSt) : (updPart c p f).latched = c.latched := rfl
@[simp] theorem updPart_staged (c : Ctl) (p : Nat) (f : PartSt → PartSt) : (updPart c p f).staged = c.staged := rfl
@[simp] theorem updPart_free (c : Ctl) (p : Nat) (f : PartSt → PartSt) : (updPart c p f).free = c.free := rfl
@[simp] theorem updPart_outs (c : Ctl) (p : Nat) (f : PartSt → PartSt) : (updPart c p f).outs = c.outs := rfl
@[simp] theorem updPart_time (c : Ctl) (p : Nat) (f : PartSt → PartSt) : (updPart c p f).time = c.time := rfl
@[simp] theorem updPart_plan (c : Ctl) (p : Nat) (f : PartSt → PartSt) : (updPart c p f).plan = c.plan := rfl
@[simp] theorem updPart_tiles (c : Ctl) (p : Nat) (f : PartSt → PartSt) : (updPart c p f).tiles = c.tiles := rfl
@[simp] theorem updPart_noc (c : Ctl) (p : Nat) (f : PartSt → PartSt) : (updPart c p f).noc = c.noc := rfl
@[simp] theorem updPart_ev (c : Ctl) (p : Nat) (f : PartSt → PartSt) : (updPart c p f).ev = c.ev := rfl
@[simp] theorem updPart_hg (c : Ctl) (p : Nat) (f : PartSt → PartSt) : (updPart c p f).hg = c.hg := rfl
@[simp] theorem updPart_drainAt (c : Ctl) (p : Nat) (f : PartSt → PartSt) : (updPart c p f).drainAt = c.drainAt := rfl
@[simp] theorem updPart_dc (c : Ctl) (p : Nat) (f : PartSt → PartSt) : (updPart c p f).dc = c.dc := rfl
@[simp] theorem updPart_nme (c : Ctl) (p : Nat) (f : PartSt → PartSt) : (updPart c p f).nme = c.nme := rfl
@[simp] theorem updPart_pool (c : Ctl) (p : Nat) (f : PartSt → PartSt) : (updPart c p f).pool = c.pool := rfl
@[simp] theorem updPart_lk (c : Ctl) (p : Nat) (f : PartSt → PartSt) : (updPart c p f).lk = c.lk := rfl
@[simp] theorem updPart_sp (c : Ctl) (p : Nat) (f : PartSt → PartSt) : (updPart c p f).sp = c.sp := rfl
@[simp] theorem updPart_snap (c : Ctl) (p : Nat) (f : PartSt → PartSt) : (updPart c p f).snap = c.snap := rfl
@[simp] theorem updPart_ce (c : Ctl) (p : Nat) (f : PartSt → PartSt) : (updPart c p f).ce = c.ce := rfl
@[simp] theorem updPart_hi (c : Ctl) (p : Nat) (f : PartSt → PartSt) : (updPart c p f).hi = c.hi := rfl
@[simp] theorem updPart_dump (c : Ctl) (p : Nat) (f : PartSt → PartSt) : (updPart c p f).dump = c.dump := rfl
@[simp] theorem updPart_db (c : Ctl) (p : Nat) (f : PartSt → PartSt) : (updPart c p f).db = c.db := rfl
@[simp] theorem updPart_pwr (c : Ctl) (p : Nat) (f : PartSt → PartSt) : (updPart c p f).pwr = c.pwr := rfl

@[simp] theorem updTile_regs (c : Ctl) (t : Nat) (f : Tile → Tile) : (updTile c t f).regs = c.regs := rfl
@[simp] theorem updTile_held (c : Ctl) (t : Nat) (f : Tile → Tile) : (updTile c t f).held = c.held := rfl
@[simp] theorem updTile_recent (c : Ctl) (t : Nat) (f : Tile → Tile) : (updTile c t f).recent = c.recent := rfl
@[simp] theorem updTile_w1cSet (c : Ctl) (t : Nat) (f : Tile → Tile) : (updTile c t f).w1cSet = c.w1cSet := rfl
@[simp] theorem updTile_latched (c : Ctl) (t : Nat) (f : Tile → Tile) : (updTile c t f).latched = c.latched := rfl
@[simp] theorem updTile_staged (c : Ctl) (t : Nat) (f : Tile → Tile) : (updTile c t f).staged = c.staged := rfl
@[simp] theorem updTile_free (c : Ctl) (t : Nat) (f : Tile → Tile) : (updTile c t f).free = c.free := rfl
@[simp] theorem updTile_outs (c : Ctl) (t : Nat) (f : Tile → Tile) : (updTile c t f).outs = c.outs := rfl
@[simp] theorem updTile_time (c : Ctl) (t : Nat) (f : Tile → Tile) : (updTile c t f).time = c.time := rfl
@[simp] theorem updTile_plan (c : Ctl) (t : Nat) (f : Tile → Tile) : (updTile c t f).plan = c.plan := rfl
@[simp] theorem updTile_parts (c : Ctl) (t : Nat) (f : Tile → Tile) : (updTile c t f).parts = c.parts := rfl
@[simp] theorem updTile_noc (c : Ctl) (t : Nat) (f : Tile → Tile) : (updTile c t f).noc = c.noc := rfl
@[simp] theorem updTile_ev (c : Ctl) (t : Nat) (f : Tile → Tile) : (updTile c t f).ev = c.ev := rfl
@[simp] theorem updTile_hg (c : Ctl) (t : Nat) (f : Tile → Tile) : (updTile c t f).hg = c.hg := rfl
@[simp] theorem updTile_drainAt (c : Ctl) (t : Nat) (f : Tile → Tile) : (updTile c t f).drainAt = c.drainAt := rfl
@[simp] theorem updTile_dc (c : Ctl) (t : Nat) (f : Tile → Tile) : (updTile c t f).dc = c.dc := rfl
@[simp] theorem updTile_nme (c : Ctl) (t : Nat) (f : Tile → Tile) : (updTile c t f).nme = c.nme := rfl
@[simp] theorem updTile_pool (c : Ctl) (t : Nat) (f : Tile → Tile) : (updTile c t f).pool = c.pool := rfl
@[simp] theorem updTile_lk (c : Ctl) (t : Nat) (f : Tile → Tile) : (updTile c t f).lk = c.lk := rfl
@[simp] theorem updTile_sp (c : Ctl) (t : Nat) (f : Tile → Tile) : (updTile c t f).sp = c.sp := rfl
@[simp] theorem updTile_snap (c : Ctl) (t : Nat) (f : Tile → Tile) : (updTile c t f).snap = c.snap := rfl
@[simp] theorem updTile_ce (c : Ctl) (t : Nat) (f : Tile → Tile) : (updTile c t f).ce = c.ce := rfl
@[simp] theorem updTile_hi (c : Ctl) (t : Nat) (f : Tile → Tile) : (updTile c t f).hi = c.hi := rfl
@[simp] theorem updTile_dump (c : Ctl) (t : Nat) (f : Tile → Tile) : (updTile c t f).dump = c.dump := rfl
@[simp] theorem updTile_db (c : Ctl) (t : Nat) (f : Tile → Tile) : (updTile c t f).db = c.db := rfl
@[simp] theorem updTile_pwr (c : Ctl) (t : Nat) (f : Tile → Tile) : (updTile c t f).pwr = c.pwr := rfl

@[simp] theorem putTile_regs (c : Ctl) (t : Nat) (v : Tile) : (putTile c t v).regs = c.regs := rfl
@[simp] theorem putTile_held (c : Ctl) (t : Nat) (v : Tile) : (putTile c t v).held = c.held := rfl
@[simp] theorem putTile_recent (c : Ctl) (t : Nat) (v : Tile) : (putTile c t v).recent = c.recent := rfl
@[simp] theorem putTile_w1cSet (c : Ctl) (t : Nat) (v : Tile) : (putTile c t v).w1cSet = c.w1cSet := rfl
@[simp] theorem putTile_latched (c : Ctl) (t : Nat) (v : Tile) : (putTile c t v).latched = c.latched := rfl
@[simp] theorem putTile_staged (c : Ctl) (t : Nat) (v : Tile) : (putTile c t v).staged = c.staged := rfl
@[simp] theorem putTile_free (c : Ctl) (t : Nat) (v : Tile) : (putTile c t v).free = c.free := rfl
@[simp] theorem putTile_outs (c : Ctl) (t : Nat) (v : Tile) : (putTile c t v).outs = c.outs := rfl
@[simp] theorem putTile_time (c : Ctl) (t : Nat) (v : Tile) : (putTile c t v).time = c.time := rfl
@[simp] theorem putTile_plan (c : Ctl) (t : Nat) (v : Tile) : (putTile c t v).plan = c.plan := rfl
@[simp] theorem putTile_parts (c : Ctl) (t : Nat) (v : Tile) : (putTile c t v).parts = c.parts := rfl
@[simp] theorem putTile_noc (c : Ctl) (t : Nat) (v : Tile) : (putTile c t v).noc = c.noc := rfl
@[simp] theorem putTile_ev (c : Ctl) (t : Nat) (v : Tile) : (putTile c t v).ev = c.ev := rfl
@[simp] theorem putTile_hg (c : Ctl) (t : Nat) (v : Tile) : (putTile c t v).hg = c.hg := rfl
@[simp] theorem putTile_drainAt (c : Ctl) (t : Nat) (v : Tile) : (putTile c t v).drainAt = c.drainAt := rfl
@[simp] theorem putTile_dc (c : Ctl) (t : Nat) (v : Tile) : (putTile c t v).dc = c.dc := rfl
@[simp] theorem putTile_nme (c : Ctl) (t : Nat) (v : Tile) : (putTile c t v).nme = c.nme := rfl
@[simp] theorem putTile_pool (c : Ctl) (t : Nat) (v : Tile) : (putTile c t v).pool = c.pool := rfl
@[simp] theorem putTile_lk (c : Ctl) (t : Nat) (v : Tile) : (putTile c t v).lk = c.lk := rfl
@[simp] theorem putTile_sp (c : Ctl) (t : Nat) (v : Tile) : (putTile c t v).sp = c.sp := rfl
@[simp] theorem putTile_snap (c : Ctl) (t : Nat) (v : Tile) : (putTile c t v).snap = c.snap := rfl
@[simp] theorem putTile_ce (c : Ctl) (t : Nat) (v : Tile) : (putTile c t v).ce = c.ce := rfl
@[simp] theorem putTile_hi (c : Ctl) (t : Nat) (v : Tile) : (putTile c t v).hi = c.hi := rfl
@[simp] theorem putTile_dump (c : Ctl) (t : Nat) (v : Tile) : (putTile c t v).dump = c.dump := rfl
@[simp] theorem putTile_db (c : Ctl) (t : Nat) (v : Tile) : (putTile c t v).db = c.db := rfl
@[simp] theorem putTile_pwr (c : Ctl) (t : Nat) (v : Tile) : (putTile c t v).pwr = c.pwr := rfl

@[simp] theorem updHg_regs (c : Ctl) (f : HgSt → HgSt) : (updHg c f).regs = c.regs := rfl
@[simp] theorem updHg_held (c : Ctl) (f : HgSt → HgSt) : (updHg c f).held = c.held := rfl
@[simp] theorem updHg_recent (c : Ctl) (f : HgSt → HgSt) : (updHg c f).recent = c.recent := rfl
@[simp] theorem updHg_w1cSet (c : Ctl) (f : HgSt → HgSt) : (updHg c f).w1cSet = c.w1cSet := rfl
@[simp] theorem updHg_latched (c : Ctl) (f : HgSt → HgSt) : (updHg c f).latched = c.latched := rfl
@[simp] theorem updHg_staged (c : Ctl) (f : HgSt → HgSt) : (updHg c f).staged = c.staged := rfl
@[simp] theorem updHg_free (c : Ctl) (f : HgSt → HgSt) : (updHg c f).free = c.free := rfl
@[simp] theorem updHg_outs (c : Ctl) (f : HgSt → HgSt) : (updHg c f).outs = c.outs := rfl
@[simp] theorem updHg_time (c : Ctl) (f : HgSt → HgSt) : (updHg c f).time = c.time := rfl
@[simp] theorem updHg_plan (c : Ctl) (f : HgSt → HgSt) : (updHg c f).plan = c.plan := rfl
@[simp] theorem updHg_parts (c : Ctl) (f : HgSt → HgSt) : (updHg c f).parts = c.parts := rfl
@[simp] theorem updHg_tiles (c : Ctl) (f : HgSt → HgSt) : (updHg c f).tiles = c.tiles := rfl
@[simp] theorem updHg_noc (c : Ctl) (f : HgSt → HgSt) : (updHg c f).noc = c.noc := rfl
@[simp] theorem updHg_ev (c : Ctl) (f : HgSt → HgSt) : (updHg c f).ev = c.ev := rfl
@[simp] theorem updHg_drainAt (c : Ctl) (f : HgSt → HgSt) : (updHg c f).drainAt = c.drainAt := rfl
@[simp] theorem updHg_dc (c : Ctl) (f : HgSt → HgSt) : (updHg c f).dc = c.dc := rfl
@[simp] theorem updHg_nme (c : Ctl) (f : HgSt → HgSt) : (updHg c f).nme = c.nme := rfl
@[simp] theorem updHg_pool (c : Ctl) (f : HgSt → HgSt) : (updHg c f).pool = c.pool := rfl
@[simp] theorem updHg_lk (c : Ctl) (f : HgSt → HgSt) : (updHg c f).lk = c.lk := rfl
@[simp] theorem updHg_sp (c : Ctl) (f : HgSt → HgSt) : (updHg c f).sp = c.sp := rfl
@[simp] theorem updHg_snap (c : Ctl) (f : HgSt → HgSt) : (updHg c f).snap = c.snap := rfl
@[simp] theorem updHg_ce (c : Ctl) (f : HgSt → HgSt) : (updHg c f).ce = c.ce := rfl
@[simp] theorem updHg_hi (c : Ctl) (f : HgSt → HgSt) : (updHg c f).hi = c.hi := rfl
@[simp] theorem updHg_dump (c : Ctl) (f : HgSt → HgSt) : (updHg c f).dump = c.dump := rfl
@[simp] theorem updHg_db (c : Ctl) (f : HgSt → HgSt) : (updHg c f).db = c.db := rfl
@[simp] theorem updHg_pwr (c : Ctl) (f : HgSt → HgSt) : (updHg c f).pwr = c.pwr := rfl

@[simp] theorem updDc_regs (c : Ctl) (f : DcSt → DcSt) : (updDc c f).regs = c.regs := rfl
@[simp] theorem updDc_held (c : Ctl) (f : DcSt → DcSt) : (updDc c f).held = c.held := rfl
@[simp] theorem updDc_recent (c : Ctl) (f : DcSt → DcSt) : (updDc c f).recent = c.recent := rfl
@[simp] theorem updDc_w1cSet (c : Ctl) (f : DcSt → DcSt) : (updDc c f).w1cSet = c.w1cSet := rfl
@[simp] theorem updDc_latched (c : Ctl) (f : DcSt → DcSt) : (updDc c f).latched = c.latched := rfl
@[simp] theorem updDc_staged (c : Ctl) (f : DcSt → DcSt) : (updDc c f).staged = c.staged := rfl
@[simp] theorem updDc_free (c : Ctl) (f : DcSt → DcSt) : (updDc c f).free = c.free := rfl
@[simp] theorem updDc_outs (c : Ctl) (f : DcSt → DcSt) : (updDc c f).outs = c.outs := rfl
@[simp] theorem updDc_time (c : Ctl) (f : DcSt → DcSt) : (updDc c f).time = c.time := rfl
@[simp] theorem updDc_plan (c : Ctl) (f : DcSt → DcSt) : (updDc c f).plan = c.plan := rfl
@[simp] theorem updDc_parts (c : Ctl) (f : DcSt → DcSt) : (updDc c f).parts = c.parts := rfl
@[simp] theorem updDc_tiles (c : Ctl) (f : DcSt → DcSt) : (updDc c f).tiles = c.tiles := rfl
@[simp] theorem updDc_noc (c : Ctl) (f : DcSt → DcSt) : (updDc c f).noc = c.noc := rfl
@[simp] theorem updDc_ev (c : Ctl) (f : DcSt → DcSt) : (updDc c f).ev = c.ev := rfl
@[simp] theorem updDc_hg (c : Ctl) (f : DcSt → DcSt) : (updDc c f).hg = c.hg := rfl
@[simp] theorem updDc_drainAt (c : Ctl) (f : DcSt → DcSt) : (updDc c f).drainAt = c.drainAt := rfl
@[simp] theorem updDc_nme (c : Ctl) (f : DcSt → DcSt) : (updDc c f).nme = c.nme := rfl
@[simp] theorem updDc_pool (c : Ctl) (f : DcSt → DcSt) : (updDc c f).pool = c.pool := rfl
@[simp] theorem updDc_lk (c : Ctl) (f : DcSt → DcSt) : (updDc c f).lk = c.lk := rfl
@[simp] theorem updDc_sp (c : Ctl) (f : DcSt → DcSt) : (updDc c f).sp = c.sp := rfl
@[simp] theorem updDc_snap (c : Ctl) (f : DcSt → DcSt) : (updDc c f).snap = c.snap := rfl
@[simp] theorem updDc_ce (c : Ctl) (f : DcSt → DcSt) : (updDc c f).ce = c.ce := rfl
@[simp] theorem updDc_hi (c : Ctl) (f : DcSt → DcSt) : (updDc c f).hi = c.hi := rfl
@[simp] theorem updDc_dump (c : Ctl) (f : DcSt → DcSt) : (updDc c f).dump = c.dump := rfl
@[simp] theorem updDc_db (c : Ctl) (f : DcSt → DcSt) : (updDc c f).db = c.db := rfl
@[simp] theorem updDc_pwr (c : Ctl) (f : DcSt → DcSt) : (updDc c f).pwr = c.pwr := rfl

@[simp] theorem updLk_regs (c : Ctl) (f : LkSt → LkSt) : (updLk c f).regs = c.regs := rfl
@[simp] theorem updLk_held (c : Ctl) (f : LkSt → LkSt) : (updLk c f).held = c.held := rfl
@[simp] theorem updLk_recent (c : Ctl) (f : LkSt → LkSt) : (updLk c f).recent = c.recent := rfl
@[simp] theorem updLk_w1cSet (c : Ctl) (f : LkSt → LkSt) : (updLk c f).w1cSet = c.w1cSet := rfl
@[simp] theorem updLk_latched (c : Ctl) (f : LkSt → LkSt) : (updLk c f).latched = c.latched := rfl
@[simp] theorem updLk_staged (c : Ctl) (f : LkSt → LkSt) : (updLk c f).staged = c.staged := rfl
@[simp] theorem updLk_free (c : Ctl) (f : LkSt → LkSt) : (updLk c f).free = c.free := rfl
@[simp] theorem updLk_outs (c : Ctl) (f : LkSt → LkSt) : (updLk c f).outs = c.outs := rfl
@[simp] theorem updLk_time (c : Ctl) (f : LkSt → LkSt) : (updLk c f).time = c.time := rfl
@[simp] theorem updLk_plan (c : Ctl) (f : LkSt → LkSt) : (updLk c f).plan = c.plan := rfl
@[simp] theorem updLk_parts (c : Ctl) (f : LkSt → LkSt) : (updLk c f).parts = c.parts := rfl
@[simp] theorem updLk_tiles (c : Ctl) (f : LkSt → LkSt) : (updLk c f).tiles = c.tiles := rfl
@[simp] theorem updLk_noc (c : Ctl) (f : LkSt → LkSt) : (updLk c f).noc = c.noc := rfl
@[simp] theorem updLk_ev (c : Ctl) (f : LkSt → LkSt) : (updLk c f).ev = c.ev := rfl
@[simp] theorem updLk_hg (c : Ctl) (f : LkSt → LkSt) : (updLk c f).hg = c.hg := rfl
@[simp] theorem updLk_drainAt (c : Ctl) (f : LkSt → LkSt) : (updLk c f).drainAt = c.drainAt := rfl
@[simp] theorem updLk_dc (c : Ctl) (f : LkSt → LkSt) : (updLk c f).dc = c.dc := rfl
@[simp] theorem updLk_nme (c : Ctl) (f : LkSt → LkSt) : (updLk c f).nme = c.nme := rfl
@[simp] theorem updLk_pool (c : Ctl) (f : LkSt → LkSt) : (updLk c f).pool = c.pool := rfl
@[simp] theorem updLk_sp (c : Ctl) (f : LkSt → LkSt) : (updLk c f).sp = c.sp := rfl
@[simp] theorem updLk_snap (c : Ctl) (f : LkSt → LkSt) : (updLk c f).snap = c.snap := rfl
@[simp] theorem updLk_ce (c : Ctl) (f : LkSt → LkSt) : (updLk c f).ce = c.ce := rfl
@[simp] theorem updLk_hi (c : Ctl) (f : LkSt → LkSt) : (updLk c f).hi = c.hi := rfl
@[simp] theorem updLk_dump (c : Ctl) (f : LkSt → LkSt) : (updLk c f).dump = c.dump := rfl
@[simp] theorem updLk_db (c : Ctl) (f : LkSt → LkSt) : (updLk c f).db = c.db := rfl
@[simp] theorem updLk_pwr (c : Ctl) (f : LkSt → LkSt) : (updLk c f).pwr = c.pwr := rfl

@[simp] theorem updSp_regs (c : Ctl) (f : SpSt → SpSt) : (updSp c f).regs = c.regs := rfl
@[simp] theorem updSp_held (c : Ctl) (f : SpSt → SpSt) : (updSp c f).held = c.held := rfl
@[simp] theorem updSp_recent (c : Ctl) (f : SpSt → SpSt) : (updSp c f).recent = c.recent := rfl
@[simp] theorem updSp_w1cSet (c : Ctl) (f : SpSt → SpSt) : (updSp c f).w1cSet = c.w1cSet := rfl
@[simp] theorem updSp_latched (c : Ctl) (f : SpSt → SpSt) : (updSp c f).latched = c.latched := rfl
@[simp] theorem updSp_staged (c : Ctl) (f : SpSt → SpSt) : (updSp c f).staged = c.staged := rfl
@[simp] theorem updSp_free (c : Ctl) (f : SpSt → SpSt) : (updSp c f).free = c.free := rfl
@[simp] theorem updSp_outs (c : Ctl) (f : SpSt → SpSt) : (updSp c f).outs = c.outs := rfl
@[simp] theorem updSp_time (c : Ctl) (f : SpSt → SpSt) : (updSp c f).time = c.time := rfl
@[simp] theorem updSp_plan (c : Ctl) (f : SpSt → SpSt) : (updSp c f).plan = c.plan := rfl
@[simp] theorem updSp_parts (c : Ctl) (f : SpSt → SpSt) : (updSp c f).parts = c.parts := rfl
@[simp] theorem updSp_tiles (c : Ctl) (f : SpSt → SpSt) : (updSp c f).tiles = c.tiles := rfl
@[simp] theorem updSp_noc (c : Ctl) (f : SpSt → SpSt) : (updSp c f).noc = c.noc := rfl
@[simp] theorem updSp_ev (c : Ctl) (f : SpSt → SpSt) : (updSp c f).ev = c.ev := rfl
@[simp] theorem updSp_hg (c : Ctl) (f : SpSt → SpSt) : (updSp c f).hg = c.hg := rfl
@[simp] theorem updSp_drainAt (c : Ctl) (f : SpSt → SpSt) : (updSp c f).drainAt = c.drainAt := rfl
@[simp] theorem updSp_dc (c : Ctl) (f : SpSt → SpSt) : (updSp c f).dc = c.dc := rfl
@[simp] theorem updSp_nme (c : Ctl) (f : SpSt → SpSt) : (updSp c f).nme = c.nme := rfl
@[simp] theorem updSp_pool (c : Ctl) (f : SpSt → SpSt) : (updSp c f).pool = c.pool := rfl
@[simp] theorem updSp_lk (c : Ctl) (f : SpSt → SpSt) : (updSp c f).lk = c.lk := rfl
@[simp] theorem updSp_snap (c : Ctl) (f : SpSt → SpSt) : (updSp c f).snap = c.snap := rfl
@[simp] theorem updSp_ce (c : Ctl) (f : SpSt → SpSt) : (updSp c f).ce = c.ce := rfl
@[simp] theorem updSp_hi (c : Ctl) (f : SpSt → SpSt) : (updSp c f).hi = c.hi := rfl
@[simp] theorem updSp_dump (c : Ctl) (f : SpSt → SpSt) : (updSp c f).dump = c.dump := rfl
@[simp] theorem updSp_db (c : Ctl) (f : SpSt → SpSt) : (updSp c f).db = c.db := rfl
@[simp] theorem updSp_pwr (c : Ctl) (f : SpSt → SpSt) : (updSp c f).pwr = c.pwr := rfl

@[simp] theorem updCe_regs (c : Ctl) (f : CeSt → CeSt) : (updCe c f).regs = c.regs := rfl
@[simp] theorem updCe_held (c : Ctl) (f : CeSt → CeSt) : (updCe c f).held = c.held := rfl
@[simp] theorem updCe_recent (c : Ctl) (f : CeSt → CeSt) : (updCe c f).recent = c.recent := rfl
@[simp] theorem updCe_w1cSet (c : Ctl) (f : CeSt → CeSt) : (updCe c f).w1cSet = c.w1cSet := rfl
@[simp] theorem updCe_latched (c : Ctl) (f : CeSt → CeSt) : (updCe c f).latched = c.latched := rfl
@[simp] theorem updCe_staged (c : Ctl) (f : CeSt → CeSt) : (updCe c f).staged = c.staged := rfl
@[simp] theorem updCe_free (c : Ctl) (f : CeSt → CeSt) : (updCe c f).free = c.free := rfl
@[simp] theorem updCe_outs (c : Ctl) (f : CeSt → CeSt) : (updCe c f).outs = c.outs := rfl
@[simp] theorem updCe_time (c : Ctl) (f : CeSt → CeSt) : (updCe c f).time = c.time := rfl
@[simp] theorem updCe_plan (c : Ctl) (f : CeSt → CeSt) : (updCe c f).plan = c.plan := rfl
@[simp] theorem updCe_parts (c : Ctl) (f : CeSt → CeSt) : (updCe c f).parts = c.parts := rfl
@[simp] theorem updCe_tiles (c : Ctl) (f : CeSt → CeSt) : (updCe c f).tiles = c.tiles := rfl
@[simp] theorem updCe_noc (c : Ctl) (f : CeSt → CeSt) : (updCe c f).noc = c.noc := rfl
@[simp] theorem updCe_ev (c : Ctl) (f : CeSt → CeSt) : (updCe c f).ev = c.ev := rfl
@[simp] theorem updCe_hg (c : Ctl) (f : CeSt → CeSt) : (updCe c f).hg = c.hg := rfl
@[simp] theorem updCe_drainAt (c : Ctl) (f : CeSt → CeSt) : (updCe c f).drainAt = c.drainAt := rfl
@[simp] theorem updCe_dc (c : Ctl) (f : CeSt → CeSt) : (updCe c f).dc = c.dc := rfl
@[simp] theorem updCe_nme (c : Ctl) (f : CeSt → CeSt) : (updCe c f).nme = c.nme := rfl
@[simp] theorem updCe_pool (c : Ctl) (f : CeSt → CeSt) : (updCe c f).pool = c.pool := rfl
@[simp] theorem updCe_lk (c : Ctl) (f : CeSt → CeSt) : (updCe c f).lk = c.lk := rfl
@[simp] theorem updCe_sp (c : Ctl) (f : CeSt → CeSt) : (updCe c f).sp = c.sp := rfl
@[simp] theorem updCe_snap (c : Ctl) (f : CeSt → CeSt) : (updCe c f).snap = c.snap := rfl
@[simp] theorem updCe_hi (c : Ctl) (f : CeSt → CeSt) : (updCe c f).hi = c.hi := rfl
@[simp] theorem updCe_dump (c : Ctl) (f : CeSt → CeSt) : (updCe c f).dump = c.dump := rfl
@[simp] theorem updCe_db (c : Ctl) (f : CeSt → CeSt) : (updCe c f).db = c.db := rfl
@[simp] theorem updCe_pwr (c : Ctl) (f : CeSt → CeSt) : (updCe c f).pwr = c.pwr := rfl

@[simp] theorem updEv_regs (c : Ctl) (f : EventSt → EventSt) : (updEv c f).regs = c.regs := rfl
@[simp] theorem updEv_held (c : Ctl) (f : EventSt → EventSt) : (updEv c f).held = c.held := rfl
@[simp] theorem updEv_recent (c : Ctl) (f : EventSt → EventSt) : (updEv c f).recent = c.recent := rfl
@[simp] theorem updEv_w1cSet (c : Ctl) (f : EventSt → EventSt) : (updEv c f).w1cSet = c.w1cSet := rfl
@[simp] theorem updEv_latched (c : Ctl) (f : EventSt → EventSt) : (updEv c f).latched = c.latched := rfl
@[simp] theorem updEv_staged (c : Ctl) (f : EventSt → EventSt) : (updEv c f).staged = c.staged := rfl
@[simp] theorem updEv_free (c : Ctl) (f : EventSt → EventSt) : (updEv c f).free = c.free := rfl
@[simp] theorem updEv_outs (c : Ctl) (f : EventSt → EventSt) : (updEv c f).outs = c.outs := rfl
@[simp] theorem updEv_time (c : Ctl) (f : EventSt → EventSt) : (updEv c f).time = c.time := rfl
@[simp] theorem updEv_plan (c : Ctl) (f : EventSt → EventSt) : (updEv c f).plan = c.plan := rfl
@[simp] theorem updEv_parts (c : Ctl) (f : EventSt → EventSt) : (updEv c f).parts = c.parts := rfl
@[simp] theorem updEv_tiles (c : Ctl) (f : EventSt → EventSt) : (updEv c f).tiles = c.tiles := rfl
@[simp] theorem updEv_noc (c : Ctl) (f : EventSt → EventSt) : (updEv c f).noc = c.noc := rfl
@[simp] theorem updEv_hg (c : Ctl) (f : EventSt → EventSt) : (updEv c f).hg = c.hg := rfl
@[simp] theorem updEv_drainAt (c : Ctl) (f : EventSt → EventSt) : (updEv c f).drainAt = c.drainAt := rfl
@[simp] theorem updEv_dc (c : Ctl) (f : EventSt → EventSt) : (updEv c f).dc = c.dc := rfl
@[simp] theorem updEv_nme (c : Ctl) (f : EventSt → EventSt) : (updEv c f).nme = c.nme := rfl
@[simp] theorem updEv_pool (c : Ctl) (f : EventSt → EventSt) : (updEv c f).pool = c.pool := rfl
@[simp] theorem updEv_lk (c : Ctl) (f : EventSt → EventSt) : (updEv c f).lk = c.lk := rfl
@[simp] theorem updEv_sp (c : Ctl) (f : EventSt → EventSt) : (updEv c f).sp = c.sp := rfl
@[simp] theorem updEv_snap (c : Ctl) (f : EventSt → EventSt) : (updEv c f).snap = c.snap := rfl
@[simp] theorem updEv_ce (c : Ctl) (f : EventSt → EventSt) : (updEv c f).ce = c.ce := rfl
@[simp] theorem updEv_hi (c : Ctl) (f : EventSt → EventSt) : (updEv c f).hi = c.hi := rfl
@[simp] theorem updEv_dump (c : Ctl) (f : EventSt → EventSt) : (updEv c f).dump = c.dump := rfl
@[simp] theorem updEv_db (c : Ctl) (f : EventSt → EventSt) : (updEv c f).db = c.db := rfl
@[simp] theorem updEv_pwr (c : Ctl) (f : EventSt → EventSt) : (updEv c f).pwr = c.pwr := rfl

@[simp] theorem updRing_regs (c : Ctl) (fn r : Nat) (f : Ring → Ring) : (updRing c fn r f).regs = c.regs := rfl
@[simp] theorem updRing_held (c : Ctl) (fn r : Nat) (f : Ring → Ring) : (updRing c fn r f).held = c.held := rfl
@[simp] theorem updRing_recent (c : Ctl) (fn r : Nat) (f : Ring → Ring) : (updRing c fn r f).recent = c.recent := rfl
@[simp] theorem updRing_w1cSet (c : Ctl) (fn r : Nat) (f : Ring → Ring) : (updRing c fn r f).w1cSet = c.w1cSet := rfl
@[simp] theorem updRing_latched (c : Ctl) (fn r : Nat) (f : Ring → Ring) : (updRing c fn r f).latched = c.latched := rfl
@[simp] theorem updRing_staged (c : Ctl) (fn r : Nat) (f : Ring → Ring) : (updRing c fn r f).staged = c.staged := rfl
@[simp] theorem updRing_free (c : Ctl) (fn r : Nat) (f : Ring → Ring) : (updRing c fn r f).free = c.free := rfl
@[simp] theorem updRing_outs (c : Ctl) (fn r : Nat) (f : Ring → Ring) : (updRing c fn r f).outs = c.outs := rfl
@[simp] theorem updRing_time (c : Ctl) (fn r : Nat) (f : Ring → Ring) : (updRing c fn r f).time = c.time := rfl
@[simp] theorem updRing_plan (c : Ctl) (fn r : Nat) (f : Ring → Ring) : (updRing c fn r f).plan = c.plan := rfl
@[simp] theorem updRing_parts (c : Ctl) (fn r : Nat) (f : Ring → Ring) : (updRing c fn r f).parts = c.parts := rfl
@[simp] theorem updRing_tiles (c : Ctl) (fn r : Nat) (f : Ring → Ring) : (updRing c fn r f).tiles = c.tiles := rfl
@[simp] theorem updRing_noc (c : Ctl) (fn r : Nat) (f : Ring → Ring) : (updRing c fn r f).noc = c.noc := rfl
@[simp] theorem updRing_ev (c : Ctl) (fn r : Nat) (f : Ring → Ring) : (updRing c fn r f).ev = c.ev := rfl
@[simp] theorem updRing_hg (c : Ctl) (fn r : Nat) (f : Ring → Ring) : (updRing c fn r f).hg = c.hg := rfl
@[simp] theorem updRing_drainAt (c : Ctl) (fn r : Nat) (f : Ring → Ring) : (updRing c fn r f).drainAt = c.drainAt := rfl
@[simp] theorem updRing_dc (c : Ctl) (fn r : Nat) (f : Ring → Ring) : (updRing c fn r f).dc = c.dc := rfl
@[simp] theorem updRing_nme (c : Ctl) (fn r : Nat) (f : Ring → Ring) : (updRing c fn r f).nme = c.nme := rfl
@[simp] theorem updRing_pool (c : Ctl) (fn r : Nat) (f : Ring → Ring) : (updRing c fn r f).pool = c.pool := rfl
@[simp] theorem updRing_lk (c : Ctl) (fn r : Nat) (f : Ring → Ring) : (updRing c fn r f).lk = c.lk := rfl
@[simp] theorem updRing_sp (c : Ctl) (fn r : Nat) (f : Ring → Ring) : (updRing c fn r f).sp = c.sp := rfl
@[simp] theorem updRing_snap (c : Ctl) (fn r : Nat) (f : Ring → Ring) : (updRing c fn r f).snap = c.snap := rfl
@[simp] theorem updRing_ce (c : Ctl) (fn r : Nat) (f : Ring → Ring) : (updRing c fn r f).ce = c.ce := rfl
@[simp] theorem updRing_dump (c : Ctl) (fn r : Nat) (f : Ring → Ring) : (updRing c fn r f).dump = c.dump := rfl
@[simp] theorem updRing_db (c : Ctl) (fn r : Nat) (f : Ring → Ring) : (updRing c fn r f).db = c.db := rfl
@[simp] theorem updRing_pwr (c : Ctl) (fn r : Nat) (f : Ring → Ring) : (updRing c fn r f).pwr = c.pwr := rfl

@[simp] theorem advance_regs (c : Ctl) (n : Nat) : (advance c n).regs = c.regs := rfl
@[simp] theorem advance_held (c : Ctl) (n : Nat) : (advance c n).held = c.held := rfl
@[simp] theorem advance_recent (c : Ctl) (n : Nat) : (advance c n).recent = c.recent := rfl
@[simp] theorem advance_w1cSet (c : Ctl) (n : Nat) : (advance c n).w1cSet = c.w1cSet := rfl
@[simp] theorem advance_latched (c : Ctl) (n : Nat) : (advance c n).latched = c.latched := rfl
@[simp] theorem advance_staged (c : Ctl) (n : Nat) : (advance c n).staged = c.staged := rfl
@[simp] theorem advance_free (c : Ctl) (n : Nat) : (advance c n).free = c.free := rfl
@[simp] theorem advance_outs (c : Ctl) (n : Nat) : (advance c n).outs = c.outs := rfl
@[simp] theorem advance_plan (c : Ctl) (n : Nat) : (advance c n).plan = c.plan := rfl
@[simp] theorem advance_parts (c : Ctl) (n : Nat) : (advance c n).parts = c.parts := rfl
@[simp] theorem advance_tiles (c : Ctl) (n : Nat) : (advance c n).tiles = c.tiles := rfl
@[simp] theorem advance_noc (c : Ctl) (n : Nat) : (advance c n).noc = c.noc := rfl
@[simp] theorem advance_ev (c : Ctl) (n : Nat) : (advance c n).ev = c.ev := rfl
@[simp] theorem advance_hg (c : Ctl) (n : Nat) : (advance c n).hg = c.hg := rfl
@[simp] theorem advance_drainAt (c : Ctl) (n : Nat) : (advance c n).drainAt = c.drainAt := rfl
@[simp] theorem advance_dc (c : Ctl) (n : Nat) : (advance c n).dc = c.dc := rfl
@[simp] theorem advance_nme (c : Ctl) (n : Nat) : (advance c n).nme = c.nme := rfl
@[simp] theorem advance_pool (c : Ctl) (n : Nat) : (advance c n).pool = c.pool := rfl
@[simp] theorem advance_lk (c : Ctl) (n : Nat) : (advance c n).lk = c.lk := rfl
@[simp] theorem advance_sp (c : Ctl) (n : Nat) : (advance c n).sp = c.sp := rfl
@[simp] theorem advance_snap (c : Ctl) (n : Nat) : (advance c n).snap = c.snap := rfl
@[simp] theorem advance_ce (c : Ctl) (n : Nat) : (advance c n).ce = c.ce := rfl
@[simp] theorem advance_hi (c : Ctl) (n : Nat) : (advance c n).hi = c.hi := rfl
@[simp] theorem advance_dump (c : Ctl) (n : Nat) : (advance c n).dump = c.dump := rfl
@[simp] theorem advance_db (c : Ctl) (n : Nat) : (advance c n).db = c.db := rfl
@[simp] theorem advance_pwr (c : Ctl) (n : Nat) : (advance c n).pwr = c.pwr := rfl

@[simp] theorem emit_regs (c : Ctl) (e : Emit) : (emit c e).regs = c.regs := by unfold emit; split <;> rfl
@[simp] theorem emit_held (c : Ctl) (e : Emit) : (emit c e).held = c.held := by unfold emit; split <;> rfl
@[simp] theorem emit_recent (c : Ctl) (e : Emit) : (emit c e).recent = c.recent := by unfold emit; split <;> rfl
@[simp] theorem emit_w1cSet (c : Ctl) (e : Emit) : (emit c e).w1cSet = c.w1cSet := by unfold emit; split <;> rfl
@[simp] theorem emit_latched (c : Ctl) (e : Emit) : (emit c e).latched = c.latched := by unfold emit; split <;> rfl
@[simp] theorem emit_staged (c : Ctl) (e : Emit) : (emit c e).staged = c.staged := by unfold emit; split <;> rfl
@[simp] theorem emit_free (c : Ctl) (e : Emit) : (emit c e).free = c.free := by unfold emit; split <;> rfl
@[simp] theorem emit_time (c : Ctl) (e : Emit) : (emit c e).time = c.time := by unfold emit; split <;> rfl
@[simp] theorem emit_plan (c : Ctl) (e : Emit) : (emit c e).plan = c.plan := by unfold emit; split <;> rfl
@[simp] theorem emit_parts (c : Ctl) (e : Emit) : (emit c e).parts = c.parts := by unfold emit; split <;> rfl
@[simp] theorem emit_tiles (c : Ctl) (e : Emit) : (emit c e).tiles = c.tiles := by unfold emit; split <;> rfl
@[simp] theorem emit_noc (c : Ctl) (e : Emit) : (emit c e).noc = c.noc := by unfold emit; split <;> rfl
@[simp] theorem emit_ev (c : Ctl) (e : Emit) : (emit c e).ev = c.ev := by unfold emit; split <;> rfl
@[simp] theorem emit_hg (c : Ctl) (e : Emit) : (emit c e).hg = c.hg := by unfold emit; split <;> rfl
@[simp] theorem emit_drainAt (c : Ctl) (e : Emit) : (emit c e).drainAt = c.drainAt := by unfold emit; split <;> rfl
@[simp] theorem emit_dc (c : Ctl) (e : Emit) : (emit c e).dc = c.dc := by unfold emit; split <;> rfl
@[simp] theorem emit_nme (c : Ctl) (e : Emit) : (emit c e).nme = c.nme := by unfold emit; split <;> rfl
@[simp] theorem emit_pool (c : Ctl) (e : Emit) : (emit c e).pool = c.pool := by unfold emit; split <;> rfl
@[simp] theorem emit_lk (c : Ctl) (e : Emit) : (emit c e).lk = c.lk := by unfold emit; split <;> rfl
@[simp] theorem emit_sp (c : Ctl) (e : Emit) : (emit c e).sp = c.sp := by unfold emit; split <;> rfl
@[simp] theorem emit_snap (c : Ctl) (e : Emit) : (emit c e).snap = c.snap := by unfold emit; split <;> rfl
@[simp] theorem emit_ce (c : Ctl) (e : Emit) : (emit c e).ce = c.ce := by unfold emit; split <;> rfl
@[simp] theorem emit_hi (c : Ctl) (e : Emit) : (emit c e).hi = c.hi := by unfold emit; split <;> rfl
@[simp] theorem emit_dump (c : Ctl) (e : Emit) : (emit c e).dump = c.dump := by unfold emit; split <;> rfl
@[simp] theorem emit_db (c : Ctl) (e : Emit) : (emit c e).db = c.db := by unfold emit; split <;> rfl
@[simp] theorem emit_pwr (c : Ctl) (e : Emit) : (emit c e).pwr = c.pwr := by unfold emit; split <;> rfl

@[simp] theorem advanceTo_regs (c : Ctl) (t : Nat) : (advanceTo c t).regs = c.regs := by unfold advanceTo; split <;> rfl
@[simp] theorem advanceTo_held (c : Ctl) (t : Nat) : (advanceTo c t).held = c.held := by unfold advanceTo; split <;> rfl
@[simp] theorem advanceTo_recent (c : Ctl) (t : Nat) : (advanceTo c t).recent = c.recent := by unfold advanceTo; split <;> rfl
@[simp] theorem advanceTo_w1cSet (c : Ctl) (t : Nat) : (advanceTo c t).w1cSet = c.w1cSet := by unfold advanceTo; split <;> rfl
@[simp] theorem advanceTo_latched (c : Ctl) (t : Nat) : (advanceTo c t).latched = c.latched := by unfold advanceTo; split <;> rfl
@[simp] theorem advanceTo_staged (c : Ctl) (t : Nat) : (advanceTo c t).staged = c.staged := by unfold advanceTo; split <;> rfl
@[simp] theorem advanceTo_free (c : Ctl) (t : Nat) : (advanceTo c t).free = c.free := by unfold advanceTo; split <;> rfl
@[simp] theorem advanceTo_outs (c : Ctl) (t : Nat) : (advanceTo c t).outs = c.outs := by unfold advanceTo; split <;> rfl
@[simp] theorem advanceTo_plan (c : Ctl) (t : Nat) : (advanceTo c t).plan = c.plan := by unfold advanceTo; split <;> rfl
@[simp] theorem advanceTo_parts (c : Ctl) (t : Nat) : (advanceTo c t).parts = c.parts := by unfold advanceTo; split <;> rfl
@[simp] theorem advanceTo_tiles (c : Ctl) (t : Nat) : (advanceTo c t).tiles = c.tiles := by unfold advanceTo; split <;> rfl
@[simp] theorem advanceTo_noc (c : Ctl) (t : Nat) : (advanceTo c t).noc = c.noc := by unfold advanceTo; split <;> rfl
@[simp] theorem advanceTo_ev (c : Ctl) (t : Nat) : (advanceTo c t).ev = c.ev := by unfold advanceTo; split <;> rfl
@[simp] theorem advanceTo_hg (c : Ctl) (t : Nat) : (advanceTo c t).hg = c.hg := by unfold advanceTo; split <;> rfl
@[simp] theorem advanceTo_drainAt (c : Ctl) (t : Nat) : (advanceTo c t).drainAt = c.drainAt := by unfold advanceTo; split <;> rfl
@[simp] theorem advanceTo_dc (c : Ctl) (t : Nat) : (advanceTo c t).dc = c.dc := by unfold advanceTo; split <;> rfl
@[simp] theorem advanceTo_nme (c : Ctl) (t : Nat) : (advanceTo c t).nme = c.nme := by unfold advanceTo; split <;> rfl
@[simp] theorem advanceTo_pool (c : Ctl) (t : Nat) : (advanceTo c t).pool = c.pool := by unfold advanceTo; split <;> rfl
@[simp] theorem advanceTo_lk (c : Ctl) (t : Nat) : (advanceTo c t).lk = c.lk := by unfold advanceTo; split <;> rfl
@[simp] theorem advanceTo_sp (c : Ctl) (t : Nat) : (advanceTo c t).sp = c.sp := by unfold advanceTo; split <;> rfl
@[simp] theorem advanceTo_snap (c : Ctl) (t : Nat) : (advanceTo c t).snap = c.snap := by unfold advanceTo; split <;> rfl
@[simp] theorem advanceTo_ce (c : Ctl) (t : Nat) : (advanceTo c t).ce = c.ce := by unfold advanceTo; split <;> rfl
@[simp] theorem advanceTo_hi (c : Ctl) (t : Nat) : (advanceTo c t).hi = c.hi := by unfold advanceTo; split <;> rfl
@[simp] theorem advanceTo_dump (c : Ctl) (t : Nat) : (advanceTo c t).dump = c.dump := by unfold advanceTo; split <;> rfl
@[simp] theorem advanceTo_db (c : Ctl) (t : Nat) : (advanceTo c t).db = c.db := by unfold advanceTo; split <;> rfl
@[simp] theorem advanceTo_pwr (c : Ctl) (t : Nat) : (advanceTo c t).pwr = c.pwr := by unfold advanceTo; split <;> rfl

/-- Raising an event changes the events, and what waits to fire, alone. -/
theorem raiseAt_shape (c : Ctl) (ts code part unit detail : Nat) :
    ∃ e d, raiseAt c ts code part unit detail = { c with ev := e, db := d } := by
  unfold raiseAt
  split
  · exact ⟨_, _, rfl⟩
  · extract_lets s0 sev ch
    clear_value ch
    split
    · exact ⟨_, _, rfl⟩
    · exact ⟨_, _, rfl⟩

@[simp] theorem raiseAt_regs (c : Ctl) (ts code part unit detail : Nat) : (raiseAt c ts code part unit detail).regs = c.regs := by
  obtain ⟨e, d, h⟩ := raiseAt_shape c ts code part unit detail
  rw [h]
@[simp] theorem raiseAt_held (c : Ctl) (ts code part unit detail : Nat) : (raiseAt c ts code part unit detail).held = c.held := by
  obtain ⟨e, d, h⟩ := raiseAt_shape c ts code part unit detail
  rw [h]
@[simp] theorem raiseAt_recent (c : Ctl) (ts code part unit detail : Nat) : (raiseAt c ts code part unit detail).recent = c.recent := by
  obtain ⟨e, d, h⟩ := raiseAt_shape c ts code part unit detail
  rw [h]
@[simp] theorem raiseAt_w1cSet (c : Ctl) (ts code part unit detail : Nat) : (raiseAt c ts code part unit detail).w1cSet = c.w1cSet := by
  obtain ⟨e, d, h⟩ := raiseAt_shape c ts code part unit detail
  rw [h]
@[simp] theorem raiseAt_latched (c : Ctl) (ts code part unit detail : Nat) : (raiseAt c ts code part unit detail).latched = c.latched := by
  obtain ⟨e, d, h⟩ := raiseAt_shape c ts code part unit detail
  rw [h]
@[simp] theorem raiseAt_staged (c : Ctl) (ts code part unit detail : Nat) : (raiseAt c ts code part unit detail).staged = c.staged := by
  obtain ⟨e, d, h⟩ := raiseAt_shape c ts code part unit detail
  rw [h]
@[simp] theorem raiseAt_free (c : Ctl) (ts code part unit detail : Nat) : (raiseAt c ts code part unit detail).free = c.free := by
  obtain ⟨e, d, h⟩ := raiseAt_shape c ts code part unit detail
  rw [h]
@[simp] theorem raiseAt_outs (c : Ctl) (ts code part unit detail : Nat) : (raiseAt c ts code part unit detail).outs = c.outs := by
  obtain ⟨e, d, h⟩ := raiseAt_shape c ts code part unit detail
  rw [h]
@[simp] theorem raiseAt_time (c : Ctl) (ts code part unit detail : Nat) : (raiseAt c ts code part unit detail).time = c.time := by
  obtain ⟨e, d, h⟩ := raiseAt_shape c ts code part unit detail
  rw [h]
@[simp] theorem raiseAt_plan (c : Ctl) (ts code part unit detail : Nat) : (raiseAt c ts code part unit detail).plan = c.plan := by
  obtain ⟨e, d, h⟩ := raiseAt_shape c ts code part unit detail
  rw [h]
@[simp] theorem raiseAt_parts (c : Ctl) (ts code part unit detail : Nat) : (raiseAt c ts code part unit detail).parts = c.parts := by
  obtain ⟨e, d, h⟩ := raiseAt_shape c ts code part unit detail
  rw [h]
@[simp] theorem raiseAt_tiles (c : Ctl) (ts code part unit detail : Nat) : (raiseAt c ts code part unit detail).tiles = c.tiles := by
  obtain ⟨e, d, h⟩ := raiseAt_shape c ts code part unit detail
  rw [h]
@[simp] theorem raiseAt_noc (c : Ctl) (ts code part unit detail : Nat) : (raiseAt c ts code part unit detail).noc = c.noc := by
  obtain ⟨e, d, h⟩ := raiseAt_shape c ts code part unit detail
  rw [h]
@[simp] theorem raiseAt_hg (c : Ctl) (ts code part unit detail : Nat) : (raiseAt c ts code part unit detail).hg = c.hg := by
  obtain ⟨e, d, h⟩ := raiseAt_shape c ts code part unit detail
  rw [h]
@[simp] theorem raiseAt_drainAt (c : Ctl) (ts code part unit detail : Nat) : (raiseAt c ts code part unit detail).drainAt = c.drainAt := by
  obtain ⟨e, d, h⟩ := raiseAt_shape c ts code part unit detail
  rw [h]
@[simp] theorem raiseAt_dc (c : Ctl) (ts code part unit detail : Nat) : (raiseAt c ts code part unit detail).dc = c.dc := by
  obtain ⟨e, d, h⟩ := raiseAt_shape c ts code part unit detail
  rw [h]
@[simp] theorem raiseAt_nme (c : Ctl) (ts code part unit detail : Nat) : (raiseAt c ts code part unit detail).nme = c.nme := by
  obtain ⟨e, d, h⟩ := raiseAt_shape c ts code part unit detail
  rw [h]
@[simp] theorem raiseAt_pool (c : Ctl) (ts code part unit detail : Nat) : (raiseAt c ts code part unit detail).pool = c.pool := by
  obtain ⟨e, d, h⟩ := raiseAt_shape c ts code part unit detail
  rw [h]
@[simp] theorem raiseAt_lk (c : Ctl) (ts code part unit detail : Nat) : (raiseAt c ts code part unit detail).lk = c.lk := by
  obtain ⟨e, d, h⟩ := raiseAt_shape c ts code part unit detail
  rw [h]
@[simp] theorem raiseAt_sp (c : Ctl) (ts code part unit detail : Nat) : (raiseAt c ts code part unit detail).sp = c.sp := by
  obtain ⟨e, d, h⟩ := raiseAt_shape c ts code part unit detail
  rw [h]
@[simp] theorem raiseAt_snap (c : Ctl) (ts code part unit detail : Nat) : (raiseAt c ts code part unit detail).snap = c.snap := by
  obtain ⟨e, d, h⟩ := raiseAt_shape c ts code part unit detail
  rw [h]
@[simp] theorem raiseAt_ce (c : Ctl) (ts code part unit detail : Nat) : (raiseAt c ts code part unit detail).ce = c.ce := by
  obtain ⟨e, d, h⟩ := raiseAt_shape c ts code part unit detail
  rw [h]
@[simp] theorem raiseAt_hi (c : Ctl) (ts code part unit detail : Nat) : (raiseAt c ts code part unit detail).hi = c.hi := by
  obtain ⟨e, d, h⟩ := raiseAt_shape c ts code part unit detail
  rw [h]
@[simp] theorem raiseAt_dump (c : Ctl) (ts code part unit detail : Nat) : (raiseAt c ts code part unit detail).dump = c.dump := by
  obtain ⟨e, d, h⟩ := raiseAt_shape c ts code part unit detail
  rw [h]
@[simp] theorem raiseAt_pwr (c : Ctl) (ts code part unit detail : Nat) : (raiseAt c ts code part unit detail).pwr = c.pwr := by
  obtain ⟨e, d, h⟩ := raiseAt_shape c ts code part unit detail
  rw [h]

@[simp] theorem raise_regs (c : Ctl) (code part unit detail : Nat) : (raise c code part unit detail).regs = c.regs := raiseAt_regs ..
@[simp] theorem raise_held (c : Ctl) (code part unit detail : Nat) : (raise c code part unit detail).held = c.held := raiseAt_held ..
@[simp] theorem raise_recent (c : Ctl) (code part unit detail : Nat) : (raise c code part unit detail).recent = c.recent := raiseAt_recent ..
@[simp] theorem raise_w1cSet (c : Ctl) (code part unit detail : Nat) : (raise c code part unit detail).w1cSet = c.w1cSet := raiseAt_w1cSet ..
@[simp] theorem raise_latched (c : Ctl) (code part unit detail : Nat) : (raise c code part unit detail).latched = c.latched := raiseAt_latched ..
@[simp] theorem raise_staged (c : Ctl) (code part unit detail : Nat) : (raise c code part unit detail).staged = c.staged := raiseAt_staged ..
@[simp] theorem raise_free (c : Ctl) (code part unit detail : Nat) : (raise c code part unit detail).free = c.free := raiseAt_free ..
@[simp] theorem raise_outs (c : Ctl) (code part unit detail : Nat) : (raise c code part unit detail).outs = c.outs := raiseAt_outs ..
@[simp] theorem raise_time (c : Ctl) (code part unit detail : Nat) : (raise c code part unit detail).time = c.time := raiseAt_time ..
@[simp] theorem raise_plan (c : Ctl) (code part unit detail : Nat) : (raise c code part unit detail).plan = c.plan := raiseAt_plan ..
@[simp] theorem raise_parts (c : Ctl) (code part unit detail : Nat) : (raise c code part unit detail).parts = c.parts := raiseAt_parts ..
@[simp] theorem raise_tiles (c : Ctl) (code part unit detail : Nat) : (raise c code part unit detail).tiles = c.tiles := raiseAt_tiles ..
@[simp] theorem raise_noc (c : Ctl) (code part unit detail : Nat) : (raise c code part unit detail).noc = c.noc := raiseAt_noc ..
@[simp] theorem raise_hg (c : Ctl) (code part unit detail : Nat) : (raise c code part unit detail).hg = c.hg := raiseAt_hg ..
@[simp] theorem raise_drainAt (c : Ctl) (code part unit detail : Nat) : (raise c code part unit detail).drainAt = c.drainAt := raiseAt_drainAt ..
@[simp] theorem raise_dc (c : Ctl) (code part unit detail : Nat) : (raise c code part unit detail).dc = c.dc := raiseAt_dc ..
@[simp] theorem raise_nme (c : Ctl) (code part unit detail : Nat) : (raise c code part unit detail).nme = c.nme := raiseAt_nme ..
@[simp] theorem raise_pool (c : Ctl) (code part unit detail : Nat) : (raise c code part unit detail).pool = c.pool := raiseAt_pool ..
@[simp] theorem raise_lk (c : Ctl) (code part unit detail : Nat) : (raise c code part unit detail).lk = c.lk := raiseAt_lk ..
@[simp] theorem raise_sp (c : Ctl) (code part unit detail : Nat) : (raise c code part unit detail).sp = c.sp := raiseAt_sp ..
@[simp] theorem raise_snap (c : Ctl) (code part unit detail : Nat) : (raise c code part unit detail).snap = c.snap := raiseAt_snap ..
@[simp] theorem raise_ce (c : Ctl) (code part unit detail : Nat) : (raise c code part unit detail).ce = c.ce := raiseAt_ce ..
@[simp] theorem raise_hi (c : Ctl) (code part unit detail : Nat) : (raise c code part unit detail).hi = c.hi := raiseAt_hi ..
@[simp] theorem raise_dump (c : Ctl) (code part unit detail : Nat) : (raise c code part unit detail).dump = c.dump := raiseAt_dump ..
@[simp] theorem raise_pwr (c : Ctl) (code part unit detail : Nat) : (raise c code part unit detail).pwr = c.pwr := raiseAt_pwr ..

@[simp] theorem hwSet_held (c : Ctl) (o m : Nat) : (hwSet c o m).held = c.held := rfl
@[simp] theorem hwSet_latched (c : Ctl) (o m : Nat) : (hwSet c o m).latched = c.latched := rfl
@[simp] theorem hwSet_recent (c : Ctl) (o m : Nat) : (hwSet c o m).recent = c.recent := rfl
@[simp] theorem hwSet_staged (c : Ctl) (o m : Nat) : (hwSet c o m).staged = c.staged := rfl
@[simp] theorem hwSet_free (c : Ctl) (o m : Nat) : (hwSet c o m).free = c.free := rfl
@[simp] theorem hwSet_outs (c : Ctl) (o m : Nat) : (hwSet c o m).outs = c.outs := rfl
@[simp] theorem hwSet_time (c : Ctl) (o m : Nat) : (hwSet c o m).time = c.time := rfl
@[simp] theorem hwSet_plan (c : Ctl) (o m : Nat) : (hwSet c o m).plan = c.plan := rfl
@[simp] theorem hwSet_parts (c : Ctl) (o m : Nat) : (hwSet c o m).parts = c.parts := rfl
@[simp] theorem hwSet_tiles (c : Ctl) (o m : Nat) : (hwSet c o m).tiles = c.tiles := rfl
@[simp] theorem hwSet_noc (c : Ctl) (o m : Nat) : (hwSet c o m).noc = c.noc := rfl
@[simp] theorem hwSet_ev (c : Ctl) (o m : Nat) : (hwSet c o m).ev = c.ev := rfl
@[simp] theorem hwSet_hg (c : Ctl) (o m : Nat) : (hwSet c o m).hg = c.hg := rfl
@[simp] theorem hwSet_drainAt (c : Ctl) (o m : Nat) : (hwSet c o m).drainAt = c.drainAt := rfl
@[simp] theorem hwSet_dc (c : Ctl) (o m : Nat) : (hwSet c o m).dc = c.dc := rfl
@[simp] theorem hwSet_nme (c : Ctl) (o m : Nat) : (hwSet c o m).nme = c.nme := rfl
@[simp] theorem hwSet_pool (c : Ctl) (o m : Nat) : (hwSet c o m).pool = c.pool := rfl
@[simp] theorem hwSet_lk (c : Ctl) (o m : Nat) : (hwSet c o m).lk = c.lk := rfl
@[simp] theorem hwSet_sp (c : Ctl) (o m : Nat) : (hwSet c o m).sp = c.sp := rfl
@[simp] theorem hwSet_snap (c : Ctl) (o m : Nat) : (hwSet c o m).snap = c.snap := rfl
@[simp] theorem hwSet_ce (c : Ctl) (o m : Nat) : (hwSet c o m).ce = c.ce := rfl
@[simp] theorem hwSet_hi (c : Ctl) (o m : Nat) : (hwSet c o m).hi = c.hi := rfl
@[simp] theorem hwSet_dump (c : Ctl) (o m : Nat) : (hwSet c o m).dump = c.dump := rfl
@[simp] theorem hwSet_db (c : Ctl) (o m : Nat) : (hwSet c o m).db = c.db := rfl
@[simp] theorem hwSet_pwr (c : Ctl) (o m : Nat) : (hwSet c o m).pwr = c.pwr := rfl

@[simp] theorem hwBit_held (c : Ctl) (o i : Nat) : (hwBit c o i).held = c.held := rfl
@[simp] theorem hwBit_latched (c : Ctl) (o i : Nat) : (hwBit c o i).latched = c.latched := rfl
@[simp] theorem hwBit_recent (c : Ctl) (o i : Nat) : (hwBit c o i).recent = c.recent := rfl
@[simp] theorem hwBit_staged (c : Ctl) (o i : Nat) : (hwBit c o i).staged = c.staged := rfl
@[simp] theorem hwBit_free (c : Ctl) (o i : Nat) : (hwBit c o i).free = c.free := rfl
@[simp] theorem hwBit_outs (c : Ctl) (o i : Nat) : (hwBit c o i).outs = c.outs := rfl
@[simp] theorem hwBit_time (c : Ctl) (o i : Nat) : (hwBit c o i).time = c.time := rfl
@[simp] theorem hwBit_plan (c : Ctl) (o i : Nat) : (hwBit c o i).plan = c.plan := rfl
@[simp] theorem hwBit_parts (c : Ctl) (o i : Nat) : (hwBit c o i).parts = c.parts := rfl
@[simp] theorem hwBit_tiles (c : Ctl) (o i : Nat) : (hwBit c o i).tiles = c.tiles := rfl
@[simp] theorem hwBit_noc (c : Ctl) (o i : Nat) : (hwBit c o i).noc = c.noc := rfl
@[simp] theorem hwBit_ev (c : Ctl) (o i : Nat) : (hwBit c o i).ev = c.ev := rfl
@[simp] theorem hwBit_hg (c : Ctl) (o i : Nat) : (hwBit c o i).hg = c.hg := rfl
@[simp] theorem hwBit_drainAt (c : Ctl) (o i : Nat) : (hwBit c o i).drainAt = c.drainAt := rfl
@[simp] theorem hwBit_dc (c : Ctl) (o i : Nat) : (hwBit c o i).dc = c.dc := rfl
@[simp] theorem hwBit_nme (c : Ctl) (o i : Nat) : (hwBit c o i).nme = c.nme := rfl
@[simp] theorem hwBit_pool (c : Ctl) (o i : Nat) : (hwBit c o i).pool = c.pool := rfl
@[simp] theorem hwBit_lk (c : Ctl) (o i : Nat) : (hwBit c o i).lk = c.lk := rfl
@[simp] theorem hwBit_sp (c : Ctl) (o i : Nat) : (hwBit c o i).sp = c.sp := rfl
@[simp] theorem hwBit_snap (c : Ctl) (o i : Nat) : (hwBit c o i).snap = c.snap := rfl
@[simp] theorem hwBit_ce (c : Ctl) (o i : Nat) : (hwBit c o i).ce = c.ce := rfl
@[simp] theorem hwBit_hi (c : Ctl) (o i : Nat) : (hwBit c o i).hi = c.hi := rfl
@[simp] theorem hwBit_dump (c : Ctl) (o i : Nat) : (hwBit c o i).dump = c.dump := rfl
@[simp] theorem hwBit_db (c : Ctl) (o i : Nat) : (hwBit c o i).db = c.db := rfl
@[simp] theorem hwBit_pwr (c : Ctl) (o i : Nat) : (hwBit c o i).pwr = c.pwr := rfl

@[simp] theorem noteWrite_held (c : Ctl) (o old m : Nat) : (noteWrite c o old m).held = c.held := rfl
@[simp] theorem noteWrite_latched (c : Ctl) (o old m : Nat) : (noteWrite c o old m).latched = c.latched := rfl
@[simp] theorem noteWrite_w1cSet (c : Ctl) (o old m : Nat) : (noteWrite c o old m).w1cSet = c.w1cSet := rfl
@[simp] theorem noteWrite_staged (c : Ctl) (o old m : Nat) : (noteWrite c o old m).staged = c.staged := rfl
@[simp] theorem noteWrite_free (c : Ctl) (o old m : Nat) : (noteWrite c o old m).free = c.free := rfl
@[simp] theorem noteWrite_outs (c : Ctl) (o old m : Nat) : (noteWrite c o old m).outs = c.outs := rfl
@[simp] theorem noteWrite_time (c : Ctl) (o old m : Nat) : (noteWrite c o old m).time = c.time := rfl
@[simp] theorem noteWrite_plan (c : Ctl) (o old m : Nat) : (noteWrite c o old m).plan = c.plan := rfl
@[simp] theorem noteWrite_parts (c : Ctl) (o old m : Nat) : (noteWrite c o old m).parts = c.parts := rfl
@[simp] theorem noteWrite_tiles (c : Ctl) (o old m : Nat) : (noteWrite c o old m).tiles = c.tiles := rfl
@[simp] theorem noteWrite_noc (c : Ctl) (o old m : Nat) : (noteWrite c o old m).noc = c.noc := rfl
@[simp] theorem noteWrite_ev (c : Ctl) (o old m : Nat) : (noteWrite c o old m).ev = c.ev := rfl
@[simp] theorem noteWrite_hg (c : Ctl) (o old m : Nat) : (noteWrite c o old m).hg = c.hg := rfl
@[simp] theorem noteWrite_drainAt (c : Ctl) (o old m : Nat) : (noteWrite c o old m).drainAt = c.drainAt := rfl
@[simp] theorem noteWrite_dc (c : Ctl) (o old m : Nat) : (noteWrite c o old m).dc = c.dc := rfl
@[simp] theorem noteWrite_nme (c : Ctl) (o old m : Nat) : (noteWrite c o old m).nme = c.nme := rfl
@[simp] theorem noteWrite_pool (c : Ctl) (o old m : Nat) : (noteWrite c o old m).pool = c.pool := rfl
@[simp] theorem noteWrite_lk (c : Ctl) (o old m : Nat) : (noteWrite c o old m).lk = c.lk := rfl
@[simp] theorem noteWrite_sp (c : Ctl) (o old m : Nat) : (noteWrite c o old m).sp = c.sp := rfl
@[simp] theorem noteWrite_snap (c : Ctl) (o old m : Nat) : (noteWrite c o old m).snap = c.snap := rfl
@[simp] theorem noteWrite_ce (c : Ctl) (o old m : Nat) : (noteWrite c o old m).ce = c.ce := rfl
@[simp] theorem noteWrite_hi (c : Ctl) (o old m : Nat) : (noteWrite c o old m).hi = c.hi := rfl
@[simp] theorem noteWrite_dump (c : Ctl) (o old m : Nat) : (noteWrite c o old m).dump = c.dump := rfl
@[simp] theorem noteWrite_db (c : Ctl) (o old m : Nat) : (noteWrite c o old m).db = c.db := rfl
@[simp] theorem noteWrite_pwr (c : Ctl) (o old m : Nat) : (noteWrite c o old m).pwr = c.pwr := rfl
@[simp] theorem noteWrite_regs (c : Ctl) (o old m : Nat) : (noteWrite c o old m).regs = c.regs := rfl

@[simp] theorem updStrm_held (c : Ctl) (l : Nat) (f : LinkStream → LinkStream) : (updStrm c l f).held = c.held := rfl
@[simp] theorem updStrm_latched (c : Ctl) (l : Nat) (f : LinkStream → LinkStream) : (updStrm c l f).latched = c.latched := rfl
@[simp] theorem updStrm_recent (c : Ctl) (l : Nat) (f : LinkStream → LinkStream) : (updStrm c l f).recent = c.recent := rfl
@[simp] theorem updStrm_w1cSet (c : Ctl) (l : Nat) (f : LinkStream → LinkStream) : (updStrm c l f).w1cSet = c.w1cSet := rfl
@[simp] theorem updStrm_staged (c : Ctl) (l : Nat) (f : LinkStream → LinkStream) : (updStrm c l f).staged = c.staged := rfl
@[simp] theorem updStrm_free (c : Ctl) (l : Nat) (f : LinkStream → LinkStream) : (updStrm c l f).free = c.free := rfl
@[simp] theorem updStrm_outs (c : Ctl) (l : Nat) (f : LinkStream → LinkStream) : (updStrm c l f).outs = c.outs := rfl
@[simp] theorem updStrm_time (c : Ctl) (l : Nat) (f : LinkStream → LinkStream) : (updStrm c l f).time = c.time := rfl
@[simp] theorem updStrm_plan (c : Ctl) (l : Nat) (f : LinkStream → LinkStream) : (updStrm c l f).plan = c.plan := rfl
@[simp] theorem updStrm_parts (c : Ctl) (l : Nat) (f : LinkStream → LinkStream) : (updStrm c l f).parts = c.parts := rfl
@[simp] theorem updStrm_tiles (c : Ctl) (l : Nat) (f : LinkStream → LinkStream) : (updStrm c l f).tiles = c.tiles := rfl
@[simp] theorem updStrm_noc (c : Ctl) (l : Nat) (f : LinkStream → LinkStream) : (updStrm c l f).noc = c.noc := rfl
@[simp] theorem updStrm_ev (c : Ctl) (l : Nat) (f : LinkStream → LinkStream) : (updStrm c l f).ev = c.ev := rfl
@[simp] theorem updStrm_hg (c : Ctl) (l : Nat) (f : LinkStream → LinkStream) : (updStrm c l f).hg = c.hg := rfl
@[simp] theorem updStrm_drainAt (c : Ctl) (l : Nat) (f : LinkStream → LinkStream) : (updStrm c l f).drainAt = c.drainAt := rfl
@[simp] theorem updStrm_dc (c : Ctl) (l : Nat) (f : LinkStream → LinkStream) : (updStrm c l f).dc = c.dc := rfl
@[simp] theorem updStrm_nme (c : Ctl) (l : Nat) (f : LinkStream → LinkStream) : (updStrm c l f).nme = c.nme := rfl
@[simp] theorem updStrm_pool (c : Ctl) (l : Nat) (f : LinkStream → LinkStream) : (updStrm c l f).pool = c.pool := rfl
@[simp] theorem updStrm_sp (c : Ctl) (l : Nat) (f : LinkStream → LinkStream) : (updStrm c l f).sp = c.sp := rfl
@[simp] theorem updStrm_snap (c : Ctl) (l : Nat) (f : LinkStream → LinkStream) : (updStrm c l f).snap = c.snap := rfl
@[simp] theorem updStrm_ce (c : Ctl) (l : Nat) (f : LinkStream → LinkStream) : (updStrm c l f).ce = c.ce := rfl
@[simp] theorem updStrm_hi (c : Ctl) (l : Nat) (f : LinkStream → LinkStream) : (updStrm c l f).hi = c.hi := rfl
@[simp] theorem updStrm_dump (c : Ctl) (l : Nat) (f : LinkStream → LinkStream) : (updStrm c l f).dump = c.dump := rfl
@[simp] theorem updStrm_db (c : Ctl) (l : Nat) (f : LinkStream → LinkStream) : (updStrm c l f).db = c.db := rfl
@[simp] theorem updStrm_pwr (c : Ctl) (l : Nat) (f : LinkStream → LinkStream) : (updStrm c l f).pwr = c.pwr := rfl
@[simp] theorem updStrm_regs (c : Ctl) (l : Nat) (f : LinkStream → LinkStream) : (updStrm c l f).regs = c.regs := rfl

/-! Whole records: everything but one field is as it was. -/
theorem wr_frame (c : Ctl) (o v : Nat) : { wr c o v with regs := c.regs } = c := rfl
theorem setFld_frame (c : Ctl) (o h l v : Nat) : { setFld c o h l v with regs := c.regs } = c := rfl
theorem setBit_frame (c : Ctl) (o i : Nat) (b : Bool) : { setBit c o i b with regs := c.regs } = c := rfl

/-! Reading registers after writing. -/
theorem rd_lt (c : Ctl) (o : Nat) : rd c o < 2 ^ 32 := BitVec.isLt _

theorem lookupD_eraseAt_ne {α : Type} (d : α) {k j : Nat} (h : j ≠ k) (l : List (Nat × α)) : lookupD d (eraseAt k l) j = lookupD d l j := by
  simp [lookupD_eraseAt, h]

theorem smGet_smSet_apart {α : Type} [DecidableEq α] {k j : Nat} (h : j ≠ k) (m : SMap α) (d d' v : α) :
    smGet (smSet m d k v) d' j = smGet m d' j := by
  unfold smGet smSet
  split
  · exact lookupD_eraseAt_ne d' h _
  · simp [lookupD_insertAt, h]

@[simp] theorem rd_wr_same (c : Ctl) (o v : Nat) : rd (wr c o v) o = v % 2 ^ 32 := by
  simp [rd, wr]

theorem rd_wr_ne {o o' : Nat} (h : o' ≠ o) (c : Ctl) (v : Nat) : rd (wr c o v) o' = rd c o' := by
  simp only [rd, wr]
  rw [smGet_smSet_apart h]

theorem rd_wr (c : Ctl) (o v o' : Nat) : rd (wr c o v) o' = if o' = o then v % 2 ^ 32 else rd c o' := by
  split
  · subst_vars; exact rd_wr_same ..
  · exact rd_wr_ne ‹_› ..

theorem rd_setFld_ne {o o' : Nat} (h : o' ≠ o) (c : Ctl) (hi lo v : Nat) : rd (setFld c o hi lo v) o' = rd c o' := rd_wr_ne h ..
theorem rd_setBit_ne {o o' : Nat} (h : o' ≠ o) (c : Ctl) (i : Nat) (b : Bool) : rd (setBit c o i b) o' = rd c o' := rd_wr_ne h ..

/-- A field that is replaced reads as what was put there; every bit outside it stays. -/
theorem testBit_setBits {v h l x : Nat} (hl : l ≤ h) (i : Nat) :
    (setBits v h l x).testBit i = if l ≤ i ∧ i ≤ h then x.testBit (i - l) else v.testBit i := by
  have e1 : setBits v h l x = (v >>> (h + 1)) <<< (h + 1) ||| ((x % 2 ^ (h + 1 - l)) <<< l ||| v % 2 ^ l) := by
    unfold setBits
    have a : v % 2 ^ l < 2 ^ l := Nat.mod_lt _ (by positivity)
    have b : x % 2 ^ (h + 1 - l) < 2 ^ (h + 1 - l) := Nat.mod_lt _ (by positivity)
    have e2 : (x % 2 ^ (h + 1 - l)) <<< l + v % 2 ^ l = (x % 2 ^ (h + 1 - l)) <<< l ||| v % 2 ^ l :=
      Nat.shiftLeft_add_eq_or_of_lt a _
    have c1 : (x % 2 ^ (h + 1 - l)) <<< l ||| v % 2 ^ l < 2 ^ (h + 1) := by
      apply Nat.or_lt_two_pow
      · rw [Nat.shiftLeft_eq]
        calc x % 2 ^ (h + 1 - l) * 2 ^ l < 2 ^ (h + 1 - l) * 2 ^ l := by
              exact Nat.mul_lt_mul_of_pos_right b (by positivity)
          _ = 2 ^ (h + 1) := by rw [← pow_add]; congr 1; omega
      · exact lt_of_lt_of_le a (Nat.pow_le_pow_right (by norm_num) (by omega))
    rw [Nat.add_assoc, e2, Nat.shiftLeft_add_eq_or_of_lt c1]
  rw [e1]
  simp only [Nat.testBit_or, Nat.testBit_shiftLeft, Nat.testBit_shiftRight, Nat.testBit_mod_two_pow]
  by_cases h1 : l ≤ i <;> by_cases h2 : i ≤ h
  · have g1 : ¬ (h + 1 ≤ i) := by omega
    have g2 : i - l < h + 1 - l := by omega
    have g3 : ¬ i < l := by omega
    simp [h1, h2, g1, g2, g3]
  · have g1 : h + 1 ≤ i := by omega
    have g2 : ¬ (i - l < h + 1 - l) := by omega
    have g3 : ¬ i < l := by omega
    have g4 : h + 1 + (i - (h + 1)) = i := by omega
    simp [h1, h2, g1, g2, g3, g4]
  · have g1 : ¬ (h + 1 ≤ i) := by omega
    have g3 : i < l := by omega
    simp [h1, g1, g3]
  · omega

theorem setBits_lt {v h l x : Nat} (hl : l ≤ h) (hh : h < 32) (hv : v < 2 ^ 32) : setBits v h l x < 2 ^ 32 := by
  apply Nat.lt_pow_two_of_testBit
  intro i hi
  rw [testBit_setBits hl]
  have : ¬ i ≤ h := by omega
  simp only [this, and_false, if_false]
  exact Nat.testBit_lt_two_pow (lt_of_lt_of_le hv (Nat.pow_le_pow_right (by norm_num) hi))

theorem testBit_bits (v h l i : Nat) : (bits v h l).testBit i = (decide (i < h + 1 - l) && v.testBit (l + i)) := by
  simp [bits, Nat.testBit_mod_two_pow, Nat.testBit_shiftRight]

@[simp] theorem bits_setBits_same {v h l x : Nat} (hl : l ≤ h) : bits (setBits v h l x) h l = x % 2 ^ (h + 1 - l) := by
  apply Nat.eq_of_testBit_eq
  intro i
  rw [testBit_bits, testBit_setBits hl, Nat.testBit_mod_two_pow]
  by_cases hi : i < h + 1 - l
  · have : l + i ≤ h := by omega
    simp [hi, this]
  · simp [hi]

theorem bits_setBits_apart {v h l x h' l' : Nat} (hl : l ≤ h) (ha : h' < l ∨ h < l') : bits (setBits v h l x) h' l' = bits v h' l' := by
  apply Nat.eq_of_testBit_eq
  intro i
  rw [testBit_bits, testBit_bits, testBit_setBits hl]
  by_cases hi : i < h' + 1 - l'
  · have : ¬ (l ≤ l' + i ∧ l' + i ≤ h) := by omega
    simp [hi, this]
  · simp [hi]

theorem rd_setFld_same {h l : Nat} (hl : l ≤ h) (hh : h < 32) (c : Ctl) (o v : Nat) : rd (setFld c o h l v) o = setBits (rd c o) h l v := by
  unfold setFld
  rw [rd_wr_same, Nat.mod_eq_of_lt (setBits_lt hl hh (rd_lt c o))]

theorem fld_setFld_same {h l : Nat} (hl : l ≤ h) (hh : h < 32) (c : Ctl) (o v : Nat) :
    fld (setFld c o h l v) o h l = v % 2 ^ (h + 1 - l) := by
  unfold fld
  rw [rd_setFld_same hl hh, bits_setBits_same hl]

theorem fld_setFld_apart {h l h' l' : Nat} (hl : l ≤ h) (hh : h < 32) (ha : h' < l ∨ h < l') (c : Ctl) (o v : Nat) :
    fld (setFld c o h l v) o h' l' = fld c o h' l' := by
  unfold fld
  rw [rd_setFld_same hl hh, bits_setBits_apart hl ha]

theorem fld_setFld_ne {o o' : Nat} (h : o' ≠ o) (c : Ctl) (hi lo v h' l' : Nat) : fld (setFld c o hi lo v) o' h' l' = fld c o' h' l' := by
  unfold fld
  rw [rd_setFld_ne h]

@[simp] theorem rbit_setBit_same {i : Nat} (hi : i < 32) (c : Ctl) (o : Nat) (b : Bool) : rbit (setBit c o i b) o i = b := by
  unfold rbit setBit
  rw [rd_setFld_same le_rfl hi, testBit_setBits le_rfl]
  cases b <;> simp [b2n]

theorem rbit_setBit_apart {i j : Nat} (hi : i < 32) (hj : j ≠ i) (c : Ctl) (o : Nat) (b : Bool) :
    rbit (setBit c o i b) o j = rbit c o j := by
  unfold rbit setBit
  rw [rd_setFld_same le_rfl hi, testBit_setBits le_rfl]
  have : ¬ (i ≤ j ∧ j ≤ i) := by omega
  simp [this]

theorem rbit_setBit_ne {o o' : Nat} (h : o' ≠ o) (c : Ctl) (i j : Nat) (b : Bool) : rbit (setBit c o i b) o' j = rbit c o' j := by
  unfold rbit
  rw [rd_setBit_ne h]

theorem rd_cntAdd_ne {o o' : Nat} (h : o' ≠ o) (c : Ctl) (w n : Nat) : rd (cntAdd c o w n) o' = rd c o' := rd_setFld_ne h ..
theorem rd_cnt1_ne {o o' : Nat} (h : o' ≠ o) (c : Ctl) : rd (cnt1 c o) o' = rd c o' := rd_setFld_ne h ..

theorem satU_lt (w v : Nat) : satU w v < 2 ^ w := by
  unfold satU
  have : 0 < 2 ^ w := by positivity
  split <;> omega

/-- A counter that saturates: one more, or all ones. -/
theorem rd_cnt1_same (c : Ctl) (o : Nat) : rd (cnt1 c o) o = satU 32 (rd c o + 1) := by
  have hb : bits (rd c o) 31 0 = rd c o := by
    unfold bits
    rw [Nat.shiftRight_zero]
    exact Nat.mod_eq_of_lt (rd_lt c o)
  unfold cnt1 cntAdd
  rw [rd_setFld_same (Nat.zero_le _) (by norm_num)]
  unfold fld
  rw [hb]
  apply Nat.eq_of_testBit_eq
  intro i
  rw [testBit_setBits (Nat.zero_le _)]
  by_cases hi : i ≤ 31
  · simp [hi]
  · have h1 : 2 ^ 32 ≤ 2 ^ i := Nat.pow_le_pow_right (by norm_num) (by omega)
    simp only [hi, and_false, if_false]
    rw [Nat.testBit_lt_two_pow (lt_of_lt_of_le (rd_lt c o) h1), Nat.testBit_lt_two_pow (lt_of_lt_of_le (satU_lt _ _) h1)]

/-! Registers do not depend on the other fields. -/
theorem rd_congr {c d : Ctl} (h : c.regs = d.regs) (o : Nat) : rd c o = rd d o := by
  unfold rd
  rw [h]
theorem fld_congr {c d : Ctl} (h : c.regs = d.regs) (o a b : Nat) : fld c o a b = fld d o a b := by
  unfold fld
  rw [rd_congr h]
theorem rbit_congr {c d : Ctl} (h : c.regs = d.regs) (o i : Nat) : rbit c o i = rbit d o i := by
  unfold rbit
  rw [rd_congr h]

/-! Tiles and partitions. -/
@[simp] theorem tile_updTile_same (c : Ctl) (t : Nat) (f : Tile → Tile) : tile (updTile c t f) t = f (tile c t) := by
  simp [tile, updTile, smGet_smUpd]
theorem tile_updTile_ne {t u : Nat} (h : u ≠ t) (c : Ctl) (f : Tile → Tile) : tile (updTile c t f) u = tile c u := by
  simp [tile, updTile, smGet_smUpd, h]
@[simp] theorem tile_putTile_same (c : Ctl) (t : Nat) (v : Tile) : tile (putTile c t v) t = v := by
  simp [tile, putTile]
theorem tile_putTile_ne {t u : Nat} (h : u ≠ t) (c : Ctl) (v : Tile) : tile (putTile c t v) u = tile c u := by
  simp [tile, putTile, smGet_smSet, h]
@[simp] theorem part_updPart_same (c : Ctl) (p : Nat) (f : PartSt → PartSt) : part (updPart c p f) p = f (part c p) := by
  simp [part, updPart, smGet_smUpd]
theorem part_updPart_ne {p q : Nat} (h : q ≠ p) (c : Ctl) (f : PartSt → PartSt) : part (updPart c p f) q = part c q := by
  simp [part, updPart, smGet_smUpd, h]

/-! The registers that hardware sets, and the streams of the links. -/
@[simp] theorem hwSet_regs (c : Ctl) (o m : Nat) : (hwSet c o m).regs = (wr c o (rd c o ||| m)).regs := rfl
theorem rd_hwSet_ne {o o' : Nat} (h : o' ≠ o) (c : Ctl) (m : Nat) : rd (hwSet c o m) o' = rd c o' := rd_wr_ne h ..
theorem rd_hwSet_same (c : Ctl) (o m : Nat) : rd (hwSet c o m) o = (rd c o ||| m) % 2 ^ 32 := rd_wr_same ..
@[simp] theorem strm_updStrm_same (c : Ctl) (l : Nat) (f : LinkStream → LinkStream) : strm (updStrm c l f) l = f (strm c l) := by
  simp [strm, updStrm]
theorem strm_updStrm_ne {l m : Nat} (h : m ≠ l) (c : Ctl) (f : LinkStream → LinkStream) : strm (updStrm c l f) m = strm c m := by
  simp [strm, updStrm, smGet_smSet, h]

/-! The spillway's rounds. -/
/-- A fold whose steps change nothing changes nothing. -/
theorem foldUp_same {σ : Type} {f : σ → Nat → σ} {s : σ} (hf : ∀ i, f s i = s) (n : Nat) : foldUp n f s = s := by
  unfold foldUp
  induction List.range n with
  | nil => rfl
  | cons a r ih => simp [hf, ih]
/-- No error halt is due: none is taken. -/
theorem haltsDue_of_later (h : ∀ p k, (part c p).haltDue = some k → c.time.ftc < k.at_) : haltsDue c = c := by
  refine foldUp_same (fun p => ?_) 32
  split
  · rename_i k hk
    rw [if_neg (not_le.2 (h p k hk))]
  · rfl
/-- Nothing waits to fire and no error halt is due: nothing happens. -/
theorem settled_of_none (h : c.db.fireQ = []) (hh : ∀ p k, (part c p).haltDue = some k → c.time.ftc < k.at_) : settled c = c := by
  unfold settled
  rw [haltsDue_of_later hh]
  unfold settle
  rw [h]

/-! The shapes of a command. -/
theorem onCtl_next (f : Ctl → Ctl) (s : State) : onCtl f s = .next { s with ctl := settled (f s.ctl) } := rfl
theorem onCtlM_next (f : Mem → Ctl → Ctl) (s : State) : onCtlM f s = .next { s with ctl := settled (f s.mem s.ctl) } := rfl
theorem onAll_next (f : CM → CM) (s : State) :
    onAll f s = .next { s with ctl := settled (f (s.ctl, s.mem)).1, mem := (f (s.ctl, s.mem)).2 } := rfl

end Sys2Proof.Machine
end

