-- ==== Sys2Proof/Laws/Frames.lean ====
section
/-! SUPPORT. Register frames: what each update keeps outside a list of registers. -/
namespace Sys2Proof.Machine
open Sys2Proof.Safety

variable {l : List Nat} {c d e : Ctl}

theorem regsBut_refl (l : List Nat) (c : Ctl) : RegsBut l c c := fun _ _ => rfl
theorem regsBut_of_regs (h : d.regs = c.regs) : RegsBut l c d := fun _ _ => rd_congr h _
theorem regsBut_congr (h : RegsBut l c d) (he : e.regs = d.regs) : RegsBut l c e := fun o ho => (rd_congr he o).trans (h o ho)
theorem regsBut_trans (h : RegsBut l c d) (k : RegsBut l d e) : RegsBut l c e := fun o ho => (k o ho).trans (h o ho)
theorem regsBut_mono {m : List Nat} (h : RegsBut l c d) (hm : l ⊆ m) : RegsBut m c d := fun o ho => h o fun hl => ho (hm hl)
theorem regsBut_wr (h : RegsBut l c d) {o v : Nat} (ho : o ∈ l) : RegsBut l c (wr d o v) := fun x hx => by
  have hne : x ≠ o := fun he => hx (he ▸ ho)
  rw [rd_wr_ne hne]
  exact h x hx
theorem regsBut_setFld (h : RegsBut l c d) {o a b v : Nat} (ho : o ∈ l) : RegsBut l c (setFld d o a b v) := regsBut_wr h ho
theorem regsBut_setBit (h : RegsBut l c d) {o i : Nat} {b : Bool} (ho : o ∈ l) : RegsBut l c (setBit d o i b) := regsBut_wr h ho
theorem regsBut_cntAdd (h : RegsBut l c d) {o w n : Nat} (ho : o ∈ l) : RegsBut l c (cntAdd d o w n) := regsBut_wr h ho
theorem regsBut_cnt1 (h : RegsBut l c d) {o : Nat} (ho : o ∈ l) : RegsBut l c (cnt1 d o) := regsBut_wr h ho
theorem regsBut_wr64 (h : RegsBut l c d) {o v : Nat} (ho : o ∈ l) (ho' : o + 4 ∈ l) : RegsBut l c (wr64 d o v) :=
  regsBut_wr (regsBut_wr h ho) ho'
theorem regsBut_raiseAt (h : RegsBut l c d) (ts code part unit det : Nat) : RegsBut l c (raiseAt d ts code part unit det) :=
  regsBut_congr h (raiseAt_regs ..)
theorem regsBut_raise (h : RegsBut l c d) (code part unit det : Nat) : RegsBut l c (raise d code part unit det) :=
  regsBut_congr h (raise_regs ..)
theorem regsBut_ite {p : Prop} [Decidable p] (h : RegsBut l c d) (k : RegsBut l c e) : RegsBut l c (if p then d else e) := by
  split
  · exact h
  · exact k

theorem rd_raise (c : Ctl) (code part unit det o : Nat) : rd (raise c code part unit det) o = rd c o := rd_congr (raise_regs ..) o
theorem fld_raise (c : Ctl) (code part unit det o a b : Nat) : fld (raise c code part unit det) o a b = fld c o a b :=
  fld_congr (raise_regs ..) ..
theorem rbit_raise (c : Ctl) (code part unit det o i : Nat) : rbit (raise c code part unit det) o i = rbit c o i :=
  rbit_congr (raise_regs ..) ..

end Sys2Proof.Machine
end

