-- ==== Sys2Proof/Laws/Memory.lean ====
section
/-! SUPPORT. Every memory operation keeps the canonical form of the memories: tile memory, device memory, traces, the keep store. -/
namespace Sys2Proof.Machine

/-- The memories have their canonical form. -/
structure MemOk (m : Mem) : Prop where
  dm : m.dm.Ok (fun _ => 0)
  tm : m.tm.Ok (fun _ => 0)
  im : m.im.Ok (fun _ => 0)
  keep : m.keep.Ok (fun _ => 0)
  trace : m.trace.Ok (fun _ => 0)
  poison : m.poison.Ok (fun _ => false)
  badBeat : m.badBeat.Ok (fun _ => false)
  weakBeat : m.weakBeat.Ok (fun _ => false)
  badWord : m.badWord.Ok (fun _ => false)
  weakWord : m.weakWord.Ok (fun _ => false)
  badBundle : m.badBundle.Ok (fun _ => false)
  weakBundle : m.weakBundle.Ok (fun _ => false)

theorem memOk_iff (m : Mem) : m.wf = true ↔ MemOk m := by
  simp only [Mem.wf, Bool.and_eq_true, smWf_iff]
  constructor
  · rintro ⟨⟨⟨⟨⟨⟨⟨⟨⟨⟨⟨h1, h2⟩, h3⟩, h4⟩, h5⟩, h6⟩, h7⟩, h8⟩, h9⟩, h10⟩, h11⟩, h12⟩
    exact ⟨h1, h2, h3, h4, h5, h6, h7, h8, h9, h10, h11, h12⟩
  · rintro ⟨h1, h2, h3, h4, h5, h6, h7, h8, h9, h10, h11, h12⟩
    exact ⟨⟨⟨⟨⟨⟨⟨⟨⟨⟨⟨h1, h2⟩, h3⟩, h4⟩, h5⟩, h6⟩, h7⟩, h8⟩, h9⟩, h10⟩, h11⟩, h12⟩

/-- A fold keeps what each of its steps keeps. -/
theorem foldl_keeps {σ τ : Type} {P : σ → Prop} {f : σ → τ → σ} (hf : ∀ s x, P s → P (f s x)) (l : List τ) (s : σ) (h : P s) :
    P (l.foldl f s) := by
  induction l generalizing s with
  | nil => exact h
  | cons a r ih => exact ih _ (hf _ _ h)

/-- `foldUp` keeps what each of its steps keeps. -/
theorem foldUp_keeps {σ : Type} {P : σ → Prop} {f : σ → Nat → σ} (hf : ∀ s x, P s → P (f s x)) (n : Nat) (s : σ) (h : P s) :
    P (foldUp n f s) := foldl_keeps hf _ _ h

theorem memOk_empty : MemOk {} := (memOk_iff _).1 rfl

variable {m : Mem}

/-! One memory changes. -/
theorem MemOk.setDm (h : MemOk m) {x} (hx : SMap.Ok (fun _ => 0) x) : MemOk { m with dm := x } := { h with dm := hx }
theorem MemOk.setTm (h : MemOk m) {x} (hx : SMap.Ok (fun _ => 0) x) : MemOk { m with tm := x } := { h with tm := hx }
theorem MemOk.setIm (h : MemOk m) {x} (hx : SMap.Ok (fun _ => 0) x) : MemOk { m with im := x } := { h with im := hx }
theorem MemOk.setKeep (h : MemOk m) {x} (hx : SMap.Ok (fun _ => 0) x) : MemOk { m with keep := x } := { h with keep := hx }
theorem MemOk.setTrace (h : MemOk m) {x} (hx : SMap.Ok (fun _ => 0) x) : MemOk { m with trace := x } := { h with trace := hx }
theorem MemOk.setBadWord (h : MemOk m) {x} (hx : SMap.Ok (fun _ => false) x) : MemOk { m with badWord := x } := { h with badWord := hx }
theorem MemOk.setWeakWord (h : MemOk m) {x} (hx : SMap.Ok (fun _ => false) x) : MemOk { m with weakWord := x } := { h with weakWord := hx }
theorem MemOk.setWeakBundle (h : MemOk m) {x} (hx : SMap.Ok (fun _ => false) x) : MemOk { m with weakBundle := x } :=
  { h with weakBundle := hx }

/-! The keep store and the trace buffers. -/
theorem consume_ok (h : MemOk m) : MemOk (consume m) := by
  unfold consume
  split
  · exact h.setKeep (writeBytes_ok h.keep _ _)
  · exact h

theorem traceTake_ok {p : Nat} {cm : CM} {r : TraceRec} (h : MemOk cm.2) : MemOk (traceTake p cm r).2 := by
  unfold traceTake
  dsimp only
  split
  · exact h
  · exact h.setTrace (writeBytes_ok h.trace _ _)

theorem traceFlushPart_ok {cm : CM} {p : Nat} (h : MemOk cm.2) : MemOk (traceFlushPart cm p).2 := by
  unfold traceFlushPart
  exact foldl_keeps (P := fun (x : CM) => MemOk x.2) (fun _ _ => traceTake_ok) _ _ h

theorem traceFlush_ok {cm : CM} (h : MemOk cm.2) : MemOk (traceFlush cm).2 :=
  foldl_keeps (P := fun (x : CM) => MemOk x.2) (fun _ _ => traceFlushPart_ok) _ _ h

/-! Tile memory. -/
theorem eccRead_ok {cm : CM} {t a n : Nat} (h : MemOk cm.2) : MemOk (eccRead cm t a n).2 := by
  unfold eccRead
  refine foldl_keeps (P := fun (x : CM) => MemOk x.2) ?_ _ _ h
  intro x w hx
  dsimp only
  split
  · exact hx.setWeakWord (smSet_ok1 hx.weakWord _ _)
  · exact hx

theorem eccWrite_ok {cm : CM} {t a n : Nat} (h : MemOk cm.2) : MemOk (eccWrite cm t a n).2 := by
  unfold eccWrite
  refine foldl_keeps (P := fun (x : CM) => MemOk x.2) ?_ _ _ h
  intro x w hx
  refine { hx with weakWord := smSet_ok1 hx.weakWord _ _, badWord := ?_ }
  dsimp only
  split
  · exact smSet_ok1 hx.badWord _ _
  · exact hx.badWord

theorem tmWrite_ok {cm : CM} {t a : Nat} {bs : Bytes} (h : MemOk cm.2) : MemOk (tmWrite cm t a bs).2 := by
  unfold tmWrite
  split
  · exact h
  · exact eccWrite_ok (cm := (_, _)) (h.setTm (writeBytes_ok h.tm _ _))

theorem rxWrite_ok {cm : CM} {t a : Nat} {bs : Bytes} (h : MemOk cm.2) : MemOk (rxWrite cm t a bs).2 := by
  unfold rxWrite
  split
  · exact tmWrite_ok (cm := (_, _)) h
  · exact h

theorem fetch_ok {cm : CM} {t a : Nat} (h : MemOk cm.2) : MemOk (fetch cm t a).1.2 := by
  unfold fetch
  dsimp only
  split
  · exact h.setWeakBundle (smSet_ok1 h.weakBundle _ _)
  · exact h

theorem fetched_ok {cm : CM} {t a : Nat} (h : MemOk cm.2) : MemOk (fetched cm t a).1.2 := by
  unfold fetched
  split
  · exact h
  · exact fetch_ok h

theorem holdNext_ok {cm : CM} {t : Nat} {o : COp} {x : Tile} (h : MemOk cm.2) : MemOk (holdNext cm t o x).2 := by
  unfold holdNext
  exact fetched_ok (fetched_ok h)

theorem issueBundle_ok {cm : CM} {t : Nat} {b : Slots} {step timed : Bool} (h : MemOk cm.2) :
    MemOk (issueBundle cm t b step timed).2 := by
  unfold issueBundle
  dsimp only
  refine tmWrite_ok ?_
  split
  · split
    · exact eccRead_ok (cm := (_, _)) h
    · exact h
  · exact h

theorem attempt_ok {cm : CM} {t : Nat} {b : Slots} {bad step timed : Bool} (h : MemOk cm.2) :
    MemOk (attempt cm t b bad step timed).2 := by
  unfold attempt
  dsimp only
  repeat' split
  all_goals first
    | exact h
    | exact holdNext_ok (issueBundle_ok (cm := (_, _)) h)
    | exact issueBundle_ok (cm := (_, _)) h

theorem writeFlit_ok {cm : CM} {e : Flit × Nat} (h : MemOk cm.2) : MemOk (writeFlit cm e).2 := rxWrite_ok h

/-! Device memory. -/
theorem dmRead_ok {cm : CM} {a : Nat} (h : MemOk cm.2) : MemOk (dmRead cm a).1.2 := by
  unfold dmRead
  dsimp only
  repeat' split
  all_goals exact h

theorem dmWrite_ok {cm : CM} {a : Nat} {d : BitVec 256} {psn : Bool} (h : MemOk cm.2) : MemOk (dmWrite cm a d psn).2 := by
  unfold dmWrite
  dsimp only
  split
  · exact h
  · exact { h with dm := writeBytes_ok h.dm _ _, poison := smSet_ok1 h.poison _ _, badBeat := smSet_ok1 h.badBeat _ _,
                   weakBeat := smSet_ok1 h.weakBeat _ _ }

theorem readInto_ok {t a : Nat} {r : CM × NmeOp} (h : MemOk r.1.2) : MemOk (readInto t r a).1.2 := dmRead_ok h

theorem writeFrom_ok {a : Nat} {r : CM × NmeOp} (h : MemOk r.1.2) : MemOk (writeFrom r a).1.2 := dmWrite_ok h

theorem slotOp_ok {cm : CM} {o : NmeOp} {q t : Nat} (h : MemOk cm.2) : MemOk (slotOp cm o q t).1.2 := by
  unfold slotOp
  dsimp only
  repeat' split
  all_goals first
    | exact h
    | exact foldl_keeps (P := fun (x : CM × NmeOp) => MemOk x.1.2) (fun _ _ => readInto_ok) _ _ h
    | exact foldl_keeps (P := fun (x : CM × NmeOp) => MemOk x.1.2) (fun _ _ => writeFrom_ok) _ _ h

theorem slotTransfer_ok {cm : CM} {p q s : Nat} (h : MemOk cm.2) : MemOk (slotTransfer cm p q s).2 := by
  unfold slotTransfer
  split
  · dsimp only
    split
    · exact slotOp_ok h
    · exact h
  · exact h

theorem tstoreLine_ok {cm : CM} {tl a : Nat} (h : MemOk cm.2) : MemOk (tstoreLine cm tl a).1.2 := eccRead_ok h

theorem tloadBeat_ok {cm : CM} {tl a : Nat} {b : BeatIn} (h : MemOk cm.2) : MemOk (tloadBeat cm tl a b).2 := by
  unfold tloadBeat
  split
  · split
    · exact h.setBadWord (foldl_keeps (P := SMap.Ok (fun _ => false)) (fun _ _ hx => smSet_ok1 hx _ _) _ _ h.badWord)
    · exact h
  · exact rxWrite_ok h

theorem moveLine_ok {cm : CM} {tl t i : Nat} {o : NmeOp} (h : MemOk cm.2) : MemOk (moveLine cm tl t o i).2 := by
  unfold moveLine
  dsimp only
  split
  · exact tstoreLine_ok h
  · exact tloadBeat_ok (tloadBeat_ok h)

theorem tileLine_ok {cm : CM} {tl : Nat} (h : MemOk cm.2) : MemOk (tileLine cm tl).2 := by
  unfold tileLine
  dsimp only
  repeat' split
  all_goals first | exact h | exact moveLine_ok h

theorem putRecord_ok {cm : CM} {o : NmeOp} (h : MemOk cm.2) : MemOk (putRecord cm o).2 := by
  unfold putRecord
  split
  · exact h
  · dsimp only
    split
    · exact rxWrite_ok h
    · exact h

theorem completeOp_ok {cm : CM} {p e : Nat} {o : NmeOp} (h : MemOk cm.2) : MemOk (completeOp cm p o e).2 := by
  unfold completeOp
  split
  · exact h
  · dsimp only
    split
    · exact putRecord_ok h
    · exact h

theorem completeNext_ok {cm : CM} {p : Nat} (h : MemOk cm.2) : MemOk (completeNext cm p).2 := by
  unfold completeNext
  split
  · exact putRecord_ok h
  · dsimp only
    split
    · exact completeOp_ok h
    · exact h

theorem endRepair_ok {cm : CM} {result spares : Nat} (h : MemOk cm.2) : MemOk (endRepair cm result spares).2 := by
  unfold endRepair
  dsimp only
  repeat' split
  all_goals first | exact h | exact h.setDm (writeBytes_ok h.dm _ _)

theorem dmReads_ok {cm : CM} {l : List Nat} (h : MemOk cm.2) : MemOk (dmReads cm l).2 :=
  foldl_keeps (P := fun (x : CM) => MemOk x.2) (fun _ _ hx => dmRead_ok hx) _ _ h

theorem dmRewrites_ok {cm : CM} {l : List Nat} (h : MemOk cm.2) : MemOk (dmRewrites cm l).2 :=
  foldl_keeps (P := fun (x : CM) => MemOk x.2) (fun _ _ hx => dmWrite_ok hx) _ _ h

theorem patrolOn_ok {cm : CM} {s q : Nat} (h : MemOk cm.2) : MemOk (patrolOn s cm q).2 := by
  unfold patrolOn
  dsimp only
  repeat' split
  all_goals first
    | exact h
    | exact dmRewrites_ok (cm := (_, _)) h
    | exact dmReads_ok (cm := (_, _)) h

theorem patrolAll_ok {s : Nat} {cm : CM} (h : MemOk cm.2) : MemOk (patrolAll cm s).2 := by
  unfold patrolAll
  exact foldl_keeps (P := fun (x : CM) => MemOk x.2) (fun _ _ => patrolOn_ok) _ _ h

theorem patrol_ok {cm : CM} {s : Nat} (h : MemOk cm.2) : MemOk (patrol cm s).2 := by
  have h1 : MemOk (patrolAll cm s).2 := patrolAll_ok h
  unfold patrol
  have h2 : ∀ (c : Ctl) (m : Mem), MemOk m → MemOk (c, m).2 := fun _ _ hm => hm
  split
  · exact h2 _ _ h1
  · exact h

end Sys2Proof.Machine
end

