-- ==== Sys2Proof/Laws/MemoryRows.lean ====
section
/-! SUPPORT. Dumps, resets, loads, power states, the spindle and the pass boundary keep the canonical form of the memories. -/
namespace Sys2Proof.Machine

/-- The memories of a pair of control state and memories have their canonical form. -/
def CmOk (cm : CM) : Prop := MemOk cm.2

theorem CmOk.mem {cm : CM} (h : CmOk cm) : MemOk cm.2 := h
theorem cmOk_of {cm : CM} (h : MemOk cm.2) : CmOk cm := h
theorem cmOk_mk {c : Ctl} {m : Mem} (h : MemOk m) : CmOk (c, m) := h

variable {m : Mem} {cm : CM}

theorem CmOk.ctl (h : CmOk cm) (c : Ctl) : CmOk (c, cm.2) := h

theorem foldl_cmOk {τ : Type} {f : CM → τ → CM} (hf : ∀ s x, CmOk s → CmOk (f s x)) (l : List τ) (h : CmOk cm) :
    CmOk (l.foldl f cm) := foldl_keeps (P := CmOk) hf l cm h

theorem foldUp_cmOk {f : CM → Nat → CM} (hf : ∀ s x, CmOk s → CmOk (f s x)) (n : Nat) (h : CmOk cm) :
    CmOk (foldUp n f cm) := foldl_cmOk hf _ h

theorem natFold_cmOk {n : Nat} {f : (i : Nat) → i < n → CM → CM} (hf : ∀ i p s, CmOk s → CmOk (f i p s)) (s : CM)
    (h : CmOk s) : CmOk (Nat.fold n f s) := by
  induction n with
  | zero => exact h
  | succ n ih => rw [Nat.fold_succ]; exact hf _ _ _ (ih fun i p s hs => hf i _ s hs)

/-- A choice between two pairs keeps the form when both sides have it. -/
theorem ite_cmOk {p : Prop} [Decidable p] {a b : CM} (ha : CmOk a) (hb : CmOk b) : CmOk (if p then a else b) := by
  split
  · exact ha
  · exact hb

theorem dmWrite_cmOk {a : Nat} {d : BitVec 256} {psn : Bool} (h : CmOk cm) : CmOk (dmWrite cm a d psn) := dmWrite_ok h

/-! Dumps. -/
theorem putBeats_cmOk {l : List (Nat × BitVec 256)} (h : CmOk cm) : CmOk (putBeats l cm) := by
  unfold putBeats
  exact foldl_cmOk (fun _ _ hx => dmWrite_cmOk hx) _ h

theorem flushCat_cmOk (h : CmOk cm) : CmOk (flushCat cm) := by
  unfold flushCat
  exact ite_cmOk h (putBeats_cmOk (h.ctl _))

theorem regionWrite_cmOk {gs : List Nat} {r : Nat} {bs : Bytes} (h : CmOk cm) : CmOk (regionWrite gs cm r bs) := by
  unfold regionWrite
  extract_lets
  exact ite_cmOk (h.ctl _) (putBeats_cmOk h)

theorem writeHead_cmOk {d : Dump} {status : Nat} (h : CmOk cm) : CmOk (writeHead d status cm) := by
  unfold writeHead
  exact regionWrite_cmOk h

theorem writeEnt_cmOk {d : Dump} {i : Nat} (h : CmOk cm) : CmOk (writeEnt d cm i) := by
  unfold writeEnt
  split
  · exact regionWrite_cmOk h
  · exact h

theorem writeEnts_cmOk {d : Dump} (h : CmOk cm) : CmOk (writeEnts d cm) := by
  unfold writeEnts
  exact foldl_cmOk (fun _ _ hx => writeEnt_cmOk hx) _ h

theorem keepNow_cmOk (h : CmOk cm) : CmOk (keepNow cm) := by
  unfold keepNow
  refine ite_cmOk h (cmOk_mk ?_)
  exact h.mem.setKeep (foldl_keeps (P := SMap.Ok (fun _ => 0))
    (fun s (x : Nat × Bytes) hs => writeBytes_ok hs (12288 + 64 * x.1) (padTo 64 x.2)) cm.1.dump.sums cm.2.keep h.mem.keep)

theorem dumpStart_cmOk (h : CmOk cm) : CmOk (dumpStart cm) := by
  unfold dumpStart
  extract_lets c
  split
  · extract_lets
    refine ite_cmOk h ?_
    extract_lets
    split
    · exact keepNow_cmOk (h.ctl _)
    · split
      · exact keepNow_cmOk (h.ctl _)
      · extract_lets
        exact keepNow_cmOk (writeEnts_cmOk (writeHead_cmOk (h.ctl _)))
  · exact h

theorem dumpBeat_cmOk {o q : Nat} (h : CmOk cm) : CmOk (dumpBeat o q cm) := by
  unfold dumpBeat
  split
  · exact h
  · extract_lets
    split
    · exact h
    · split
      · exact h
      · extract_lets
        refine CmOk.ctl ?_ _
        refine dmWrite_cmOk ?_
        exact ite_cmOk (writeEnt_cmOk (h.ctl _)) (h.ctl _)

theorem catBeats_cmOk {q : Nat} (h : CmOk cm) : CmOk (catBeats q cm).1 := by
  unfold catBeats
  extract_lets
  exact putBeats_cmOk (h.ctl _)

theorem dumpDone_cmOk (h : CmOk cm) : CmOk (dumpDone cm) := by
  unfold dumpDone
  split
  · exact h
  · extract_lets
    refine ite_cmOk h ?_
    extract_lets
    refine CmOk.ctl ?_ _
    exact writeHead_cmOk (foldl_cmOk (fun _ _ hx => writeEnt_cmOk hx) _ h)

theorem traceFlush_cmOk (h : CmOk cm) : CmOk (traceFlush cm) := traceFlush_ok h

theorem dumpSlot_cmOk {q s : Nat} (h : CmOk cm) : CmOk (dumpSlot q s cm) := by
  unfold dumpSlot
  have h1 : CmOk (flushCat (traceFlush cm)) := flushCat_cmOk (traceFlush_cmOk h)
  generalize flushCat (traceFlush cm) = x at h1 ⊢
  extract_lets c
  refine ite_cmOk h1 ?_
  split
  · exact h1
  · split
    · exact h1
    · extract_lets c1 r
      refine dumpDone_cmOk (natFold_cmOk (fun _ _ _ hs => dumpBeat_cmOk hs) _ ?_)
      unfold r
      split
      · exact catBeats_cmOk (h1.ctl _)
      · exact h1.ctl _

theorem dumpClose_cmOk {d : Dump} (h : CmOk cm) : CmOk (dumpClose cm d) := by
  unfold dumpClose
  extract_lets
  refine keepNow_cmOk (CmOk.ctl ?_ _)
  exact putBeats_cmOk ((writeHead_cmOk h).ctl _)

theorem dumpEnd_cmOk (h : CmOk cm) : CmOk (dumpEnd cm) := by
  unfold dumpEnd
  split
  · refine ite_cmOk (ite_cmOk ?_ (dumpClose_cmOk h)) h
    extract_lets q
    split
    · exact dumpClose_cmOk (h.ctl _)
    · exact h
  · exact h

theorem holdExpired_cmOk {p : Nat} (h : CmOk cm) : CmOk (holdExpired p cm) := by
  unfold holdExpired
  split
  · exact h
  · split
    · exact h
    · extract_lets
      split
      · split
        · extract_lets
          refine CmOk.ctl ?_ _
          exact writeEnts_cmOk (h.ctl _)
        · exact h.ctl _
      · exact h.ctl _

theorem dumpCutDone_cmOk (h : CmOk cm) : CmOk (dumpCutDone cm) := by
  unfold dumpCutDone
  split
  · exact ite_cmOk (dumpClose_cmOk (writeEnts_cmOk h)) h
  · exact h

theorem regionLatch_cmOk {f : FramePlan} (h : CmOk cm) : CmOk (regionLatch cm f) := by
  unfold regionLatch
  extract_lets now new was cm1
  have h1 : CmOk cm1 := by
    unfold cm1
    clear_value was
    split
    · exact dumpClose_cmOk (writeEnts_cmOk h)
    · exact h
  exact ite_cmOk h (h1.ctl _)

/-! Resets of tiles and partitions. -/
theorem clearTile_cmOk {t : Nat} (h : CmOk cm) : CmOk (clearTile cm t) := by
  unfold clearTile
  have h := h.mem
  exact cmOk_mk { h with tm := smClearRange_ok h.tm _ _, im := smClearRange_ok h.im _ _, badWord := smClearRange_ok h.badWord _ _,
                         weakWord := smClearRange_ok h.weakWord _ _, badBundle := smClearRange_ok h.badBundle _ _,
                         weakBundle := smClearRange_ok h.weakBundle _ _ }

theorem clearTiles_cmOk (h : CmOk cm) : CmOk (clearTiles cm) := by
  unfold clearTiles
  exact foldl_cmOk (fun _ _ hx => clearTile_cmOk hx) _ h

theorem resetDone_cmOk {p : Nat} (h : CmOk cm) : CmOk (resetDone p cm) := by
  unfold resetDone
  refine ite_cmOk ?_ h
  extract_lets
  refine CmOk.ctl ?_ _
  exact foldl_cmOk (fun _ _ hx => clearTile_cmOk hx) _ h

/-! Loads. -/
theorem activate_cmOk {f : Option FramePlan} {pass : Option Nat} (h : CmOk cm) : CmOk (activate cm f pass) := by
  unfold activate
  extract_lets
  refine CmOk.ctl ?_ _
  refine foldl_cmOk (fun _ _ hx => clearTile_cmOk hx) _ (CmOk.ctl ?_ _)
  exact ite_cmOk (regionLatch_cmOk h) h

theorem swapNow_cmOk {n : Nat} (h : CmOk cm) : CmOk (swapNow n cm) := by
  unfold swapNow
  split
  · refine ite_cmOk ?_ h
    extract_lets
    refine CmOk.ctl ?_ _
    exact activate_cmOk h
  · exact h

theorem checksDone_cmOk {img : Option Bytes} (h : CmOk cm) : CmOk (checksDone img cm) := by
  unfold checksDone
  extract_lets
  refine ite_cmOk h (ite_cmOk ?_ ?_)
  · extract_lets
    refine ite_cmOk (h.ctl _) ?_
    extract_lets
    refine CmOk.ctl ?_ _
    exact activate_cmOk h
  · split
    · exact h.ctl _
    · split
      · exact h.ctl _
      · refine ite_cmOk (h.ctl _) (ite_cmOk ?_ (ite_cmOk (h.ctl _) (h.ctl _)))
        extract_lets
        refine CmOk.ctl ?_ _
        exact activate_cmOk h

theorem dmBytes_cmOk {a : Nat} {bs : Bytes} (h : CmOk cm) : CmOk (dmBytes cm a bs) := by
  unfold dmBytes
  exact foldl_cmOk (fun _ _ hx => dmWrite_cmOk (hx.ctl _)) _ h

theorem imWrite_ok {t a : Nat} {bs : Bytes} (h : MemOk m) : MemOk (imWrite m t a bs) := by
  unfold imWrite
  exact { h with im := writeBytes_ok h.im _ _, badBundle := smClearRange_ok h.badBundle _ _,
                 weakBundle := smClearRange_ok h.weakBundle _ _ }

theorem writePiece_cmOk {p : Nat} {x : LoadPiece} (h : CmOk cm) : CmOk (writePiece p cm x) := by
  unfold writePiece
  extract_lets m q cm1 told
  have hm : MemOk m := by
    unfold m
    split
    · exact h.mem
    · exact imWrite_ok h.mem
  refine ite_cmOk (ite_cmOk (cmOk_mk ?_) h) (ite_cmOk (rxWrite_ok h) (ite_cmOk ((dmBytes_cmOk h).ctl _) (dmBytes_cmOk h)))
  split
  · exact hm
  · exact imWrite_ok hm

theorem rxWrite_cmOk {t a : Nat} {bs : Bytes} (h : CmOk cm) : CmOk (rxWrite cm t a bs) := rxWrite_ok h

theorem flitNow_cmOk {e : Flit × Nat} (h : CmOk cm) : CmOk (flitNow cm e) := by
  unfold flitNow
  exact CmOk.ctl (rxWrite_cmOk (h.ctl _)) _

theorem lateFlits_cmOk (h : CmOk cm) : CmOk (lateFlits cm) := by
  unfold lateFlits
  refine foldUp_cmOk (fun x _ hx => ?_) _ h
  split
  · exact ite_cmOk (flitNow_cmOk hx) hx
  · exact hx

theorem writePieces_cmOk {p : Nat} {l : List LoadPiece} (h : CmOk cm) : CmOk (writePieces p l cm).1 := by
  induction l generalizing cm with
  | nil => exact h
  | cons x r ih =>
    unfold writePieces
    split
    · exact h
    · exact ih (writePiece_cmOk (lateFlits_cmOk (h.ctl _)))

theorem writesDone_cmOk {fail : Option (Nat × Nat)} (h : CmOk cm) : CmOk (writesDone fail cm) := by
  unfold writesDone
  extract_lets l r cm1 c
  have h1 : CmOk cm1 := writePieces_cmOk h
  clear_value r cm1
  refine ite_cmOk h (ite_cmOk h1 ?_)
  split
  · exact h1.ctl _
  · exact h1.ctl _

theorem writesCut_cmOk (h : CmOk cm) : CmOk (writesCut cm) := by
  unfold writesCut
  extract_lets
  exact ite_cmOk h (foldl_cmOk (fun _ _ hx => writePiece_cmOk hx) _ (h.ctl _))

theorem loadFetchFails_cmOk {fn : Nat} (h : CmOk cm) : CmOk (loadFetchFails fn cm) := by
  unfold loadFetchFails
  exact ite_cmOk (CmOk.ctl (writesCut_cmOk h) _) h

/-! Power states. -/
theorem powerBegin_cmOk (h : CmOk cm) : CmOk (powerBegin cm) := by
  unfold powerBegin
  extract_lets c
  clear_value c
  split
  · extract_lets
    refine ite_cmOk (h.ctl _) (ite_cmOk (h.ctl _) (ite_cmOk (ite_cmOk (h.ctl _) ?_) (h.ctl _)))
    exact clearTiles_cmOk (h.ctl _)
  · exact h

theorem powerRequest_cmOk {st : Nat} (h : CmOk cm) : CmOk (powerRequest st cm) := by
  unfold powerRequest
  extract_lets
  exact ite_cmOk h (ite_cmOk (h.ctl _) (ite_cmOk (h.ctl _) (powerBegin_cmOk (h.ctl _))))

theorem powerBoundary_cmOk {t : Nat} (h : CmOk cm) : CmOk (powerBoundary t cm) := by
  unfold powerBoundary
  extract_lets c
  clear_value c
  split
  · exact ite_cmOk (powerBegin_cmOk (h.ctl _)) (h.ctl _)
  · exact h.ctl _

/-! The spindle. -/
theorem restoreTurns_cmOk {c : Ctl} (h : MemOk m) : CmOk (restoreTurns c m) := by
  unfold restoreTurns
  extract_lets tol res c1
  have hr : ∀ c v, CmOk (res c v) := fun c v => cmOk_mk (consume_ok h)
  refine ite_cmOk (cmOk_mk h) ?_
  split
  · exact hr _ _
  · exact ite_cmOk (hr _ _) (ite_cmOk (hr _ _) (hr _ _))

theorem acqEnd_cmOk {c : Ctl} (h : MemOk m) : CmOk (acqEnd c m) := by
  unfold acqEnd
  exact ite_cmOk (restoreTurns_cmOk h) (cmOk_mk h)

theorem observerUpdate_cmOk (h : CmOk cm) : CmOk (observerUpdate cm) := by
  unfold observerUpdate
  cases reachGrid cm.1 (nextGrid cm.1 6400 cm.1.sp.updAt) with
  | none => exact h
  | some c =>
    refine CmOk.ctl ?_ _
    exact acqEnd_cmOk h.mem

theorem stampWindows_cmOk (h : CmOk cm) : CmOk (stampWindows cm) := by
  unfold stampWindows
  extract_lets
  refine ite_cmOk h (foldUp_cmOk (fun x p hx => ?_) _ (h.ctl _))
  split
  · exact hx
  · split
    · exact hx
    · exact rxWrite_ok hx

/-! The pass boundary. -/
theorem epochStop_cmOk (h : CmOk cm) : CmOk (epochStop cm) := by
  unfold epochStop
  extract_lets
  exact powerBegin_cmOk (h.ctl _)

theorem chipContain_cmOk {code : Nat} (h : CmOk cm) : CmOk (chipContain code cm) := by
  unfold chipContain
  exact ite_cmOk h (CmOk.ctl (writesCut_cmOk (h.ctl _)) _)

theorem passStart_cmOk (h : CmOk cm) : CmOk (passStart cm) := by
  unfold passStart
  extract_lets
  exact h.ctl _

theorem boundary1_cmOk (h : CmOk cm) : CmOk (boundary1 cm) := by
  unfold boundary1
  extract_lets
  exact h.ctl _

theorem boundary2_cmOk (h : CmOk cm) : CmOk (boundary2 cm) := by
  unfold boundary2
  extract_lets
  exact ite_cmOk (epochStop_cmOk (h.ctl _)) (h.ctl _)

theorem boundary3_cmOk (h : CmOk cm) : CmOk (boundary3 cm) := by
  unfold boundary3
  extract_lets
  refine CmOk.ctl ?_ _
  refine powerBoundary_cmOk (CmOk.ctl ?_ _)
  exact swapNow_cmOk h

theorem boundary4_cmOk (h : CmOk cm) : CmOk (boundary4 cm) := by
  unfold boundary4
  extract_lets
  exact h.ctl _

theorem boundaryStep_cmOk (h : CmOk cm) : CmOk (boundaryStep cm) := by
  unfold boundaryStep
  split
  · exact boundary1_cmOk h
  · exact boundary2_cmOk h
  · exact boundary3_cmOk h
  · exact boundary4_cmOk h
  · exact passStart_cmOk h

theorem boundaryTo_cmOk {k : Nat} (h : CmOk cm) : CmOk (boundaryTo k cm) := by
  unfold boundaryTo
  exact natFold_cmOk (fun _ _ _ hs => ite_cmOk (boundaryStep_cmOk hs) hs) _ h

theorem boundary_cmOk (h : CmOk cm) : CmOk (boundary cm) := by
  unfold boundary
  extract_lets cm1
  have h1 : CmOk cm1 := boundaryTo_cmOk h
  exact ite_cmOk (ite_cmOk (passStart_cmOk h1) h1) h

theorem atInstant_cmOk {f : CM → CM} (hf : ∀ x, CmOk x → CmOk (f x)) (h : CmOk cm) : CmOk (atInstant f cm) := by
  unfold atInstant
  exact (hf _ (h.ctl _)).ctl _

theorem epochStart_cmOk (h : CmOk cm) : CmOk (epochStart cm) := by
  unfold epochStart
  extract_lets
  refine ite_cmOk h (ite_cmOk (h.ctl _) (ite_cmOk (epochStop_cmOk (h.ctl _)) (ite_cmOk (passStart_cmOk ?_) ?_)))
  all_goals exact boundaryTo_cmOk (h.ctl _)

end Sys2Proof.Machine
end

