-- ==== Sys2Proof/Laws/MemoryHost.lean ====
section
/-! SUPPORT. The pool, the power sequencer, register writes, host commands, the hub, links and the clock keep the canonical form of
the memories. -/
namespace Sys2Proof.Machine

variable {m : Mem} {cm : CM}

/-- A pair taken apart and put together again with another control state. -/
theorem cmOk_pair {c : Ctl} {p : CM} (h : CmOk p) : CmOk (c, p.2) := h

/-! Events and the pool. -/
theorem trigIn_cmOk {l ch src seq : Nat} (h : CmOk cm) : CmOk (trigIn l ch src seq cm) := by
  unfold trigIn
  extract_lets
  refine ite_cmOk h (ite_cmOk (h.ctl _) (ite_cmOk ?_ (h.ctl _)))
  exact chipContain_cmOk (h.ctl _)

theorem serveRead_cmOk {t : Nat} {l : PoolLine} (h : CmOk cm) : CmOk (serveRead cm t l) := by
  unfold serveRead
  extract_lets
  refine CmOk.ctl ?_ _
  exact dmRead_ok (dmRead_ok h)

theorem serveWrite_cmOk {t : Nat} {l : PoolLine} (h : CmOk cm) : CmOk (serveWrite cm t l) := by
  unfold serveWrite
  extract_lets
  refine CmOk.ctl ?_ _
  exact dmWrite_cmOk (dmWrite_cmOk h)

theorem scrubSlot_cmOk {g q : Nat} (h : CmOk cm) : CmOk (scrubSlot cm g q) := by
  unfold scrubSlot
  extract_lets
  refine CmOk.ctl ?_ _
  exact foldl_cmOk (fun _ _ hx => ite_cmOk (dmWrite_cmOk hx) hx) _ h

theorem poolSlot_cmOk {q s : Nat} (h : CmOk cm) : CmOk (poolSlot cm q s) := by
  unfold poolSlot
  split
  · exact h
  · extract_lets c scrub c1 r
    refine ite_cmOk (scrubSlot_cmOk (h.ctl _)) ?_
    clear_value r c1
    split
    · exact h.ctl _
    · extract_lets
      exact foldl_cmOk (fun _ _ hx => ite_cmOk (serveWrite_cmOk hx) (serveRead_cmOk hx)) _ (h.ctl _)

/-! The power sequencer. -/
theorem ksReport_cmOk (h : CmOk cm) : CmOk (ksReport cm) := by
  unfold ksReport
  extract_lets
  split
  · exact h.ctl _
  · exact h.ctl _

theorem sagRaise_cmOk {i : Nat} (h : CmOk cm) : CmOk (sagRaise i cm) := by
  unfold sagRaise
  exact chipContain_cmOk (h.ctl _)

theorem sagStep_cmOk (h : CmOk cm) : CmOk (sagStep cm) := by
  unfold sagStep
  exact sagRaise_cmOk (h.ctl _)

theorem supplySag_cmOk {i : Nat} (h : CmOk cm) : CmOk (supplySag i cm) := by
  unfold supplySag
  refine ite_cmOk h ?_
  extract_lets c second c1 c2 lost c3 _ m c4 busy c5 cm1 waits cm2
  have hm : MemOk m := by
    unfold m
    clear_value lost
    cases lost
    · exact h.mem
    · exact { h.mem with dm := empty_ok _, poison := empty_ok _, badBeat := empty_ok _, weakBeat := empty_ok _ }
  have h1 : CmOk cm1 := ite_cmOk (epochStop_cmOk (cmOk_mk hm)) (cmOk_mk hm)
  clear_value waits cm1
  have h2 : CmOk cm2 := ite_cmOk h1 (sagRaise_cmOk (h1.ctl _))
  exact ite_cmOk (sagRaise_cmOk (cmOk_mk hm)) (h2.ctl _)

theorem outputOrSave_cmOk (h : CmOk cm) : CmOk (outputOrSave cm) := by
  unfold outputOrSave
  extract_lets
  exact ite_cmOk (ite_cmOk (sagStep_cmOk (h.ctl _)) h) (h.ctl _)

theorem bankWrite_cmOk {good : Bool} {s : SaveSt} (h : CmOk cm) : CmOk (bankWrite good s cm) := by
  unfold bankWrite
  exact cmOk_mk (h.mem.setKeep (writeBytes_ok h.mem.keep _ _))

theorem saveEnd_cmOk {result : Nat} (h : CmOk cm) : CmOk (saveEnd result cm) := by
  unfold saveEnd
  extract_lets cm1
  have h1 : CmOk cm1 := ite_cmOk (sagStep_cmOk (h.ctl _)) h
  clear_value cm1
  cases cm1.1.pwr.save with
  | none => exact h1
  | some s =>
    refine ksReport_cmOk (CmOk.ctl ?_ _)
    exact bankWrite_cmOk h1

theorem powerOn_cmOk (h : CmOk cm) : CmOk (powerOn cm) := by
  unfold powerOn
  exact cmOk_mk { memOk_empty with keep := writeBytes_ok h.mem.keep _ _ }

theorem porFalls_cmOk (h : CmOk cm) : CmOk (porFalls cm) := by
  unfold porFalls
  exact ite_cmOk (h.ctl _) (powerOn_cmOk h)

theorem saveDone_cmOk {result : Nat} (h : CmOk cm) : CmOk (saveDone result cm) := by
  unfold saveDone
  extract_lets waits cm1
  have h1 : CmOk cm1 := saveEnd_cmOk h
  exact ite_cmOk h (ite_cmOk (powerOn_cmOk h1) (h1.ctl _))

theorem resetSave_cmOk (h : CmOk cm) : CmOk (resetSave cm) := by
  unfold resetSave
  extract_lets cm1 c
  have h1 : CmOk cm1 := ite_cmOk (h.ctl _) h
  clear_value c
  cases c.pwr.save with
  | none => exact h1.ctl _
  | some s => exact ite_cmOk (h1.ctl _) (h1.ctl _)

theorem chipClear_cmOk (h : CmOk cm) : CmOk (chipClear cm) := by
  unfold chipClear
  exact cmOk_mk { h.mem with tm := empty_ok _, im := empty_ok _, badWord := empty_ok _, weakWord := empty_ok _,
                             badBundle := empty_ok _, weakBundle := empty_ok _ }

theorem chipAssert_cmOk (h : CmOk cm) : CmOk (chipAssert cm) := by
  unfold chipAssert
  exact ite_cmOk h (chipClear_cmOk (resetSave_cmOk (keepNow_cmOk (traceFlush_cmOk (h.ctl _)))))

theorem chipRelease_cmOk (h : CmOk cm) : CmOk (chipRelease cm) := by
  unfold chipRelease
  extract_lets
  exact ite_cmOk h (h.ctl _)

theorem resetSourceEnds_cmOk {src : Nat} (h : CmOk cm) : CmOk (resetSourceEnds src cm) := by
  unfold resetSourceEnds
  exact chipRelease_cmOk (h.ctl _)

theorem pwrRst_cmOk {confirm : Nat} (h : CmOk cm) : CmOk (pwrRst confirm cm) := by
  unfold pwrRst
  refine ite_cmOk h (CmOk.ctl ?_ _)
  exact chipAssert_cmOk h

theorem sensorReads_cmOk {i v : Nat} (h : CmOk cm) : CmOk (sensorReads cm i v) := by
  unfold sensorReads
  extract_lets
  exact ite_cmOk (chipContain_cmOk (h.ctl _)) (h.ctl _)

theorem temperatures_cmOk {temps : List Nat} {v : Nat} (h : CmOk cm) : CmOk (temperatures temps v cm) := by
  unfold temperatures
  refine ite_cmOk h (CmOk.ctl ?_ _)
  exact foldl_cmOk (fun _ _ hx => sensorReads_cmOk hx) _ h

/-! Register writes. -/
theorem pwrCtrlWrite_cmOk {fn raw v : Nat} (h : CmOk cm) : CmOk (pwrCtrlWrite fn raw v cm) := by
  unfold pwrCtrlWrite
  exact powerRequest_cmOk (h.ctl _)

theorem traceFlushPart_cmOk {p : Nat} (h : CmOk cm) : CmOk (traceFlushPart cm p) := traceFlushPart_ok h

theorem trcWrite_cmOk {fn raw p v : Nat} (h : CmOk cm) : CmOk (trcWrite fn raw p v cm) := by
  unfold trcWrite
  have h1 : CmOk (traceFlushPart cm p) := traceFlushPart_cmOk h
  generalize traceFlushPart cm p = q at h1
  obtain ⟨c, m⟩ := q
  extract_lets
  exact ite_cmOk h1 h1

theorem hubRegWrite_cmOk {fn off raw v : Nat} (h : CmOk cm) : CmOk (hubRegWrite fn off raw v cm) := by
  obtain ⟨c, m⟩ := cm
  unfold hubRegWrite
  extract_lets o
  clear_value o
  refine ite_cmOk (trcWrite_cmOk h) ?_
  split <;> exact h

theorem topWrite_cmOk {fn off raw v : Nat} (h : CmOk cm) : CmOk (topWrite fn off raw v cm) := by
  unfold topWrite
  split
  · exact h.ctl _
  · exact h.ctl _
  · exact pwrCtrlWrite_cmOk h
  · exact ite_cmOk (pwrRst_cmOk h) h
  · exact ite_cmOk (h.ctl _) h
  · exact h.ctl _
  · exact h.ctl _

theorem wordWrite_cmOk {fn off raw v : Nat} (h : CmOk cm) : CmOk (wordWrite fn off raw v cm) := by
  unfold wordWrite
  split
  · exact ite_cmOk h (ite_cmOk h (h.ctl _))
  · exact ite_cmOk (topWrite_cmOk h) (ite_cmOk (hubRegWrite_cmOk h) (h.ctl _))

theorem noted_cmOk {off : Nat} {f : CM → CM} (hf : ∀ x, CmOk x → CmOk (f x)) (h : CmOk cm) : CmOk (noted off f cm) := by
  unfold noted
  exact ite_cmOk (hf _ h) ((hf _ h).ctl _)

theorem busWord_cmOk {fn who off raw v : Nat} (h : CmOk cm) : CmOk (busWord fn who off raw v cm) := by
  unfold busWord
  extract_lets
  exact ite_cmOk (noted_cmOk (fun _ hx => noted_cmOk (fun _ hy => hy.ctl _) hx) (h.ctl _))
    (ite_cmOk (h.ctl _) (noted_cmOk (fun _ hx => wordWrite_cmOk hx) h))

theorem barWord_cmOk {fn raw v : Nat} (h : CmOk cm) : CmOk (barWord fn raw v cm) := by
  unfold barWord
  extract_lets c b
  refine ite_cmOk h (ite_cmOk (ite_cmOk h (ite_cmOk (h.ctl _) (busWord_cmOk h))) (ite_cmOk h ?_))
  split
  · exact h
  · exact busWord_cmOk h
  · exact h.ctl _

theorem barWrite_cmOk {fn off bytes : Nat} {v : Dword} (h : CmOk cm) : CmOk (barWrite fn off bytes v cm) := by
  unfold barWrite
  extract_lets
  exact ite_cmOk h (ite_cmOk (barWord_cmOk h) (ite_cmOk (ite_cmOk (barWord_cmOk (barWord_cmOk h)) (barWord_cmOk (barWord_cmOk h))) h))

/-! Fliwell and host commands. -/
theorem debugReset_cmOk (h : CmOk cm) : CmOk (debugReset cm) := by
  unfold debugReset
  refine CmOk.ctl ?_ _
  exact keepNow_cmOk (traceFlush_cmOk h)

theorem runCmdM_cmOk {fn r opc : Nat} {f : CM → Bytes → CmdRef → CM} (hf : ∀ x e q, CmOk x → CmOk (f x e q)) (h : CmOk cm) :
    CmOk (runCmdM fn r opc f cm) := by
  unfold runCmdM
  split
  · exact hf _ _ _ (h.ctl _)
  · exact h

theorem regWrites_cmOk {e : Bytes} {ref : CmdRef} (h : CmOk cm) : CmOk (regWrites cm e ref) := by
  unfold regWrites
  refine CmOk.ctl ?_ _
  exact foldUp_cmOk (fun _ _ hx => barWrite_cmOk hx) _ h

theorem keepRead_cmOk {e : Bytes} {ref : CmdRef} (h : CmOk cm) : CmOk (keepRead cm e ref) := by
  unfold keepRead
  refine ite_cmOk (h.ctl _) (CmOk.ctl ?_ _)
  exact keepNow_cmOk h

/-! The hub. -/
theorem readRegs_cmOk {cls idx n a : Nat} (h : CmOk cm) : CmOk (readRegs cls idx n a cm).1 := by
  induction n generalizing a cm with
  | zero => exact h
  | succ n ih =>
    obtain ⟨c, m⟩ := cm
    unfold readRegs
    exact ih (cm := (_, m)) h

theorem writeReg_cmOk {cls idx a v : Nat} (h : CmOk cm) : CmOk (writeReg cls idx a v cm) := by
  unfold writeReg
  split
  · exact busWord_cmOk h
  · exact h

theorem writeRegs_cmOk {cls idx : Nat} : ∀ {l : List Nat} {a : Nat} {cm : CM}, CmOk cm → CmOk (writeRegs cls idx l a cm)
  | [], _, _, h => h
  | [_], _, _, h => writeReg_cmOk h
  | v :: w :: rest, a, cm, h => by
    unfold writeRegs
    exact ite_cmOk (writeRegs_cmOk (writeReg_cmOk (writeReg_cmOk h))) (writeRegs_cmOk (writeReg_cmOk h))

theorem eccRead_cmOk {t a n : Nat} (h : CmOk cm) : CmOk (eccRead cm t a n) := eccRead_ok h

theorem readTile_cmOk {t n a : Nat} (h : CmOk cm) : CmOk (readTile t n a cm).1 := by
  induction n generalizing a cm with
  | zero => exact h
  | succ n ih =>
    unfold readTile
    refine ih ?_
    split
    · exact h
    · exact ite_cmOk (eccRead_cmOk (h.ctl _)) (ite_cmOk (h.ctl _) h)

theorem writeTile_cmOk {t a : Nat} {l : List Nat} (h : CmOk cm) : CmOk (writeTile t l a cm) := by
  induction l generalizing a cm with
  | nil => exact h
  | cons v rest ih =>
    unfold writeTile
    refine ih ?_
    split
    · exact ite_cmOk h (busWord_cmOk h)
    · exact ite_cmOk (rxWrite_cmOk h) (ite_cmOk h (ite_cmOk (cmOk_mk (imWrite_ok h.mem)) (ite_cmOk h h)))

theorem readBeatsAt_cmOk {n a : Nat} (h : CmOk cm) : CmOk (readBeatsAt n a cm).1 := by
  induction n generalizing a cm with
  | zero => exact h
  | succ n ih =>
    unfold readBeatsAt
    refine ih ?_
    exact dmRead_ok h

theorem readDm_cmOk {n a : Nat} (h : CmOk cm) : CmOk (readDm n a cm).1 := by
  unfold readDm
  exact readBeatsAt_cmOk h

theorem writeDm_cmOk {a : Nat} {b : Bytes} (h : CmOk cm) : CmOk (writeDm a b cm) := by
  unfold writeDm
  exact foldUp_cmOk (fun _ _ hx => dmWrite_cmOk hx) _ h

theorem unitRead_cmOk {cls idx a n : Nat} (h : CmOk cm) : CmOk (unitRead cls idx a n cm).1 := by
  unfold unitRead
  split
  · exact readTile_cmOk h
  · split
    · exact traceFlush_cmOk h
    · split
      · exact readDm_cmOk h
      · exact readRegs_cmOk h

theorem unitWrite_cmOk {cls idx a : Nat} {b : Bytes} (h : CmOk cm) : CmOk (unitWrite cls idx a b cm) := by
  unfold unitWrite
  exact ite_cmOk (writeTile_cmOk h) (ite_cmOk h (ite_cmOk (writeDm_cmOk h) (writeRegs_cmOk h)))

theorem ite_fst {α β : Type} {P : α → Prop} {p : Prop} [Decidable p] {a b : α × β} (ha : P a.1) (hb : P b.1) :
    P (if p then a else b).1 := by
  split
  · exact ha
  · exact hb

theorem stepBundle_cmOk {t : Nat} {f : Fetched} (h : CmOk cm) : CmOk (stepBundle t f cm).1 := by
  unfold stepBundle
  extract_lets
  exact cmOk_mk (attempt_ok h)

theorem hubFstep_cmOk {q : HubReq} (h : CmOk cm) : CmOk (hubFstep q cm).1 := by
  unfold hubFstep
  extract_lets t c no go
  have hf : CmOk (fetched (go, cm.2) t (tile go t).pc).1 := fetched_ok (cm := (_, _)) h
  generalize fetched (go, cm.2) t (tile go t).pc = r at hf
  obtain ⟨gm, f⟩ := r
  exact ite_fst (h.ctl _) (ite_fst (ite_fst (h.ctl _) (h.ctl _)) (stepBundle_cmOk hf))

theorem movePieces_cmOk {data : Bytes} {n : Nat} {q : HubReq} (h : CmOk cm) : CmOk (movePieces data n q cm).1 := by
  induction n generalizing q cm with
  | zero => exact h
  | succ n ih =>
    unfold movePieces
    extract_lets a k
    refine ite_fst h ?_
    split
    · exact h
    · have hl : ∀ c, CmOk (lateFlits (c, cm.2)) := fun c => lateFlits_cmOk (h.ctl c)
      exact ite_fst (ih (unitRead_cmOk (h.ctl _))) (ih (unitWrite_cmOk (hl _)))

theorem hubMove_cmOk {q : HubReq} {data : Bytes} (h : CmOk cm) : CmOk (hubMove q data cm).1 := by
  unfold hubMove
  extract_lets r
  have hr : CmOk r.1 := movePieces_cmOk h
  clear_value r
  exact ite_fst hr (hr.ctl _)

theorem hubHere_cmOk {q : HubReq} {host : Bytes} (h : CmOk cm) : CmOk (hubHere q host cm).1 := by
  unfold hubHere
  extract_lets n ctl d r
  have h1 : CmOk r.1 := hubFstep_cmOk h
  have hc : ∀ x, CmOk (ctl x).1 := fun _ => h
  clear_value ctl r d
  refine ite_fst h (ite_fst h ?_)
  split
  · exact hubMove_cmOk h
  · exact ite_fst h (hubMove_cmOk (h.ctl _))
  · exact hc _
  · exact hc _
  · exact hc _
  · exact hc _
  · exact h1

theorem hubRun_cmOk {op : Nat} {host : Bytes} (h : CmOk cm) : CmOk (hubRun op host cm) := by
  unfold hubRun
  split
  · exact h
  · extract_lets st own d r
    have hr : CmOk r.1 := hubHere_cmOk h
    clear_value r
    refine ite_cmOk h (ite_cmOk (h.ctl _) (ite_cmOk (h.ctl _) ?_))
    split
    · exact hr
    · exact hr.ctl _

theorem onMsg_cmOk {typ l : Nat} {ws : List Nat} {f : Nat → Nat → Nat → Bytes → CM → CM}
    (hf : ∀ d s t b x, CmOk x → CmOk (f d s t b x)) (h : CmOk cm) : CmOk (onMsg typ l ws f cm) := by
  unfold onMsg
  refine ite_cmOk h ?_
  split
  · exact h.ctl _
  · exact ite_cmOk (hf _ _ _ _ _ h) h

theorem relayReq_cmOk {l : Nat} {ws : List Nat} (h : CmOk cm) : CmOk (relayReq l ws cm) := by
  unfold relayReq
  refine onMsg_cmOk (fun d s t b x hx => ?_) h
  obtain ⟨c, m⟩ := x
  exact ite_cmOk hx (ite_cmOk (hubRun_cmOk hx) hx)

theorem relayRsp_cmOk {l : Nat} {ws : List Nat} (h : CmOk cm) : CmOk (relayRsp l ws cm) := by
  unfold relayRsp
  refine onMsg_cmOk (fun d s t b x hx => ?_) h
  obtain ⟨c, m⟩ := x
  refine ite_cmOk hx ?_
  split
  · exact ite_cmOk hx (ite_cmOk (ite_cmOk hx (ite_cmOk hx hx)) hx)
  · exact hx

theorem relayFlood_cmOk {l : Nat} {ws : List Nat} (h : CmOk cm) : CmOk (relayFlood l ws cm) := by
  unfold relayFlood
  refine onMsg_cmOk (fun d s t b x hx => ?_) h
  obtain ⟨c, m⟩ := x
  exact ite_cmOk hx (ite_cmOk (hubRun_cmOk hx) hx)

/-! Links, headgates, time and the clock. -/
theorem parcelLineRead_cmOk {l k : Nat} (h : CmOk cm) : CmOk (parcelLineRead l k cm) := by
  unfold parcelLineRead
  extract_lets
  split
  · exact h
  · extract_lets
    refine ite_cmOk h ?_
    split
    · exact h
    · refine CmOk.ctl ?_ _
      exact ite_cmOk (h.ctl _) (eccRead_cmOk (h.ctl _))

theorem reduceRead_cmOk {p l t a : Nat} (h : CmOk cm) : CmOk (reduceRead cm p l t a).1 := by
  unfold reduceRead
  extract_lets
  split
  · exact h.ctl _
  · exact eccRead_cmOk (h.ctl _)

theorem deliverLine_cmOk {p l k t a op : Nat} {old : Option (Option Bytes)} {src : Bytes} (h : CmOk cm) :
    CmOk (deliverLine cm p l k t a op old src) := by
  unfold deliverLine
  split
  · exact rxWrite_cmOk h
  · exact h.ctl _
  · exact CmOk.ctl (rxWrite_cmOk h) _

theorem accessNow_cmOk {w : RxWork} {wr : Bool} {i : Nat} (h : CmOk cm) : CmOk (accessNow w wr i cm).1 := by
  unfold accessNow
  extract_lets
  split
  · exact deliverLine_cmOk (h.ctl _)
  · exact reduceRead_cmOk (h.ctl _)

theorem accessAll_cmOk {l : List (Nat × Bool × Nat)} {w : RxWork} (h : CmOk cm) : CmOk (accessAll l w cm).1 := by
  induction l generalizing w cm with
  | nil => exact h
  | cons x r ih =>
    unfold accessAll
    split
    · exact h
    · exact ih (accessNow_cmOk (lateFlits_cmOk (h.ctl _)))

theorem deliverOn_cmOk {w : RxWork} (h : CmOk cm) : CmOk (deliverOn w cm) := by
  unfold deliverOn
  extract_lets t r c others
  have hr : CmOk r.1 := accessAll_cmOk h
  exact ite_cmOk (CmOk.ctl hr _) (CmOk.ctl hr _)

theorem parcelDelivery_cmOk {l k : Nat} (h : CmOk cm) : CmOk (parcelDelivery l k cm) := by
  unfold parcelDelivery
  extract_lets
  split
  · exact ite_cmOk (deliverOn_cmOk h) h
  · refine ite_cmOk h ?_
    split
    · exact h
    · extract_lets got kind p home acts ent fwd c1 c2 c3 free
      clear_value ent free fwd c3
      refine ite_cmOk h ?_
      split
      · exact h.ctl _
      · refine ite_cmOk (h.ctl _) (deliverOn_cmOk (h.ctl _))

theorem landLine_cmOk {t : Nat} (h : CmOk cm) : CmOk (landLine cm t) := by
  unfold landLine
  split
  · exact h
  · split
    · exact rxWrite_cmOk (h.ctl _)
    · exact h

theorem rootLol_cmOk (h : CmOk cm) : CmOk (rootLol cm) := by
  unfold rootLol
  exact ite_cmOk h (chipContain_cmOk (h.ctl _))

theorem timeLost_cmOk {why : Nat} (h : CmOk cm) : CmOk (timeLost why cm) := by
  unfold timeLost
  exact chipContain_cmOk (h.ctl _)

theorem echoCmd_cmOk {l depth seq res t2 : Nat} (h : CmOk cm) : CmOk (echoCmd l depth seq res t2 cm) := by
  unfold echoCmd
  exact ite_cmOk (ite_cmOk (timeLost_cmOk (h.ctl _)) (h.ctl _)) h

theorem holdEnds_cmOk (h : CmOk cm) : CmOk (holdEnds cm) := by
  unfold holdEnds
  exact ite_cmOk (timeLost_cmOk h) h

theorem attempt_cmOk {t : Nat} {b : Slots} {bad step timed : Bool} (h : CmOk cm) : CmOk (attempt cm t b bad step timed) := attempt_ok h

theorem tickTile_cmOk {t : Nat} (h : CmOk cm) : CmOk (tickTile cm t) := by
  unfold tickTile
  extract_lets x stops r c
  have hr : CmOk r.1 := fetched_ok h
  exact ite_cmOk (ite_cmOk h (attempt_cmOk (hr.ctl _))) (h.ctl _)

theorem tickClock_cmOk (h : CmOk cm) : CmOk (tickClock cm) := by
  unfold tickClock
  extract_lets c
  split
  · exact atInstant_cmOk (fun _ => boundary_cmOk) h
  · exact h.ctl _

/-! The shapes of a command. -/
/-- A command on everything keeps the memories' form when its effect does. -/
theorem onAll_memOk {f : CM → CM} (hf : ∀ x, CmOk x → CmOk (f x)) {s t : State} (h : MemOk s.mem) (ht : onAll f s = .next t) :
    MemOk t.mem := by
  rw [onAll_next] at ht
  injection ht with ht
  rw [← ht]
  exact hf (s.ctl, s.mem) h

end Sys2Proof.Machine
end

