-- ==== Sys2Proof/WellFormed.lean ====
section
/-! DEFINITION. Which commands are well formed: every number in the range of the thing it names. -/
namespace Sys2Proof

/-- The block exists (R51). -/
def Blk.inRange : Blk → Bool
  | .hg n => decide (n < 16)
  | .lk n => decide (n < 32)
  | .sp => true
  | .part n => decide (n < 32)
  | .pm n => decide (n < 16)

/-- Whether the operands of a command are in range; `exec` is total on the others too. -/
def Instr.wf : Instr → Bool
  | .registerWrite f _ bytes _ => decide (f ≤ 32 ∧ (bytes = 1 ∨ bytes = 2 ∨ bytes = 4 ∨ bytes = 8))
  | .counterClear f _ _ => decide (f ≤ 32)
  | .enWrite f b _ => decide (f ≤ 32 ∧ b.inRange = true)
  | .stagedCommit => true
  | .drainEnd b => decide (b.inRange = true)
  | .drainTimeout b => decide (b.inRange = true)
  | .passBoundary => true
  | .passWatchdogExpiry p => decide (p < 32)
  | .rootPllLock => true
  | .rootLol => true
  | .refclkLoss => true
  | .timeMessageInterval => true
  | .timeStampMessage link depth seq t1 => decide (link < 32 ∧ depth < 16 ∧ seq < 16 ∧ t1 < 2 ^ 44)
  | .echo link depth seq res t2 => decide (link < 32 ∧ depth < 16 ∧ seq < 16 ∧ res < 2 ^ 24 ∧ t2 < 2 ^ 20)
  | .coarse link depth hi => decide (link < 32 ∧ depth < 16 ∧ hi < 2 ^ 48)
  | .epochMessage link depth plen digest => decide (link < 32 ∧ depth < 16 ∧ plen < 2 ^ 16 ∧ digest < 2 ^ 32)
  | .upstreamLost => true
  | .timeLost => true
  | .arm => true
  | .epochStart => true
  | .stopArm => true
  | .fplanLoad => true
  | .fplanUnload => true
  | .pplanLoad fn => decide (1 ≤ fn ∧ fn ≤ 32)
  | .loadChecksComplete _ => true
  | .pplanWritesComplete _ => true
  | .framePlanActivation => true
  | .fallbackRefresh => true
  | .fallbackFinalRefresh => true
  | .refreshSpan _ => true
  | .resume p => decide (p < 32)
  | .partitionReset p => decide (p < 32)
  | .partResetComplete p => decide (p < 32)
  | .atEn p _ => decide (p < 32)
  | .enAt p pass => decide (p < 32 ∧ pass < 2 ^ 48)
  | .alu t xd xa xb fn => decide (t < 1024 ∧ xd < 32 ∧ xa < 32 ∧ xb < 32 ∧ fn < 2048)
  | .addi t xd xa imm => decide (t < 1024 ∧ xd < 32 ∧ xa < 32 ∧ imm < 65536)
  | .ori t xd xa imm => decide (t < 1024 ∧ xd < 32 ∧ xa < 32 ∧ imm < 65536)
  | .lui t xd imm => decide (t < 1024 ∧ xd < 32 ∧ imm < 65536)
  | .br t cond xa xb tgt => decide (t < 1024 ∧ cond < 16 ∧ xa < 32 ∧ xb < 32 ∧ tgt < 4096)
  | .jr t xd xa => decide (t < 1024 ∧ xd < 32 ∧ xa < 32)
  | .bal t xd tgt => decide (t < 1024 ∧ xd < 32 ∧ tgt < 4096)
  | .loop t lvl _ xc cnt last => decide (t < 1024 ∧ lvl < 2 ∧ xc < 32 ∧ cnt < 4096 ∧ last < 4096)
  | .loopEnd t => decide (t < 1024)
  | .setmode t _ xa imm => decide (t < 1024 ∧ xa < 32 ∧ imm < 256)
  | .waitp t tgt => decide (t < 1024 ∧ tgt < 4096)
  | .waita t ch n => decide (t < 1024 ∧ ch < 8 ∧ n < 65536)
  | .aclr t mask => decide (t < 1024 ∧ mask < 256)
  | .kick t => decide (t < 1024)
  | .trap t code => decide (t < 1024 ∧ code < 65536)
  | .csrr t xd idx => decide (t < 1024 ∧ xd < 32 ∧ idx < 256)
  | .csrw t xa idx => decide (t < 1024 ∧ xa < 32 ∧ idx < 256)
  | .waitt t off => decide (t < 1024 ∧ off < 65536)
  | .ldw t rd xa imm => decide (t < 1024 ∧ rd < 32 ∧ xa < 32 ∧ imm < 2048)
  | .stw t xa xb imm => decide (t < 1024 ∧ xa < 32 ∧ xb < 32 ∧ imm < 2048)
  | .vld t rd xa imm => decide (t < 1024 ∧ rd < 32 ∧ xa < 32 ∧ imm < 2048)
  | .vst t rd xa imm => decide (t < 1024 ∧ rd < 32 ∧ xa < 32 ∧ imm < 2048)
  | .mldw t b g xa imm => decide (t < 1024 ∧ b < 2 ∧ g < 16 ∧ xa < 32 ∧ imm < 2048)
  | .mlds t b xa imm => decide (t < 1024 ∧ b < 2 ∧ xa < 32 ∧ imm < 2048)
  | .mrd t rd k row => decide (t < 1024 ∧ rd < 32 ∧ k < 2 ∧ row < 64)
  | .vbc t rd xa => decide (t < 1024 ∧ rd < 32 ∧ xa < 32)
  | .vext t rd va lane => decide (t < 1024 ∧ rd < 32 ∧ va < 32 ∧ lane < 64)
  | .vins t rd xa lane => decide (t < 1024 ∧ rd < 32 ∧ xa < 32 ∧ lane < 64)
  | .nsend t rd xa xb => decide (t < 1024 ∧ rd < 32 ∧ xa < 32 ∧ xb < 32)
  | .nmeq t xa xb => decide (t < 1024 ∧ xa < 32 ∧ xb < 32)
  | .decw t xa xb => decide (t < 1024 ∧ xa < 32 ∧ xb < 32)
  | .trimw t xa => decide (t < 1024 ∧ xa < 32)
  | .vadd t vd va vb km ty => decide (t < 1024 ∧ vd < 32 ∧ va < 32 ∧ vb < 32 ∧ km < 8 ∧ ty < 4)
  | .vsub t vd va vb km ty => decide (t < 1024 ∧ vd < 32 ∧ va < 32 ∧ vb < 32 ∧ km < 8 ∧ ty < 4)
  | .vmul t vd va vb km ty => decide (t < 1024 ∧ vd < 32 ∧ va < 32 ∧ vb < 32 ∧ km < 8 ∧ ty < 4)
  | .vfma t vd va vb km ty => decide (t < 1024 ∧ vd < 32 ∧ va < 32 ∧ vb < 32 ∧ km < 8 ∧ ty < 4)
  | .vmin t vd va vb km ty => decide (t < 1024 ∧ vd < 32 ∧ va < 32 ∧ vb < 32 ∧ km < 8 ∧ ty < 4)
  | .vmax t vd va vb km ty => decide (t < 1024 ∧ vd < 32 ∧ va < 32 ∧ vb < 32 ∧ km < 8 ∧ ty < 4)
  | .vlog t vd va vb km fn => decide (t < 1024 ∧ vd < 32 ∧ va < 32 ∧ vb < 32 ∧ km < 8 ∧ fn < 64)
  | .vsh t vd va vb km fn => decide (t < 1024 ∧ vd < 32 ∧ va < 32 ∧ vb < 32 ∧ km < 8 ∧ fn < 64)
  | .vcmp t vd va vb km ty fn => decide (t < 1024 ∧ vd < 32 ∧ va < 32 ∧ vb < 32 ∧ km < 8 ∧ ty < 4 ∧ fn < 64)
  | .vsel t vd va vb km => decide (t < 1024 ∧ vd < 32 ∧ va < 32 ∧ vb < 32 ∧ km < 8)
  | .vcvt t vd va km fn => decide (t < 1024 ∧ vd < 32 ∧ va < 32 ∧ km < 8 ∧ fn < 64)
  | .vperm t vd va vb km => decide (t < 1024 ∧ vd < 32 ∧ va < 32 ∧ vb < 32 ∧ km < 8)
  | .wacc t w va km ty fn => decide (t < 1024 ∧ w < 4 ∧ va < 32 ∧ km < 8 ∧ ty < 4 ∧ fn < 64)
  | .wfold t w => decide (t < 1024 ∧ w < 4)
  | .wrd t vd w km ty fn => decide (t < 1024 ∧ vd < 32 ∧ w < 4 ∧ km < 8 ∧ ty < 4 ∧ fn < 64)
  | .wclr t w km => decide (t < 1024 ∧ w < 4 ∧ km < 8)
  | .mma t k r vs q b xs => decide (t < 1024 ∧ k < 2 ∧ r < 64 ∧ vs < 32 ∧ q < 4 ∧ b < 2 ∧ xs < 32)
  | .mclr t k => decide (t < 1024 ∧ k < 2)
  | .mclrr t k r => decide (t < 1024 ∧ k < 2 ∧ r < 64)
  | .endOfPassWait t => decide (t < 1024)
  | .flitInjection t => decide (t < 1024)
  | .flitWrite => true
  | .tileQuiet t => decide (t < 1024)
  | .pcsLock hg _ _ => decide (hg < 16)
  | .dataFrame hg _ _ => decide (hg < 16)
  | .calFrame hg _ _ => decide (hg < 16)
  | .heartbeat hg _ _ => decide (hg < 16)
  | .notice hg _ _ => decide (hg < 16)
  | .decisionReceived hg _ _ => decide (hg < 16)
  | .landingLineWrite t => decide (t < 1024)
  | .landingInstant => true
  | .stationEn hg stn _ => decide (hg < 16 ∧ stn < 64)
  | .rejoin hg stn => decide (hg < 16 ∧ stn < 64)
  | .stationAbsent hg stn => decide (hg < 16 ∧ stn < 64)
  | .verdictArrival => true
  | .dueRelease => true
  | .globalDecision => true
  | .guardDefault => true
  | .decisionHandoff => true
  | .fill nme p => decide (nme < 256 ∧ p < 32)
  | .copy nme p => decide (nme < 256 ∧ p < 32)
  | .compare nme p => decide (nme < 256 ∧ p < 32)
  | .reduce nme p => decide (nme < 256 ∧ p < 32)
  | .tload nme p => decide (nme < 256 ∧ p < 32)
  | .tstore nme p => decide (nme < 256 ∧ p < 32)
  | .nmeSlotTransfer p q slot => decide (p < 32 ∧ q < 512 ∧ slot < 2048)
  | .nmeTileLine t => decide (t < 1024)
  | .nmeCompletion p => decide (p < 32)
  | .pchFailed q why => decide (q < 512 ∧ why < 3)
  | .softRepair q bank row => decide (q < 512 ∧ bank < 32 ∧ row < 262144)
  | .hardRepair q bank row => decide (q < 512 ∧ bank < 32 ∧ row < 262144)
  | .repairDone result spares => decide ((result = 1 ∨ result = 2 ∨ result = 4) ∧ spares < 256)
  | .patrolScrub slot => decide (slot < 2048)
  | .poolRead spid hpa _ => decide (spid.getD 0 < 4096 ∧ hpa < 2 ^ 52)
  | .poolWrite spid hpa _ _ _ => decide (spid.getD 0 < 4096 ∧ hpa < 2 ^ 52)
  | .weirRefill => true
  | .weirPassage h => decide (h < 64)
  | .poolSlot q slot => decide (q < 512 ∧ slot < 2048)
  | .poolReadData => true
  | .poolWriteCompletion => true
  | .identify => true
  | .backgroundOperationStatus => true
  | .getEventRecords h log => decide (h < 64 ∧ log < 5)
  | .clearEventRecords h log _ => decide (h < 64 ∧ log < 5)
  | .getEventInterruptPolicy => true
  | .setEventInterruptPolicy pol => decide (pol < 2 ^ 40)
  | .getTimestamp => true
  | .setTimestamp ns => decide (ns < 2 ^ 64)
  | .getSupportedLogs => true
  | .getLog _ => true
  | .identifyMemoryDevice => true
  | .getDynamicCapacityConfiguration h => decide (h < 64)
  | .getDynamicCapacityExtentList h => decide (h < 64)
  | .addDynamicCapacityResponse h _ => decide (h < 64)
  | .extentMap => true
  | .releaseDynamicCapacity h _ => decide (h < 64)
  | .getDcdInfo => true
  | .getHostDcRegionConfiguration h => decide (h < 64)
  | .setDcRegionConfiguration _ _ => true
  | .getDcRegionExtentLists h => decide (h < 64)
  | .initiateDynamicCapacityAdd h _ policy _ tag _ => decide (h < 64 ∧ policy < 4 ∧ tag < 2 ^ 128)
  | .initiateDynamicCapacityRelease h _ => decide (h < 64)
  | .forcedRelease h _ => decide (h < 64)
  | .hostProxy _ _ => true
  | .unmap => true
  | .offerTimeout => true
  | .scrubComplete st => decide (st < 8)
  | .srDefine r => decide (r < 64)
  | .srDelete r => decide (r < 64)
  | .keyLoad kind slot => decide (kind < 2 ∧ slot < 64)
  | .keyErase kind slot => decide (kind < 2 ∧ slot < 64)
  | .kill h => decide (h < 64)
  | .revive h => decide (h < 64)
  | .pageMove fn _ => decide (fn ≤ 32)
  | .pageDone m _ => decide (m < 16)
  | .endpointFatal cause => decide (1 ≤ cause ∧ cause ≤ 5)
  | .adaptComplete l => decide (l < 32)
  | .alignComplete m => decide (m.link < 32)
  | .ident l pay => decide (l < 32 ∧ pay < 2 ^ 56)
  | .measureComplete l ex => decide (l < 32 ∧ ex.length = 16)
  | .linkUp l => decide (l < 32)
  | .trainTimeout l => decide (l < 32)
  | .parcelLineRead l k => decide (l < 32 ∧ k < 614)
  | .parcelTransmit l => decide (l < 32)
  | .linkFrame l _ _ _ early _ => decide (l < 32 ∧ early.length = 8)
  | .parcelDelivery l k => decide (l < 32 ∧ k < 614)
  | .parcelForward l k => decide (l < 32 ∧ k < 614)
  | .trig link ch src seq => decide (link < 32 ∧ ch < 2 ^ 16 ∧ src < 2 ^ 16 ∧ seq < 256)
  | .fail l pay => decide (l < 32 ∧ pay < 2 ^ 56)
  | .stampWord l pay => decide (l < 32 ∧ pay < 2 ^ 56)
  | .linkFailure l why n => decide (l < 32 ∧ 5 ≤ why ∧ why ≤ 7 ∧ (why = 5 ∧ n ≤ 64 ∨ n = 0))
  | .detourSwitch => true
  | .failClear e => decide (e < 32)
  | .samplePair sb cb => decide (sb < 65536 ∧ cb < 65536)
  | .observerUpdate => true
  | .conversionFault i => decide (i < 4)
  | .conversionFaultEnd i => decide (i < 4)
  | .excitationRampEnd => true
  | .spSet _ => true
  | .homeEdge _ => true
  | .stampWindowWrite => true
  | .stampRelay => true
  | .latchEdge _ => true
  | .latchPop => true
  | .encoderCount => true
  | .encoderRun _ => true
  | .spindleCapture _ => true
  | .ceSample a0 a1 _ => decide (a0 < 4096 ∧ a1 < 4096)
  | .outputInstant => true
  | .ceArm _ => true
  | .start => true
  | .stop => true
  | .qstop => true
  | .clrFault => true
  | .home => true
  | .stopN _ => true
  | .motFaultN _ => true
  | .limitInput _ _ => true
  | .missFault => true
  | .trimTimeout => true
  | .loopOpen x => decide (x < 4)
  | .loopClose x => decide (x < 4)
  | .injectionGo => true
  | .injectionStop => true
  | .injectionEnd => true
  | .captureGo => true
  | .captureAbort => true
  | .captureDone => true
  | .autotuneGo => true
  | .autotuneAbort => true
  | .autotuneComplete => true
  | .autotuneTimeout => true
  | .oscDetect => true
  | .monitorLoad => true
  | .monitorReady => true
  | .ringStart fn r => decide (fn ≤ 32 ∧ r < 5)
  | .ringStop fn r => decide (fn ≤ 32 ∧ r < 5)
  | .ringReset fn r => decide (fn ≤ 32 ∧ r < 5)
  | .submissionDoorbell fn r tail _ => decide (fn ≤ 32 ∧ (r = 0 ∨ r = 2) ∧ tail < 2 ^ 32)
  | .completionDoorbell fn r head => decide (fn ≤ 32 ∧ (r = 1 ∨ r = 3 ∨ r = 4) ∧ head < 2 ^ 32)
  | .commandDispatch fn r => decide (fn ≤ 32 ∧ (r = 0 ∨ r = 2))
  | .nop fn r => decide (fn ≤ 32 ∧ (r = 0 ∨ r = 2))
  | .regWrite fn => decide (fn ≤ 32)
  | .partStart fn => decide (fn ≤ 32)
  | .partStop fn => decide (fn ≤ 32)
  | .partResume fn => decide (fn ≤ 32)
  | .partReset fn => decide (fn ≤ 32)
  | .dumpReq fn => decide (fn ≤ 32)
  | .logRead => true
  | .keepRead => true
  | .dbgReq => true
  | .completionWrite fn r => decide (fn ≤ 32 ∧ (r = 0 ∨ r = 2))
  | .msixMessage fn r => decide (fn ≤ 32 ∧ (r = 1 ∨ r = 3 ∨ r = 4))
  | .functionLevelReset fn => decide (fn ≤ 32)
  | .dbreq req => decide (req.length = 56)
  | .dbresp => true
  | .dbdata _ => true
  | .dbvt _ => true
  | .extest shift balls => decide (shift < 2 ^ 29 ∧ balls < 2 ^ 29)
  | .samplePreload shift balls => decide (shift < 2 ^ 29 ∧ balls < 2 ^ 29)
  | .idcode => true
  | .clamp => true
  | .highz => true
  | .bypass => true
  | .trstN => true
  | .read => true
  | .write data => decide (data.length ≤ 4096)
  | .halt => true
  | .release => true
  | .releaseTakesEffect => true
  | .fstep => true
  | .pstep => true
  | .bstop => true
  | .boundaryStop => true
  | .spillIn _ => true
  | .spillFire ch => decide (ch < 2 ^ 16)
  | .spillOutPulseEnd => true
  | .spillOutClear => true
  | .relayReq l words => decide (l < 32 ∧ words.length ≤ 16 ∧ words.all (· < 2 ^ 56) = true)
  | .relayRsp l words => decide (l < 32 ∧ words.length ≤ 16 ∧ words.all (· < 2 ^ 56) = true)
  | .flood l words => decide (l < 32 ∧ words.length ≤ 16 ∧ words.all (· < 2 ^ 56) = true)
  | .relayTimeout => true
  | .vtTxWrite _ => true
  | .vtTxRead => true
  | .vtRxWrite _ => true
  | .vtRxRead => true
  | .mwdogKick => true
  | .mwdogExpired => true
  | .traceEn p _ => decide (p < 32)
  | .dbgReset => true
  | .dumpStart => true
  | .dumpRecordWrite q slot => decide (q < 512 ∧ slot < 2048)
  | .dumpEnd => true
  | .catalogCompletion => true
  | .catalogFree cat => decide (cat < 16)
  | .holdExpired p => decide (p < 32)
  | .eventRecordEntry => true
  | .eventDelivery => true
  | .por => true
  | .chipReset => true
  | .pwrRst _ => true
  | .chipResetRelease src => decide (src < 3)
  | .hbmTrainingDone failed => decide (failed.all (· < 512) = true)
  | .perstN _ => true
  | .blkReset kind idx => decide (kind < 8 ∧ idx < 32)
  | .keepStoreCheck => true
  | .requestS0 => true
  | .requestS1 => true
  | .requestS2 => true
  | .requestS3 => true
  | .powerTransition => true
  | .powerTransitionComplete => true
  | .temperatureUpdate temps holdMv => decide (temps.length = 24 ∧ holdMv < 65536)
  | .supplySag i => decide (i < 12)
  | .saveComplete result => decide (result < 4)
  | .holdcapCharged _ => true
  | .smbId => true
  | .smbStatus => true
  | .smbStraps => true
  | .tempMax => true
  | .temp i => decide (i < 24)
  | .vsup i _ => decide (i < 11)
  | .vhold => true
  | .capUf => true
  | .clearAlert => true
  | .alertResponse => true
  | .refclkReturn => true
  | .porstNRise straps _ => decide (straps < 8)
  | .monitorImageCheck _ => true
  | .hdmDecoderCommit base => decide (base < 2 ^ 52)
  | .unsupportedMailboxOpcode _ => true
  | .busMasterDisable fn => decide (fn ≤ 32)
  | .msixVectorUnmask fn vec => decide (fn ≤ 32 ∧ vec < 2048)

end Sys2Proof
end

