-- ==== Sys2Proof/Tests/Slice0.lean ====
section
/-! SUPPORT. Tests: ill-formed commands, worked examples of the manual, and for each statement states that meet its hypotheses. -/
namespace Sys2Proof.Tests
open Sys2Proof.Machine Sys2Proof.Safety
-- The theorems are evaluated one after another.
set_option Elab.async false

/-- Registers take values. -/
def put (l : List (Nat × Nat)) (c : Ctl) : Ctl :=
  { c with regs := ⟨l.foldl (fun r e => insertAt e.1 (BitVec.ofNat 32 e.2) r) c.regs.entries⟩ }
/-- A state with a changed control state. -/
def chg (s : State) (f : Ctl → Ctl) : State := { s with ctl := f s.ctl }
/-- The root PLL is locked, the device memory trained, no epoch runs. -/
def up (l : List (Nat × Nat) := []) : State :=
  chg State.reset (fun c => put ((0x100, 1) :: (0x230, 1280) :: l) { c with pwr := { c.pwr with train := false, ready := true, trained := 0xFF } })
/-- A frame plan: tile 0 and granule 0 belong to partition 0, with every phase of router 0 and the slots of pseudo-channel 0. -/
def plan0 : FramePlan :=
  { planId := 1, tileGrant := [0], granules := [0], noc := List.replicate 64 0, hbm := List.replicate 80 0 }
/-- Pass 5 of an epoch, 100 tc after its boundary, with that plan; partition 0 is ON. -/
def ep (l : List (Nat × Nat) := []) : State :=
  chg (up ((0x100004, 1) :: l)) (fun c => { c with
    time := { c.time with epoch := true, pass := 5, passAt := 6400, ftc := 6500 }
    plan := { c.plan with active := some plan0 } })
/-- Tile 0 stands in its pass. -/
def tl (f : Tile → Tile := id) (l : List (Nat × Nat) := []) : State :=
  chg (ep l) (fun c => putTile c 0 (f { run := .run, pc := 4 }))

/-- A ring entry with an opcode and fields: offset, length, value. -/
def ent (opc : Nat) (l : List (Nat × Nat × Nat) := []) : Bytes :=
  l.foldl (fun b e => b.take e.1 ++ leBytes e.2.1 e.2.2 ++ b.drop (e.1 + e.2.1)) (leBytes 64 opc)
/-- A ring has dispatched a command. -/
def cmd (fn r : Nat) (e : Bytes) (s : State) : State := chg s (fun c => updRing c fn r (fun x => { x with todo := [e] }))
/-- The loader stands in a stage. -/
def ld (l : Loader) (s : State) : State := chg s (fun c => { c with plan := { c.plan with loader := l } })
/-- The bytes of a native frame on the wire: TYPE, station, SEQ and what follows. -/
def fr (typ q : Nat) (b : Bytes) : Bytes :=
  let b := [BitVec.ofNat 8 typ, 1, BitVec.ofNat 8 q, 0] ++ leBytes 2 (8 + b.length) ++ [7, 0] ++ b
  startBytes ++ b ++ leBytes 4 (crc32c b)
/-- Headgate `n` is ON and locked, its station `q` in a state. -/
def hgOn (n q : Nat) (st : Nat := 1) : List (Nat × Nat) :=
  [(hgBase n, 3 * 2 ^ 16), (hgBase n + 8, 0x100), (hgStat n, 0x11), (hgStn n q 0, 0x100 + st)]
/-- A pending entry of an event. -/
def pe : Pend := { hg := 15, stn := 63, evn := 9, part := 0, ts := 0, tsFtc := 6000, lpass := 3, k := 1 }
/-- A frame that has been admitted. -/
def lnd : Landing := { due := 6600, hg := 15, stn := 63, evn := 9, part := 0, tile := 0, ts := 0, tsFtc := 6195, lpass := 5, cal := false }
/-- A frame plan that lands frames of context 63 × 16 of headgate 15 in tile 0, with LAND phases at router 0. -/
def planL : FramePlan :=
  { plan0 with
    noc := List.replicate 64 0x43
    landing := leBytes 2 (1024 * 15 + 16 * 63) ++ [0, 1] ++ leBytes 2 0 ++ [1, 1] ++ leBytes 4 0 ++ leBytes 4 4096 }
/-- A headgate that can take a frame in. -/
def hgr (fl : Nat) : State :=
  chg (ep (hgOn 15 63 ++ [(hgBase 15 + 0x2000 + 8 * (16 * 63), fl + 7 * 16 + 4 * 256), (hgBase 15 + 0x2004 + 8 * (16 * 63), 4)]))
    (fun c => { c with plan := { c.plan with active := some planL } })
/-- A near-memory descriptor: OP, NOTIFY, length, source, destination and further fields. -/
def nd (op notify len src dst : Nat) (l : List (Nat × Nat × Nat) := []) : Bytes :=
  ent op ([(3, 1, notify), (4, 4, len), (8, 8, src), (0x10, 8, dst)] ++ l)
/-- An operation accepted by NME 0 for partition 0. -/
def nop (d : Bytes) : NmeOp := { tile := 0, part := 0, lead := 0, desc := d, acc := 6450, accTs := 0 }
/-- Partition 0 has one operation. -/
def nm (o : NmeOp) : State := chg ep (fun c => putOps c 0 [o])
/-- A descriptor on its way to NME 0. -/
def nh (d : Bytes) : NmeHand := { tile := 0, part := 0, nme := 0, desc := d, due := 6520 }
/-- That descriptor waits, with the tile's credit taken. -/
def nw (d : Bytes) : State := chg (tl (fun x => { x with nmeq := 1 })) (fun c => { c with noc := { c.noc with nmeq := [nh d] } })
/-- Host identity 63 holds granules 2 and 3 through entry 7; its weir has tokens and trackers, its key is loaded. -/
def po (l : List (Nat × Nat) := []) (f : PoolSt → PoolSt := id) : State :=
  chg (up ([(hitLo 0, 2 ^ 31), (hitLo 63, 2 ^ 31 + 5), (weCfg 63, 16 * 2 ^ 16 + 100), (weTrk 63, 8), (weUsed 63, 1), (weTok 63, 1590),
      (0x2604C, 2 ^ 31), (0x26050, 1)] ++ l))
    (fun c => { c with pool := f { c.pool with
      hrt := ⟨[(7, 2 ^ 63 + 63 * 2 ^ 48 + 2 ^ 32 + 2)]⟩
      weir := ⟨[(63, 16 * 2 ^ 16 + 100)]⟩
      gt := ⟨[(2, 4 * 2 ^ 16 + 63), (3, 4 * 2 ^ 16 + 63), (8, 2 * 2 ^ 16), (9, 2 * 2 ^ 16), (11, 2 * 2 ^ 16)]⟩ } })
/-- A request of that host, and its line. -/
def pr (kind : Nat) : PoolReq := { tag := 1, host := 63, kind := kind, dpa := 2 * 2 ^ 28 + 64, data := 5, mask := 2 ^ 64 - 1 }
def pln (kind : Nat) (w : Bool) : PoolLine := { req := pr kind, write := w, key := 2 ^ 256 + 2, elig := some 0 }
/-- A page command of mover 15. -/
def pc (dir moved : Nat) : PmCmd :=
  { ref := { fn := 0, ring := 0, cid := 9 }, dir := dir, host := 63, psize := 0, npages := 1, dpa := 2 * 2 ^ 28, haddr := 8192, moved := moved }
/-- A transfer of partition 0 on link 31: flags, tile, peer and address. -/
def xe (fl t peer addr : Nat) : Bytes :=
  leBytes 2 1 ++ [31, BitVec.ofNat 8 fl] ++ leBytes 2 0 ++ leBytes 2 24 ++ [1, 0] ++ leBytes 2 t ++ leBytes 2 peer ++ [0, 0] ++ leBytes 4 addr ++
    zeroBytes 12
/-- Link 31 is ON at a step of its training; partition 0 runs with one transfer and owns every slot of the links. -/
def lk (step : Nat) (e : Bytes := []) (f : LkSt → LkSt := id) (l : List (Nat × Nat) := []) : State :=
  chg (ep ((lkStat 31, step * 256 + 1) :: l)) (fun c => { c with
    lk := f c.lk
    plan := { c.plan with
      active := some { plan0 with link := List.replicate 768 0 }
      loaded := ⟨[(0, some { xfer := e })]⟩ } })
/-- The spindle is ON in an observer state, with full excitation. -/
def spn (obs : Nat) (l : List (Nat × Nat) := []) (f : SpSt → SpSt := id) : State :=
  chg (up ((rSpStat, 1 + obs * 256 + (if obs = 1 then 0x30 else 0)) :: (sp 0x08, 0x10000000 + 1000) :: l))
    (fun c => { c with sp := f { c.sp with exc := 2 } })
/-- The stamp of pass 5. -/
def stp : AngleStamp := { pass := 5, source := 0, angle := 77, speed := 3, mt := 9, status := 1 }
/-- A frame plan and parameters that give partition 0 a stamp window at 4096 of tile 0, in SYS phases. -/
def stw (l : List (Nat × Nat) := []) (f : SpSt → SpSt := id) : State :=
  chg (ep l) (fun c => { c with
    sp := f { c.sp with stamp := some stp }
    plan := { c.plan with
      active := some { plan0 with noc := List.replicate 64 0x44, partGrant := zeroBytes 8 ++ [1] ++ zeroBytes 7 }
      loaded := ⟨[(0, some { params := zeroBytes 8 ++ leBytes 4 4096 ++ zeroBytes 20 })]⟩ } })
/-- The control engine is armed with sound timing and in a state. -/
def cen (m : Nat) (l : List (Nat × Nat) := []) (f : CeSt → CeSt := id) : State :=
  chg (up ([(rCeStat, m), (rCeCtrl, 1), (ce 0x104, 20), (ce 0x100, 256), (ce 0xA4, 0x100000), (ce 0xA8, 0x10000), (ce 0xA0, 1000),
      (ce 0xBC, 100), (ce 0xD4, 500)] ++ l)) (fun c => { c with ce := f c.ce })
/-- Function 32's rings 0 and 1 run with 16 entries, signals on; the first has hidden state. -/
def rg (f : Ring → Ring := id) (l : List (Nat × Nat) := []) (g : Ring → Ring := id) : State :=
  chg (up ([(ringCtrl 32 0, 2 ^ 29 + 2 ^ 26), (ringCtrl 32 1, 2 ^ 29 + 2 ^ 26 + 2 ^ 16 + 63), (ringStat 32 0, 1), (ringStat 32 1, 1),
      (ringBase 32 1, 0x10000)] ++ l))
    (fun c => updRing (updRing c 32 0 f) 32 1 g)
/-- A log record. -/
def lg (n : Nat) : EvRec := { code := 1, sev := 0, part := 0xFF, unit := 0, ts := 0, seq := n, count := 1, detail := 0 }
/-- The smallest image of a resident monitor. -/
def mon : Bytes :=
  let h := leBytes 4 0x4E4D5A50 ++ leBytes 2 1 ++ zeroBytes 2 ++ leBytes 4 128 ++ leBytes 4 0 ++ leBytes 8 77 ++ zeroBytes 32 ++
    leBytes 4 (crc32c (zeroBytes 64))
  h ++ leBytes 4 (crc32c h) ++ zeroBytes 64
/-- The bytes of a hub request. -/
def hb (op : Nat) (l : List (Nat × Nat × Nat)) : Bytes := (ent op l).take 56
/-- A request of the debug ring, or of the scan port. -/
def hq (op : Nat) (l : List (Nat × Nat × Nat)) (o : Nat := 1) : HubReq :=
  { origin := o, ref := if o = 1 then refOf 0 2 (ent 0x60) else {}, bytes := hb op l, acc := 6500 }
/-- That request is the first of the hub's two. -/
def hw (q : HubReq) (s : State) : State := chg s (fun c => { c with db := { c.db with reqs := [q, hq 0x10 []] } })
/-- Link 31 is UP on the spillway tree and the route to Plezors of group 3. -/
def lu (s : State) : State :=
  chg s (fun c => put [(lkStat 31, 0x501), (lkGrt 3, 2 ^ 31 + 31 * 2 ^ 15), (hub 0x100, 2 ^ 31)] c)
/-- A Plezor in a request's UNIT. -/
def fu (p u : Nat) : Nat × Nat × Nat := (4, 4, p * 2 ^ 16 + u)
/-- A dump request of partition 0, or of the Plezor. -/
def dq (scope : Nat := 0) (ref : Option CmdRef := none) : DumpReq :=
  { trigger := 1, scope := scope, mask := 1, origin := 0, named := 5, pass := 5, ref := ref }
/-- Partition 0's tile is quiet; the region is granule 0; the dump sequencer is in a state. -/
def dmp (f : DumpSt → DumpSt) (l : List (Nat × Nat) := [(0x4024, 1)]) : State :=
  chg (tl (fun x => { x with halted := true, quiet := true }) l) (fun c => { c with dump := f c.dump })
/-- The dump that runs, its entries in a state. -/
def dru (st : Nat) (ref : Option CmdRef := none) : Dump :=
  { req := dq 0 ref, cat := 15, ents := [{ unit := 0, kind := 2, state := st, off := 2 ^ 20, len := 8256 }], base := 2 ^ 20, total := 8256,
    startTs := 0, seq := 1 }
/-- Every catalog is in use. -/
def cats16 : SMap (Option (Nat × Nat)) := ⟨(List.range 16).map (fun i => (i, some (2 ^ 20 + i * 64, 64)))⟩
/-- A cause of an event. -/
def ca (code sev : Nat) : EvCause := { code := code, sev := sev, part := 0xFF, unit := 0, ts := 3, detail := 9, tc := 6500 }
/-- The collector is in a state; the monitor runs. -/
def evs (f : EventSt → EventSt) (l : List (Nat × Nat) := []) : State :=
  chg (up ((0x1004, 2) :: l)) (fun c => { c with ev := f c.ev })
/-- The power manager is in a state. -/
def pw (f : PwrSt → PwrSt) (s : State := up) : State := chg s (fun c => { c with pwr := f c.pwr })
/-- A save in progress. -/
def sav : SaveSt := { cause := 2, wait := false, ts := 7, ftc := 100, pass := 3, flags := 0 }

/-! Well-formedness: for each check, a command that breaks it alone. -/
/-- Each breaks one check of its row. -/
theorem test_ill_formed_refused_1 : ([
    .registerWrite 33 0 8 0, .registerWrite 32 0 0 0, .counterClear 33 0 0, .enWrite 33 (.hg 15) false, .enWrite 32 (.hg 16) false,
    .enWrite 32 (.lk 32) false, .enWrite 32 (.part 32) false, .enWrite 32 (.pm 16) false, .drainEnd (.hg 16), .drainEnd (.lk 32),
    .drainEnd (.part 32), .drainEnd (.pm 16), .drainTimeout (.hg 16), .drainTimeout (.lk 32), .drainTimeout (.part 32),
    .drainTimeout (.pm 16), .passWatchdogExpiry 32, .timeStampMessage 32 15 15 (2 ^ 44 - 1), .timeStampMessage 31 16 15 (2 ^ 44 - 1),
    .timeStampMessage 31 15 16 (2 ^ 44 - 1), .timeStampMessage 31 15 15 (2 ^ 44), .echo 32 15 15 (2 ^ 24 - 1) (2 ^ 20 - 1),
    .echo 31 16 15 (2 ^ 24 - 1) (2 ^ 20 - 1), .echo 31 15 16 (2 ^ 24 - 1) (2 ^ 20 - 1), .echo 31 15 15 (2 ^ 24) (2 ^ 20 - 1),
    .echo 31 15 15 (2 ^ 24 - 1) (2 ^ 20), .coarse 32 15 (2 ^ 48 - 1), .coarse 31 16 (2 ^ 48 - 1), .coarse 31 15 (2 ^ 48),
    .epochMessage 32 15 (2 ^ 16 - 1) (2 ^ 32 - 1), .epochMessage 31 16 (2 ^ 16 - 1) (2 ^ 32 - 1),
    .epochMessage 31 15 (2 ^ 16) (2 ^ 32 - 1), .epochMessage 31 15 (2 ^ 16 - 1) (2 ^ 32), .pplanLoad 0, .pplanLoad 33, .resume 32,
    .partitionReset 32, .partResetComplete 32, .atEn 32 false, .enAt 32 (2 ^ 48 - 1), .enAt 31 (2 ^ 48), .alu 1024 31 31 31 2047,
    .alu 1023 32 31 31 2047, .alu 1023 31 32 31 2047, .alu 1023 31 31 32 2047, .alu 1023 31 31 31 2048, .addi 1024 31 31 65535,
    .addi 1023 32 31 65535, .addi 1023 31 32 65535, .addi 1023 31 31 65536, .ori 1024 31 31 65535, .ori 1023 32 31 65535,
    .ori 1023 31 32 65535, .ori 1023 31 31 65536, .lui 1024 31 65535, .lui 1023 32 65535, .lui 1023 31 65536, .br 1024 15 31 31 4095,
    .br 1023 16 31 31 4095, .br 1023 15 32 31 4095 ] : List Instr).all (fun i => i.wf = false) = true := by decide +kernel

/-- Each breaks one check of its row. -/
theorem test_ill_formed_refused_2 : ([
    .br 1023 15 31 32 4095, .br 1023 15 31 31 4096, .jr 1024 31 31, .jr 1023 32 31, .jr 1023 31 32, .bal 1024 31 4095,
    .bal 1023 32 4095, .bal 1023 31 4096, .loop 1024 1 false 31 4095 4095, .loop 1023 2 false 31 4095 4095,
    .loop 1023 1 false 32 4095 4095, .loop 1023 1 false 31 4096 4095, .loop 1023 1 false 31 4095 4096, .loopEnd 1024,
    .setmode 1024 false 31 255, .setmode 1023 false 32 255, .setmode 1023 false 31 256, .waitp 1024 4095, .waitp 1023 4096,
    .waita 1024 7 65535, .waita 1023 8 65535, .waita 1023 7 65536, .aclr 1024 255, .aclr 1023 256, .kick 1024, .trap 1024 65535,
    .trap 1023 65536, .csrr 1024 31 255, .csrr 1023 32 255, .csrr 1023 31 256, .csrw 1024 31 255, .csrw 1023 32 255, .csrw 1023 31 256,
    .waitt 1024 65535, .waitt 1023 65536, .ldw 1024 31 31 2047, .ldw 1023 32 31 2047, .ldw 1023 31 32 2047, .ldw 1023 31 31 2048,
    .stw 1024 31 31 2047, .stw 1023 32 31 2047, .stw 1023 31 32 2047, .stw 1023 31 31 2048, .vld 1024 31 31 2047, .vld 1023 32 31 2047,
    .vld 1023 31 32 2047, .vld 1023 31 31 2048, .vst 1024 31 31 2047, .vst 1023 32 31 2047, .vst 1023 31 32 2047, .vst 1023 31 31 2048,
    .mldw 1024 1 15 31 2047, .mldw 1023 2 15 31 2047, .mldw 1023 1 16 31 2047, .mldw 1023 1 15 32 2047, .mldw 1023 1 15 31 2048,
    .mlds 1024 1 31 2047, .mlds 1023 2 31 2047, .mlds 1023 1 32 2047, .mlds 1023 1 31 2048 ] : List Instr).all (fun i => i.wf = false) = true := by decide +kernel

/-- Each breaks one check of its row. -/
theorem test_ill_formed_refused_3 : ([
    .mrd 1024 31 1 63, .mrd 1023 32 1 63, .mrd 1023 31 2 63, .mrd 1023 31 1 64, .vbc 1024 31 31, .vbc 1023 32 31, .vbc 1023 31 32,
    .vext 1024 31 31 63, .vext 1023 32 31 63, .vext 1023 31 32 63, .vext 1023 31 31 64, .vins 1024 31 31 63, .vins 1023 32 31 63,
    .vins 1023 31 32 63, .vins 1023 31 31 64, .nsend 1024 31 31 31, .nsend 1023 32 31 31, .nsend 1023 31 32 31, .nsend 1023 31 31 32,
    .nmeq 1024 31 31, .nmeq 1023 32 31, .nmeq 1023 31 32, .decw 1024 31 31, .decw 1023 32 31, .decw 1023 31 32, .trimw 1024 31,
    .trimw 1023 32, .vadd 1024 31 31 31 7 3, .vadd 1023 32 31 31 7 3, .vadd 1023 31 32 31 7 3, .vadd 1023 31 31 32 7 3,
    .vadd 1023 31 31 31 8 3, .vadd 1023 31 31 31 7 4, .vsub 1024 31 31 31 7 3, .vsub 1023 32 31 31 7 3, .vsub 1023 31 32 31 7 3,
    .vsub 1023 31 31 32 7 3, .vsub 1023 31 31 31 8 3, .vsub 1023 31 31 31 7 4, .vmul 1024 31 31 31 7 3, .vmul 1023 32 31 31 7 3,
    .vmul 1023 31 32 31 7 3, .vmul 1023 31 31 32 7 3, .vmul 1023 31 31 31 8 3, .vmul 1023 31 31 31 7 4, .vfma 1024 31 31 31 7 3,
    .vfma 1023 32 31 31 7 3, .vfma 1023 31 32 31 7 3, .vfma 1023 31 31 32 7 3, .vfma 1023 31 31 31 8 3, .vfma 1023 31 31 31 7 4,
    .vmin 1024 31 31 31 7 3, .vmin 1023 32 31 31 7 3, .vmin 1023 31 32 31 7 3, .vmin 1023 31 31 32 7 3, .vmin 1023 31 31 31 8 3,
    .vmin 1023 31 31 31 7 4, .vmax 1024 31 31 31 7 3, .vmax 1023 32 31 31 7 3, .vmax 1023 31 32 31 7 3 ] : List Instr).all (fun i => i.wf = false) = true := by decide +kernel

/-- Each breaks one check of its row. -/
theorem test_ill_formed_refused_4 : ([
    .vmax 1023 31 31 32 7 3, .vmax 1023 31 31 31 8 3, .vmax 1023 31 31 31 7 4, .vlog 1024 31 31 31 7 63, .vlog 1023 32 31 31 7 63,
    .vlog 1023 31 32 31 7 63, .vlog 1023 31 31 32 7 63, .vlog 1023 31 31 31 8 63, .vlog 1023 31 31 31 7 64, .vsh 1024 31 31 31 7 63,
    .vsh 1023 32 31 31 7 63, .vsh 1023 31 32 31 7 63, .vsh 1023 31 31 32 7 63, .vsh 1023 31 31 31 8 63, .vsh 1023 31 31 31 7 64,
    .vcmp 1024 31 31 31 7 3 63, .vcmp 1023 32 31 31 7 3 63, .vcmp 1023 31 32 31 7 3 63, .vcmp 1023 31 31 32 7 3 63,
    .vcmp 1023 31 31 31 8 3 63, .vcmp 1023 31 31 31 7 4 63, .vcmp 1023 31 31 31 7 3 64, .vsel 1024 31 31 31 7, .vsel 1023 32 31 31 7,
    .vsel 1023 31 32 31 7, .vsel 1023 31 31 32 7, .vsel 1023 31 31 31 8, .vcvt 1024 31 31 7 63, .vcvt 1023 32 31 7 63,
    .vcvt 1023 31 32 7 63, .vcvt 1023 31 31 8 63, .vcvt 1023 31 31 7 64, .vperm 1024 31 31 31 7, .vperm 1023 32 31 31 7,
    .vperm 1023 31 32 31 7, .vperm 1023 31 31 32 7, .vperm 1023 31 31 31 8, .wacc 1024 3 31 7 3 63, .wacc 1023 4 31 7 3 63,
    .wacc 1023 3 32 7 3 63, .wacc 1023 3 31 8 3 63, .wacc 1023 3 31 7 4 63, .wacc 1023 3 31 7 3 64, .wfold 1024 3, .wfold 1023 4,
    .wrd 1024 31 3 7 3 63, .wrd 1023 32 3 7 3 63, .wrd 1023 31 4 7 3 63, .wrd 1023 31 3 8 3 63, .wrd 1023 31 3 7 4 63,
    .wrd 1023 31 3 7 3 64, .wclr 1024 3 7, .wclr 1023 4 7, .wclr 1023 3 8, .mma 1024 1 63 31 3 1 31, .mma 1023 2 63 31 3 1 31,
    .mma 1023 1 64 31 3 1 31, .mma 1023 1 63 32 3 1 31, .mma 1023 1 63 31 4 1 31, .mma 1023 1 63 31 3 2 31 ] : List Instr).all (fun i => i.wf = false) = true := by decide +kernel

/-- Each breaks one check of its row. -/
theorem test_ill_formed_refused_5 : ([
    .mma 1023 1 63 31 3 1 32, .mclr 1024 1, .mclr 1023 2, .mclrr 1024 1 63, .mclrr 1023 2 63, .mclrr 1023 1 64, .endOfPassWait 1024,
    .flitInjection 1024, .tileQuiet 1024, .pcsLock 16 false false, .dataFrame 16 {} [], .calFrame 16 {} [], .heartbeat 16 {} [],
    .notice 16 {} [], .decisionReceived 16 {} [], .landingLineWrite 1024, .stationEn 16 63 false, .stationEn 15 64 false, .rejoin 16 63,
    .rejoin 15 64, .stationAbsent 16 63, .stationAbsent 15 64, .fill 256 31, .fill 255 32, .copy 256 31, .copy 255 32, .compare 256 31,
    .compare 255 32, .reduce 256 31, .reduce 255 32, .tload 256 31, .tload 255 32, .tstore 256 31, .tstore 255 32,
    .nmeSlotTransfer 32 511 2047, .nmeSlotTransfer 31 512 2047, .nmeSlotTransfer 31 511 2048, .nmeTileLine 1024, .nmeCompletion 32,
    .pchFailed 512 2, .pchFailed 511 3, .softRepair 512 31 262143, .softRepair 511 32 262143, .softRepair 511 31 262144,
    .hardRepair 512 31 262143, .hardRepair 511 32 262143, .hardRepair 511 31 262144, .repairDone 0 255, .repairDone 4 256,
    .patrolScrub 2048, .poolRead (some 4096) (2 ^ 52 - 1) 0, .poolRead (some 4095) (2 ^ 52) 0,
    .poolWrite (some 4096) (2 ^ 52 - 1) 0 0 0, .poolWrite (some 4095) (2 ^ 52) 0 0 0, .weirPassage 64, .poolSlot 512 2047,
    .poolSlot 511 2048, .getEventRecords 64 4, .getEventRecords 63 5, .clearEventRecords 64 4 0 ] : List Instr).all (fun i => i.wf = false) = true := by decide +kernel

/-- Each breaks one check of its row. -/
theorem test_ill_formed_refused_6 : ([
    .clearEventRecords 63 5 0, .setEventInterruptPolicy (2 ^ 40), .setTimestamp (2 ^ 64), .getDynamicCapacityConfiguration 64,
    .getDynamicCapacityExtentList 64, .addDynamicCapacityResponse 64 [], .releaseDynamicCapacity 64 [],
    .getHostDcRegionConfiguration 64, .getDcRegionExtentLists 64, .initiateDynamicCapacityAdd 64 0 3 false (2 ^ 128 - 1) [],
    .initiateDynamicCapacityAdd 63 0 4 false (2 ^ 128 - 1) [], .initiateDynamicCapacityAdd 63 0 3 false (2 ^ 128) [],
    .initiateDynamicCapacityRelease 64 [], .forcedRelease 64 [], .scrubComplete 8, .srDefine 64, .srDelete 64, .keyLoad 2 63,
    .keyLoad 1 64, .keyErase 2 63, .keyErase 1 64, .kill 64, .revive 64, .pageMove 33 none, .pageDone 16 none, .endpointFatal 0,
    .endpointFatal 6, .adaptComplete 32, .alignComplete ⟨32, 0, 0, 0⟩, .ident 32 (2 ^ 56 - 1), .ident 31 (2 ^ 56),
    .measureComplete 32 (List.replicate 16 (0, 0)), .measureComplete 31 (List.replicate 15 (0, 0)), .linkUp 32, .trainTimeout 32,
    .parcelLineRead 32 613, .parcelLineRead 31 614, .parcelTransmit 32,
    .linkFrame 32 0 0 0 (List.replicate 8 0) [], .linkFrame 31 0 0 0 (List.replicate 7 0) [], .parcelDelivery 32 613, .parcelDelivery 31 614,
    .parcelForward 32 613, .parcelForward 31 614, .trig 32 (2 ^ 16 - 1) (2 ^ 16 - 1) 255, .trig 31 (2 ^ 16) (2 ^ 16 - 1) 255,
    .trig 31 (2 ^ 16 - 1) (2 ^ 16) 255, .trig 31 (2 ^ 16 - 1) (2 ^ 16 - 1) 256, .fail 32 (2 ^ 56 - 1), .fail 31 (2 ^ 56),
    .stampWord 32 (2 ^ 56 - 1), .stampWord 31 (2 ^ 56), .linkFailure 32 7 0, .linkFailure 31 4 0, .linkFailure 31 8 0, .linkFailure 31 5 65,
    .linkFailure 31 6 1, .failClear 32,
    .samplePair 65536 65535, .samplePair 65535 65536, .conversionFault 4 ] : List Instr).all (fun i => i.wf = false) = true := by decide +kernel

/-- Each breaks one check of its row. -/
theorem test_ill_formed_refused_7 : ([
    .conversionFaultEnd 4, .ceSample 4096 4095 false, .ceSample 4095 4096 false, .loopOpen 4, .loopClose 4, .ringStart 33 4,
    .ringStart 32 5, .ringStop 33 4, .ringStop 32 5, .ringReset 33 4, .ringReset 32 5, .submissionDoorbell 33 2 (2 ^ 32 - 1) [],
    .submissionDoorbell 32 1 (2 ^ 32 - 1) [], .submissionDoorbell 32 2 (2 ^ 32) [], .completionDoorbell 33 4 (2 ^ 32 - 1),
    .completionDoorbell 32 0 (2 ^ 32 - 1), .completionDoorbell 32 4 (2 ^ 32), .commandDispatch 33 2, .commandDispatch 32 1, .nop 33 2,
    .nop 32 1, .regWrite 33, .partStart 33, .partStop 33, .partResume 33, .partReset 33, .dumpReq 33, .completionWrite 33 2,
    .completionWrite 32 1, .msixMessage 33 4, .msixMessage 32 0, .functionLevelReset 33, .dbreq (List.replicate 55 0),
    .extest (2 ^ 29) (2 ^ 29 - 1), .extest (2 ^ 29 - 1) (2 ^ 29), .samplePreload (2 ^ 29) (2 ^ 29 - 1),
    .samplePreload (2 ^ 29 - 1) (2 ^ 29), .write (List.replicate 4097 0), .spillFire (2 ^ 16), .relayReq 32 (List.replicate 16 0),
    .relayReq 31 (List.replicate 17 0), .relayReq 31 ([2 ^ 56]), .relayRsp 32 (List.replicate 16 0),
    .relayRsp 31 (List.replicate 17 0), .relayRsp 31 ([2 ^ 56]), .flood 32 (List.replicate 16 0), .flood 31 (List.replicate 17 0),
    .flood 31 ([2 ^ 56]), .traceEn 32 0, .dumpRecordWrite 512 2047, .dumpRecordWrite 511 2048, .catalogFree 16, .holdExpired 32,
    .chipResetRelease 3, .hbmTrainingDone ([512]), .blkReset 8 31, .blkReset 7 32, .temperatureUpdate (List.replicate 23 0) 65535,
    .temperatureUpdate (List.replicate 24 0) 65536, .supplySag 12 ] : List Instr).all (fun i => i.wf = false) = true := by decide +kernel

/-- Each breaks one check of its row. -/
theorem test_ill_formed_refused_8 : ([
    .saveComplete 4, .temp 24, .vsup 11 none, .porstNRise 8 false, .hdmDecoderCommit (2 ^ 52), .busMasterDisable 33,
    .msixVectorUnmask 33 2047, .msixVectorUnmask 32 2048 ] : List Instr).all (fun i => i.wf = false) = true := by decide +kernel

/-- Each stands at the last value that its checks allow. -/
theorem test_well_formed_accepted_1 : ([
    .registerWrite 32 0 8 0, .counterClear 32 0 0, .enWrite 32 (.hg 15) false, .drainEnd (.hg 15), .drainTimeout (.hg 15),
    .passWatchdogExpiry 31, .timeStampMessage 31 15 15 (2 ^ 44 - 1), .echo 31 15 15 (2 ^ 24 - 1) (2 ^ 20 - 1),
    .coarse 31 15 (2 ^ 48 - 1), .epochMessage 31 15 (2 ^ 16 - 1) (2 ^ 32 - 1), .pplanLoad 32, .resume 31, .partitionReset 31,
    .partResetComplete 31, .atEn 31 false, .enAt 31 (2 ^ 48 - 1), .alu 1023 31 31 31 2047, .addi 1023 31 31 65535,
    .ori 1023 31 31 65535, .lui 1023 31 65535, .br 1023 15 31 31 4095, .jr 1023 31 31, .bal 1023 31 4095,
    .loop 1023 1 false 31 4095 4095, .loopEnd 1023, .setmode 1023 false 31 255, .waitp 1023 4095, .waita 1023 7 65535, .aclr 1023 255,
    .kick 1023, .trap 1023 65535, .csrr 1023 31 255, .csrw 1023 31 255, .waitt 1023 65535, .ldw 1023 31 31 2047, .stw 1023 31 31 2047,
    .vld 1023 31 31 2047, .vst 1023 31 31 2047, .mldw 1023 1 15 31 2047, .mlds 1023 1 31 2047, .mrd 1023 31 1 63, .vbc 1023 31 31,
    .vext 1023 31 31 63, .vins 1023 31 31 63, .nsend 1023 31 31 31, .nmeq 1023 31 31, .decw 1023 31 31, .trimw 1023 31,
    .vadd 1023 31 31 31 7 3, .vsub 1023 31 31 31 7 3, .vmul 1023 31 31 31 7 3, .vfma 1023 31 31 31 7 3, .vmin 1023 31 31 31 7 3,
    .vmax 1023 31 31 31 7 3, .vlog 1023 31 31 31 7 63, .vsh 1023 31 31 31 7 63, .vcmp 1023 31 31 31 7 3 63, .vsel 1023 31 31 31 7,
    .vcvt 1023 31 31 7 63, .vperm 1023 31 31 31 7 ] : List Instr).all (fun i => i.wf = true) = true := by decide +kernel

/-- Each stands at the last value that its checks allow. -/
theorem test_well_formed_accepted_2 : ([
    .wacc 1023 3 31 7 3 63, .wfold 1023 3, .wrd 1023 31 3 7 3 63, .wclr 1023 3 7, .mma 1023 1 63 31 3 1 31, .mclr 1023 1,
    .mclrr 1023 1 63, .endOfPassWait 1023, .flitInjection 1023, .tileQuiet 1023, .pcsLock 15 false false, .dataFrame 15 {} [],
    .calFrame 15 {} [], .heartbeat 15 {} [], .notice 15 {} [], .decisionReceived 15 {} [], .landingLineWrite 1023, .stationEn 15 63 false,
    .rejoin 15 63, .stationAbsent 15 63, .fill 255 31, .copy 255 31, .compare 255 31, .reduce 255 31, .tload 255 31, .tstore 255 31,
    .nmeSlotTransfer 31 511 2047, .nmeTileLine 1023, .nmeCompletion 31, .pchFailed 511 2, .softRepair 511 31 262143,
    .hardRepair 511 31 262143, .repairDone 4 255, .patrolScrub 2047, .poolRead (some 4095) (2 ^ 52 - 1) 0,
    .poolWrite (some 4095) (2 ^ 52 - 1) 0 0 0, .weirPassage 63, .poolSlot 511 2047, .getEventRecords 63 4, .clearEventRecords 63 4 0,
    .setEventInterruptPolicy (2 ^ 40 - 1), .setTimestamp (2 ^ 64 - 1), .getDynamicCapacityConfiguration 63,
    .getDynamicCapacityExtentList 63, .addDynamicCapacityResponse 63 [], .releaseDynamicCapacity 63 [],
    .getHostDcRegionConfiguration 63, .getDcRegionExtentLists 63, .initiateDynamicCapacityAdd 63 0 3 false (2 ^ 128 - 1) [],
    .initiateDynamicCapacityRelease 63 [], .forcedRelease 63 [], .scrubComplete 7, .srDefine 63, .srDelete 63, .keyLoad 1 63,
    .keyErase 1 63, .kill 63, .revive 63, .pageMove 32 none, .pageDone 15 none ] : List Instr).all (fun i => i.wf = true) = true := by decide +kernel

/-- Each stands at the last value that its checks allow. -/
theorem test_well_formed_accepted_3 : ([
    .endpointFatal 5, .adaptComplete 31, .alignComplete ⟨31, 0, 0, 0⟩, .ident 31 (2 ^ 56 - 1), .measureComplete 31 (List.replicate 16 (0, 0)),
    .linkUp 31, .trainTimeout 31, .parcelLineRead 31 613, .parcelTransmit 31,
    .linkFrame 31 0 0 0 (List.replicate 8 0) [], .parcelDelivery 31 613, .parcelForward 31 613,
    .trig 31 (2 ^ 16 - 1) (2 ^ 16 - 1) 255, .fail 31 (2 ^ 56 - 1), .stampWord 31 (2 ^ 56 - 1), .linkFailure 31 7 0, .linkFailure 31 5 64, .failClear 31,
    .samplePair 65535 65535, .conversionFault 3, .conversionFaultEnd 3, .ceSample 4095 4095 false, .loopOpen 3, .loopClose 3,
    .ringStart 32 4, .ringStop 32 4, .ringReset 32 4, .submissionDoorbell 32 2 (2 ^ 32 - 1) [], .completionDoorbell 32 4 (2 ^ 32 - 1),
    .commandDispatch 32 2, .nop 32 2, .regWrite 32, .partStart 32, .partStop 32, .partResume 32, .partReset 32, .dumpReq 32,
    .completionWrite 32 2, .msixMessage 32 4, .functionLevelReset 32, .dbreq (List.replicate 56 0), .extest (2 ^ 29 - 1) (2 ^ 29 - 1),
    .samplePreload (2 ^ 29 - 1) (2 ^ 29 - 1), .write (List.replicate 4096 0), .spillFire (2 ^ 16 - 1),
    .relayReq 31 (List.replicate 16 0), .relayRsp 31 (List.replicate 16 0), .flood 31 (List.replicate 16 0), .traceEn 31 0,
    .dumpRecordWrite 511 2047, .catalogFree 15, .holdExpired 31, .chipResetRelease 2, .hbmTrainingDone ([512 - 1]), .blkReset 7 31,
    .temperatureUpdate (List.replicate 24 0) 65535, .supplySag 11, .saveComplete 3, .temp 23, .vsup 10 none, .porstNRise 7 false ] : List Instr).all (fun i => i.wf = true) = true := by decide +kernel

/-- Each stands at the last value that its checks allow. -/
theorem test_well_formed_accepted_4 : ([
    .hdmDecoderCommit (2 ^ 52 - 1), .busMasterDisable 32, .msixVectorUnmask 32 2047 ] : List Instr).all (fun i => i.wf = true) = true := by decide +kernel

/-! Worked examples and tables of the manual, and two published check values. -/
/-- The worked example of "Time": FTC 16,777,216 + 9,600,900 at the default pass is offset 900 of pass 7,500. -/
theorem test_timestamp :
    stamp (chg State.reset (fun c => { c with
      time := { c.time with epoch := true, pass := 7500, passAt := 16777216 + 7500 * 1280, ftc := 16777216 + 9600900 } })).ctl =
      0x1D4C0384 := by decide +kernel
/-- The worked example of "Plans": 80 HBM slots and 24 link slots a pass. -/
theorem test_slots_of_the_default_pass : hslots State.reset.ctl = 80 ∧ lslots State.reset.ctl = 24 := by decide +kernel
/-- The same example: SLOT 40, PERIOD 3, PHASE 1 leaves 3,840 tc between refresh starts; PERIOD 4 leaves 5,120. -/
theorem test_refresh_gap :
    maxGap 15360 (refStarts [leBytes 2 37 ++ leBytes 2 40 ++ [3, 1] ++ zeroBytes 2] 37 1280) = 3840 ∧
    maxGap 15360 (refStarts [leBytes 2 37 ++ leBytes 2 40 ++ [4, 1] ++ zeroBytes 2] 37 1280) = 5120 := by decide +kernel
/-- The worked example of "Number formats and arithmetic": 2^24 + 1 rounds to 2^24, and the order of the three terms shows. -/
theorem test_fp32_sum_depends_on_order :
    (fpAdd 0 0 (fp32 (fpAdd 0 0 (fp32 0x4B800000) (fp32 0x3F800000)).1) (fp32 0xCB800000)).1 = 0 ∧
    (fpAdd 0 0 (fp32 0x4B800000) (fp32 (fpAdd 0 0 (fp32 0x3F800000) (fp32 0xCB800000)).1)).1 = 0x3F800000 := by decide +kernel
/-- The same example in a wide accumulator: slice 4 holds 1, and WRD reads 1.0 under every rounding mode. -/
theorem test_wide_sum_is_exact :
    ([0, 1, 2, 3, 4].all fun m =>
      match waccLane 1 0 0 0 0x4B800000 with
      | some (a, s, _) => match waccLane 1 0 a s 0x3F800000 with
        | some (a, s, _) => match waccLane 1 0 a s 0xCB800000 with
          | some (a, s, _) => decide (a = 2 ^ 128 ∧ wrdLane 1 0 m false 7 a s = some (0x3F800000, 0) ∧
              wrdLane 0 0x14 m false 7 a s = some (1, 0))
          | none => false
        | none => false
      | none => false) = true := by decide +kernel
/-- The worked example of dressing: raw 1,023 is kept as 18,159 sixteenths, raw 102 is suppressed. -/
theorem test_dressing :
    dress 1023 1604 5038 640 true = (0x46EF, false) ∧ dress 102 1604 5038 640 true = (0x80000000, false) := by decide +kernel
/-- The worked example of "The spindle", p = 4: θd, the mechanical angle and the speed 2,560 tc after the update. -/
theorem test_spindle_stamp :
    let c := (chg State.reset (fun c => { put [(rSpCfg, 0x203), (sp 0x08, 2500), (sp (0x20000 + 4 * 79), 0xFF88), (sp (0x20000 + 4 * 80), 0xFFA8)] c with
      sp := { c.sp with th := 5033165 * 2 ^ 16, w := 70369280 } })).ctl
    elecOf c (advState c 2560) = 5208989 ∧ mechOf c 2 5208989 = 9690855 ∧ spSpeed c = 204802 := by decide +kernel
/-- The worked example of "The memory pool": the DPA, granule, pseudo-channel and tweak value of an address. -/
theorem test_pool_address :
    dpaOf (chg State.reset (put [(hitHi 5, 0x4000)])).ctl 5 0x41020000040 = some 0x1020000040 ∧
    bits 0x1020000040 37 28 = 258 ∧ pchOf 0x1020000040 = 128 ∧ 0x1020000040 / 64 = 0x40800001 := by decide +kernel
/-- The worked example of "Events": the bytes of a record. -/
theorem test_event_bytes :
    evBytes { code := 0x5183, sev := 2, part := 1, unit := 0x01030285, ts := 0xCB95012C, seq := 4071, count := 1, detail := 0x0008000001010401 } =
      [0x83, 0x51, 0x02, 0x01, 0x85, 0x02, 0x03, 0x01, 0x2C, 0x01, 0x95, 0xCB, 0, 0, 0, 0, 0xE7, 0x0F, 0, 0, 0, 0, 1, 0,
        0x01, 0x04, 0x01, 0x01, 0, 0, 0x08, 0] := by decide +kernel
/-- The worked example of the address map. -/
theorem test_addresses : tlEpc 645 = 0x168504 ∧ dcDl 2 9 = 0x11224 := by decide +kernel
/-- The published check value of CRC-32C: the digits 1 to 9. -/
theorem test_crc32c : crc32c [0x31, 0x32, 0x33, 0x34, 0x35, 0x36, 0x37, 0x38, 0x39] = 0xE3069283 := by decide +kernel
/-- The AES-256 example of FIPS 197, appendix C.3. -/
theorem test_aes256 :
    aesEnc (aesKey (List.range 32)) ((List.range 16).map (fun i => 17 * i)) =
      [0x8E, 0xA2, 0xB7, 0xCA, 0x51, 0x67, 0x45, 0xBF, 0xEA, 0xFC, 0x49, 0x90, 0x4B, 0x49, 0x60, 0x89] := by decide +kernel

/-! One step. -/
/-- What a test looks at in the state that a command leaves. -/
def after (i : Instr) (s : State) (f : State → Nat) : Nat :=
  match exec i s with
  | .next t => f t
  | _ => 0
/-- R933: IDCODE shifts out 0x1320_0563. -/
theorem test_idcode : after .idcode State.reset (fun t => match t.ctl.outs with | .tap v :: _ => v | _ => 0) = 0x13200563 := by decide +kernel
/-- "Tiles", the worked example at 301 tc: a delay bundle's VLD beyond tile memory records EPC 0x100, DS 1, ETGT 0x180, ESLOT 2,
ECAUSE 0x04 and EADDR 0x0008_0000, and discards two bundles. -/
theorem test_tile_fault_in_a_delay_bundle :
    let s := tl (fun x => { x with pc := 0x101, delay := some 0x180, delayTaken := true, x := ⟨[(5, 0x80000)]⟩ })
    after (.vld 0 4 5 0) s (fun t => rd t.ctl (tlEpc 0)) = 0x100 ∧ after (.vld 0 4 5 0) s (fun t => rd t.ctl (tlEcause 0)) = 0x8204 ∧
    after (.vld 0 4 5 0) s (fun t => rd t.ctl (tlEtgt 0)) = 0x180 ∧ after (.vld 0 4 5 0) s (fun t => rd t.ctl (tlEaddr 0)) = 0x80000 ∧
    after (.vld 0 4 5 0) s (fun t => rd t.ctl (tlCnt 0 4)) = 2 := by decide +kernel
/-- "Tiles", the worked example at 300 tc: BR NE with X3 = 7 is taken, the next bundle is the delay bundle. -/
theorem test_branch_taken :
    after (.br 0 1 3 0 0x180) (tl (fun x => { x with pc := 0x100, x := ⟨[(3, 7)]⟩ }))
      (fun t => (tile t.ctl 0).pc + 4096 * ((tile t.ctl 0).delay.getD 0)) = 0x101 + 4096 * 0x180 := by decide +kernel
/-- "The device", the worked example at 508 tc: EN = 1 while DRAINING sets EN_PENDING. -/
theorem test_en_pending :
    after (.enWrite 0 (.hg 3) true) (up [(hgStat 3, 2)]) (fun t => b2n (rbit t.ctl (hgStat 3) 2)) = 1 := by decide +kernel
/-- R13 and R14, the address-map example: the high word of a pair is held. -/
theorem test_high_word_is_held :
    after (.registerWrite 0 0x9C9C44 4 0x1234) up (fun t => (smGet t.ctl.held none (0x9C9C44 * 64)).getD 0 |>.toNat) = 0x1234 := by
  decide +kernel
/-- R651: the scrambler starts from all ones: 31 ones, then 28 zeros, then three ones and a zero. -/
theorem test_scrambler :
    prbsBits 63 (2 ^ 31 - 1) = List.replicate 31 true ++ List.replicate 28 false ++ [true, true, true, false] := by decide +kernel
/-- R650: the generator polynomial of RS(544,514) as IEEE 802.3 Clause 91 prints its coefficients. -/
theorem test_parity_generator :
    rsParity [1] = [575, 552, 187, 230, 552, 1, 108, 565, 282, 249, 593, 132, 94, 720, 495, 385, 942, 503, 883, 361, 788, 610, 193,
      392, 127, 185, 158, 128, 834, 523] := by decide +kernel
/-- R402, R483: a NOTICE asked for while the pipeline is busy waits for it. -/
theorem test_rejoin_waits_for_the_pipeline :
    after (.rejoin 15 63) (chg (ep (hgOn 15 63 2)) (fun c => { c with hg := { c.hg with txFree := ⟨[(15, 6600)]⟩ } }))
      (fun t => t.ctl.hg.txq.length) = 1 := by decide +kernel
/-- R966, R1170: FILT = 15 takes 16 samples of the new level. -/
theorem test_spill_in_filter :
    after (.spillIn 16) (up [(hub (0x200 + 4 * 98), 0x8000), (hub 0x108, 15 * 2 ^ 24 + 0x8000)]) (fun t => b2n t.ctl.db.spillOut) = 1 ∧
    after (.spillIn 15) (up [(hub (0x200 + 4 * 98), 0x8000), (hub 0x108, 15 * 2 ^ 24 + 0x8000)]) (fun t => b2n t.ctl.db.spillOut) = 0 := by
  decide +kernel
/-- An empty queue: one tc of time. -/
theorem test_empty_queue_ticks : (match step up with | .next t => t.ctl.time.ftc | _ => 0) = up.ctl.time.ftc + 1 := by decide +kernel
/-- The queue is first in, first out. -/
theorem test_first_in_first_out :
    (match step { up with pending := [.idcode, .bypass] } with | .next t => (t.pending, t.ctl.db.ir) | _ => ([], 0)) = ([.bypass], 2) := by
  decide +kernel
/-- No row of the table has bits: no word spells a command. -/
theorem test_no_word_is_a_command : decodeTableWord 32 0 = none ∧ up.withFetchWord 32 0 = up := by decide +kernel

/-! The hypotheses of the statements. -/
/-- States and operands that meet the hypotheses of each clause of `StepRunsTheFrontCommand`. -/
theorem test_hyps_StepRunsTheFrontCommand :
    (∃ (s : State) (i : Instr) (r : List Instr), s.pending = i :: r) ∧
    (∃ (s : State), s.pending = []) :=
  ⟨⟨{ State.reset with pending := [.smbId] }, .smbId, [], by decide +kernel⟩,
   ⟨State.reset, by decide +kernel⟩⟩

/-- States and operands that meet the hypotheses of each clause of `EveryStepKeepsTheMemoriesForm`. -/
theorem test_hyps_EveryStepKeepsTheMemoriesForm :
    ∃ (s : State) (t : State), step s = .next t ∧ s.mem.wf = true :=
  ⟨{ State.reset with pending := [.smbId] }, _, rfl, by decide +kernel⟩

/-- States and operands that meet the hypotheses of each clause of `CommandsThatStoreNothingKeepEveryByte`. -/
theorem test_hyps_CommandsThatStoreNothingKeepEveryByte :
    ∃ (i : Instr) (s : State) (t : State), exec i s = .next t ∧ mayStore i = false :=
  ⟨.smbId, State.reset, _, rfl, by decide +kernel⟩

/-- States and operands that meet the hypotheses of each clause of `ClocksLockAndAreLost`. -/
theorem test_hyps_ClocksLockAndAreLost :
    (∃ (s : State), rootLock s.ctl = false ∧ rbit s.ctl rClkStat 1 = false ∧ s.ctl.pwr.chip = false ∧ s.ctl.time.refclk = true ∧
        s.ctl.time.needPor = false) ∧
    (∃ (s : State), rootLock s.ctl = true ∧ s.ctl.time.refclk = true) ∧
    (∃ (s : State), s.ctl.time.refclk = false) :=
  ⟨⟨State.reset, by decide +kernel⟩,
   ⟨up, by decide +kernel⟩,
   ⟨chg up (fun c => { c with time := { c.time with refclk := false } }), by decide +kernel⟩⟩

/-- States and operands that meet the hypotheses of each clause of `TimeMessagesAndTheUpstream`. -/
theorem test_hyps_TimeMessagesAndTheUpstream :
    (∃ (s : State), linksRun s.ctl = true) ∧
    (∃ (s : State) (l : Nat), linksRun s.ctl = true ∧ l < 32 ∧ linkTimes s.ctl l = true) ∧
    (∃ (s : State) (l : Nat) (depth : Nat), alive s.ctl = true ∧ l < 32 ∧ linkTimes s.ctl l = true ∧ heeds s.ctl l depth) ∧
    (∃ (s : State) (l : Nat) (depth : Nat), alive s.ctl = true ∧ l < 32 ∧ linkTimes s.ctl l = true ∧ heeds s.ctl l depth ∧
        s.ctl.time.epoch = false) ∧
    (∃ (s : State) (l : Nat), (isRoot s.ctl = true ∨ l ≠ upLink s.ctl)) ∧
    (∃ (s : State) (l : Nat) (depth : Nat), (isRoot s.ctl = true ∨ l ≠ upLink s.ctl) ∧ (isRoot s.ctl = true ∨ rbit s.ctl rTimStat 7 =
        false ∨ l ≠ fld s.ctl rTimCtrl 8 4 ∨ depth + 1 ≠ myDepth s.ctl)) ∧
    (∃ (s : State) (depth : Nat), alive s.ctl = true ∧ fld s.ctl rTimCtrl 8 4 < 32 ∧ linkTimes s.ctl (fld s.ctl rTimCtrl 8 4) = true ∧
        isRoot s.ctl = false ∧ rbit s.ctl rTimStat 7 = true ∧ fld s.ctl rTimCtrl 8 4 ≠ upLink s.ctl ∧ depth + 1 = myDepth s.ctl) ∧
    (∃ (s : State) (depth : Nat), alive s.ctl = true ∧ upLink s.ctl < 32 ∧ linkTimes s.ctl (upLink s.ctl) = true ∧ isRoot s.ctl = false ∧
        depth + 1 ≠ myDepth s.ctl) ∧
    (∃ (s : State), alive s.ctl = true ∧ upLost s.ctl ∧ rbit s.ctl rTimCtrl 15 = true ∧ otherUsable s.ctl = true) ∧
    (∃ (s : State), alive s.ctl = true ∧ upLost s.ctl ∧ (¬ (rbit s.ctl rTimCtrl 15 = true ∧ otherUsable s.ctl = true)) ∧ 1 ≤ lockOf s.ctl
        ∧ lockOf s.ctl ≤ 3) ∧
    (∃ (s : State), alive s.ctl = true ∧ s.ctl.time.epoch = true ∧ isRoot s.ctl = false ∧ lockOf s.ctl = 4 ∧ s.ctl.time.holdPasses ≥ rd
        s.ctl rHoldMax) :=
  ⟨⟨up [(lkStat 0, 1)], by decide +kernel⟩,
   ⟨up [(lkStat 31, 1)], 31, by decide +kernel⟩,
   ⟨up [(rGlbFabric, 3 * 2 ^ 16 + 1), (rTimCtrl, 1 * 16 + 1 * 2 ^ 20), (rTimStat, 3 * 16), (lkStat 1, 1)], 1, 0,
       by unfold heeds; decide +kernel⟩,
   ⟨up [(rGlbFabric, 3 * 2 ^ 16 + 1), (rTimCtrl, 1 * 16 + 1 * 2 ^ 20), (rTimStat, 3 * 16), (lkStat 1, 1)], 1, 0,
       by unfold heeds; decide +kernel⟩,
   ⟨up [(rTimCtrl, 1)], 0, by decide +kernel⟩,
   ⟨up [(rGlbFabric, 3 * 2 ^ 16 + 1), (rTimCtrl, 1 * 16 + 1 * 2 ^ 20), (rTimStat, 3 * 16), (lkStat 1, 1)], 2, 0, by decide +kernel⟩,
   ⟨up [(rGlbFabric, 3 * 2 ^ 16 + 1), (rTimCtrl, 1 * 16 + 2 * 2 ^ 10 + 2 ^ 15 + 2 ^ 20), (rTimStat, 3 * 16 + 2 ^ 7), (lkStat 1, 1)], 0,
       by decide +kernel⟩,
   ⟨up [(rGlbFabric, 3 * 2 ^ 16 + 1), (rTimCtrl, 1 * 16 + 1 * 2 ^ 20), (rTimStat, 3 * 16), (lkStat 1, 1)], 4, by decide +kernel⟩,
   ⟨up [(rGlbFabric, 3 * 2 ^ 16 + 1), (rTimCtrl, 1 * 16 + 2 * 2 ^ 10 + 2 ^ 15 + 2 ^ 20), (rTimStat, 3 * 16), (lkStat 2, 1)],
       by unfold upLost; decide +kernel⟩,
   ⟨up [(rGlbFabric, 3 * 2 ^ 16 + 1), (rTimCtrl, 1 * 16 + 1 * 2 ^ 20), (rTimStat, 3 * 16), (lkStat 1, 3)],
       by unfold upLost; decide +kernel⟩,
   ⟨chg (ep [(rGlbFabric, 3 * 2 ^ 16 + 1), (rTimCtrl, 16 + 2 ^ 20), (rTimStat, 4 * 16)]) (fun c =>
           { c with time := { c.time with holdPasses := rd c rHoldMax } }),
       by decide +kernel⟩⟩

/-- States and operands that meet the hypotheses of each clause of `TheEpochIsArmedAndStarts`. -/
theorem test_hyps_TheEpochIsArmedAndStarts :
    (∃ (s : State), regsServed s.ctl = true ∧ s.ctl.ev.contained = false ∧ pwrState s.ctl ≠ 3 ∧ s.ctl.time.epoch = false ∧ rbit s.ctl
        rTimCtrl 16 = false ∧ s.ctl.time.ftc + 8 + 64 ≤ rd64 s.ctl rEpochAt) ∧
    (∃ (s : State), regsServed s.ctl = true ∧ s.ctl.ev.contained = false ∧ pwrState s.ctl ≠ 3 ∧ s.ctl.time.epoch = false ∧ rbit s.ctl
        rTimCtrl 16 = false ∧ s.ctl.time.ftc + 8 + 64 > rd64 s.ctl rEpochAt) ∧
    (∃ (s : State), regsServed s.ctl = true ∧ s.ctl.ev.contained = false ∧ pwrState s.ctl ≠ 3 ∧ s.ctl.time.epoch = true) ∧
    (∃ (s : State), regsServed s.ctl = true ∧ s.ctl.ev.contained = false ∧ pwrState s.ctl = 3) ∧
    (∃ (s : State), regsServed s.ctl = true ∧ s.ctl.ev.contained = false ∧ pwrState s.ctl ≠ 3 ∧ s.ctl.time.epoch = false ∧ rbit s.ctl
        rTimCtrl 16 = true) ∧
    (∃ (s : State), regsServed s.ctl = true) ∧
    (∃ (s : State), regsServed s.ctl = false) ∧
    (∃ (s : State), lateAt s.ctl (rd64 s.ctl rEpochAt) = [] ∧ rbit s.ctl rTimCtrl 16 = true ∧ s.ctl.time.epoch = false ∧ s.ctl.time.ftc ≤
        rd64 s.ctl rEpochAt ∧ hclkRuns s.ctl = true ∧ startFail (advanceTo s.ctl (rd64 s.ctl rEpochAt)) = 0 ∧ stopsWith s.ctl (rd64 s.ctl
        rEpochAt) = false) ∧
    (∃ (s : State), lateAt s.ctl (rd64 s.ctl rEpochAt) = [] ∧ rbit s.ctl rTimCtrl 16 = true ∧ s.ctl.time.epoch = false ∧ s.ctl.time.ftc ≤
        rd64 s.ctl rEpochAt ∧ hclkRuns s.ctl = true ∧ startFail (advanceTo s.ctl (rd64 s.ctl rEpochAt)) = 0 ∧ stopsWith s.ctl (rd64 s.ctl
        rEpochAt) = true) ∧
    (∃ (s : State), lateAt s.ctl (rd64 s.ctl rEpochAt) = [] ∧ rbit s.ctl rTimCtrl 16 = true ∧ s.ctl.time.epoch = false ∧ s.ctl.time.ftc ≤
        rd64 s.ctl rEpochAt ∧ hclkRuns s.ctl = true ∧ startFail (advanceTo s.ctl (rd64 s.ctl rEpochAt)) ≠ 0) :=
  ⟨⟨up [(rEpochAt, 72)], by decide +kernel⟩,
   ⟨up [(rEpochAt, 71)], by decide +kernel⟩,
   ⟨ep, by decide +kernel⟩,
   ⟨up [(rPwrStat, 3)], by decide +kernel⟩,
   ⟨up [(rTimCtrl, 2 ^ 16)], by decide +kernel⟩,
   ⟨up, by decide +kernel⟩,
   ⟨State.reset, by decide +kernel⟩,
   ⟨chg (up [(rTimCtrl, 2 ^ 16 + 1), (rEpochAt, 128), (rEpochFirst, 3)]) (fun c =>
           { c with plan := { c.plan with active := some plan0 } }),
       by decide +kernel⟩,
   ⟨chg (up [(rTimCtrl, 2 ^ 17 + 2 ^ 16 + 1), (rEpochAt, 128), (rEpochFirst, 3)]) (fun c =>
           { c with recent := [(120, rTimCtrl, 2 ^ 17, 2 ^ 16 + 1)], plan := { c.plan with active := some plan0 } }),
       by decide +kernel⟩,
   ⟨up [(rTimCtrl, 2 ^ 16 + 1), (rEpochAt, 128)], by decide +kernel⟩⟩

/-- States and operands that meet the hypotheses of each clause of `BoundaryRunsInOrder`. -/
theorem test_hyps_BoundaryRunsInOrder :
    (∃ (s : State), s.ctl.recent = [] ∧ boundaryUp s.ctl = true ∧ (boundaryTo 4 (s.ctl, s.mem)).1.time.phase = 4 ∧ boundaryUp (boundaryTo
        4 (s.ctl, s.mem)).1 = true) ∧
    (∃ (s : State) (w : Nat × Nat × Nat × Nat), s.ctl.recent = [w] ∧ s.ctl.time.epoch = true ∧ w.1 + 8 > boundaryAt s.ctl ∧ w.2.2.1 < 2 ^
        32 ∧ w.2.2.2 < 2 ^ 32) ∧
    (∃ (s : State), boundaryUp s.ctl = true ∧ s.ctl.time.phase = 0) ∧
    (∃ (s : State) (p : Nat), s.ctl.recent = [] ∧ p < 32 ∧ s.ctl.time.phase = 0 ∧ wdogEnds s.ctl p = true) ∧
    (∃ (s : State), s.ctl.recent = [] ∧ s.ctl.time.phase = 0 ∧ (stopDue s.ctl (s.ctl.time.pass + 1) = true ∨ stopsAt s.ctl
        (s.ctl.time.pass + 1) = true)) ∧
    (∃ (s : State), s.ctl.recent = [] ∧ s.ctl.time.phase = 0 ∧ releaseMask s.ctl (s.ctl.time.pass + 1) (nextBoundary s.ctl) ≠ 0) ∧
    (∃ (s : State), s.ctl.recent = [] ∧ s.ctl.time.phase = 0 ∧ s.ctl.plan.pending.isSome = true ∧ swapPass s.ctl = some (s.ctl.time.pass +
        1)) ∧
    (∃ (s : State), s.ctl.recent = [] ∧ s.ctl.time.phase = 0 ∧ s.ctl.staged.any (eligible s.ctl (s.ctl.time.pass + 1) (nextBoundary
        s.ctl)) = true) ∧
    (∃ (s : State) (st : Nat) (a : Nat), s.ctl.recent = [] ∧ s.ctl.pwr.next = some (st, a, false) ∧ s.ctl.time.phase = 0 ∧
        s.ctl.time.epoch = true ∧ a + 64 ≤ nextBoundary s.ctl) ∧
    (∃ (s : State) (st : Nat) (a : Nat), s.ctl.pwr.next = some (st, a, false) ∧ s.ctl.time.epoch = false ∧ regsServed s.ctl = true) :=
  ⟨⟨ep, by decide +kernel⟩,
   ⟨chg ep (fun c => { c with recent := [(7673, rTimCtrl, 1, 0)] }), (7673, rTimCtrl, 1, 0), by decide +kernel⟩,
   ⟨ep, by decide +kernel⟩,
   ⟨chg (ep [(ptWdog 0, 1)]) (fun c => updPart c 0 (fun x => { x with ran := true, inPass := true })), 0, by decide +kernel⟩,
   ⟨ep [(rBstopStat, 1), (rBstop, 6)], by decide +kernel⟩,
   ⟨chg (ep [(hub 0x60, 6), (hub 0x68, 1)]) (fun c => { c with db := { c.db with relArmed := true } }), by decide +kernel⟩,
   ⟨chg ep (fun c => { c with plan := { c.plan with pending := some plan0, loader := { stage := .pending, actPass := some 6 } } }),
       by decide +kernel⟩,
   ⟨chg ep (fun c => { c with staged := [{ off := ptCtrl 0, hi := 0, lo := 0, val := 0, acc := 6500 }] }), by decide +kernel⟩,
   ⟨chg ep (fun c => { c with pwr := { c.pwr with next := some (1, 6500, false) } }), 1, 6500, by decide +kernel⟩,
   ⟨chg up (fun c => { c with pwr := { c.pwr with next := some (1, 0, false) } }), 1, 0, by decide +kernel⟩⟩

/-- States and operands that meet the hypotheses of each clause of `EnableIsWrittenAndDrainsEnd`. -/
theorem test_hyps_EnableIsWrittenAndDrainsEnd :
    (∃ (s : State) (b : Blk), blkIs b = true ∧ (∀ p, b ≠ .part p) ∧ regsServed s.ctl = true ∧ (s.ctl.time.epoch = true ∨ onBypass s.ctl =
        true) ∧ blkState s.ctl b ≠ 2) ∧
    (∃ (s : State) (b : Blk), blkIs b = true ∧ (∀ p, b ≠ .part p) ∧ regsServed s.ctl = true ∧ ((s.ctl.time.epoch = false ∧ onBypass s.ctl
        = false ∧ ∀ n, b ≠ .hg n) ∨ blkState s.ctl b = 2)) ∧
    (∃ (s : State) (n : Nat), n < 16 ∧ regsServed s.ctl = true ∧ s.ctl.time.epoch = false ∧ onBypass s.ctl = false ∧ blkState s.ctl (.hg
        n) ≠ 2) ∧
    (∃ (s : State) (n : Nat), n < 16 ∧ regsServed s.ctl = true ∧ s.ctl.time.epoch = false ∧ onBypass s.ctl = false ∧ s.ctl.ev.contained =
        false ∧ blkState s.ctl (.hg n) = 0 ∧ blkReady (setBit s.ctl (hgCtrl n) 0 true) (.hg n) = true) ∧
    (∃ (s : State) (n : Nat), n < 16 ∧ regsServed s.ctl = true ∧ s.ctl.ev.contained = false ∧ blkState s.ctl (.hg n) = 2) ∧
    (∃ (s : State) (p : Nat) (en : Bool), p < 32 ∧ regsServed s.ctl = true ∧ (part s.ctl p).resetting = false ∧ (en = false ∨ swapChanges
        s.ctl p = false) ∧ ptState s.ctl p ≠ 2 ∧ rbit s.ctl (ptCtrl p) 1 = false ∧ s.ctl.time.epoch = true) ∧
    (∃ (s : State) (f : Nat) (b : Blk), blkIs b = true ∧ regsServed s.ctl = true ∧ f ≠ 0 ∧ b ≠ .part (f - 1)) ∧
    (∃ (s : State) (b : Blk), blkIs b = true ∧ blkState s.ctl b = 2 ∧ s.ctl.time.epoch = false ∧ blkIdle s.ctl b = true ∧
        s.ctl.ev.contained = false ∧ regsServed s.ctl = true) ∧
    (∃ (s : State) (n : Nat), n < 16 ∧ blkState s.ctl (.hg n) = 2 ∧ s.ctl.time.epoch = false ∧ blkIdle s.ctl (.hg n) = true ∧
        s.ctl.ev.contained = false ∧ regsServed s.ctl = true ∧ rbit s.ctl (hgStat n) 2 = false) ∧
    (∃ (s : State) (b : Blk), blkIs b = true ∧ blkState s.ctl b = 2 ∧ s.ctl.time.epoch = true ∧ boundaryUp s.ctl = true ∧ s.ctl.recent =
        [] ∧ regsServed s.ctl = true ∧ blkState (boundaryTo 4 (s.ctl, s.mem)).1 b ≠ 2) ∧
    (∃ (s : State) (b : Blk) (c : Ctl), blkIs b = true ∧ blkState s.ctl b = 2 ∧ s.ctl.ev.contained = false ∧ regsServed s.ctl = true ∧
        blkResetting s.ctl b = false ∧ reach s.ctl (smGet s.ctl.drainAt 0 (blkKey b) + drainBound s.ctl b) = some c) ∧
    (∃ (s : State) (n : Nat) (k : Nat) (d : Ctl), n < 16 ∧ blkState s.ctl (.hg n) = 2 ∧ s.ctl.ev.contained = false ∧ regsServed s.ctl =
        true ∧ rbit s.ctl (hgStat n) 2 = false ∧ reach s.ctl (smGet s.ctl.drainAt 0 n + 2 * passLen s.ctl) = some d ∧ k =
        (s.ctl.hg.landing.filter (fun f => f.hg = n)).length + (s.ctl.dc.pend.filter (fun e => decide (e.hg = n ∧ e.handAt ≠
        none))).length) :=
  ⟨⟨ep, .hg 15, by decide +kernel, fun _ h => Blk.noConfusion h, by decide +kernel⟩,
   ⟨up, .lk 31, by decide +kernel, fun _ h => Blk.noConfusion h, by decide +kernel,
       .inl ⟨by decide +kernel, by decide +kernel, fun _ h => Blk.noConfusion h⟩⟩,
   ⟨up, 15, by decide +kernel⟩,
   ⟨up [(hgBase 15 + 8, 256)], 15, by decide +kernel⟩,
   ⟨up [(hgStat 15, 2)], 15, by decide +kernel⟩,
   ⟨ep, 31, false, by decide +kernel⟩,
   ⟨up, 2, .part 0, by decide +kernel⟩,
   ⟨chg (up [(lkStat 31, 2)]) (fun c => { c with lk := { c.lk with downSent := ⟨[(31, true)]⟩ } }), .lk 31, by decide +kernel⟩,
   ⟨up [(hgStat 15, 2)], 15, by decide +kernel⟩,
   ⟨ep [(pmStat 15, 2)], .pm 15, by decide +kernel⟩,
   ⟨up [(lkStat 31, 2)], .lk 31, (advanceTo (up [(lkStat 31, 2)]).ctl 2560), by decide +kernel⟩,
   ⟨chg (up [(hgStat 15, 2)]) (fun c => { c with hg := { c.hg with landing := [lnd] } }), 15, 1,
       advanceTo (chg (up [(hgStat 15, 2)]) (fun c => { c with hg := { c.hg with landing := [lnd] } })).ctl 2560, by decide +kernel⟩⟩

/-- States and operands that meet the hypotheses of each clause of `RegisterWritesTakeEffect`. -/
theorem test_hyps_RegisterWritesTakeEffect :
    (∃ (s : State) (off : Nat), hostUp s.ctl = true ∧ off < 0x10000000 ∧ (¬ (0x130000 ≤ off ∧ off < 0x131000)) ∧ off % 4 = 0 ∧ pairLow
        (off + 4) = false ∧ pairLow off = false ∧ 4 ≤ off ∧ pairLow (off - 4) = true) ∧
    (∃ (s : State) (off : Nat), hostUp s.ctl = true ∧ off < 0x10000000 ∧ (¬ (0x130000 ≤ off ∧ off < 0x131000)) ∧ off % 4 = 0 ∧ pairLow off
        = true) ∧
    (∃ (s : State) (h : Word), hostUp s.ctl = true ∧ s.ctl.time.epoch = false ∧ smGet s.ctl.held none ((rEpochAt + 4) * 64) = some h) ∧
    (∃ (s : State) (off : Nat) (v : Dword), hostUp s.ctl = true ∧ 0x8000 ≤ off ∧ off < 0x14000 ∧ off % 4 = 0 ∧ pairLow off = false ∧
        pairLow (off - 4) = false ∧ counterClear s.ctl off (v.toNat % 2 ^ 32) = none) ∧
    (∃ (s : State) (v : Dword), hostUp s.ctl = true ∧ s.ctl.time.epoch = false ∧ onBypass s.ctl = false ∧ 1 ≤ v.toNat % 2 ^ 24) ∧
    (∃ (s : State) (off : Nat) (n : Nat), (hostUp s.ctl = false ∨ off % 4 ≠ 0 ∨ (n ≠ 4 ∧ n ≠ 8))) :=
  ⟨⟨up, 0x224, by decide +kernel⟩,
   ⟨up, 0x210, by decide +kernel⟩,
   ⟨chg up (fun c => { c with held := ⟨[((rEpochAt + 4) * 64, some 5)]⟩ }), 5, by decide +kernel⟩,
   ⟨up, 0x10100 + 0, 3, by decide +kernel⟩,
   ⟨up, 1, by decide +kernel⟩,
   ⟨up, 2, 4, by decide +kernel⟩⟩

/-- States and operands that meet the hypotheses of each clause of `CountersAndFailuresAreCleared`. -/
theorem test_hyps_CountersAndFailuresAreCleared :
    (∃ (s : State) (off : Nat) (v : Word) (d : Ctl), hostUp s.ctl = true ∧ off < 0x100000 ∧ off % 4 = 0 ∧ pairLow off = false ∧ (4 ≤ off →
        pairLow (off - 4) = false) ∧ counterClear s.ctl off v.toNat = some d) ∧
    (∃ (s : State), hostUp s.ctl = true) ∧
    (∃ (s : State) (e : Nat), e < 32 ∧ regsServed s.ctl = true ∧ s.ctl.time.epoch = true) ∧
    (∃ (s : State) (e : Nat), e < 32 ∧ regsServed s.ctl = true ∧ s.ctl.time.epoch = false ∧ onBypass s.ctl = false) :=
  ⟨⟨up [(0x8050, 7)], 0x805C, 1, ((counterClear (up [(0x8050, 7)]).ctl 0x805C 1).getD {}), by decide +kernel⟩,
   ⟨up, by decide +kernel⟩,
   ⟨ep, 31, by decide +kernel⟩,
   ⟨up [(lkFail 31, 2 ^ 31)], 31, by decide +kernel⟩⟩

/-- States and operands that meet the hypotheses of each clause of `PlanCommandsStartTheLoader`. -/
theorem test_hyps_PlanCommandsStartTheLoader :
    (∃ (s : State) (e : Bytes), Taken s.ctl 0 0 0x10 e ∧ s.ctl.ev.contained = false ∧ s.ctl.plan.loader.stage = .idle ∧ (s.ctl.time.epoch
        = false ∨ ePass e 0x18 = none) ∧ 128 ≤ leAt e 0x10 8 ∧ leAt e 0x10 8 % 64 = 0 ∧ leAt e 0x10 8 ≤ 2 ^ 36) ∧
    (∃ (s : State) (e : Bytes), Taken s.ctl 0 0 0x11 e ∧ s.ctl.ev.contained = false ∧ s.ctl.plan.loader.stage = .idle ∧ s.ctl.time.epoch =
        false ∧ (∀ p, p < 32 → ptState s.ctl p = 0)) ∧
    (∃ (s : State) (e : Bytes), Taken s.ctl 0 0 0x11 e ∧ s.ctl.ev.contained = false ∧ s.ctl.plan.loader.stage = .idle ∧ s.ctl.time.epoch =
        true) ∧
    (∃ (s : State) (e : Bytes), Taken s.ctl 0 0 0x10 e ∧ s.ctl.ev.contained = false ∧ s.ctl.plan.loader.stage ≠ .idle) ∧
    (∃ (s : State) (fn : Nat) (e : Bytes), Taken s.ctl fn 0 0x12 e ∧ s.ctl.ev.contained = false ∧ 1 ≤ fn ∧ fn ≤ 32 ∧
        s.ctl.plan.loader.stage = .idle ∧ ptState s.ctl (fn - 1) = 0 ∧ fplanOn s.ctl = true ∧ 128 ≤ leAt e 0x10 8 ∧ leAt e 0x10 8 % 64 = 0
        ∧ leAt e 0x10 8 ≤ 2 ^ 36) ∧
    (∃ (s : State) (fn : Nat) (e : Bytes), Taken s.ctl fn 0 0x12 e ∧ s.ctl.ev.contained = false ∧ 1 ≤ fn ∧ fn ≤ 32 ∧
        s.ctl.plan.loader.stage = .idle ∧ (ptState s.ctl (fn - 1) ≠ 0 ∨ fplanOn s.ctl = false)) :=
  ⟨⟨cmd 0 0 (ent 0x10 [(0x10, 8, 2 ^ 36)]) ep, (ent 0x10 [(0x10, 8, 2 ^ 36)]), ⟨⟨_, rfl⟩, by decide +kernel⟩, by decide +kernel⟩,
   ⟨cmd 0 0 (ent 0x11) up, ent 0x11, ⟨⟨_, rfl⟩, by decide +kernel⟩, by decide +kernel⟩,
   ⟨cmd 0 0 (ent 0x11) ep, ent 0x11, ⟨⟨_, rfl⟩, by decide +kernel⟩, by decide +kernel⟩,
   ⟨ld { stage := .checks } (cmd 0 0 (ent 0x10 [(0x10, 8, 2 ^ 36)]) up), (ent 0x10 [(0x10, 8, 2 ^ 36)]), ⟨⟨_, rfl⟩, by decide +kernel⟩,
       by decide +kernel⟩,
   ⟨cmd 32 0 (ent 0x12 [(0x10, 8, 128)]) ep, 32, (ent 0x12 [(0x10, 8, 128)]), ⟨⟨_, rfl⟩, by decide +kernel⟩, by decide +kernel⟩,
   ⟨cmd 1 0 (ent 0x12 [(0x10, 8, 128)]) ep, 1, (ent 0x12 [(0x10, 8, 128)]), ⟨⟨_, rfl⟩, by decide +kernel⟩, by decide +kernel⟩⟩

/-- States and operands that meet the hypotheses of each clause of `LoadsEndInAPlanOrACode`. -/
theorem test_hyps_LoadsEndInAPlanOrACode :
    (∃ (s : State) (img : Bytes) (code : Nat) (sect : Nat), regsServed s.ctl = true ∧ s.ctl.plan.loader.stage = .checks ∧
        s.ctl.plan.loader.kind = 0 ∧ checkImage s.ctl 0 s.ctl.plan.loader.part s.ctl.plan.loader.len img = some (code, sect) ∧ 1 ≤ code ∧
        code < 256 ∧ sect < 65536) ∧
    (∃ (s : State), regsServed s.ctl = true ∧ s.ctl.plan.loader.stage = .checks ∧ s.ctl.plan.loader.kind = 0) ∧
    (∃ (s : State), regsServed s.ctl = true ∧ s.ctl.plan.loader.stage = .checks ∧ s.ctl.plan.loader.kind = 0 ∧ s.ctl.time.epoch = false) ∧
    (∃ (s : State), regsServed s.ctl = true ∧ s.ctl.plan.loader.stage = .checks ∧ s.ctl.plan.loader.kind = 0 ∧ s.ctl.time.epoch = true ∧
        actLate s.ctl s.ctl.plan.loader.actPass = false) ∧
    (∃ (s : State), regsServed s.ctl = true ∧ s.ctl.plan.loader.stage = .checks ∧ s.ctl.plan.loader.kind = 2) ∧
    (∃ (s : State), regsServed s.ctl = true ∧ s.ctl.plan.loader.stage = .checks ∧ s.ctl.plan.loader.kind = 1 ∧ unloadErr s.ctl = 0) ∧
    (∃ (s : State) (m : Mem), regsServed s.ctl = true ∧ s.ctl.plan.loader.stage = .writes ∧ s.ctl.plan.loader.kind = 2 ∧
        s.ctl.plan.loader.part < 32 ∧ (∃ d, writePieces s.ctl.plan.loader.part ((loadPieces s.ctl.plan.loader.image none).drop
        s.ctl.plan.loader.wrote) (s.ctl, s.mem) = ((d, m), true))) ∧
    (∃ (s : State), regsServed s.ctl = true ∧ s.ctl.plan.loader.stage = .writes ∧ s.ctl.plan.loader.kind = 2 ∧ s.ctl.plan.loader.part < 32
        ∧ constSects s.ctl.plan.loader.image = []) ∧
    (∃ (s : State) (i : Nat) (k : Nat) (m : Mem), regsServed s.ctl = true ∧ s.ctl.plan.loader.stage = .writes ∧ s.ctl.plan.loader.kind = 2
        ∧ s.ctl.plan.loader.part < 32 ∧ (∃ d, writePieces s.ctl.plan.loader.part ((loadPieces s.ctl.plan.loader.image (some (i, k))).drop
        s.ctl.plan.loader.wrote) (s.ctl, s.mem) = ((d, m), true))) :=
  ⟨⟨ld { stage := .checks, len := 128 } up, zeroBytes 128,
       ((checkImage (ld { stage := .checks, len := 128 } up).ctl 0 0 128 (zeroBytes 128)).getD (0, 0)).1,
       ((checkImage (ld { stage := .checks, len := 128 } up).ctl 0 0 128 (zeroBytes 128)).getD (0, 0)).2, by decide +kernel⟩,
   ⟨ld { stage := .checks, len := 128 } up, by decide +kernel⟩,
   ⟨ld { stage := .checks, len := 128 } up, by decide +kernel⟩,
   ⟨ld { stage := .checks, len := 128 } ep, by decide +kernel⟩,
   ⟨ld { stage := .checks, kind := 2, len := 128 } ep, by decide +kernel⟩,
   ⟨ld { stage := .checks, kind := 1 } up, by decide +kernel⟩,
   ⟨ld { stage := .writes, kind := 2, part := 31 } up, _, by decide +kernel, by decide +kernel, by decide +kernel, by decide +kernel,
       ⟨_, rfl⟩⟩,
   ⟨ld { stage := .writes, kind := 2, part := 31 } up, by decide +kernel⟩,
   ⟨ld { stage := .writes, kind := 2, part := 31 } up, 0, 0, _, by decide +kernel, by decide +kernel, by decide +kernel,
       by decide +kernel, ⟨_, rfl⟩⟩⟩

/-- States and operands that meet the hypotheses of each clause of `RefreshComesInItsTime`. -/
theorem test_hyps_RefreshComesInItsTime :
    (∃ (s : State), rbit s.ctl rPlStat 4 = true ∧ rootLock s.ctl = true ∧ regsServed s.ctl = true ∧ s.ctl.time.phase = 0 ∧
        s.ctl.pwr.resetRef = false ∧ s.ctl.time.ftc ≤ s.ctl.plan.nextRefresh) ∧
    (∃ (s : State), s.ctl.pwr.resetRef = true) ∧
    (∃ (s : State), rbit s.ctl rPlStat 4 = true ∧ rbit s.ctl rTimCtrl 16 = true ∧ s.ctl.time.epoch = false ∧ s.ctl.plan.finalDone = false
        ∧ rootLock s.ctl = true ∧ s.ctl.time.phase = 0 ∧ regsServed s.ctl = true ∧ s.ctl.time.ftc ≤ rd64 s.ctl rEpochAt - 400) ∧
    (∃ (s : State) (i : Nat) (q : Nat) (slot : Nat) (period : Nat) (phase : Nat) (e : Bytes), (pieces 16 (fplan s.ctl).refresh)[i]? = some
        e ∧ refFields e = (q, slot, period, phase) ∧ inForce s.ctl = true ∧ alive s.ctl = true ∧ period ≠ 0 ∧ s.ctl.time.pass % period =
        phase ∧ pchAsleep s.ctl q = false ∧ s.ctl.time.phase = 0 ∧ s.ctl.pwr.chip = false ∧ s.ctl.time.ftc ≤ s.ctl.time.passAt + 16 *
        slot) :=
  ⟨⟨chg (up [(rPlStat, 16)]) (fun c => { c with plan := { c.plan with nextRefresh := 160 } }), by decide +kernel⟩,
   ⟨pw (fun p => { p with chip := true, resetRef := true }), by decide +kernel⟩,
   ⟨up [(rPlStat, 16), (rTimCtrl, 2 ^ 16), (rEpochAt, 640)], by decide +kernel⟩,
   ⟨chg ep (fun c => { c with plan := { c.plan with active := some { plan0 with refresh := leBytes 2 511 ++ leBytes 2 7 ++ [1, 0] ++ zeroBytes 10 } } }),
       0, 511, 7, 1, 0, leBytes 2 511 ++ leBytes 2 7 ++ [1, 0] ++ zeroBytes 10, by decide +kernel⟩⟩

/-- States and operands that meet the hypotheses of each clause of `PartitionsResumeAndWaitForAPass`. -/
theorem test_hyps_PartitionsResumeAndWaitForAPass :
    (∃ (s : State) (p : Nat), p < 32 ∧ regsServed s.ctl = true ∧ (part s.ctl p).resetting = false ∧ s.ctl.time.epoch = false) ∧
    (∃ (s : State) (p : Nat), p < 32 ∧ regsServed s.ctl = true ∧ (part s.ctl p).resetting = false) ∧
    (∃ (s : State) (p : Nat), p < 32 ∧ regsServed s.ctl = true ∧ (part s.ctl p).resetting = false ∧ rbit s.ctl (ptCtrl p) 1 = true ∧
        s.ctl.time.epoch = true) ∧
    (∃ (s : State) (p : Nat), p < 32 ∧ regsServed s.ctl = true ∧ rbit s.ctl (ptStat p) 5 = true ∧ (fld s.ctl (ptStat p) 23 16 = 2 ∨ fld
        s.ctl (ptStat p) 23 16 = 4) ∧ rbit s.ctl (ptCtrl p) 1 = true ∧ s.ctl.time.epoch = true) ∧
    (∃ (s : State) (p : Nat), p < 32 ∧ regsServed s.ctl = true ∧ rbit s.ctl (ptStat p) 5 = true ∧ (fld s.ctl (ptStat p) 23 16 = 2 ∨ fld
        s.ctl (ptStat p) 23 16 = 4) ∧ rbit s.ctl (ptCtrl p) 1 = false ∧ s.ctl.time.epoch = true) ∧
    (∃ (s : State) (p : Nat), p < 32 ∧ regsServed s.ctl = true ∧ s.ctl.ev.contained = false ∧ onBypass s.ctl = false ∧ rbit s.ctl (ptStat
        p) 5 = true ∧ (fld s.ctl (ptStat p) 23 16 = 2 ∨ fld s.ctl (ptStat p) 23 16 = 4) ∧ rbit s.ctl (ptCtrl p) 1 = false ∧
        s.ctl.time.epoch = false ∧ rbit s.ctl (ptStat p) 6 = true) ∧
    (∃ (s : State) (p : Nat), p < 32 ∧ regsServed s.ctl = true ∧ s.ctl.ev.contained = false ∧ onBypass s.ctl = false ∧ rbit s.ctl (ptStat
        p) 5 = true ∧ (fld s.ctl (ptStat p) 23 16 = 2 ∨ fld s.ctl (ptStat p) 23 16 = 4) ∧ rbit s.ctl (ptCtrl p) 1 = false ∧
        s.ctl.time.epoch = false ∧ rbit s.ctl (ptStat p) 6 = false) ∧
    (∃ (s : State) (p : Nat), p < 32 ∧ regsServed s.ctl = true ∧ (rbit s.ctl (ptStat p) 5 = false ∨ (fld s.ctl (ptStat p) 23 16 ≠ 2 ∧ fld
        s.ctl (ptStat p) 23 16 ≠ 4))) :=
  ⟨⟨up, 31, by decide +kernel⟩,
   ⟨ep, 31, by decide +kernel⟩,
   ⟨chg (ep [(ptCtrl 31, 2)]) (fun c => { c with staged := [{ off := ptCtrl 31, hi := 0, lo := 0, val := 1, acc := 6500, atEn := true }] }),
       31, by decide +kernel⟩,
   ⟨ep [(ptStat 31, 0x20030), (ptCtrl 31, 2)], 31, by decide +kernel⟩,
   ⟨ep [(ptStat 31, 0x20030)], 31, by decide +kernel⟩,
   ⟨up [(ptStat 31, 0x40070)], 31, by decide +kernel⟩,
   ⟨up [(ptStat 31, 0x40030)], 31, by decide +kernel⟩,
   ⟨up [(ptStat 31, 0x30030)], 31, by decide +kernel⟩⟩

/-- States and operands that meet the hypotheses of each clause of `PartitionResetClearsThePartition`. -/
theorem test_hyps_PartitionResetClearsThePartition :
    (∃ (s : State) (p : Nat), p < 32 ∧ regsServed s.ctl = true ∧ s.ctl.ev.contained = false ∧ (part s.ctl p).resetting = false ∧ (part
        s.ctl p).heldAt = none ∧ inDump s.ctl p = true) ∧
    (∃ (s : State) (p : Nat), p < 32 ∧ regsServed s.ctl = true ∧ s.ctl.ev.contained = false ∧ (part s.ctl p).resetting = false ∧ (part
        s.ctl p).heldAt = none ∧ inDump s.ctl p = false) ∧
    (∃ (s : State) (p : Nat), p < 32 ∧ ((part s.ctl p).resetting = true ∨ (part s.ctl p).heldAt ≠ none ∨ s.ctl.ev.contained = true)) ∧
    (∃ (s : State) (p : Nat), p < 32 ∧ hclkRuns s.ctl = true ∧ (part s.ctl p).resetting = true ∧ s.ctl.ev.contained = false) :=
  ⟨⟨chg up (fun c => { c with dump := { c.dump with queue := [{ trigger := 1, scope := 0, mask := 2 ^ 31, origin := 0, named := 0, pass := 0 }] } }),
       31, by decide +kernel⟩,
   ⟨ep, 0, by decide +kernel⟩,
   ⟨chg up (fun c => updPart c 31 (fun x => { x with resetting := true })), 31, by decide +kernel⟩,
   ⟨chg ep (fun c => updPart c 0 (fun x => { x with resetting := true })), 0, by decide +kernel⟩⟩

/-- States and operands that meet the hypotheses of each clause of `ScalarResultsAreWritten`. -/
theorem test_hyps_ScalarResultsAreWritten :
    (∃ (s : State) (t : Nat) (fn : _), TileReady s t ∧ Straight (tile s.ctl t) ∧ fn ≤ 10) ∧
    (∃ (s : State) (t : Nat), TileReady s t ∧ Straight (tile s.ctl t)) :=
  ⟨⟨tl (fun x => { x with x := ⟨[(1, 7), (2, 3)]⟩ }), 0, 10, by unfold TileReady Straight; decide +kernel⟩,
   ⟨tl (fun x => { x with x := ⟨[(1, 7), (2, 3)]⟩ }), 0, by unfold TileReady Straight; decide +kernel⟩⟩

/-- States and operands that meet the hypotheses of each clause of `BranchesHaveOneDelayBundle`. -/
theorem test_hyps_BranchesHaveOneDelayBundle :
    (∃ (s : State) (t : Nat) (cond : _), TileReady s t ∧ Straight (tile s.ctl t) ∧ (cond ≤ 5 ∨ cond = 15)) ∧
    (∃ (s : State) (t : Nat), TileReady s t ∧ Straight (tile s.ctl t)) ∧
    (∃ (s : State) (t : Nat) (u : State) (tgt : Nat), TileReady s t ∧ Straight (tile s.ctl t) ∧ u.mem = s.mem ∧ (u.ctl = putTile s.ctl t
        { tile s.ctl t with delay := some tgt, delayTaken := true })) :=
  ⟨⟨tl (fun x => { x with x := ⟨[(1, 7), (2, 3)]⟩ }), 0, 15, by unfold TileReady Straight; decide +kernel⟩,
   ⟨tl (fun x => { x with x := ⟨[(1, 7), (2, 3)]⟩ }), 0, by unfold TileReady Straight; decide +kernel⟩,
   ⟨tl (fun x => { x with x := ⟨[(1, 7), (2, 3)]⟩ }), 0,
       chg (tl (fun x => { x with x := ⟨[(1, 7), (2, 3)]⟩ })) (fun c => putTile c 0 { tile c 0 with delay := some 9, delayTaken := true }),
       9, by unfold TileReady Straight; decide +kernel⟩⟩

/-- States and operands that meet the hypotheses of each clause of `LoopsAndWaitpSequence`. -/
theorem test_hyps_LoopsAndWaitpSequence :
    (∃ (s : State) (t : Nat) (src : Bool) (xc : _) (cnt : _) (last : _), TileReady s t ∧ Straight (tile s.ctl t) ∧ (tile s.ctl t).pc <
        last ∧ (if src then rdX (tile s.ctl t) xc % 2 ^ 16 else cnt) ≠ 0) ∧
    (∃ (s : State) (t : Nat) (src : Bool) (xc : _) (cnt : _) (last : _), TileReady s t ∧ Straight (tile s.ctl t) ∧ (tile s.ctl t).pc <
        last ∧ (if src then rdX (tile s.ctl t) xc % 2 ^ 16 else cnt) = 0) ∧
    (∃ (s : State) (t : Nat), TileReady s t ∧ Straight (tile s.ctl t)) ∧
    (∃ (s : State) (t : Nat) (src : Bool) (xc : Nat) (cnt : Nat) (last : Nat), TileReady s t ∧ (tile s.ctl t).delay = none ∧ (tile s.ctl
        t).modeNext = none ∧ (tile s.ctl t).l0.active = true ∧ (tile s.ctl t).l1.active = false ∧ (tile s.ctl t).pc < last ∧ last ≤ (tile
        s.ctl t).l0.last ∧ (if src then rdX (tile s.ctl t) xc % 2 ^ 16 else cnt) ≠ 0) ∧
    (∃ (s : State) (t : Nat), TileReady s t ∧ (tile s.ctl t).delay = none ∧ (tile s.ctl t).modeNext = none ∧ (tile s.ctl t).l0.active =
        true ∧ (tile s.ctl t).l1.active = false ∧ (tile s.ctl t).l0.last = (tile s.ctl t).pc ∧ (tile s.ctl t).l0.count = 1 ∧ bundleAt
        s.mem t (tile s.ctl t).pc = {}) ∧
    (∃ (s : State) (t : Nat), TileReady s t ∧ (tile s.ctl t).delay = none ∧ (tile s.ctl t).modeNext = none ∧ (tile s.ctl t).l0.active =
        true ∧ (tile s.ctl t).l1.active = false ∧ (tile s.ctl t).l0.last = (tile s.ctl t).pc ∧ (tile s.ctl t).l0.count > 1) :=
  ⟨⟨tl (fun x => { x with x := ⟨[(1, 7), (2, 3)]⟩ }), 0, true, 1, 0, 5, by unfold TileReady Straight; decide +kernel⟩,
   ⟨tl (fun x => { x with x := ⟨[(1, 7), (2, 3)]⟩ }), 0, false, 1, 0, 4095, by unfold TileReady Straight; decide +kernel⟩,
   ⟨tl (fun x => { x with x := ⟨[(1, 7), (2, 3)]⟩ }), 0, by unfold TileReady Straight; decide +kernel⟩,
   ⟨tl (fun x => { x with x := ⟨[(1, 7)]⟩, l0 := { active := true, start := 3, last := 9, count := 2 } }), 0, true, 1, 0, 9,
       by unfold TileReady; decide +kernel⟩,
   ⟨tl (fun x => { x with l0 := { active := true, start := 3, last := 4, count := 1 } }), 0, by unfold TileReady; decide +kernel⟩,
   ⟨tl (fun x => { x with l0 := { active := true, start := 3, last := 4, count := 2 } }), 0, by unfold TileReady; decide +kernel⟩⟩

/-- States and operands that meet the hypotheses of each clause of `ModesWaitsAndTileRegisters`. -/
theorem test_hyps_ModesWaitsAndTileRegisters :
    (∃ (s : State) (t : Nat) (src : Bool) (xa : _) (imm : _), TileReady s t ∧ Straight (tile s.ctl t) ∧ modeReserved (if src then rdX
        (tile s.ctl t) xa % 256 else imm % 256) = false) ∧
    (∃ (s : State) (t : Nat) (ch : _) (n : _), TileReady s t ∧ Straight (tile s.ctl t) ∧ n ≤ rdAcnt (tile s.ctl t) ch) ∧
    (∃ (s : State) (t : Nat) (off : _), TileReady s t ∧ Straight (tile s.ctl t) ∧ off ≤ nowOffset s.ctl) ∧
    (∃ (s : State) (t : Nat) (ch : _) (n : _), TileReady s t ∧ Straight (tile s.ctl t) ∧ rdAcnt (tile s.ctl t) ch < n) ∧
    (∃ (s : State) (t : Nat) (off : _), TileReady s t ∧ Straight (tile s.ctl t) ∧ nowOffset s.ctl < off) ∧
    (∃ (s : State) (t : Nat), TileReady s t ∧ Straight (tile s.ctl t)) ∧
    (∃ (s : State) (t : Nat) (idx : Nat) (v : Nat), TileReady s t ∧ Straight (tile s.ctl t) ∧ ((idx = 0 ∧ v = (tile s.ctl t).mode) ∨ (idx
        = 1 ∧ v = (found s.ctl t).sticky) ∨ (idx = 2 ∧ v = passNo s.ctl % 2 ^ 32) ∨ (idx = 3 ∧ v = passNo s.ctl / 2 ^ 32) ∨ (idx = 4 ∧ v =
        nowOffset s.ctl) ∨ (idx = 5 ∧ v = tileOwner s.ctl t * 2 ^ 16 + t) ∨ (idx = 6 ∧ v = plezorId s.ctl) ∨ (idx = 7 ∧ v = (tile s.ctl
        t).l0.count) ∨ (idx = 8 ∧ v = (tile s.ctl t).l1.count) ∨ (0x10 ≤ idx ∧ idx ≤ 0x17 ∧ v = rdAcnt (tile s.ctl t) (idx - 0x10)))) ∧
    (∃ (s : State) (t : Nat), TileReady s t ∧ Straight (tile s.ctl t)) :=
  ⟨⟨tl (fun x => { x with x := ⟨[(1, 7), (2, 3)]⟩ }), 0, false, 1, 1, by unfold TileReady Straight; decide +kernel⟩,
   ⟨tl (fun x => { x with acnt := ⟨[(7, 3)]⟩ }), 0, 7, 3, by unfold TileReady Straight; decide +kernel⟩,
   ⟨tl (fun x => { x with x := ⟨[(1, 7), (2, 3)]⟩ }), 0, 100, by unfold TileReady Straight; decide +kernel⟩,
   ⟨tl (fun x => { x with acnt := ⟨[(7, 3)]⟩ }), 0, 7, 4, by unfold TileReady Straight; decide +kernel⟩,
   ⟨tl (fun x => { x with x := ⟨[(1, 7), (2, 3)]⟩ }), 0, 101, by unfold TileReady Straight; decide +kernel⟩,
   ⟨tl (fun x => { x with acnt := ⟨[(7, 3)]⟩ }), 0, by unfold TileReady Straight; decide +kernel⟩,
   ⟨tl (fun x => { x with acnt := ⟨[(7, 3)]⟩ }), 0, 0x17, 3, by unfold TileReady Straight; decide +kernel⟩,
   ⟨tl (fun x => { x with x := ⟨[(1, 7), (2, 3)]⟩ }), 0, by unfold TileReady Straight; decide +kernel⟩⟩

/-- States and operands that meet the hypotheses of each clause of `LoadsReadTileMemory`. -/
theorem test_hyps_LoadsReadTileMemory :
    (∃ (s : State) (t : Nat) (xa : _) (imm : _), TileReady s t ∧ Straight (tile s.ctl t) ∧ moveTo (tile s.ctl t) xa imm 4 % 4 = 0 ∧ moveTo
        (tile s.ctl t) xa imm 4 + 4 ≤ 524288 ∧ CodesSound s.mem t (moveTo (tile s.ctl t) xa imm 4) 4) ∧
    (∃ (s : State) (t : Nat) (xa : _) (imm : _), TileReady s t ∧ Straight (tile s.ctl t) ∧ moveTo (tile s.ctl t) xa imm 64 % 64 = 0 ∧
        moveTo (tile s.ctl t) xa imm 64 + 256 ≤ 524288 ∧ CodesSound s.mem t (moveTo (tile s.ctl t) xa imm 64) 256) ∧
    (∃ (s : State) (t : Nat) (g : _) (xa : _) (imm : _), TileReady s t ∧ Straight (tile s.ctl t) ∧ g < 16 ∧ moveTo (tile s.ctl t) xa imm
        64 % 64 = 0 ∧ moveTo (tile s.ctl t) xa imm 64 + 256 ≤ 524288 ∧ CodesSound s.mem t (moveTo (tile s.ctl t) xa imm 64) 256) ∧
    (∃ (s : State) (t : Nat) (xa : _) (imm : _), TileReady s t ∧ Straight (tile s.ctl t) ∧ moveTo (tile s.ctl t) xa imm 64 % 64 = 0 ∧
        moveTo (tile s.ctl t) xa imm 64 + 128 ≤ 524288 ∧ CodesSound s.mem t (moveTo (tile s.ctl t) xa imm 64) 128) :=
  ⟨⟨{ tl (fun x => { x with x := ⟨[(1, 524284), (2, 524032), (3, 524160)]⟩ }) with mem := { State.reset.mem with tm := ⟨[(524284, 9)]⟩ } },
       0, 1, 0, by unfold TileReady Straight CodesSound; decide +kernel⟩,
   ⟨{ tl (fun x => { x with x := ⟨[(1, 524284), (2, 524032), (3, 524160)]⟩ }) with mem := { State.reset.mem with tm := ⟨[(524284, 9)]⟩ } },
       0, 2, 0, by unfold TileReady Straight CodesSound; decide +kernel⟩,
   ⟨{ tl (fun x => { x with x := ⟨[(1, 524284), (2, 524032), (3, 524160)]⟩ }) with mem := { State.reset.mem with tm := ⟨[(524284, 9)]⟩ } },
       0, 15, 2, 0, by unfold TileReady Straight CodesSound; decide +kernel⟩,
   ⟨{ tl (fun x => { x with x := ⟨[(1, 524284), (2, 524032), (3, 524160)]⟩ }) with mem := { State.reset.mem with tm := ⟨[(524284, 9)]⟩ } },
       0, 3, 0, by unfold TileReady Straight CodesSound; decide +kernel⟩⟩

/-- States and operands that meet the hypotheses of each clause of `StoresWriteTileMemoryAtTheirAddress`. -/
theorem test_hyps_StoresWriteTileMemoryAtTheirAddress :
    (∃ (s : State) (t : Nat) (xa : _) (imm : _), TileReady s t ∧ Straight (tile s.ctl t) ∧ moveTo (tile s.ctl t) xa imm 4 % 4 = 0 ∧ moveTo
        (tile s.ctl t) xa imm 4 + 4 ≤ 524288 ∧ NoneWeak s.mem t (moveTo (tile s.ctl t) xa imm 4) 4) ∧
    (∃ (s : State) (t : Nat) (xa : _) (imm : _), TileReady s t ∧ Straight (tile s.ctl t) ∧ moveTo (tile s.ctl t) xa imm 64 % 64 = 0 ∧
        moveTo (tile s.ctl t) xa imm 64 + 256 ≤ 524288) :=
  ⟨⟨{ tl (fun x => { x with x := ⟨[(1, 524284), (2, 524032), (3, 524160)]⟩ }) with mem := { State.reset.mem with tm := ⟨[(524284, 9)]⟩ } },
       0, 1, 0, by unfold TileReady Straight NoneWeak; decide +kernel⟩,
   ⟨{ tl (fun x => { x with x := ⟨[(1, 524284), (2, 524032), (3, 524160)]⟩ }) with mem := { State.reset.mem with tm := ⟨[(524284, 9)]⟩ } },
       0, 2, 0, by unfold TileReady Straight; decide +kernel⟩⟩

/-- States and operands that meet the hypotheses of each clause of `MovesBetweenRegisters`. -/
theorem test_hyps_MovesBetweenRegisters :
    (∃ (s : State) (t : Nat) (k : _) (row : _), TileReady s t ∧ Straight (tile s.ctl t) ∧ k < 2 ∧ row < 64) ∧
    (∃ (s : State) (t : Nat), TileReady s t ∧ Straight (tile s.ctl t)) ∧
    (∃ (s : State) (t : Nat) (l : _), TileReady s t ∧ Straight (tile s.ctl t) ∧ l < 64) :=
  ⟨⟨tl (fun x => { x with x := ⟨[(1, 7), (2, 3)]⟩ }), 0, 1, 63, by unfold TileReady Straight; decide +kernel⟩,
   ⟨tl (fun x => { x with x := ⟨[(1, 7), (2, 3)]⟩ }), 0, by unfold TileReady Straight; decide +kernel⟩,
   ⟨tl (fun x => { x with x := ⟨[(1, 7), (2, 3)]⟩ }), 0, 63, by unfold TileReady Straight; decide +kernel⟩⟩

/-- States and operands that meet the hypotheses of each clause of `TilesSendAndFlitsCrossTheNetwork`. -/
theorem test_hyps_TilesSendAndFlitsCrossTheNetwork :
    (∃ (s : State) (t : Nat) (xa : _) (xb : _), TileReady s t ∧ Straight (tile s.ctl t) ∧ bits (rdX (tile s.ctl t) xa) 12 10 < 6 ∧
        tileOwner s.ctl (rdX (tile s.ctl t) xa % 1024) = tileOwner s.ctl t ∧ rdX (tile s.ctl t) xb % 64 = 0 ∧ rdX (tile s.ctl t) xb + 256
        ≤ 524288 ∧ (tile s.ctl t).sendq.length + 4 ≤ 32) ∧
    (∃ (s : State) (t : Nat) (xa : _), TileReady s t ∧ Straight (tile s.ctl t) ∧ rdX (tile s.ctl t) xa % 64 = 0 ∧ rdX (tile s.ctl t) xa +
        64 ≤ 524288 ∧ CodesSound s.mem t (rdX (tile s.ctl t) xa) 64 ∧ (tile s.ctl t).nmeq < 4) ∧
    (∃ (s : State) (t : Nat), TileReady s t ∧ Straight (tile s.ctl t)) ∧
    (∃ (s : State) (t : Nat), TileReady s t ∧ Straight (tile s.ctl t) ∧ grantFlag s.ctl (tileOwner s.ctl t) 1 = true) ∧
    (∃ (s : State) (t : Nat) (f : Nat) (fl : Flit) (r : List Flit), alive s.ctl = true ∧ inForce s.ctl = true ∧ s.ctl.time.phase = 0 ∧
        s.ctl.pwr.chip = false ∧ tileOwner s.ctl t < 32 ∧ (tile s.ctl t).sendq = fl :: r ∧ firstPhase s.ctl t (tileOwner s.ctl t) (max
        s.ctl.time.ftc (tile s.ctl t).phaseAt) = some f ∧ f < nextBoundary s.ctl) ∧
    (∃ (s : State) (e : Flit × Nat), alive s.ctl = true ∧ firstFlit s.ctl = some e ∧ tileOwner s.ctl e.1.dst < 32 ∧ clearing s.ctl e.1.dst
        = false ∧ e.1.addr % 64 = 0) :=
  ⟨⟨tl (fun x => { x with x := ⟨[(1, 5 * 1024), (2, 524032)]⟩, sendq := List.replicate 28 { src := 0, dst := 0, ch := 0, addr := 0, data := 0 } }),
       0, 1, 2, by unfold TileReady Straight; decide +kernel⟩,
   ⟨tl (fun x => { x with x := ⟨[(1, 524224)]⟩, nmeq := 3 }), 0, 1, by unfold TileReady Straight CodesSound; decide +kernel⟩,
   ⟨tl (fun x => { x with x := ⟨[(1, 7), (2, 3)]⟩ }), 0, by unfold TileReady Straight; decide +kernel⟩,
   ⟨chg (tl (fun x => { x with x := ⟨[(1, 5)]⟩ })) (fun c =>
           { c with plan := { c.plan with active := some { plan0 with partGrant := zeroBytes 8 ++ [7] ++ zeroBytes 7 } } }),
       0, by unfold TileReady Straight; decide +kernel⟩,
   ⟨tl (fun x => { x with sendq := [{ src := 0, dst := 0, ch := 5, addr := 64, data := 77 }] }), 0, 6500,
       { src := 0, dst := 0, ch := 5, addr := 64, data := 77 }, [], by decide +kernel⟩,
   ⟨chg (ep []) (fun c => { c with noc := { c.noc with flight := [({ src := 0, dst := 0, ch := 5, addr := 64, data := 77 }, 6510)] } }),
       ({ src := 0, dst := 0, ch := 5, addr := 64, data := 77 }, 6510), by decide +kernel⟩⟩

/-- States and operands that meet the hypotheses of each clause of `VectorIntegerLanes`. -/
theorem test_hyps_VectorIntegerLanes :
    ∃ (s : State) (t : Nat), TileReady s t ∧ Straight (tile s.ctl t) :=
  ⟨tl (fun x => { x with x := ⟨[(1, 7), (2, 3)]⟩ }), 0, by unfold TileReady Straight; decide +kernel⟩

/-- States and operands that meet the hypotheses of each clause of `VectorFloatLanes`. -/
theorem test_hyps_VectorFloatLanes :
    ∃ (s : State) (t : Nat), TileReady s t ∧ Straight (tile s.ctl t) :=
  ⟨tl (fun x => { x with x := ⟨[(1, 7), (2, 3)]⟩ }), 0, by unfold TileReady Straight; decide +kernel⟩

/-- States and operands that meet the hypotheses of each clause of `WideAccumulatorsAreExact`. -/
theorem test_hyps_WideAccumulatorsAreExact :
    ∃ (s : State) (t : Nat) (w : Nat), TileReady s t ∧ Straight (tile s.ctl t) ∧ w < 4 :=
  ⟨tl (fun x => { x with x := ⟨[(1, 7), (2, 3)]⟩ }), 0, 3, by unfold TileReady Straight; decide +kernel⟩

/-- States and operands that meet the hypotheses of each clause of `MatrixRowsAccumulate`. -/
theorem test_hyps_MatrixRowsAccumulate :
    ∃ (s : State) (t : Nat) (k : Nat), TileReady s t ∧ Straight (tile s.ctl t) ∧ k < 2 :=
  ⟨tl (fun x => { x with x := ⟨[(1, 7), (2, 3)]⟩ }), 0, 1, by unfold TileReady Straight; decide +kernel⟩

/-- States and operands that meet the hypotheses of each clause of `ExceptionsHaltThePartition`. -/
theorem test_hyps_ExceptionsHaltThePartition :
    (∃ (s : State) (t : Nat) (p : Nat), TileReady s t ∧ Straight (tile s.ctl t) ∧ tileOwner s.ctl t = p ∧ rbit s.ctl (ptStat p) 5 = false) ∧
    (∃ (s : State) (t : Nat) (p : Nat) (u : _), TileReady s t ∧ Straight (tile s.ctl t) ∧ tileOwner s.ctl t = p ∧ rbit s.ctl (ptStat p) 5
        = false ∧ u ∈ tilesOf s.ctl p) ∧
    (∃ (s : State) (t : Nat) (p : Nat) (fn : _), TileReady s t ∧ Straight (tile s.ctl t) ∧ tileOwner s.ctl t = p ∧ rbit s.ctl (ptStat p) 5
        = false ∧ 10 < fn) ∧
    (∃ (s : State) (t : Nat) (p : Nat) (xa : _) (imm : _), TileReady s t ∧ Straight (tile s.ctl t) ∧ tileOwner s.ctl t = p ∧ rbit s.ctl
        (ptStat p) 5 = false ∧ moveTo (tile s.ctl t) xa imm 4 % 4 ≠ 0) :=
  ⟨⟨tl (fun x => { x with x := ⟨[(1, 7), (2, 3)]⟩ }), 0, 0, by unfold TileReady Straight; decide +kernel⟩,
   ⟨tl (fun x => { x with x := ⟨[(1, 7), (2, 3)]⟩ }), 0, 0, 0, by unfold TileReady Straight; decide +kernel⟩,
   ⟨tl (fun x => { x with x := ⟨[(1, 7), (2, 3)]⟩ }), 0, 0, 11, by unfold TileReady Straight; decide +kernel⟩,
   ⟨tl (fun x => { x with x := ⟨[(1, 7), (2, 3)]⟩ }), 0, 0, 1, 0, by unfold TileReady Straight; decide +kernel⟩⟩

/-- States and operands that meet the hypotheses of each clause of `TilesComeToRest`. -/
theorem test_hyps_TilesComeToRest :
    (∃ (s : State) (t : Nat), alive s.ctl = true ∧ (tile s.ctl t).run = .ending ∧ tileDone s.ctl t = true ∧ s.ctl.time.phase = 0 ∧
        doneFrom (tile s.ctl t) ≤ s.ctl.time.ftc ∧ (s.ctl.time.epoch = true → s.ctl.time.ftc < nextBoundary s.ctl)) ∧
    (∃ (s : State) (t : Nat), alive s.ctl = true ∧ (tile s.ctl t).halted = true ∧ (tile s.ctl t).sendq = [] ∧ s.ctl.time.phase = 0 ∧
        doneFrom (tile s.ctl t) ≤ s.ctl.time.ftc ∧ (s.ctl.time.epoch = true → s.ctl.time.ftc < nextBoundary s.ctl)) ∧
    (∃ (s : State) (t : Nat), tileIssues s.ctl t = false) :=
  ⟨⟨tl (fun x => { x with run := .ending }), 0, by decide +kernel⟩,
   ⟨tl (fun x => { x with halted := true }), 0, by decide +kernel⟩,
   ⟨tl (fun x => { x with run := .idle }), 0, by decide +kernel⟩⟩

/-- States and operands that meet the hypotheses of each clause of `FramesAreTestedAndLand`. -/
theorem test_hyps_FramesAreTestedAndLand :
    (∃ (s : State) (n : Nat) (fec : FecSeen) (raw : Bytes), FrameGood s.ctl n raw ∧ fec.hit = false ∧ fType (rxWire s.ctl n raw).body = 2) ∧
    (∃ (s : State) (n : Nat) (fec : FecSeen) (raw : Bytes), FrameGood s.ctl n raw ∧ fec.hit = false ∧ fType (rxWire s.ctl n raw).body = 5) ∧
    (∃ (s : State) (n : Nat) (fec : FecSeen) (raw : Bytes), FrameComes s.ctl n ∧ (rxWire s.ctl n raw).crcOk = true ∧ fec.hit = false ∧
        onAt s.ctl n = true ∧ fType (rxWire s.ctl n raw).body = 4) ∧
    (∃ (s : State) (n : Nat) (fec : FecSeen) (raw : Bytes), FrameGood s.ctl n raw ∧ fec.hit = false ∧ fType (rxWire s.ctl n raw).body = 1
        ∧ epochAt s.ctl = false) ∧
    (∃ (s : State) (n : Nat) (fec : FecSeen) (raw : Bytes) (le : LandEnt) (i : Instr), FrameGood s.ctl n raw ∧ fec.hit = false ∧ ((i =
        .dataFrame n fec raw ∧ fType (rxWire s.ctl n raw).body = 1) ∨ (i = .calFrame n fec raw ∧ fType (rxWire s.ctl n raw).body = 3)) ∧
        Admitted s.ctl n (rxWire s.ctl n raw).body le) ∧
    (∃ (s : State) (n : Nat) (fec : FecSeen) (raw : Bytes), n < 16 ∧ alive s.ctl = true ∧ rbit s.ctl (hgBase n + 8) 8 = true ∧ (smGet
        s.ctl.hg.resetAt 0 n = 0 ∨ smGet s.ctl.hg.resetAt 0 n + frameTc ≤ s.ctl.time.ftc + 1) ∧ fType (rxWire s.ctl n raw).body = 1 ∧ raw
        ≠ [] ∧ ((rxWire s.ctl n raw).crcOk = false ∨ fec.hit = true ∨ lockAgo s.ctl n parseTc = false)) ∧
    (∃ (s : State) (n : Nat), n < 16 ∧ alive s.ctl = true ∧ smGet s.ctl.hg.resetAt 0 n ≠ 0 ∧ s.ctl.time.ftc + 1 < smGet s.ctl.hg.resetAt 0
        n + frameTc) :=
  ⟨⟨up (hgOn 15 63), 15, {}, fr 2 63 (zeroBytes 6 ++ [5, 0] ++ zeroBytes 8), by unfold FrameGood FrameComes; decide +kernel,
       by decide +kernel⟩,
   ⟨up (hgOn 15 63), 15, {}, fr 5 63 ([7, 0, 0, 0] ++ leBytes 4 99), by unfold FrameGood FrameComes; decide +kernel, by decide +kernel⟩,
   ⟨up (hgOn 15 63), 15, {}, fr 4 63 (zeroBytes 8), by unfold FrameComes; decide +kernel, by decide +kernel⟩,
   ⟨chg (hgr 1) (fun c => { c with time := { c.time with epoch := false } }), 15, {},
       fr 1 63 (leBytes 6 9 ++ [0, 0, 0, 0, 4, 0, 1, 2, 3, 4]), by unfold FrameGood FrameComes; decide +kernel, by decide +kernel⟩,
   ⟨hgr 3, 15, {}, fr 1 63 (leBytes 6 9 ++ [0, 0, 0, 0, 4, 0, 1, 2, 3, 4]), landEnt (planL.landing),
       .dataFrame 15 {} (fr 1 63 (leBytes 6 9 ++ [0, 0, 0, 0, 4, 0, 1, 2, 3, 4])), by unfold FrameGood FrameComes; decide +kernel,
       by decide +kernel, by decide +kernel,
       by unfold Admitted; exact ⟨by decide +kernel, by decide +kernel, by decide +kernel, by decide +kernel, by decide +kernel, fun _ => rfl, fun _ => rfl, by decide +kernel, by decide +kernel, by decide +kernel, by decide +kernel, by decide +kernel, by decide +kernel, by decide +kernel⟩⟩,
   ⟨up (hgOn 15 63), 15, {}, (fr 1 63 (leBytes 6 9 ++ [0, 0, 0, 0, 4, 0, 1, 2, 3, 4])).dropLast ++ [1], by decide +kernel⟩,
   ⟨chg (up (hgOn 15 63)) (fun c => { c with hg := { c.hg with resetAt := ⟨[(15, 1)]⟩ } }), 15, by decide +kernel⟩⟩

/-- States and operands that meet the hypotheses of each clause of `StationsComeAndGo`. -/
theorem test_hyps_StationsComeAndGo :
    (∃ (s : State) (n : Nat) (q : Nat), n < 16 ∧ q < 64 ∧ regsServed s.ctl = true) ∧
    (∃ (s : State) (n : Nat) (q : Nat), n < 16 ∧ q < 64 ∧ regsServed s.ctl = true ∧ stnState s.ctl n q = 2 ∧ (smGet s.ctl.hg.absAt 0 (n *
        64 + q) = 0 ∨ (smGet s.ctl.hg.absAt 0 (n * 64 + q) - 1) / 2 ≠ s.ctl.time.ftc / 2)) ∧
    (∃ (s : State) (n : Nat) (q : Nat), regsServed s.ctl = true ∧ stnState s.ctl n q ≠ 2) ∧
    (∃ (s : State) (n : Nat) (q : Nat), n < 16 ∧ q < 64 ∧ alive s.ctl = true ∧ s.ctl.time.epoch = true ∧ stnState s.ctl n q = 1 ∧ smGet
        s.ctl.hg.absDue false (n * 64 + q) = true ∧ s.ctl.time.ftc = s.ctl.time.passAt) ∧
    (∃ (s : State) (n : Nat) (q : Nat), n < 16 ∧ q < 64 ∧ regsServed s.ctl = true ∧ stnState s.ctl n q = 0) ∧
    (∃ (s : State) (n : Nat) (q : Nat), n < 16 ∧ q < 64 ∧ regsServed s.ctl = true ∧ stnState s.ctl n q = 2 ∧ (smGet s.ctl.hg.absAt 0 (n *
        64 + q) = 0 ∨ (smGet s.ctl.hg.absAt 0 (n * 64 + q) - 1) / 2 ≠ s.ctl.time.ftc / 2) ∧ TxFree s.ctl n 16) ∧
    (∃ (s : State) (n : Nat) (q : Nat), n < 16 ∧ q < 64 ∧ regsServed s.ctl = true ∧ stnState s.ctl n q = 2 ∧ (smGet s.ctl.hg.absAt 0 (n *
        64 + q) = 0 ∨ (smGet s.ctl.hg.absAt 0 (n * 64 + q) - 1) / 2 ≠ s.ctl.time.ftc / 2) ∧ hgState s.ctl n = 1 ∧ (∀ r, r ∈ s.ctl.hg.txq →
        r.hg ≠ n) ∧ s.ctl.time.ftc < smGet s.ctl.hg.txFree 0 n) ∧
    (∃ (s : State) (n : Nat) (q : Nat), n < 16 ∧ q < 64 ∧ regsServed s.ctl = true ∧ stnState s.ctl n q = 2 ∧ 0 < smGet s.ctl.hg.absAt 0 (n
        * 64 + q) ∧ (smGet s.ctl.hg.absAt 0 (n * 64 + q) - 1) / 2 = s.ctl.time.ftc / 2) ∧
    (∃ (s : State) (n : Nat) (q : Nat), n < 16 ∧ q < 64 ∧ alive s.ctl = true ∧ s.ctl.time.epoch = true ∧ stnState s.ctl n q = 1 ∧ smGet
        s.ctl.hg.absDue false (n * 64 + q) = true ∧ s.ctl.time.ftc = s.ctl.time.passAt ∧ TxFree s.ctl n 16) :=
  ⟨⟨up (hgOn 15 63), 15, 63, by decide +kernel⟩,
   ⟨ep (hgOn 15 63 2), 15, 63, by decide +kernel⟩,
   ⟨up (hgOn 15 63 0), 15, 63, by decide +kernel⟩,
   ⟨chg (ep (hgOn 15 63)) (fun c => { c with time := { c.time with ftc := 6400 }, hg := { c.hg with absDue := ⟨[(15 * 64 + 63, true)]⟩ } }),
       15, 63, by decide +kernel⟩,
   ⟨up (hgOn 15 63 0), 15, 63, by decide +kernel⟩,
   ⟨ep (hgOn 15 63 2), 15, 63, by unfold TxFree; decide +kernel⟩,
   ⟨chg (ep (hgOn 15 63 2)) (fun c => { c with hg := { c.hg with txFree := ⟨[(15, 6600)]⟩ } }), 15, 63, by decide +kernel⟩,
   ⟨chg (ep (hgOn 15 63 2)) (fun c => { c with hg := { c.hg with absAt := ⟨[(15 * 64 + 63, 6501)]⟩ } }), 15, 63, by decide +kernel⟩,
   ⟨chg (ep (hgOn 15 63)) (fun c => { c with time := { c.time with ftc := 6400 }, hg := { c.hg with absDue := ⟨[(15 * 64 + 63, true)]⟩ } }),
       15, 63, by unfold TxFree; decide +kernel⟩⟩

/-- States and operands that meet the hypotheses of each clause of `LandedFramesReachTheirTileAndEntry`. -/
theorem test_hyps_LandedFramesReachTheirTileAndEntry :
    (∃ (s : State) (n : Nat) (lock : Bool), n < 16 ∧ alive s.ctl = true ∧ rbit s.ctl (hgBase n + 8) 8 = true ∧ rbit s.ctl (hgStat n) 4 =
        !lock) ∧
    (∃ (s : State) (n : Nat), n < 16 ∧ alive s.ctl = true ∧ rbit s.ctl (hgStat n) 4 = true) ∧
    (∃ (s : State) (t : Nat) (l : LandLine) (r : List LandLine), alive s.ctl = true ∧ smGet s.ctl.hg.lines [] t = l :: r ∧ tileOwner s.ctl
        t < 32 ∧ clearing s.ctl t = false ∧ l.data.length = 64 ∧ l.addr % 64 = 0 ∧ Ahead s.ctl l.due) ∧
    (∃ (s : State) (f : Landing), alive s.ctl = true ∧ firstLanding s.ctl.hg.landing = some f ∧ Ahead s.ctl f.due ∧ tileOwner s.ctl f.tile
        < 32 ∧ clearing s.ctl f.tile = false ∧ f.cal = false ∧ s.ctl.dc.pend = [] ∧ f.hg < 16) ∧
    (∃ (s : State) (f : Landing), alive s.ctl = true ∧ firstLanding s.ctl.hg.landing = some f ∧ Ahead s.ctl f.due ∧ tileOwner s.ctl f.tile
        < 32 ∧ clearing s.ctl f.tile = false ∧ f.cal = true) :=
  ⟨⟨up (hgOn 15 63), 15, false, by decide +kernel⟩,
   ⟨up (hgOn 15 63), 15, by decide +kernel⟩,
   ⟨chg (ep []) (fun c => { c with hg := { c.hg with lines := ⟨[(0, [{ due := 6600, addr := 4096, data := zeroBytes 63 ++ [1], hg := 15, first := true }])]⟩ } }),
       0, { due := 6600, addr := 4096, data := zeroBytes 63 ++ [1], hg := 15, first := true }, [], by unfold Ahead; decide +kernel⟩,
   ⟨chg (ep []) (fun c => { c with hg := { c.hg with landing := [lnd] } }), lnd, by unfold Ahead; decide +kernel⟩,
   ⟨chg (ep []) (fun c => { c with hg := { c.hg with landing := [{ lnd with cal := true }] } }), { lnd with cal := true },
       by unfold Ahead; decide +kernel⟩⟩

/-- States and operands that meet the hypotheses of each clause of `VerdictsBecomeDecisions`. -/
theorem test_hyps_VerdictsBecomeDecisions :
    (∃ (s : State) (w : DecWord) (e : Pend), alive s.ctl = true ∧ firstDecw s.ctl.noc.decw = some w ∧ Ahead s.ctl w.due ∧ w.part < 32 ∧
        bits w.verdict 7 2 = 0 ∧ grantFlag s.ctl w.part 2 = false ∧ s.ctl.dc.pend = [e] ∧ pendHit w.part w.ref e = true ∧ e.handAt = none) ∧
    (∃ (s : State) (w : DecWord), alive s.ctl = true ∧ firstDecw s.ctl.noc.decw = some w ∧ Ahead s.ctl w.due ∧ w.part < 32 ∧ grantFlag
        s.ctl w.part 2 = false ∧ s.ctl.dc.pend = [] ∧ s.ctl.dc.gone = []) ∧
    (∃ (s : State) (e : Pend) (b : Nat), alive s.ctl = true ∧ s.ctl.time.epoch = true ∧ s.ctl.dc.pend = [e] ∧ e.closed = none ∧ e.handAt =
        none ∧ e.lpass + e.k + 1 ≤ s.ctl.time.pass ∧ b = boundaryOf s.ctl (e.lpass + e.k + 1) ∧ grantFlag s.ctl e.part 2 = false ∧
        (guarded s.ctl { e with closed := some b } = false) ∧ smGet s.ctl.dc.holeAt 0 e.part ≤ b) ∧
    (∃ (s : State) (e : Pend) (b : Nat), alive s.ctl = true ∧ s.ctl.dc.pend = [e] ∧ e.closed = some b ∧ e.handAt = none ∧ grantFlag s.ctl
        e.part 2 = true ∧ guarded s.ctl e = false ∧ Ahead s.ctl (b + dcWait s.ctl e.part) ∧ smGet s.ctl.dc.holeAt 0 e.part ≤ b) ∧
    (∃ (s : State) (e : Pend) (g : Nat), alive s.ctl = true ∧ s.ctl.dc.pend = [e] ∧ e.handAt = none ∧ guarded s.ctl e = true ∧ guardFtc
        s.ctl e = some g ∧ Ahead s.ctl g) ∧
    (∃ (s : State) (e : Pend) (h : Nat), alive s.ctl = true ∧ s.ctl.dc.pend = [e] ∧ e.handAt = some h ∧ e.hg < 16 ∧ e.stn < 64 ∧ e.part <
        32 ∧ (∀ r, r ∈ s.ctl.hg.txq → r.hg ≠ e.hg) ∧ Ahead s.ctl (max h (smGet s.ctl.hg.txFree 0 e.hg)) ∧ hgState s.ctl e.hg = 1 ∧
        stnState s.ctl e.hg e.stn = 1) :=
  ⟨⟨chg (ep []) (fun c => { c with noc := { c.noc with decw := [{ tile := 0, part := 0, ref := 15 * 2 ^ 28 + 63 * 2 ^ 22 + 9, verdict := 0x103, due := 6510 }] }, dc := { c.dc with pend := [pe] } }),
       { tile := 0, part := 0, ref := 15 * 2 ^ 28 + 63 * 2 ^ 22 + 9, verdict := 0x103, due := 6510 }, pe, by unfold Ahead; decide +kernel⟩,
   ⟨chg (ep []) (fun c => { c with noc := { c.noc with decw := [{ tile := 0, part := 0, ref := 15 * 2 ^ 28 + 63 * 2 ^ 22 + 9, verdict := 0x103, due := 6510 }] }, dc := { c.dc with pend := [] } }),
       { tile := 0, part := 0, ref := 15 * 2 ^ 28 + 63 * 2 ^ 22 + 9, verdict := 0x103, due := 6510 }, by unfold Ahead; decide +kernel⟩,
   ⟨chg (ep [(dcCfg 0, 2 ^ 8)]) (fun c => { c with noc := { c.noc with decw := [] }, dc := { c.dc with pend := [pe] } }), pe, 6400,
       by decide +kernel⟩,
   ⟨chg (chg (ep [(dcCfg 0, 200 * 2 ^ 16 + 2 * 2 ^ 8)]) (fun c =>
           { c with noc := { c.noc with decw := [] }, dc := { c.dc with pend := [{ pe with closed := some 6400, count := 2, orAcc := true, andAcc := false, tag := 3 }] } })) (fun c => { c with plan := { c.plan with active := some { plan0 with partGrant := zeroBytes 8 ++ [4] ++ zeroBytes 7 } } }),
       { pe with closed := some 6400, count := 2, orAcc := true, andAcc := false, tag := 3 }, 6400, by unfold Ahead; decide +kernel⟩,
   ⟨chg (ep [(dcDl 15 63, 600), (rDcGuard, 50)]) (fun c =>
           { c with noc := { c.noc with decw := [] }, dc := { c.dc with pend := [{ pe with lpass := 4 }] } }),
       { pe with lpass := 4 }, 6550, by unfold Ahead; decide +kernel⟩,
   ⟨chg (ep (hgOn 15 63)) (fun c => { c with noc := { c.noc with decw := [] }, dc := { c.dc with pend := [{ pe with handAt := some 6550, dpass := 5, accept := true }] } }),
       { pe with handAt := some 6550, dpass := 5, accept := true }, 6550, by unfold Ahead; decide +kernel⟩⟩

/-- States and operands that meet the hypotheses of each clause of `NearMemoryOperationsAreAccepted`. -/
theorem test_hyps_NearMemoryOperationsAreAccepted :
    (∃ (s : State) (nme : Nat) (p : Nat) (k : Nat) (i : Instr) (h : NmeHand), ((i = .fill nme p ∧ k = 1) ∨ (i = .copy nme p ∧ k = 2) ∨ (i
        = .compare nme p ∧ k = 3) ∨ (i = .reduce nme p ∧ k = 4) ∨ (i = .tload nme p ∧ k = 5) ∨ (i = .tstore nme p ∧ k = 6)) ∧ p < 32 ∧
        alive s.ctl = true ∧ s.ctl.time.phase = 0 ∧ s.ctl.pwr.chip = false ∧ (s.ctl.time.epoch = true → h.due < nextBoundary s.ctl) ∧
        s.ctl.noc.nmeq.find? (fun x => x.nme = nme ∧ x.part = p) = some h ∧ dOp h.desc = k ∧ ((nmeOps s.ctl p).filter (fun o => o.lead =
        nme)).length < 8 ∧ descStatus s.ctl p h.desc = 0) ∧
    (∃ (s : State) (nme : Nat) (p : Nat) (k : Nat) (i : Instr) (h : NmeHand), ((i = .fill nme p ∧ k = 1) ∨ (i = .copy nme p ∧ k = 2) ∨ (i
        = .compare nme p ∧ k = 3) ∨ (i = .reduce nme p ∧ k = 4) ∨ (i = .tload nme p ∧ k = 5) ∨ (i = .tstore nme p ∧ k = 6)) ∧ p < 32 ∧
        alive s.ctl = true ∧ s.ctl.time.phase = 0 ∧ s.ctl.pwr.chip = false ∧ (s.ctl.time.epoch = true → h.due < nextBoundary s.ctl) ∧
        s.ctl.noc.nmeq.find? (fun x => x.nme = nme ∧ x.part = p) = some h ∧ dOp h.desc = k ∧ ((nmeOps s.ctl p).filter (fun o => o.lead =
        nme)).length < 8 ∧ descStatus s.ctl p h.desc ≠ 0) :=
  ⟨⟨nw (nd 1 0 64 0 0 [(0x18, 8, 0x1122334455667788)]), 0, 0, 1, .fill 0 0, nh (nd 1 0 64 0 0 [(0x18, 8, 0x1122334455667788)]),
       by decide +kernel⟩,
   ⟨nw (nd 1 0 64 8 0), 0, 0, 1, .fill 0 0, nh (nd 1 0 64 8 0), by decide +kernel⟩⟩

/-- States and operands that meet the hypotheses of each clause of `NearMemoryOperationsMoveData`. -/
theorem test_hyps_NearMemoryOperationsMoveData :
    (∃ (s : State) (p : Nat) (q : Nat) (slot : Nat) (t : Nat) (o : NmeOp) (ws : List Nat), ws = (writeBeats o.desc q).filter (fun a =>
        !smGet o.written false (a / 32)) ∧ alive s.ctl = true ∧ p < 32 ∧ s.ctl.time.phase = 0 ∧ s.ctl.pwr.chip = false ∧ nmeOps s.ctl p =
        [o] ∧ slotFor s.ctl q slot p = some t ∧ o.status = 0 ∧ o.fin = none ∧ dOp o.desc = 1 ∧ dDst o.desc % 32 = 0 ∧ o.acc + 8 ≤ t ∧
        pchFailed s.ctl q = false ∧ ws ≠ []) ∧
    (∃ (s : State) (p : Nat) (q : Nat) (slot : Nat) (t : Nat) (o : NmeOp) (rs : List Nat), rs = (readBeats o.desc q).filter (fun a =>
        (beatOf o a).isNone) ∧ alive s.ctl = true ∧ p < 32 ∧ s.ctl.time.phase = 0 ∧ s.ctl.pwr.chip = false ∧ nmeOps s.ctl p = [o] ∧
        slotFor s.ctl q slot p = some t ∧ o.status = 0 ∧ o.fin = none ∧ dOp o.desc = 3 ∧ o.acc + 8 ≤ t ∧ pchFailed s.ctl q = false ∧ rs ≠
        [] ∧ dSrc o.desc % 32 = 0 ∧ dDst o.desc % 32 = 0 ∧ ((∀ a, a ∈ rs → smGet s.mem.poison false (a / 32) = false ∧ smGet s.mem.badBeat
        false (a / 32) = false ∧ smGet s.mem.weakBeat false (a / 32) = false))) ∧
    (∃ (s : State) (tl : Nat) (t : Nat) (i : Nat) (o : NmeOp) (x : BeatIn) (y : BeatIn), alive s.ctl = true ∧ tileOwner s.ctl tl < 32 ∧
        clearing s.ctl tl = false ∧ Ahead s.ctl t ∧ dDst o.desc % 64 = 0 ∧ nmeOps s.ctl (tileOwner s.ctl tl) = [o] ∧ o.part = tileOwner
        s.ctl tl ∧ dTile o.desc = tl ∧ dOp o.desc = 5 ∧ phaseFrom s.ctl tl (tileOwner s.ctl tl) (max (max s.ctl.time.ftc (tile s.ctl
        tl).phaseAt) (((linesReady s.ctl tl (2 ^ 64)).map (·.1)).foldl min (2 ^ 64))) = some t ∧ firstLine (linesReady s.ctl tl t) = some
        (o, i) ∧ linesReady s.ctl tl (2 ^ 64) ≠ [] ∧ beatOf o (dSrc o.desc + 64 * i) = some x ∧ beatOf o (dSrc o.desc + 64 * i + 32) =
        some y ∧ x.poison = false ∧ y.poison = false) ∧
    (∃ (s : State) (p : Nat) (e : Nat) (t : Nat) (o : NmeOp), alive s.ctl = true ∧ s.ctl.time.phase = 0 ∧ s.ctl.pwr.chip = false ∧ nmeOps
        s.ctl p = [o] ∧ o.part = p ∧ s.ctl.nme.recs = [] ∧ o.fin = some e ∧ dRec o.desc = true ∧ dCnt o.desc = true ∧ dCmpl o.desc + 64 ≤
        2 ^ 19 ∧ dCmpl o.desc % 64 = 0 ∧ tileOwner s.ctl o.tile < 32 ∧ clearing s.ctl o.tile = false ∧ phaseFrom s.ctl o.tile p (max (e +
        32) (tile s.ctl o.tile).phaseAt) = some t ∧ (s.ctl.time.epoch = true → t < nextBoundary s.ctl) ∧ opStatus o = 0) ∧
    (∃ (s : State) (p : Nat) (e : Nat) (t : Nat) (o : NmeOp), alive s.ctl = true ∧ s.ctl.time.epoch = true ∧ s.ctl.time.phase = 0 ∧
        s.ctl.pwr.chip = false ∧ nmeOps s.ctl p = [o] ∧ o.part = p ∧ s.ctl.nme.recs = [] ∧ o.fin = some e ∧ e < nextBoundary s.ctl ∧ (dRec
        o.desc || dCnt o.desc) = true ∧ phaseFrom s.ctl o.tile p (max (e + 32) (tile s.ctl o.tile).phaseAt) = some t ∧ nextBoundary s.ctl
        ≤ t ∧ o.status = 0 ∧ opStatus o = 0) ∧
    (∃ (s : State) (p : Nat) (t : Nat) (o : NmeOp), alive s.ctl = true ∧ s.ctl.time.phase = 0 ∧ s.ctl.pwr.chip = false ∧ s.ctl.nme.recs =
        [o] ∧ o.part = p ∧ dRec o.desc = true ∧ dCmpl o.desc + 64 ≤ 2 ^ 19 ∧ dCmpl o.desc % 64 = 0 ∧ tileOwner s.ctl o.tile < 32 ∧
        clearing s.ctl o.tile = false ∧ phaseFrom s.ctl o.tile p (max (o.fin.getD 0 + 32) (tile s.ctl o.tile).phaseAt) = some t ∧
        (s.ctl.time.epoch = true → t < nextBoundary s.ctl)) :=
  ⟨⟨nm (nop (nd 1 0 64 0 0 [(0x18, 8, 0x1122334455667788)])), 0, 0, 79, 7664, nop (nd 1 0 64 0 0 [(0x18, 8, 0x1122334455667788)]), _, rfl,
       by decide +kernel⟩,
   ⟨nm (nop (nd 3 0 64 0 64)), 0, 0, 7, 6512, nop (nd 3 0 64 0 64), _, rfl, by decide +kernel⟩,
   ⟨nm ({ nop (nd 5 0 64 0 4096) with beats := ⟨[(0, some ⟨6400, false, 5⟩), (1, some ⟨6400, false, 6⟩)]⟩ }), 0, 6500, 0,
       { nop (nd 5 0 64 0 4096) with beats := ⟨[(0, some ⟨6400, false, 5⟩), (1, some ⟨6400, false, 6⟩)]⟩ }, ⟨6400, false, 5⟩,
       ⟨6400, false, 6⟩, by unfold Ahead; decide +kernel⟩,
   ⟨nm ({ nop (nd 1 0xC1 64 0 0 [(0x24, 4, 0x1000)]) with fin := some 6460 }), 0, 6460, 6492,
       { nop (nd 1 0xC1 64 0 0 [(0x24, 4, 0x1000)]) with fin := some 6460 }, by decide +kernel⟩,
   ⟨nm ({ nop (nd 1 0xC1 64 0 0 [(0x24, 4, 0x1000)]) with fin := some 7660 }), 0, 7660, 7692,
       ({ nop (nd 1 0xC1 64 0 0 [(0x24, 4, 0x1000)]) with fin := some 7660 }), by decide +kernel⟩,
   ⟨chg (ep) (fun c => { c with nme := { c.nme with recs := [({ nop (nd 1 0xC1 64 0 0 [(0x24, 4, 0x1000)]) with fin := some 6460 })] } }),
       0, 6492, ({ nop (nd 1 0xC1 64 0 0 [(0x24, 4, 0x1000)]) with fin := some 6460 }), by decide +kernel⟩⟩

/-- States and operands that meet the hypotheses of each clause of `DeviceMemoryFailsAndIsRepaired`. -/
theorem test_hyps_DeviceMemoryFailsAndIsRepaired :
    (∃ (s : State) (q : Nat), q < 512 ∧ regsServed s.ctl = true ∧ pchFailed s.ctl q = false) ∧
    (∃ (s : State) (q : Nat), q < 512 ∧ pchFailed s.ctl q = true) ∧
    (∃ (s : State) (st : Nat), st < 8 ∧ regsServed s.ctl = true ∧ (∀ q, q < 512 → pchFailed s.ctl q = false)) ∧
    (∃ (s : State) (q : Nat) (bank : Nat) (row : Nat) (hard : Bool) (i : Instr), i = (if hard then .hardRepair q bank row else .softRepair
        q bank row) ∧ alive s.ctl = true ∧ rbit s.ctl 0x5098 0 = false ∧ rbit s.ctl rPlStat 4 = true ∧ q < 512 ∧ bank < 32 ∧ row < 2 ^ 18) ∧
    (∃ (s : State) (q : Nat) (bank : Nat) (row : Nat) (hard : Bool) (i : Instr), i = (if hard then .hardRepair q bank row else .softRepair
        q bank row) ∧ alive s.ctl = true ∧ rbit s.ctl 0x5098 0 = false ∧ rbit s.ctl rPlStat 4 = false) ∧
    (∃ (s : State) (result : Nat) (spares : Nat), alive s.ctl = true ∧ rbit s.ctl 0x5098 0 = true ∧ result < 8 ∧ spares < 256 ∧ result ≠
        1) ∧
    (∃ (s : State) (spares : Nat), alive s.ctl = true ∧ rbit s.ctl 0x5098 0 = true ∧ spares < 256) ∧
    (∃ (s : State) (slot : Nat), alive s.ctl = true ∧ rbit s.ctl 0x5080 0 = true ∧ inForce s.ctl = true ∧ s.ctl.nme.fixes = [] ∧
        s.ctl.nme.walked = 0 ∧ (∃ q, q < 512 ∧ patrolSkips s.ctl q = false) ∧ (∀ q, q < 512 → patrolSkips s.ctl q = true ∨ slotFor s.ctl q
        slot 0x41 ≠ none) ∧ (∀ b, smGet s.mem.poison false b = false ∧ smGet s.mem.badBeat false b = false ∧ smGet s.mem.weakBeat false b
        = false)) ∧
    (∃ (s : State) (slot : Nat) (q : Nat) (a : Nat) (t : Nat), alive s.ctl = true ∧ rbit s.ctl 0x5080 0 = true ∧ inForce s.ctl = true ∧
        s.ctl.nme.fixes = [] ∧ q < 512 ∧ bitN s.ctl.nme.walked q = false ∧ patrolSkips s.ctl q = false ∧ slotFor s.ctl q slot 0x41 = some
        t ∧ (∀ r, r < 512 → r ≠ q → slotFor s.ctl r slot 0x41 = none) ∧ a ∈ patrolBeats q (rd s.ctl 0x5084) ∧ smGet s.mem.weakBeat false
        (a / 32) = true ∧ smGet s.mem.badBeat false (a / 32) = false ∧ smGet s.mem.poison false (a / 32) = false ∧ rd s.ctl 0x5028 = 0) ∧
    (∃ (s : State) (slot : Nat) (a : Nat) (t : Nat), alive s.ctl = true ∧ rbit s.ctl 0x5080 0 = true ∧ inForce s.ctl = true ∧
        s.ctl.nme.fixes = [a] ∧ a % 32 = 0 ∧ pchOf a < 512 ∧ slotFor s.ctl (pchOf a) slot 0x41 = some t ∧ patrolSkips s.ctl (pchOf a) =
        false ∧ (∀ q, q < 512 → q ≠ pchOf a → patrolSkips s.ctl q = true ∨ slotFor s.ctl q slot 0x41 = none)) :=
  ⟨⟨chg up (fun c => setGt c 7 gFREE 0 0), 511, by decide +kernel⟩,
   ⟨up [(hbFail 511, 2 ^ 31)], 511, by decide +kernel⟩,
   ⟨up, 7, by decide +kernel⟩,
   ⟨up [(rPlStat, 16)], 511, 31, 262143, true, _, rfl, by decide +kernel⟩,
   ⟨up [(rPlStat, 0)], 511, 31, 262143, false, _, rfl, by decide +kernel⟩,
   ⟨up [(0x5098, 1)], 7, 255, by decide +kernel⟩,
   ⟨up [(0x5098, 1), (0x5094, 511)], 7, by decide +kernel⟩,
   ⟨chg (ep (((List.range 16).map (fun i => (hbFail (32 * i), if i = 0 then 2 ^ 32 - 2 else 2 ^ 32 - 1))) ++ [(0x5080, 1)])) (fun c =>
           { c with plan := { c.plan with active := some ({ plan0 with hbm := List.replicate 80 0x41, noc := List.replicate 64 0x41 }) } }),
       7, by decide +kernel, by decide +kernel, by decide +kernel, by decide +kernel, by decide +kernel, ⟨0, by decide +kernel⟩,
       by decide +kernel, fun _ => ⟨rfl, rfl, rfl⟩⟩,
   ⟨{ chg (ep [(0x5080, 1)]) (fun c => { c with plan := { c.plan with active := some ({ plan0 with hbm := List.replicate 80 0x41, noc := List.replicate 64 0x41 }) } }) with mem := { State.reset.mem with weakBeat := ⟨[(1, true)]⟩ } },
       7, 0, 32, 6512, by decide +kernel⟩,
   ⟨chg (ep [(0x5080, 1)]) (fun c => { c with plan := { c.plan with active := some ({ plan0 with hbm := List.replicate 80 0x41, noc := List.replicate 64 0x41 }) }, nme := { c.nme with fixes := [32] } }),
       7, 32, 6512, by decide +kernel⟩⟩

/-- States and operands that meet the hypotheses of each clause of `RequestsAreGrantedOrUnmapped`. -/
theorem test_hyps_RequestsAreGrantedOrUnmapped :
    (∃ (s : State) (spid : Option Nat) (hpa : Nat) (h : Nat) (d : Nat), Requests s.ctl spid hpa h d ∧ granted s.ctl h d false = true) ∧
    (∃ (s : State) (spid : Option Nat) (hpa : Nat) (h : Nat) (d : Nat) (mask : Dword), Requests s.ctl spid hpa h d ∧ granted s.ctl h d
        true = true ∧ mask ≠ 0) ∧
    (∃ (s : State) (spid : Option Nat) (hpa : Nat) (h : Nat) (d : Nat), Requests s.ctl spid hpa h d ∧ granted s.ctl h d false = false) ∧
    (∃ (s : State) (spid : Option Nat) (hpa : Nat) (h : Nat) (d : Nat), Requests s.ctl spid hpa h d ∧ granted s.ctl h d true = false) :=
  ⟨⟨po, some 5, 3 * 2 ^ 28 + 64, 63, 3 * 2 ^ 28 + 64, by unfold Requests; decide +kernel⟩,
   ⟨po, some 5, 3 * 2 ^ 28 + 64, 63, 3 * 2 ^ 28 + 64, BitVec.ofNat 64 (2 ^ 64 - 1), by unfold Requests; decide +kernel⟩,
   ⟨po, some 5, 4 * 2 ^ 28 + 64, 63, 4 * 2 ^ 28 + 64, by unfold Requests; decide +kernel⟩,
   ⟨po, some 5, 4 * 2 ^ 28 + 64, 63, 4 * 2 ^ 28 + 64, by unfold Requests; decide +kernel⟩⟩

/-- States and operands that meet the hypotheses of each clause of `WeirsMeterAndSlotsServe`. -/
theorem test_hyps_WeirsMeterAndSlotsServe :
    (∃ (s : State), alive s.ctl = true) ∧
    (∃ (s : State) (h : Nat) (r : PoolReq), alive s.ctl = true ∧ oldest s.ctl h = some r ∧ weRate s.ctl h ≠ 0 ∧ 16 * reqCost r ≤ rd s.ctl
        (weTok h)) ∧
    (∃ (s : State) (h : Nat) (r : PoolReq), alive s.ctl = true ∧ oldest s.ctl h = some r ∧ (weRate s.ctl h = 0 ∨ rd s.ctl (weTok h) < 16 *
        reqCost r)) ∧
    (∃ (s : State) (q : Nat) (slot : Nat) (t : Nat) (l : PoolLine) (rest : List PoolLine), ((∀ b, b = l.req.dpa / 32 ∨ b = l.req.dpa / 32
        + 1 → smGet s.mem.poison false b = false ∧ smGet s.mem.badBeat false b = false ∧ smGet s.mem.weakBeat false b = false)) ∧ alive
        s.ctl = true ∧ q < 512 ∧ slotFor s.ctl q slot 0x40 = some t ∧ scrubTakes (advanceTo s.ctl t) q = false ∧ fillSlot s.ctl q t =
        (rest, [l]) ∧ l.write = false ∧ l.req.dpa % 64 = 0 ∧ s.ctl.pool.closing = {} ∧ pchFailed s.ctl (pchOf l.req.dpa) = false ∧
        pchFailed s.ctl (pchOf (l.req.dpa + 32)) = false) ∧
    (∃ (s : State) (q : Nat) (slot : Nat) (t : Nat) (l : PoolLine) (rest : List PoolLine), alive s.ctl = true ∧ q < 512 ∧ slotFor s.ctl q
        slot 0x40 = some t ∧ scrubTakes (advanceTo s.ctl t) q = false ∧ fillSlot s.ctl q t = (rest, [l]) ∧ l.write = true ∧ l.psn = false
        ∧ l.req.dpa % 64 = 0 ∧ s.ctl.pool.closing = {} ∧ pchFailed s.ctl (pchOf l.req.dpa) = false ∧ pchFailed s.ctl (pchOf (l.req.dpa +
        32)) = false) ∧
    (∃ (s : State) (b : PoolBack), regsServed s.ctl = true ∧ firstBack s.ctl.pool.reads = some b ∧ b.line.req.kind ≠ 2 ∧ b.line.req.pm =
        none ∧ s.ctl.pool.closing = {} ∧ 1 ≤ rd s.ctl (weUsed b.line.req.host)) ∧
    (∃ (s : State) (b : PoolBack), regsServed s.ctl = true ∧ firstBack s.ctl.pool.writes = some b ∧ b.line.req.pm = none ∧
        s.ctl.pool.closing = {} ∧ 1 ≤ rd s.ctl (weUsed b.line.req.host)) :=
  ⟨⟨po [] (fun p => { p with waiting := [pr 2] }), by decide +kernel⟩,
   ⟨po [] (fun p => { p with waiting := [pr 2] }), 63, pr 2, by decide +kernel⟩,
   ⟨po [(weTok 63, 31)] (fun p => { p with waiting := [pr 2] }), 63, pr 2, by decide +kernel⟩,
   ⟨chg (po [] (fun p => { p with lines := [pln 0 false] })) (fun c => c), 128, 0, (up).ctl.time.ftc, pln 0 false, [],
       by rintro b (rfl | rfl) <;> decide +kernel, by decide +kernel⟩,
   ⟨chg (po [] (fun p => { p with lines := [pln 1 true] })) (fun c => c), 128, 0, (up).ctl.time.ftc, pln 1 true, [], by decide +kernel⟩,
   ⟨po [] (fun p => { p with reads := [{ line := pln 0 false, data := 3, due := 90 }] }), { line := pln 0 false, data := 3, due := 90 },
       by decide +kernel⟩,
   ⟨po [] (fun p => { p with writes := [{ line := pln 1 true, data := 3, due := 90 }] }), { line := pln 1 true, data := 3, due := 90 },
       by decide +kernel⟩⟩

/-- States and operands that meet the hypotheses of each clause of `MailboxesAnswer`. -/
theorem test_hyps_MailboxesAnswer :
    (∃ (s : State), hostUp s.ctl = true) ∧
    (∃ (s : State) (w : _), hostUp s.ctl = true ∧ w ≠ 0) ∧
    (∃ (s : State) (h : _), hostUp s.ctl = true ∧ h < 64) ∧
    (∃ (s : State) (h : _), hostUp s.ctl = true ∧ 64 ≤ h) ∧
    (∃ (s : State) (r : _) (b : _), hostUp s.ctl = true ∧ (r ≠ 0 ∨ b ≠ 2 ^ 28)) ∧
    (∃ (s : State) (a : _) (h : _) (i : _) (log : _), hostUp s.ctl = true ∧ h ≤ 63 ∧ hostValid s.ctl h = true ∧ a = h + innerOp i * 2 ^ 16
        ∧ i = .getEventRecords log) ∧
    (∃ (s : State) (a : _) (h : _) (i : _) (log : _) (n : _), hostUp s.ctl = true ∧ h ≤ 63 ∧ hostValid s.ctl h = true ∧ a = h + innerOp i
        * 2 ^ 16 ∧ i = .clearEventRecords log n) ∧
    (∃ (s : State) (a : _) (h : _) (i : _), hostUp s.ctl = true ∧ h ≤ 63 ∧ hostValid s.ctl h = true ∧ a = h + innerOp i * 2 ^ 16 ∧ i =
        .getConfiguration) ∧
    (∃ (s : State) (a : _) (h : _) (i : _), hostUp s.ctl = true ∧ h ≤ 63 ∧ hostValid s.ctl h = true ∧ a = h + innerOp i * 2 ^ 16 ∧ i =
        .getExtentList) ∧
    (∃ (s : State) (a : _) (h : _) (i : _) (l : _), hostUp s.ctl = true ∧ h ≤ 63 ∧ hostValid s.ctl h = true ∧ a = h + innerOp i * 2 ^ 16 ∧
        i = .addResponse l) ∧
    (∃ (s : State) (a : _) (h : _) (i : _) (l : _), hostUp s.ctl = true ∧ h ≤ 63 ∧ hostValid s.ctl h = true ∧ a = h + innerOp i * 2 ^ 16 ∧
        i = .release l) ∧
    (∃ (s : State) (a : _) (h : _) (i : _) (op : _), hostUp s.ctl = true ∧ h ≤ 63 ∧ hostValid s.ctl h = true ∧ a = h + innerOp i * 2 ^ 16
        ∧ i = .other op) ∧
    (∃ (s : State) (a : _), hostUp s.ctl = true ∧ (63 < bits a 7 0 ∨ hostValid s.ctl (bits a 7 0) = false)) :=
  ⟨⟨po [] (fun p => { p with logs := ⟨[(63 * 8 + 1, [{ kind := 0, what := 1, dpa := 5 }, { kind := 0, what := 2, dpa := 5 }])]⟩, overflow := ⟨[(63 * 8 + 1, 3)]⟩ }),
       by decide +kernel⟩,
   ⟨po [] (fun p => { p with logs := ⟨[(63 * 8 + 1, [{ kind := 0, what := 1, dpa := 5 }, { kind := 0, what := 2, dpa := 5 }])]⟩, overflow := ⟨[(63 * 8 + 1, 3)]⟩ }),
       1, by decide +kernel⟩,
   ⟨po [] (fun p => { p with logs := ⟨[(63 * 8 + 1, [{ kind := 0, what := 1, dpa := 5 }, { kind := 0, what := 2, dpa := 5 }])]⟩, overflow := ⟨[(63 * 8 + 1, 3)]⟩ }),
       63, by decide +kernel⟩,
   ⟨po [] (fun p => { p with logs := ⟨[(63 * 8 + 1, [{ kind := 0, what := 1, dpa := 5 }, { kind := 0, what := 2, dpa := 5 }])]⟩, overflow := ⟨[(63 * 8 + 1, 3)]⟩ }),
       64, by decide +kernel⟩,
   ⟨po [] (fun p => { p with logs := ⟨[(63 * 8 + 1, [{ kind := 0, what := 1, dpa := 5 }, { kind := 0, what := 2, dpa := 5 }])]⟩, overflow := ⟨[(63 * 8 + 1, 3)]⟩ }),
       0, 2 ^ 27, by decide +kernel⟩,
   ⟨po [] (fun p => { p with logs := ⟨[(63 * 8 + 1, [{ kind := 0, what := 1, dpa := 5 }, { kind := 0, what := 2, dpa := 5 }])]⟩, overflow := ⟨[(63 * 8 + 1, 3)]⟩ }),
       63 + innerOp (.getEventRecords 1) * 2 ^ 16, 63, .getEventRecords 1, 1, by decide +kernel⟩,
   ⟨po [] (fun p => { p with logs := ⟨[(63 * 8 + 1, [{ kind := 0, what := 1, dpa := 5 }, { kind := 0, what := 2, dpa := 5 }])]⟩, overflow := ⟨[(63 * 8 + 1, 3)]⟩ }),
       63 + innerOp (.clearEventRecords 1 2) * 2 ^ 16, 63, .clearEventRecords 1 2, 1, 2, by decide +kernel⟩,
   ⟨po [] (fun p => { p with logs := ⟨[(63 * 8 + 1, [{ kind := 0, what := 1, dpa := 5 }, { kind := 0, what := 2, dpa := 5 }])]⟩, overflow := ⟨[(63 * 8 + 1, 3)]⟩ }),
       63 + innerOp (.getConfiguration) * 2 ^ 16, 63, .getConfiguration, by decide +kernel⟩,
   ⟨po [] (fun p => { p with logs := ⟨[(63 * 8 + 1, [{ kind := 0, what := 1, dpa := 5 }, { kind := 0, what := 2, dpa := 5 }])]⟩, overflow := ⟨[(63 * 8 + 1, 3)]⟩ }),
       63 + innerOp (.getExtentList) * 2 ^ 16, 63, .getExtentList, by decide +kernel⟩,
   ⟨po [] (fun p => { p with logs := ⟨[(63 * 8 + 1, [{ kind := 0, what := 1, dpa := 5 }, { kind := 0, what := 2, dpa := 5 }])]⟩, overflow := ⟨[(63 * 8 + 1, 3)]⟩ }),
       63 + innerOp (.addResponse []) * 2 ^ 16, 63, .addResponse [], [], by decide +kernel⟩,
   ⟨po [] (fun p => { p with logs := ⟨[(63 * 8 + 1, [{ kind := 0, what := 1, dpa := 5 }, { kind := 0, what := 2, dpa := 5 }])]⟩, overflow := ⟨[(63 * 8 + 1, 3)]⟩ }),
       63 + innerOp (.release []) * 2 ^ 16, 63, .release [], [], by decide +kernel⟩,
   ⟨po [] (fun p => { p with logs := ⟨[(63 * 8 + 1, [{ kind := 0, what := 1, dpa := 5 }, { kind := 0, what := 2, dpa := 5 }])]⟩, overflow := ⟨[(63 * 8 + 1, 3)]⟩ }),
       63 + innerOp (.other 3) * 2 ^ 16, 63, .other 3, 3, by decide +kernel⟩,
   ⟨po [] (fun p => { p with logs := ⟨[(63 * 8 + 1, [{ kind := 0, what := 1, dpa := 5 }, { kind := 0, what := 2, dpa := 5 }])]⟩, overflow := ⟨[(63 * 8 + 1, 3)]⟩ }),
       62, by decide +kernel⟩⟩

/-- States and operands that meet the hypotheses of each clause of `ExtentsComeAndGo`. -/
theorem test_hyps_ExtentsComeAndGo :
    (∃ (s : State) (h : Nat) (len : Nat) (policy : Nat) (es : _), hostUp s.ctl = true ∧ hostValid s.ctl h = true ∧ poolIsFatal s.ctl =
        false ∧ pwrState s.ctl ≠ 3 ∧ keyLoaded s.ctl 0 h = true ∧ policy ≤ 1 ∧ len % 2 ^ 28 = 0 ∧ len ≠ 0 ∧ chooseExts s.ctl policy (len /
        2 ^ 28) [] = some es ∧ es.length ≤ hrtFree s.ctl) ∧
    (∃ (s : State) (h : Nat) (len : Nat) (policy : Nat), hostUp s.ctl = true ∧ hostValid s.ctl h = true ∧ poolIsFatal s.ctl = false ∧
        pwrState s.ctl ≠ 3 ∧ keyLoaded s.ctl 0 h = true ∧ policy ≤ 1 ∧ len % 2 ^ 28 = 0 ∧ len ≠ 0 ∧ chooseExts s.ctl policy (len / 2 ^ 28)
        [] = none) ∧
    (∃ (s : State) (h : Nat) (o : Offer), hostUp s.ctl = true ∧ s.ctl.pool.offers = [o] ∧ o.host = h ∧ o.first + o.cnt ≤ 1024 ∧ 1 ≤ o.cnt
        ∧ s.ctl.time.ftc / 2 < offerEnds s.ctl o / 2) ∧
    (∃ (s : State) (o : Offer), hostUp s.ctl = true ∧ s.ctl.pool.offers = [o] ∧ poolIsFatal s.ctl = false ∧ o.first + o.cnt ≤ 1024 ∧ 1 ≤
        o.cnt ∧ offerEnds s.ctl o / 2 ≤ s.ctl.time.ftc / 2) ∧
    (∃ (s : State) (x : ExtWait), regsServed s.ctl = true ∧ s.ctl.pool.mapping = [x] ∧ x.shared = none ∧ hrtFree s.ctl ≠ 0 ∧ poolIsFatal
        s.ctl = false ∧ x.first < 1024 ∧ x.cnt ≤ 1024 ∧ 1 ≤ x.cnt ∧ x.host < 64 ∧ (∃ e, e < 1024 ∧ hrtValid (smGet s.ctl.pool.hrt 0 e) =
        false)) ∧
    (∃ (s : State) (h : Nat) (f : Nat) (n : Nat) (e : Nat × Nat), hostUp s.ctl = true ∧ poolIsFatal s.ctl = false ∧ hostDead s.ctl h =
        false ∧ f + n ≤ 1024 ∧ 1 ≤ n ∧ entryOf s.ctl h f n = some e ∧ hrtShared e.2 = false ∧ unmapWaits s.ctl h f n = false) ∧
    (∃ (s : State) (h : Nat) (f : Nat) (n : Nat), hostUp s.ctl = true ∧ hostDead s.ctl h = false ∧ f + n ≤ 1024 ∧ 1 ≤ n ∧ entryOf s.ctl h
        f n = none) ∧
    (∃ (s : State) (h : Nat) (f : Nat) (n : Nat) (o : Offer), hostUp s.ctl = true ∧ h < 64 ∧ poolIsFatal s.ctl = false ∧ f + n ≤ 1024 ∧ 1
        ≤ n ∧ s.ctl.pool.offers = [o] ∧ o.host = h ∧ o.first = f ∧ o.cnt = n) ∧
    (∃ (s : State) (h : Nat) (f : Nat) (n : Nat) (e : Nat × Nat), hostUp s.ctl = true ∧ h < 64 ∧ poolIsFatal s.ctl = false ∧ hostDead
        s.ctl h = false ∧ f + n ≤ 1024 ∧ 1 ≤ n ∧ s.ctl.pool.offers = [] ∧ entryOf s.ctl h f n = some e ∧ hrtShared e.2 = false ∧
        unmapWaits s.ctl h f n = false ∧ gtState s.ctl f ≠ gQUARANTINE) ∧
    (∃ (s : State) (h : Nat) (f : Nat) (n : Nat) (e : Nat × Nat), hostUp s.ctl = true ∧ h < 64 ∧ poolIsFatal s.ctl = false ∧ f + n ≤ 1024
        ∧ 1 ≤ n ∧ s.ctl.pool.offers = [] ∧ entryOf s.ctl h f n = some e ∧ hrtShared e.2 = false ∧ unmapWaits s.ctl h f n = false ∧ gtState
        s.ctl f ≠ gQUARANTINE ∧ killNow s.ctl h = false) ∧
    (∃ (s : State) (h : Nat) (f : Nat) (n : Nat), hostUp s.ctl = true ∧ h < 64 ∧ f + n ≤ 1024 ∧ 1 ≤ n ∧ s.ctl.pool.offers = [] ∧ gtState
        s.ctl f ≠ gQUARANTINE ∧ killNow s.ctl h = true) ∧
    (∃ (s : State) (x : ExtWait) (e : Nat × Nat), regsServed s.ctl = true ∧ s.ctl.pool.kills = [] ∧ s.ctl.pool.unmapping = [x] ∧ x.shared
        = none ∧ poolIsFatal s.ctl = false ∧ entryOf s.ctl x.host x.first x.cnt = some e ∧ hrtShared e.2 = false) ∧
    (∃ (s : State) (o : Offer), regsServed s.ctl = true ∧ poolIsFatal s.ctl = false ∧ s.ctl.pool.offers = [o]) ∧
    (∃ (s : State) (st : Nat) (k : Nat), st < 8 ∧ regsServed s.ctl = true ∧ smGet s.ctl.pool.scrubbing 0 st = k ∧ k ≠ 0 ∧ k ≤ 1024 ∧ (k -
        1) % 8 = st ∧ poolIsFatal s.ctl = false ∧ (∀ i, i < 64 → scrubSlots ≤ smGet s.ctl.pool.scrubDone 0 (64 * st + i))) :=
  ⟨⟨po, 63, 2 ^ 29, 0, [(8, 2)], by decide +kernel⟩,
   ⟨po, 63, 2 ^ 30, 0, by decide +kernel⟩,
   ⟨po [] (fun p => { p with offers := [{ host := 63, first := 1022, cnt := 2, made := 5 }] }), 63,
       { host := 63, first := 1022, cnt := 2, made := 5 }, by decide +kernel⟩,
   ⟨po [(0x20000, 0)] (fun p => { p with offers := [{ host := 63, first := 1022, cnt := 2, made := 0 }] }),
       { host := 63, first := 1022, cnt := 2, made := 0 }, by decide +kernel⟩,
   ⟨po [] (fun p => { p with mapping := [⟨63, 8, 2, none, false, 90⟩] }), ⟨63, 8, 2, none, false, 90⟩, by decide +kernel⟩,
   ⟨po, 63, 2, 2, (7, 2 ^ 63 + 63 * 2 ^ 48 + 2 ^ 32 + 2), by decide +kernel⟩,
   ⟨po, 63, 2, 1, by decide +kernel⟩,
   ⟨po [] (fun p => { p with offers := [{ host := 63, first := 9, cnt := 1, made := 5 }], gt := ⟨[(9, 3 * 2 ^ 16 + 63)]⟩ }), 63, 9, 1,
       { host := 63, first := 9, cnt := 1, made := 5 }, by decide +kernel⟩,
   ⟨po, 63, 2, 2, (7, 2 ^ 63 + 63 * 2 ^ 48 + 2 ^ 32 + 2), by decide +kernel⟩,
   ⟨po, 63, 2, 2, (7, 2 ^ 63 + 63 * 2 ^ 48 + 2 ^ 32 + 2), by decide +kernel⟩,
   ⟨po [] (fun p => { p with kills := [(63, 65)] }), 63, 2, 2, by decide +kernel⟩,
   ⟨po [] (fun p => { p with unmapping := [⟨63, 2, 2, none, false, 90⟩], waiting := [pr 0] }), ⟨63, 2, 2, none, false, 90⟩,
       (7, 2 ^ 63 + 63 * 2 ^ 48 + 2 ^ 32 + 2), by decide +kernel⟩,
   ⟨po [] (fun p => { p with offers := [{ host := 63, first := 9, cnt := 1, made := 5 }], gt := ⟨[(9, 3 * 2 ^ 16 + 63)]⟩ }),
       { host := 63, first := 9, cnt := 1, made := 5 }, by decide +kernel⟩,
   ⟨po [] (fun p => { p with gt := ⟨[(7, 2 ^ 16)]⟩, scrubbing := ⟨[(7, 8)]⟩, scrubDone := ⟨(List.range 64).map (fun i => (448 + i, 8739))⟩ }),
       7, 8, by decide +kernel⟩⟩

/-- States and operands that meet the hypotheses of each clause of `RegionsKeysAndHosts`. -/
theorem test_hyps_RegionsKeysAndHosts :
    (∃ (s : State) (r : Nat), r < 64 ∧ regsServed s.ctl = true ∧ srDef s.ctl r = false ∧ keyLoaded s.ctl 1 r = true ∧ srTag s.ctl r ≠ 0 ∧
        (∀ k, k < 64 → srDef s.ctl k = true → srTag s.ctl k ≠ srTag s.ctl r)) ∧
    (∃ (s : State) (r : Nat), regsServed s.ctl = true ∧ srDef s.ctl r = false ∧ srTag s.ctl r = 0) ∧
    (∃ (s : State) (r : Nat), r < 64 ∧ regsServed s.ctl = true ∧ srMembers s.ctl r = 0 ∧ s.ctl.pool.offers = [] ∧ s.ctl.pool.mapping = []
        ∧ poolIsFatal s.ctl = false) ∧
    (∃ (s : State) (r : Nat), regsServed s.ctl = true ∧ srMembers s.ctl r ≠ 0) ∧
    (∃ (s : State) (kind : Nat) (slot : Nat), kind < 2 ∧ slot < 64 ∧ regsServed s.ctl = true ∧ s.ctl.pool.keyTill ≤ s.ctl.time.ftc ∧
        keyLoaded s.ctl kind slot = false ∧ keyWords s.ctl % 2 ^ 256 ≠ keyWords s.ctl / 2 ^ 256 ∧ keyWords s.ctl % 2 ^ 256 ≠ 0 ∧ keyWords
        s.ctl / 2 ^ 256 ≠ 0) ∧
    (∃ (s : State) (kind : Nat) (slot : Nat), kind < 2 ∧ slot < 64 ∧ regsServed s.ctl = true ∧ s.ctl.pool.keyTill ≤ s.ctl.time.ftc) ∧
    (∃ (s : State) (h : Nat), h < 64 ∧ regsServed s.ctl = true ∧ hostValid s.ctl h = true) ∧
    (∃ (s : State) (h : Nat), regsServed s.ctl = true ∧ hostValid s.ctl h = false) ∧
    (∃ (s : State) (h : Nat) (due : Nat) (r : List (Nat × Nat)), h < 64 ∧ regsServed s.ctl = true ∧ s.ctl.pool.kills = (h, due) :: r ∧ (∀
        x, x ∈ s.ctl.pool.unmapping → due ≤ x.due)) ∧
    (∃ (s : State) (h : Nat), h < 64 ∧ regsServed s.ctl = true ∧ hostValid s.ctl h = true ∧ hrtOf s.ctl h = [] ∧ s.ctl.pool.gt = {}) ∧
    (∃ (s : State), hostUp s.ctl = true ∧ hitHeld s.ctl (localHost s.ctl) = false ∧ spidTaken s.ctl (localHost s.ctl) (fld s.ctl (hitLo
        (localHost s.ctl)) 11 0) = false ∧ overTracked s.ctl (localHost s.ctl) = false) ∧
    (∃ (s : State), hostUp s.ctl = true ∧ hitHeld s.ctl (localHost s.ctl) = false ∧ overTracked s.ctl (localHost s.ctl) = true) ∧
    (∃ (s : State) (cause : Nat), poolIsFatal s.ctl = false ∧ cause < 8) ∧
    (∃ (s : State), poolIsFatal s.ctl = true) :=
  ⟨⟨po [(srBase 0 + 0x10, 5)], 0, by decide +kernel⟩,
   ⟨po, 63, by decide +kernel⟩,
   ⟨po [(srBase 63, 1)] (fun p => { p with gt := ⟨[(9, 5 * 2 ^ 16 + 63 * 2 ^ 8)]⟩ }), 63, by decide +kernel⟩,
   ⟨po [(srBase 63, 1), (srBase 63 + 0x28, 4)], 63, by decide +kernel⟩,
   ⟨po [] (fun p => { p with keyData := ⟨[(0, 1), (8, 2)]⟩ }), 1, 63, by decide +kernel⟩,
   ⟨po [] (fun p => { p with keyData := ⟨[(0, 1), (8, 2)]⟩ }), 0, 63, by decide +kernel⟩,
   ⟨po [] (fun p => { p with offers := [{ host := 63, first := 9, cnt := 1, made := 0 }], waiting := [pr 0], unmapping := [⟨63, 2, 2, none, false, 90⟩] }),
       63, by decide +kernel⟩,
   ⟨po, 1, by decide +kernel⟩,
   ⟨po [] (fun p => { p with kills := [(63, 64)] }), 63, 64, [], by decide +kernel⟩,
   ⟨po [(hitLo 63, 3 * 2 ^ 30)] (fun p => { p with hrt := {}, gt := {} }), 63, by decide +kernel⟩,
   ⟨po [(hitLo 0, 7)], by decide +kernel⟩,
   ⟨po [(hitLo 0, 7), (weTrk 0, 16384)], by decide +kernel⟩,
   ⟨po [] (fun p => { p with waiting := [pr 0], lines := [pln 2 false, pln 2 true] }), 2, by decide +kernel⟩,
   ⟨po [(0x20014, 5)], by decide +kernel⟩⟩

/-- States and operands that meet the hypotheses of each clause of `PageMoversMovePages`. -/
theorem test_hyps_PageMoversMovePages :
    (∃ (s : State) (fn : Nat) (e : Bytes), Taken s.ctl fn 0 0x30 e ∧ s.ctl.ev.contained = false ∧ pmCheck s.ctl fn (leAt e 8 1) (pmCmdOf e
        (refOf fn 0 e)) ≠ 0) ∧
    (∃ (s : State) (fn : Nat) (page : Option Bytes) (e : Bytes) (m : Nat) (k : PmCmd), Taken s.ctl fn 0 0x30 e ∧ s.ctl.ev.contained =
        false ∧ m = leAt e 8 1 ∧ k = pmCmdOf e (refOf fn 0 e) ∧ pmCheck s.ctl fn m k = 0 ∧ (pmOf s.ctl m).cmds = [] ∧ (pmOf s.ctl m).page
        = false ∧ (k.dir = 1 → pageBytes k ≤ (page.getD []).length) ∧ (∀ i, i < pageLines k → granted s.ctl k.host (pageDpa k + 64 * i)
        (decide (k.dir = 1)) = true) ∧ poolIsFatal s.ctl = false) ∧
    (∃ (s : State) (m : Nat) (k : PmCmd), alive s.ctl = true ∧ (pmOf s.ctl m).cmds = [k] ∧ (pmOf s.ctl m).page = true ∧ m < 16 ∧ pageLines
        k ≤ (pmOf s.ctl m).got.entries.length ∧ k.npages ≤ k.moved + 1 ∧ k.dir = 1 ∧ k.ref.ring ≠ 0xFF ∧ k.moved < 256 ∧ (pmOf s.ctl
        m).dma = false) ∧
    (∃ (s : State) (m : Nat) (k : PmCmd) (d : Nat → BitVec 512), alive s.ctl = true ∧ (pmOf s.ctl m).cmds = [k] ∧ (pmOf s.ctl m).page =
        true ∧ m < 16 ∧ (pmOf s.ctl m).got.entries.length = pageLines k ∧ (∀ x, x ∈ (pmOf s.ctl m).got.entries → x.2 = some (d x.1,
        false)) ∧ (∀ i, i < pageLines k → smGet (pmOf s.ctl m).got none i = some (d i, false)) ∧ k.npages ≤ k.moved + 1 ∧ k.dir = 0 ∧
        k.ref.ring ≠ 0xFF ∧ k.moved < 256 ∧ (pmOf s.ctl m).dma = false) ∧
    (∃ (s : State) (m : Nat) (k : PmCmd), alive s.ctl = true ∧ (pmOf s.ctl m).cmds = [k] ∧ (pmOf s.ctl m).page = true ∧ m < 16 ∧ pageLines
        k ≤ (pmOf s.ctl m).got.entries.length ∧ k.ref.ring ≠ 0xFF ∧ (pmOf s.ctl m).dma = true) :=
  ⟨⟨cmd 0 0 (ent 0x30 [(2, 2, 9), (8, 1, 15), (0xA, 1, 63), (0xC, 2, 1), (0x10, 8, 2 ^ 29), (0x18, 8, 8192)]) (po []), 0,
       ent 0x30 [(2, 2, 9), (8, 1, 15), (0xA, 1, 63), (0xC, 2, 1), (0x10, 8, 2 ^ 29), (0x18, 8, 8192)], ⟨⟨_, rfl⟩, by decide +kernel⟩,
       by decide +kernel⟩,
   ⟨cmd 0 0 (ent 0x30 [(2, 2, 9), (8, 1, 15), (0xA, 1, 63), (0xC, 2, 1), (0x10, 8, 2 ^ 29), (0x18, 8, 8192)]) (po [(pmCtrl 15, 0x3F00), (pmStat 15, 1)]),
       0, none, ent 0x30 [(2, 2, 9), (8, 1, 15), (0xA, 1, 63), (0xC, 2, 1), (0x10, 8, 2 ^ 29), (0x18, 8, 8192)], _, _,
       ⟨⟨_, rfl⟩, by decide +kernel⟩, by decide +kernel, rfl, rfl, by decide +kernel⟩,
   ⟨po [(pmCtrl 15, 0x3F00), (pmStat 15, 1)] (fun p =>
           { p with pms := ⟨[(15, { cmds := [pc 1 0], page := true, got := ⟨(List.range 64).map (fun i => (i, some (0, false)))⟩ })]⟩ }),
       15, pc 1 0, by decide +kernel⟩,
   ⟨po [(pmCtrl 15, 0x3F00), (pmStat 15, 1)] (fun p =>
           { p with pms := ⟨[(15, { cmds := [pc 0 0], page := true, got := ⟨(List.range 64).map (fun i => (i, some (3, false)))⟩ })]⟩ }),
       15, pc 0 0, fun _ => 3, by decide +kernel⟩,
   ⟨po [(pmCtrl 15, 0x3F00), (pmStat 15, 1)] (fun p =>
           { p with pms := ⟨[(15, { cmds := [pc 1 0], page := true, dma := true, got := ⟨(List.range 64).map (fun i => (i, some (0, false)))⟩ })]⟩ }),
       15, pc 1 0, by decide +kernel⟩⟩

/-- States and operands that meet the hypotheses of each clause of `LinksTrainAndComeUp`. -/
theorem test_hyps_LinksTrainAndComeUp :
    (∃ (s : State) (l : Nat), alive s.ctl = true ∧ lkLive s.ctl l = true ∧ lkStep s.ctl l = 1) ∧
    (∃ (s : State) (m : MarkersSeen), alive s.ctl = true ∧ lkLive s.ctl m.link = true ∧ lkStep s.ctl m.link = 2 ∧ m.gap = 1024 ∧
        m.first.toNat / 2 ^ 16 = 0x9E4B17D26C35 ∧ m.second.toNat / 2 ^ 16 = 0x9E4B17D26C35 ∧ m.first.toNat % 2 ^ 8 < 32 ∧ m.second.toNat %
        2 ^ 8 < 32) ∧
    (∃ (m : MarkersSeen), (m.gap ≠ 1024 ∨ m.first.toNat / 2 ^ 16 ≠ 0x9E4B17D26C35 ∨ m.second.toNat / 2 ^ 16 ≠ 0x9E4B17D26C35)) ∧
    (∃ (l : Nat), l < 32) ∧
    (∃ (i : Nat) (bs : List Bool), bs.length ≤ bodyBits i) ∧
    (∃ (s : State) (l : Nat) (pay : Nat), alive s.ctl = true ∧ lkLive s.ctl l = true ∧ 3 ≤ lkStep s.ctl l ∧ bitN pay 49 = false ∧ bitN pay
        50 = false ∧ bits pay 47 32 = fld s.ctl (lkPeer l) 31 16 ∧ bits pay 28 24 = fld s.ctl (lkPeer l) 12 8 ∧ bits pay 15 0 = fld s.ctl
        rGlbFabric 31 16) ∧
    (∃ (s : State) (l : Nat) (pay : Nat), alive s.ctl = true ∧ lkLive s.ctl l = true ∧ 3 ≤ lkStep s.ctl l ∧ bitN pay 49 = true) ∧
    (∃ (s : State) (l : Nat) (pay : Nat), alive s.ctl = true ∧ lkLive s.ctl l = true ∧ 3 ≤ lkStep s.ctl l ∧ bitN pay 49 = false ∧ bits pay
        47 32 ≠ fld s.ctl (lkPeer l) 31 16) ∧
    (∃ (s : State) (l : Nat) (k : Nat) (w : Nat), l < 32 ∧ linksRun s.ctl = true ∧ lkState s.ctl l = 3 ∧ smGet s.ctl.lk.owed 0 l = w + 1 ∧
        s.ctl.time.epoch = true ∧ k = slotFrom (max s.ctl.time.ftc (smGet s.ctl.lk.sent 0 l) - s.ctl.time.passAt) ∧ k < lslots s.ctl) ∧
    (∃ (s : State) (l : Nat) (ex : List (Nat × Nat)) (m : Int), alive s.ctl = true ∧ lkLive s.ctl l = true ∧ lkStep s.ctl l = 4 ∧ (ex.map
        (fun x => (x.1 : Int) - x.2)).sum = 32 * m ∧ m ≤ 960) ∧
    (∃ (s : State) (l : Nat) (ex : List (Nat × Nat)), alive s.ctl = true ∧ lkLive s.ctl l = true ∧ lkStep s.ctl l = 4 ∧ 32 * 960 < (ex.map
        (fun x => (x.1 : Int) - x.2)).sum) ∧
    (∃ (s : State) (l : Nat), alive s.ctl = true ∧ lkLive s.ctl l = true ∧ lkStep s.ctl l = 4 ∧ smGet s.ctl.lk.mayUp 0 l ≠ 0 ∧
        (s.ctl.time.epoch = false ∨ smGet s.ctl.lk.mayUp 0 l ≤ s.ctl.time.pass + 1)) ∧
    (∃ (s : State) (l : Nat), alive s.ctl = true ∧ lkState s.ctl l = 1 ∧ lkStep s.ctl l ≠ 5 ∧ s.ctl.time.epoch = false) :=
  ⟨⟨lk 1, 31, by decide +kernel⟩,
   ⟨lk 2, ⟨31, 1024, 0x9E4B17D26C35 * 2 ^ 16 + 31, 0x9E4B17D26C35 * 2 ^ 16 + 287⟩, by decide +kernel⟩,
   ⟨⟨31, 1023, 0x9E4B17D26C35 * 2 ^ 16 + 31, 0x9E4B17D26C35 * 2 ^ 16 + 287⟩, by decide +kernel⟩,
   ⟨31, by decide +kernel⟩,
   ⟨0, [true], by decide +kernel⟩,
   ⟨lk 3 [] id [(lkPeer 31, 7 * 2 ^ 16 + 5 * 2 ^ 8 + 1), (rGlbFabric, 9 * 2 ^ 16)], 31, 2 ^ 48 + 7 * 2 ^ 32 + 5 * 2 ^ 24 + 9,
       by decide +kernel⟩,
   ⟨lk 3, 31, 2 ^ 49, by decide +kernel⟩,
   ⟨lk 4, 31, 2 ^ 32, by decide +kernel⟩,
   ⟨lk 4 [] (fun x => { x with owed := ⟨[(31, 4)]⟩ }) [(lkStat 31, 0x403)], 31, _, 3, by decide +kernel, by decide +kernel,
       by decide +kernel, by decide +kernel, by decide +kernel, rfl, by decide +kernel⟩,
   ⟨lk 4, 31, List.replicate 16 (1920, 0), 960, by decide +kernel⟩,
   ⟨lk 4, 31, List.replicate 16 (1921, 0), by decide +kernel⟩,
   ⟨lk 4 [] (fun x => { x with mayUp := ⟨[(31, 6)]⟩ }), 31, by decide +kernel⟩,
   ⟨chg (lk 4) (fun c => { c with time := { c.time with epoch := false } }), 31, by decide +kernel⟩⟩

/-- States and operands that meet the hypotheses of each clause of `ParcelsCrossTheFabric`. -/
theorem test_hyps_ParcelsCrossTheFabric :
    (∃ (s : State) (l : Nat) (k : Nat) (p : Nat) (n : Nat) (f : Nat) (e : Bytes) (old : TxBuf), alive s.ctl = true ∧ s.ctl.time.epoch =
        true ∧ k < lslots s.ctl ∧ p = linkOwner s.ctl l k ∧ p < 32 ∧ n = (if s.ctl.time.passAt + slotOff k ≥ s.ctl.time.ftc then
        s.ctl.time.pass else s.ctl.time.pass + 1) ∧ lowest ((acting s.ctl p l k n false).filter (fun e => !xFwd e)) = some e ∧ (smGet
        s.ctl.lk.tx none (l * 1024 + k) = some old ∧ old.pass = n ∨ smGet s.ctl.lk.tx none (l * 1024 + k) = none ∧ old = ⟨n, [], 0,
        false⟩) ∧ old.data.length < 256 ∧ firstPhase s.ctl (xTile e) p (max (max (lslotStart s.ctl n k - 160) s.ctl.time.ftc) (max (tile
        s.ctl (xTile e)).phaseAt old.lastAt)) = some f ∧ parcelBefore s.ctl l k n (xTile e) = false ∧ s.ctl.time.phase = 0 ∧
        s.ctl.pwr.chip = false ∧ f < nextBoundary s.ctl ∧ CodesSound s.mem (xTile e) (xAddr e k + old.data.length) 64) ∧
    (∃ (s : State) (l : Nat) (k : Nat) (n : Nat) (e : Bytes), s.ctl.time.epoch = true ∧ alive s.ctl = true ∧ n = (if s.ctl.time.passAt +
        slotOff k ≥ s.ctl.time.ftc then s.ctl.time.pass else s.ctl.time.pass + 1) ∧ lowest ((acting s.ctl (linkOwner s.ctl l k) l k n
        false).filter (fun e => !xFwd e)) = some e ∧ parcelBefore s.ctl l k n (xTile e) = true) ∧
    (∃ (s : State) (l : Nat) (k : Nat) (kind : Nat) (lose : Nat) (pay : Bytes), linksRun s.ctl = true ∧ l < 32 ∧ lkState s.ctl l = 1 ∧
        lkStep s.ctl l = 5 ∧ s.ctl.time.epoch = true ∧ k = slotFrom (max s.ctl.time.ftc (smGet s.ctl.lk.sent 0 l) - s.ctl.time.passAt) ∧ k
        < lslots s.ctl ∧ slotContent s.ctl l k s.ctl.time.pass = (kind, pay, lose, false) ∧ kind ≠ 4) ∧
    (∃ (s : State) (l : Nat) (ago : Nat) (fill : Nat) (k : Nat) (a : Nat) (raw : Bytes) (codes : List LinkCode), alive s.ctl = true ∧
        lkLive s.ctl l = true ∧ lkStep s.ctl l = 5 ∧ lkTakes s.ctl l s.ctl.time.pass = true ∧ (streamRead s.ctl l fill codes).frame = some
        raw ∧ s.ctl.time.epoch = true ∧ k < lslots s.ctl ∧ leAt raw 0 1 = 0x20 + k % 16 ∧ a = ftc16 s.ctl - ago ∧ a ≤ 16 * (lslotStart
        s.ctl s.ctl.time.pass k + 20) + fld s.ctl (lkDelay l) 15 0 + 256 ∧ 16 * (lslotStart s.ctl s.ctl.time.pass k + 20) + fld s.ctl
        (lkDelay l) 15 0 ≤ a + 256 ∧ s.ctl.time.ftc ≤ lslotStart s.ctl s.ctl.time.pass k + 288 ∧ smGet s.ctl.lk.rx none (l * 8 + k % 8) =
        none) ∧
    (∃ (s : State) (l : Nat) (fill : Nat) (codes : List LinkCode), alive s.ctl = true ∧ lkLive s.ctl l = true ∧ 3 ≤ lkStep s.ctl l ∧ (strm
        s.ctl l).rxCode ≠ 0 ∧ (streamRead s.ctl l fill codes).frame = none) ∧
    (∃ (s : State) (l : Nat) (k : Nat) (n : Nat) (p : Nat) (t0 : Nat) (t : Nat) (b : RxBuf) (e : Bytes), alive s.ctl = true ∧
        s.ctl.time.epoch = true ∧ l < 32 ∧ k < lslots s.ctl ∧ n = slotDue s.ctl k 312 (smGet s.ctl.lk.done 0 (l * 1024 + k)) ∧ smGet
        s.ctl.lk.done 0 (l * 1024 + k) ≤ n ∧ t0 = lslotStart s.ctl n k + 312 ∧ Ahead s.ctl t0 ∧ (∀ w, w ∈ s.ctl.lk.work → ¬ (w.link = l ∧
        w.slot = k)) ∧ s.ctl.noc.flight = [] ∧ smGet s.ctl.lk.got (0, 0) (l * 1024 + k) = (n + 1, 2) ∧ smGet s.ctl.lk.rx none (l * 8 + k %
        8) = some b ∧ b.pass = n ∧ b.slot = k ∧ b.kind = 2 ∧ p = slotOwner s.ctl l k n ∧ p < 32 ∧ lowest ((acting s.ctl p l k n
        true).filter (fun e => !xFwd e)) = some e ∧ xReduce e = false ∧ t = xTile e ∧ ptPasses s.ctl p = true ∧ tileOwner s.ctl t < 32 ∧
        clearing s.ctl t = false ∧ xAddr e k % 64 = 0 ∧ xAddr e k + 256 ≤ 2 ^ 19 ∧ (nextPhases s.ctl t p 4 (max t0 (tile s.ctl
        t).phaseAt)).length = 4 ∧ (∀ f, f ∈ nextPhases s.ctl t p 4 (max t0 (tile s.ctl t).phaseAt) → f < nextBoundary s.ctl)) ∧
    (∃ (s : State) (l : Nat) (k : Nat) (w : RxWork), alive s.ctl = true ∧ s.ctl.time.epoch = true ∧ s.ctl.lk.work.find? (fun w => w.link =
        l ∧ w.slot = k) = some w) ∧
    (∃ (s : State) (l : Nat) (k : Nat) (n : Nat) (t0 : Nat) (p : Nat) (b : RxBuf) (e : Bytes), alive s.ctl = true ∧ s.ctl.time.epoch =
        true ∧ l < 32 ∧ k < lslots s.ctl ∧ n = slotDue s.ctl k 288 (max (smGet s.ctl.lk.done 0 (l * 1024 + k)) (smGet s.ctl.lk.passed 0 (l
        * 1024 + k))) ∧ smGet s.ctl.lk.done 0 (l * 1024 + k) ≤ n ∧ n ≤ s.ctl.time.pass ∧ t0 = lslotStart s.ctl n k + 288 ∧ Ahead s.ctl t0
        ∧ smGet s.ctl.lk.got (0, 0) (l * 1024 + k) = (n + 1, 2) ∧ smGet s.ctl.lk.rx none (l * 8 + k % 8) = some b ∧ b.pass = n ∧ b.slot =
        k ∧ b.kind = 2 ∧ p = slotOwner s.ctl l k n ∧ p < 32 ∧ lowest ((acting s.ctl p l k n true).filter xFwd) = some e ∧ smGet
        s.ctl.lk.passed 0 (l * 1024 + k) ≤ n) :=
  ⟨⟨lk 5 (xe 0 0 0 0), 31, 3, _, _, 6500, xe 0 0 0 0, ⟨5, [], 0, false⟩, by decide +kernel, by decide +kernel, by decide +kernel, rfl,
       by decide +kernel, rfl, by decide +kernel, by decide +kernel, by decide +kernel, by decide +kernel, by decide +kernel,
       by decide +kernel, by decide +kernel, by decide +kernel, by unfold CodesSound; decide +kernel⟩,
   ⟨lk 5 (xe 0 0 0 0), 31, 23, _, xe 0 0 0 0, by decide +kernel, by decide +kernel, rfl, by decide +kernel⟩,
   ⟨lk 5 (xe 0 0 0 0) (fun x => { x with tx := ⟨[(31 * 1024 + 2, some ⟨5, List.replicate 256 7, 6400, false⟩)]⟩ }), 31, _, 2, 0,
       List.replicate 256 7, by decide +kernel, by decide +kernel, by decide +kernel, by decide +kernel, by decide +kernel, rfl,
       by decide +kernel⟩,
   ⟨lk 5 [] (fun x => { x with stream := ⟨[(31, { rxCode := 9, rxPend := zeroBytes 0 |>.foldr (fun _ l => l) (([0x20] ++ List.replicate 265 7).flatMap (fun b : Nat => (bitsOf b 8).map some)) })]⟩ }),
       31, 1280, 0, 0, 16 * 6500 - 1280, [0x20] ++ List.replicate 265 7, [], by decide +kernel⟩,
   ⟨lk 5 [] (fun x => { x with stream := ⟨[(31, { rxCode := 9, rxPend := [none] })]⟩ }), 31, 0, [], by decide +kernel⟩,
   ⟨lk 5 (xe 1 0 0 4096) (fun x => { x with got := ⟨[(31 * 1024, (6, 2))]⟩, rx := ⟨[(31 * 8, some ⟨5, 0, 2, 0, List.replicate 256 7⟩)]⟩, routes := ⟨[(1, 32)]⟩ }),
       31, 0, 5, 0, 6712, 0, ⟨5, 0, 2, 0, List.replicate 256 7⟩, xe 1 0 0 4096, by unfold Ahead; decide +kernel⟩,
   ⟨lk 5 [] (fun x => { x with work := [{ link := 31, slot := 0, pass := 5, part := 0, entry := xe 1 0 0 4096, src := List.replicate 256 7, red := false, from_ := 6712 }] }),
       31, 0,
       { link := 31, slot := 0, pass := 5, part := 0, entry := xe 1 0 0 4096, src := List.replicate 256 7, red := false, from_ := 6712 },
       by decide +kernel⟩,
   ⟨lk 5 (xe 5 0 0 4096) (fun x => { x with got := ⟨[(31 * 1024, (6, 2))]⟩, rx := ⟨[(31 * 8, some ⟨5, 0, 2, 0, List.replicate 256 7⟩)]⟩, routes := ⟨[(1, 32)]⟩ }),
       31, 0, 5, 6688, 0, ⟨5, 0, 2, 0, List.replicate 256 7⟩, xe 5 0 0 4096, by decide +kernel, by decide +kernel, by decide +kernel,
       by decide +kernel, by decide +kernel, by decide +kernel, by decide +kernel, by decide +kernel, by unfold Ahead; decide +kernel,
       by decide +kernel⟩⟩

/-- States and operands that meet the hypotheses of each clause of `FailuresDetoursAndSidebands`. -/
theorem test_hyps_FailuresDetoursAndSidebands :
    (∃ (s : State) (l : Nat) (why : Nat) (n : Nat) (e : Nat) (id : Nat) (o : Nat), alive s.ctl = true ∧ s.ctl.pwr.chip = false ∧ lkUp
        s.ctl l = true ∧ (why = 5 ∧ n ≤ 64 ∨ why = 6 ∧ fld s.ctl rLkCfg 7 0 ≤ ((strm s.ctl l).rxBad.filter (fun b => b)).length ∨ why = 7
        ∧ 2 ≤ (strm s.ctl l).rxMiss) ∧ e < 32 ∧ failValid s.ctl e = false ∧ (∀ j, j < e → failValid s.ctl j = true) ∧ id = smGet
        s.ctl.lk.lastId 0 l - 1 ∧ o < 32 ∧ o ≠ l ∧ lkUp s.ctl o = true ∧ lkState s.ctl o = 1) ∧
    (∃ (n : Nat), 64 < n) ∧
    (∃ (s : State) (l : Nat) (pay : Nat) (e : Nat) (pf : Nat), alive s.ctl = true ∧ lkLive s.ctl l = true ∧ 3 ≤ lkStep s.ctl l ∧ pf = ux
        48 (nearestMod ((passNo s.ctl : Nat) : Int) (pay % 2 ^ 32) (2 ^ 32)) ∧ (∀ j, j < 32 → ¬ (failValid s.ctl j = true ∧ failId s.ctl j
        = bits pay 55 40 ∧ failLink s.ctl j = bits pay 39 35 ∧ failPass s.ctl j = pf)) ∧ e < 32 ∧ failValid s.ctl e = false ∧ (∀ j, j < e
        → failValid s.ctl j = true)) ∧
    (∃ (s : State) (l : Nat) (pay : Nat) (j : Nat), alive s.ctl = true ∧ lkLive s.ctl l = true ∧ 3 ≤ lkStep s.ctl l ∧ j < 32 ∧ failValid
        s.ctl j = true ∧ failId s.ctl j = bits pay 55 40 ∧ failLink s.ctl j = bits pay 39 35 ∧ failPass s.ctl j = ux 48 (nearestMod
        ((passNo s.ctl : Nat) : Int) (pay % 2 ^ 32) (2 ^ 32))) ∧
    (∃ (s : State) (e : Nat) (p : Nat), alive s.ctl = true ∧ s.ctl.time.epoch = true ∧ s.ctl.lk.switched = [] ∧ e < 32 ∧ failValid s.ctl e
        = true ∧ (∀ j, j < 32 → j ≠ e → failValid s.ctl j = false) ∧ p < 32 ∧ smGet s.ctl.lk.failRec 0 e ≠ 0 ∧ smGet s.ctl.lk.failRec 0 e
        - 1 < failPass s.ctl e + detourD s.ctl p ∧ failPass s.ctl e + detourD s.ctl p ≤ s.ctl.time.pass) ∧
    (∃ (s : State) (e : Nat) (p : Nat) (f : Nat), alive s.ctl = true ∧ s.ctl.time.epoch = true ∧ s.ctl.lk.switched = [] ∧ e < 32 ∧
        failValid s.ctl e = true ∧ (∀ j, j < 32 → j ≠ e → failValid s.ctl j = false) ∧ p < 32 ∧ smGet s.ctl.lk.failRec 0 e = 0 ∧ f = rd64
        s.ctl rEpochFirst % 2 ^ 48 ∧ (failPass s.ctl e + detourD s.ctl p ≤ f ∨ failPass s.ctl e = 2 ^ 48 - 1) ∧ f ≤ s.ctl.time.pass) ∧
    (∃ (s : State) (e : Nat), e < 32 ∧ regsServed s.ctl = true ∧ stagedWait s.ctl = false ∧ failValid s.ctl e = true) ∧
    (∃ (s : State) (e : Nat), e < 32 ∧ regsServed s.ctl = true ∧ stagedWait s.ctl = true) ∧
    (∃ (s : State) (l : Nat), l < 32 ∧ rootLock s.ctl = true ∧ s.ctl.time.refclk = true ∧ bitN (rd s.ctl (hub 0x100)) l = true ∧ rbit
        s.ctl rEvCtrl 19 = false) ∧
    (∃ (s : State) (l : Nat), l < 32 ∧ rootLock s.ctl = true ∧ s.ctl.time.refclk = true ∧ bitN (rd s.ctl (hub 0x100)) l = false) ∧
    (∃ (s : State) (l : Nat) (a : Nat) (b : Nat) (pay : Nat), alive s.ctl = true ∧ lkLive s.ctl l = true ∧ 3 ≤ lkStep s.ctl l ∧ spMaster
        s.ctl = false ∧ fld s.ctl rStampIn 4 0 = l ∧ rbit s.ctl rStampIn 5 = true ∧ s.ctl.lk.stampIn = [a, b] ∧ bits pay 55 54 = 2 ∧ bits
        a 53 48 = bits pay 53 48) ∧
    (∃ (s : State) (l : Nat) (pay : Nat), alive s.ctl = true ∧ lkLive s.ctl l = true ∧ 3 ≤ lkStep s.ctl l ∧ spMaster s.ctl = false ∧ fld
        s.ctl rStampIn 4 0 = l ∧ rbit s.ctl rStampIn 5 = true ∧ s.ctl.lk.stampIn = [] ∧ bits pay 55 54 = 0) ∧
    (∃ (s : State) (l : Nat) (pay : Nat), alive s.ctl = true ∧ lkLive s.ctl l = true ∧ 3 ≤ lkStep s.ctl l ∧ spMaster s.ctl = false ∧ fld
        s.ctl rStampIn 4 0 = l ∧ rbit s.ctl rStampIn 5 = true ∧ s.ctl.lk.stampIn = [] ∧ bits pay 55 54 ≠ 0) :=
  ⟨⟨lk 5 [] (fun x => { x with lastId := ⟨[(31, 7 + 3 * 2 ^ 16)]⟩, stream := ⟨[(31, { rxMiss := 2 })]⟩ }) [(lkStat 30, 0x501), (lkFail 0, 2 ^ 31)],
       31, 7, 0, 1, 6 + 3 * 2 ^ 16, 30, by decide +kernel⟩,
   ⟨65, by decide +kernel⟩,
   ⟨lk 5 [] id [(lkStat 30, 0x501), (lkFail 0, 2 ^ 31)], 31, 7 * 2 ^ 40 + 31 * 2 ^ 35 + 4, 1, _, by decide +kernel, by decide +kernel,
       by decide +kernel, rfl, by decide +kernel⟩,
   ⟨lk 5 [] id [(lkFail 31, 2 ^ 31 + 31 * 2 ^ 16 + 7), (lkFail 31 + 4, 4)], 31, 7 * 2 ^ 40 + 31 * 2 ^ 35 + 4, 31, by decide +kernel⟩,
   ⟨lk 5 [] (fun x => { x with failRec := ⟨[(31, 3)]⟩ }) [(lkFail 31, 2 ^ 31 + 31 * 2 ^ 16 + 7), (lkFail 31 + 4, 3)], 31, 0,
       by decide +kernel⟩,
   ⟨lk 5 [] id [(lkFail 31, 2 ^ 31 + 31 * 2 ^ 16 + 7), (lkFail 31 + 4, 1), (rEpochFirst, 4)], 31, 0, _, by decide +kernel,
       by decide +kernel, by decide +kernel, by decide +kernel, by decide +kernel, by decide +kernel, by decide +kernel,
       by decide +kernel, rfl, by decide +kernel⟩,
   ⟨chg (lk 5 [] id [(lkFail 31, 2 ^ 31 + 31 * 2 ^ 16 + 7), (lkFail 31 + 4, 3)]) (fun c =>
           { c with time := { c.time with epoch := false } }),
       31, by decide +kernel⟩,
   ⟨lk 5, 31, by decide +kernel⟩,
   ⟨lk 5 [] id [(hub 0x100, 2 ^ 31 + 2 ^ 30), (hub 0x104, 0x00FF00F0), (lkStat 30, 0x501)], 31, by decide +kernel⟩,
   ⟨lk 5, 31, by decide +kernel⟩,
   ⟨lk 5 [] (fun x => { x with stampIn := [5 * 2 ^ 48 + 9, 2 ^ 54 + 5 * 2 ^ 48 + 7 * 2 ^ 24 + 3] }) [(rStampIn, 63)], 31, 5 * 2 ^ 48 + 9,
       2 ^ 54 + 5 * 2 ^ 48 + 7 * 2 ^ 24 + 3, 2 ^ 55 + 5 * 2 ^ 48 + 8, by decide +kernel⟩,
   ⟨lk 5 [] id [(rStampIn, 63)], 31, 7, by decide +kernel⟩,
   ⟨lk 5 [] id [(rStampIn, 63)], 31, 2 ^ 54 + 7, by decide +kernel⟩⟩

/-- States and operands that meet the hypotheses of each clause of `SpindleSamplesAndObserves`. -/
theorem test_hyps_SpindleSamplesAndObserves :
    (∃ (s : State) (sb : Nat) (t : Nat) (div : Nat) (h : Nat) (cyc : Nat), alive s.ctl = true ∧ s.ctl.time.phase = 0 ∧ s.ctl.pwr.chip =
        false ∧ t = nextGrid s.ctl 800 s.ctl.sp.pairAt ∧ (s.ctl.time.epoch = false ∨ t ≤ nextBoundary s.ctl) ∧ div = max 1 (spDiv s.ctl) ∧
        h = shiftBits s.ctl.sp.sBits sb ∧ cyc = (s.ctl.sp.cyc + 16) % div ∧ capturing s.ctl 0 = false ∧ lateAt s.ctl t = []) ∧
    (∃ (s : State) (t : Nat) (x : Nat), alive s.ctl = true ∧ s.ctl.time.phase = 0 ∧ s.ctl.pwr.chip = false ∧ t = nextGrid s.ctl 800
        s.ctl.sp.pairAt ∧ (s.ctl.time.epoch = false ∨ t ≤ nextBoundary s.ctl) ∧ s.ctl.sp.pairAt ≠ 0 ∧ s.ctl.sp.exc = 2 ∧ x =
        s.ctl.sp.pairAt - 1 + 50 * (max 1 (spDiv s.ctl) - s.ctl.sp.cyc) ∧ x ≤ t ∧ s.ctl.sp.crossAt ≠ x + 1 ∧ lateAt s.ctl t = []) ∧
    (∃ (s : State), alive s.ctl = true ∧ s.ctl.time.phase = 0 ∧ s.ctl.pwr.chip = false ∧ spObs s.ctl = 1 ∧ (s.ctl.time.epoch = false ∨
        nextGrid s.ctl 6400 s.ctl.sp.updAt ≤ nextBoundary s.ctl) ∧ lateAt s.ctl (nextGrid s.ctl 6400 s.ctl.sp.updAt) = []) ∧
    (∃ (s : State), alive s.ctl = true ∧ s.ctl.time.phase = 0 ∧ s.ctl.pwr.chip = false ∧ spObs s.ctl = 2 ∧ (s.ctl.time.epoch = false ∨
        nextGrid s.ctl 6400 s.ctl.sp.updAt ≤ nextBoundary s.ctl) ∧ lateAt s.ctl (nextGrid s.ctl 6400 s.ctl.sp.updAt) = []) ∧
    (∃ (s : State), alive s.ctl = true ∧ s.ctl.time.phase = 0 ∧ s.ctl.pwr.chip = false ∧ spObs s.ctl = 0 ∧ 511 ≤ s.ctl.sp.acqN ∧ 63 ≤
        s.ctl.sp.inWin ∧ deltaOver (obsEn s.ctl) 256 = false ∧ fld s.ctl (sp 0x58) 21 0 = 0 ∧ (s.ctl.time.epoch = false ∨ nextGrid s.ctl
        6400 s.ctl.sp.updAt ≤ nextBoundary s.ctl) ∧ lateAt s.ctl (nextGrid s.ctl 6400 s.ctl.sp.updAt) = []) ∧
    (∃ (s : State) (i : Nat), i < 4 ∧ alive s.ctl = true ∧ converting s.ctl = true ∧ rbit s.ctl (sp 0x5C) (4 + i) = false ∧ faultNeed i ≤
        smGet s.ctl.sp.faultN 0 i) ∧
    (∃ (s : State) (i : Nat), i < 4 ∧ alive s.ctl = true ∧ rbit s.ctl (sp 0x5C) (4 + i) = true ∧ 64 ≤ smGet s.ctl.sp.clearN 0 i ∧
        converting s.ctl = true) ∧
    (∃ (s : State), alive s.ctl = true ∧ s.ctl.sp.exc = 1 ∧ ((s.ctl.time.epoch = false ∨ (s.ctl.sp.rampEnd ≤ nextBoundary s.ctl ∧
        s.ctl.time.phase = 0)))) ∧
    (∃ (s : State), alive s.ctl = true ∧ s.ctl.sp.exc = 3 ∧ ((s.ctl.time.epoch = false ∨ (s.ctl.sp.rampEnd ≤ nextBoundary s.ctl ∧
        s.ctl.time.phase = 0)))) ∧
    (∃ (s : State) (v : Word), alive s.ctl = true ∧ bitN v.toNat 31 = true ∧ spValid s.ctl = true ∧ bits v.toNat 18 16 < spP s.ctl) ∧
    (∃ (s : State) (v : Word), alive s.ctl = true ∧ bitN v.toNat 31 = true ∧ spValid s.ctl = false) ∧
    (∃ (s : State) (falling : Bool), alive s.ctl = true ∧ rbit s.ctl (sp 0x54) 31 = true ∧ spValid s.ctl = true ∧ rbit s.ctl (sp 0x54) 30
        = falling) ∧
    (∃ (s : State) (falling : Bool), alive s.ctl = true ∧ rbit s.ctl (sp 0x54) 30 ≠ falling) ∧
    (∃ (s : State) (v : Word), alive s.ctl = true ∧ bitN v.toNat 31 = true ∧ rbit s.ctl (sp 0x90) 29 = false ∧ bits v.toNat 23 8 ≠ 0) ∧
    (∃ (s : State) (v : Word), alive s.ctl = true ∧ bitN v.toNat 31 = true ∧ rbit s.ctl (sp 0x90) 29 = true) :=
  ⟨⟨spn 1, 0xF0F0, _, _, _, _, by decide +kernel, by decide +kernel, by decide +kernel, rfl, by decide +kernel, rfl, rfl, rfl,
       by decide +kernel⟩,
   ⟨spn 1 [] (fun p => { p with pairAt := 1, cyc := 990 }), 800, 500, by decide +kernel⟩,
   ⟨spn 1 [(sp 0x28, 0x400000), (rSpCfg, 0x20)] (fun x => { x with s := 3000000, c := 4000000, th := 99999999999, w := 1234567 }),
       by decide +kernel⟩,
   ⟨spn 2 [(sp 0x28, 0x400000)] (fun x => { x with s := 3000000, c := 4000000, th := 99999999999, w := 1234567 }), by decide +kernel⟩,
   ⟨spn 0 [(sp 0x58, 0)] (fun x => { x with acqN := 511, inWin := 63 }), by decide +kernel⟩,
   ⟨spn 1 [(ee 0, 1)] (fun x => { x with faultN := ⟨[(2, 4)]⟩ }), 2, by decide +kernel⟩,
   ⟨spn 2 [(sp 0x5C, 0x80)] (fun x => { x with clearN := ⟨[(3, 64)]⟩ }), 3, by decide +kernel⟩,
   ⟨spn 2 [(sp 0x08, 0x70000000 + 1000)] (fun x => { x with exc := 1, rampEnd := 90 }), by decide +kernel⟩,
   ⟨spn 2 [] (fun x => { x with exc := 3, rampEnd := 90 }), by decide +kernel⟩,
   ⟨spn 1 [(rSpCfg, 7)], 0x80070009, by decide +kernel⟩,
   ⟨spn 2, 0x80000009, by decide +kernel⟩,
   ⟨spn 1 [(sp 0x54, 0xC0050007)], true, by decide +kernel⟩,
   ⟨spn 1 [(sp 0x54, 0xC0050007)], false, by decide +kernel⟩,
   ⟨spn 1, 0x80FFFF01, by decide +kernel⟩,
   ⟨spn 1 [(sp 0x90, 0x20000100)], 0x80FFFF01, by decide +kernel⟩⟩

/-- States and operands that meet the hypotheses of each clause of `StampsLatchesAndEncoderCounts`. -/
theorem test_hyps_StampsLatchesAndEncoderCounts :
    (∃ (s : State) (p : Nat) (t : Nat) (f : Nat) (a : Nat) (x : AngleStamp), alive s.ctl = true ∧ s.ctl.time.epoch = true ∧
        s.ctl.time.phase = 0 ∧ s.ctl.sp.windowAt ≠ s.ctl.time.pass + 1 ∧ spSrc s.ctl = false ∧ s.ctl.sp.stamp = some x ∧ x.pass =
        s.ctl.time.pass % 2 ^ 48 ∧ p < 32 ∧ stampTile s.ctl p = some t ∧ (∀ q, q < 32 → q ≠ p → stampTile s.ctl q = none) ∧ firstPhase
        s.ctl t 0x44 (s.ctl.time.passAt + 16) = some f ∧ tileOwner s.ctl t < 32 ∧ clearing s.ctl t = false ∧ a = params s.ctl p 8 4 % 2 ^
        19 ∧ a % 64 = 0 ∧ a + 64 ≤ 2 ^ 19) ∧
    (∃ (s : State) (x : AngleStamp) (l : Nat), alive s.ctl = true ∧ s.ctl.time.epoch = true ∧ spMaster s.ctl = true ∧ s.ctl.sp.stamp =
        some x ∧ x.pass = s.ctl.time.pass % 2 ^ 48 ∧ s.ctl.time.pass % max 1 (fld s.ctl (sp 0x60) 15 8) = 0 ∧ s.ctl.sp.relayAt ≠
        s.ctl.time.pass + 1 ∧ l < 32 ∧ bitN (rd s.ctl rStampOut) l = true ∧ lkUp s.ctl l = true ∧ (∀ w, w ∈ smGet s.ctl.lk.sb [] l →
        w.kind ≠ 3)) ∧
    (∃ (s : State) (rising : Bool), alive s.ctl = true ∧ rbit s.ctl (sp 0x70) 0 = true ∧ rbit s.ctl (sp 0x70) (if rising = true then 1
        else 2) = true ∧ s.ctl.sp.latch.length < 16) ∧
    (∃ (s : State) (rising : Bool), alive s.ctl = true ∧ rbit s.ctl (sp 0x70) 0 = true ∧ rbit s.ctl (sp 0x70) (if rising = true then 1
        else 2) = true ∧ 16 ≤ s.ctl.sp.latch.length) ∧
    (∃ (s : State) (ts : Nat) (d2 : Nat) (d3 : Nat) (r : List (Nat × Nat × Nat)), alive s.ctl = true ∧ s.ctl.sp.latch = (ts, d2, d3) :: r
        ∧ ts < 2 ^ 64 ∧ d2 < 2 ^ 32 ∧ d3 < 2 ^ 32) ∧
    (∃ (s : State), alive s.ctl = true ∧ s.ctl.sp.latch = []) ∧
    (∃ (s : State) (t : Nat) (target : Nat), t = ceilDiv (max s.ctl.time.ftc (if s.ctl.sp.edgeAt = 0 then 0 else s.ctl.sp.edgeAt - 1 + 10
        * fld s.ctl (ee 0) 15 8)) 10 * 10 ∧ target = eeTarget s.ctl t ∧ alive s.ctl = true ∧ rbit s.ctl (ee 0) 0 = true ∧ rbit s.ctl (ee
        0x0C) 1 = false ∧ eeValid s.ctl = true ∧ s.ctl.time.phase = 0 ∧ s.ctl.pwr.chip = false ∧ (s.ctl.time.epoch = false ∨ t ≤
        nextBoundary s.ctl) ∧ 0 < eeLag s.ctl target ∧ 4 * (eeLag s.ctl target).natAbs < eeN s.ctl ∧ (eeLag s.ctl target).natAbs ≤ rd
        s.ctl (ee 8) % 2 ^ 18 ∧ chainHeld s.ctl = false) ∧
    (∃ (s : State), alive s.ctl = true ∧ rbit s.ctl (ee 0) 0 = false ∧ eeValid s.ctl = true) ∧
    (∃ (s : State), alive s.ctl = true) :=
  ⟨⟨stw, 0, 0, 6416, 4096, stp, by decide +kernel⟩,
   ⟨stw [(sp 0x60, 2), (rStampOut, 2 ^ 31), (lkStat 31, 0x501)] (fun x => { x with seq := 63 }), stp, 31, by decide +kernel⟩,
   ⟨spn 1 [(sp 0x70, 7)] (fun x => { x with latch := List.replicate 15 (1, 2, 3) }), true, by decide +kernel⟩,
   ⟨spn 1 [(sp 0x70, 7)] (fun x => { x with latch := List.replicate 16 (1, 2, 3) }), false, by decide +kernel⟩,
   ⟨spn 1 [] (fun x => { x with latch := [(2 ^ 40 + 1, 2, 3), (4, 5, 6)] }), 2 ^ 40 + 1, 2, 3, [(4, 5, 6)], by decide +kernel⟩,
   ⟨spn 1 [], by decide +kernel⟩,
   ⟨spn 1 [(ee 0, 1 + 63 * 2 ^ 16), (ee 8, 16)] (fun x => { x with th := 2 ^ 36 }), _, _, rfl, rfl, by decide +kernel⟩,
   ⟨spn 1 [(ee 0, 63 * 2 ^ 16)] (fun x => { x with th := 2 ^ 36 }), by decide +kernel⟩,
   ⟨spn 1 [(ee 0, 1)], by decide +kernel⟩⟩

/-- States and operands that meet the hypotheses of each clause of `ControlEngineSamplesAndCommands`. -/
theorem test_hyps_ControlEngineSamplesAndCommands :
    (∃ (s : State) (t : Nat), Sampled s.ctl t ∧ mstate s.ctl = 1 ∧ s.ctl.ce.cmds = [] ∧ s.ctl.ce.home = 0 ∧ s.ctl.ce.safeHeld = false) ∧
    (∃ (s : State) (t : Nat) (vt : Int) (dv : Int), vt = clampI (-(vMax s.ctl)) (vMax s.ctl) (vTgt s.ctl) ∧ dv = dvOf s.ctl (sgn (vt -
        s.ctl.ce.rv) * aMax s.ctl) ∧ Sampled s.ctl t ∧ mstate s.ctl = 2 ∧ s.ctl.ce.cmds = [] ∧ s.ctl.ce.home = 0 ∧ s.ctl.ce.safeHeld =
        false ∧ fld s.ctl rCeMode 11 10 = 0 ∧ jMax s.ctl = 0 ∧ unidir s.ctl = false) ∧
    (∃ (s : State) (a0 : Nat) (a1 : Nat) (t : Nat) (t0 : Nat) (x : Ctl), x = ceInputs a0 a1 (advanceTo s.ctl t) ∧ Sampled s.ctl t ∧ mstate
        s.ctl = 1 ∧ s.ctl.ce.cmds = [(1, t0)] ∧ t0 + 8 ≤ t ∧ s.ctl.ce.home = 0 ∧ startErr x (fld s.ctl rCeMode 11 10) (commandedDir x (fld
        s.ctl rCeMode 11 10)) = 0) ∧
    (∃ (s : State) (a0 : Nat) (a1 : Nat) (t : Nat) (t0 : Nat) (x : Ctl), x = ceInputs a0 a1 (advanceTo s.ctl t) ∧ Sampled s.ctl t ∧ mstate
        s.ctl = 1 ∧ s.ctl.ce.cmds = [(1, t0)] ∧ t0 + 8 ≤ t ∧ s.ctl.ce.home = 0 ∧ s.ctl.ce.safeHeld = false ∧ startErr x (fld s.ctl rCeMode
        11 10) (commandedDir x (fld s.ctl rCeMode 11 10)) ≠ 0) ∧
    (∃ (s : State) (t : Nat) (t0 : Nat), Sampled s.ctl t ∧ mstate s.ctl = 2 ∧ s.ctl.ce.cmds = [(2, t0)] ∧ t0 + 8 ≤ t ∧ s.ctl.ce.home = 0 ∧
        ceU s.ctl 24 0xBC < ((spSpeed s.ctl).natAbs : Int)) ∧
    (∃ (s : State) (t : Nat) (t0 : Nat), Sampled s.ctl t ∧ (mstate s.ctl = 2 ∨ mstate s.ctl = 3) ∧ s.ctl.ce.cmds = [(3, t0)] ∧ t0 + 8 ≤ t) ∧
    (∃ (s : State) (t : Nat) (t0 : Nat), Sampled s.ctl t ∧ mstate s.ctl = 5 ∧ s.ctl.ce.cmds = [(4, t0)] ∧ t0 + 8 ≤ t ∧ s.ctl.ce.home = 0 ∧
        stopLow s.ctl = false ∧ mfaultLow s.ctl = false ∧ ceTimingOk s.ctl = true) ∧
    (∃ (s : State) (a0 : Nat) (a1 : Nat) (t : Nat) (t0 : Nat), Sampled s.ctl t ∧ mstate s.ctl = 1 ∧ s.ctl.ce.cmds = [(5, t0)] ∧ t0 + 8 ≤ t
        ∧ homeV s.ctl ≠ 0 ∧ (unidir s.ctl = false ∨ 0 < homeV s.ctl) ∧ startErr (ceInputs a0 a1 (advanceTo s.ctl t)) 0 (homeV s.ctl) = 0) ∧
    (∃ (s : State) (i : Instr) (op : Nat), ((i = .start ∧ op = 1) ∨ (i = .stop ∧ op = 2) ∨ (i = .qstop ∧ op = 3) ∨ (i = .clrFault ∧ op =
        4) ∨ (i = .home ∧ op = 5)) ∧ alive s.ctl = true ∧ mstate s.ctl ≠ 4) ∧
    (∃ (s : State) (i : Instr), (i = .stop ∨ i = .qstop) ∧ alive s.ctl = true ∧ mstate s.ctl = 4) ∧
    (∃ (s : State), alive s.ctl = true ∧ rbit s.ctl rCeCtrl 0 = false ∧ ceTimingOk s.ctl = true) ∧
    (∃ (s : State), alive s.ctl = true ∧ rbit s.ctl rCeCtrl 0 = false ∧ ceTimingOk s.ctl = false) ∧
    (∃ (s : State), alive s.ctl = true) ∧
    (∃ (s : State) (i : Instr) (bit : Nat) (cause : Nat), ((i = .stopN true ∧ bit = 10 ∧ cause = 3) ∨ (i = .motFaultN true ∧ bit = 11 ∧
        cause = 4)) ∧ alive s.ctl = true ∧ chainHeld s.ctl = false ∧ mstate s.ctl ≠ 0 ∧ mstate s.ctl ≠ 5) ∧
    (∃ (s : State) (i : Instr) (bit : Nat) (low : Bool), ((i = .stopN low ∧ bit = 10) ∨ (i = .motFaultN low ∧ bit = 11)) ∧ alive s.ctl =
        true ∧ chainHeld s.ctl = false ∧ mstate s.ctl = 0) ∧
    (∃ (s : State) (fwd : Bool) (rev : Bool), alive s.ctl = true ∧ mstate s.ctl ≠ 0 ∧ (¬ (fwd = true ∧ rev = true ∧ moving s.ctl = true))
        ∧ limFwd s.ctl = false ∧ limRev s.ctl = false) ∧
    (∃ (s : State), alive s.ctl = true ∧ moving s.ctl = true ∧ fld s.ctl (ce 0x108) 2 0 ≤ fld s.ctl rCeStat 26 24) ∧
    (∃ (s : State), alive s.ctl = true ∧ s.ctl.ce.trimOn = true ∧ fld s.ctl (ce 0xE0) 15 8 ≤ rd s.ctl (ce 0xFC)) ∧
    (∃ (s : State) (x : Nat) (i : Instr) (b : Bool), ((i = .loopOpen x ∧ b = true) ∨ (i = .loopClose x ∧ b = false)) ∧ x < 4 ∧ alive s.ctl
        = true ∧ tuneOn s.ctl x = false) ∧
    (∃ (s : State) (t : Nat), alive s.ctl = true ∧ s.ctl.ce.outDue = some (t, false) ∧ lateAt s.ctl t = [] ∧ s.ctl.time.phase = 0 ∧
        s.ctl.pwr.chip = false ∧ (s.ctl.time.epoch = false ∨ t ≤ nextBoundary s.ctl) ∧ moving s.ctl = true ∧ s.ctl.ce.safeHeld = false ∧
        stopLow s.ctl = false ∧ rbit s.ctl rCeCtrl 26 = false ∧ fld s.ctl rCeCtrl 17 16 = 2 ∧ chainHeld s.ctl = false ∧ s.ctl.ce.capt.go =
        none ∧ s.ctl.ce.capt.on = false) ∧
    (∃ (s : State) (t : Nat) (miss : Bool), alive s.ctl = true ∧ s.ctl.ce.outDue = some (t, miss) ∧ lateAt s.ctl t = [] ∧ s.ctl.time.phase
        = 0 ∧ s.ctl.pwr.chip = false ∧ (s.ctl.time.epoch = false ∨ t ≤ nextBoundary s.ctl) ∧ moving s.ctl = false ∧ safeMode s.ctl = 0 ∧
        fld s.ctl rCeCtrl 17 16 = 0 ∧ chainHeld s.ctl = false ∧ s.ctl.ce.capt.go = none ∧ s.ctl.ce.capt.on = false) :=
  ⟨⟨chg (cen 1 [(sp 0x40, 0x123456), (sp 0x44, 9)] (fun x => { x with sampleAt := 1 })) (fun c =>
           { c with sp := { c.sp with w := 100000 } }),
       6400, by unfold Sampled; decide +kernel⟩,
   ⟨cen 2 [] (fun x => { x with sampleAt := 1, rv := 500 * 2 ^ 24, rp := 2 ^ 64 - 5 }), 6400, _, _, rfl, rfl,
       by unfold Sampled; decide +kernel⟩,
   ⟨cen 1 [] (fun x => { x with sampleAt := 1, cmds := [(1, 0)] }), 0x1FFF, 7, 6400, 0, _, rfl, by unfold Sampled; decide +kernel⟩,
   ⟨cen 1 [(rCeStat, 1 + 2 ^ 11)] (fun x => { x with sampleAt := 1, cmds := [(1, 0)] }), 0x1FFF, 7, 6400, 0, _, rfl,
       by unfold Sampled; decide +kernel⟩,
   ⟨chg (cen 2 [] (fun x => { x with sampleAt := 1, cmds := [(2, 0)] })) (fun c => { c with sp := { c.sp with w := 100000 } }), 6400, 0,
       by unfold Sampled; decide +kernel⟩,
   ⟨cen 3 [] (fun x => { x with sampleAt := 1, cmds := [(3, 0)] }), 6400, 0, by unfold Sampled; decide +kernel⟩,
   ⟨cen 5 [] (fun x => { x with sampleAt := 1, cmds := [(4, 0)] }), 6400, 0, by unfold Sampled; decide +kernel⟩,
   ⟨cen 1 [] (fun x => { x with sampleAt := 1, cmds := [(5, 0)] }), 0x1FFF, 7, 6400, 0, by unfold Sampled; decide +kernel⟩,
   ⟨cen 2, .start, 1, by decide +kernel⟩,
   ⟨cen 4, .qstop, by decide +kernel⟩,
   ⟨cen 0 [(rCeCtrl, 0)], by decide +kernel⟩,
   ⟨cen 0 [(rCeCtrl, 0), (ce 0x104, 17)], by decide +kernel⟩,
   ⟨cen 2 [(rCeStat, 0x42)] (fun x => { x with mot := true, aout := 7 }), by decide +kernel⟩,
   ⟨cen 2 [] (fun x => { x with mot := true }), .stopN true, 10, 3, by decide +kernel⟩,
   ⟨cen 0, .motFaultN true, 11, true, by decide +kernel⟩,
   ⟨cen 2, true, false, by decide +kernel⟩,
   ⟨cen 2 [(rCeStat, 2 + 3 * 2 ^ 24), (ce 0x108, 3)], by decide +kernel⟩,
   ⟨cen 2 [(ce 0xE0, 5 * 256 + 1), (ce 0xFC, 5), (ce 0xF4, 77)] (fun x => { x with trimOn := true }), by decide +kernel⟩,
   ⟨cen 2, 3, .loopOpen 3, true, by decide +kernel⟩,
   ⟨cen 2 [(rCeCtrl, 0x20001)] (fun x => { x with outDue := some (200, false), u := 2 ^ 30 + 99999 }), 200, by decide +kernel⟩,
   ⟨cen 1 [(rCeStat, 0x41)] (fun x => { x with outDue := some (200, false), mot := true }), 200, false, by decide +kernel⟩⟩

/-- States and operands that meet the hypotheses of each clause of `TuningToolsStartAndEnd`. -/
theorem test_hyps_TuningToolsStartAndEnd :
    (∃ (s : State), alive s.ctl = true ∧ mstate s.ctl = 2 ∧ rbit s.ctl (ce 0x140) 29 = false ∧ s.ctl.ce.tune.run = 0 ∧ s.ctl.ce.inj.go =
        none) ∧
    (∃ (s : State), alive s.ctl = true ∧ (mstate s.ctl ≠ 2 ∨ rbit s.ctl (ce 0x140) 29 = true ∨ s.ctl.ce.tune.run ≠ 0)) ∧
    (∃ (s : State), alive s.ctl = true ∧ rbit s.ctl (ce 0x140) 29 = true) ∧
    (∃ (s : State), alive s.ctl = true ∧ rbit s.ctl (ce 0x140) 29 = true ∧ fld s.ctl (ce 0x150) 23 0 ≤ s.ctl.ce.inj.k) ∧
    (∃ (s : State), alive s.ctl = true ∧ rbit s.ctl (ce 0x160) 29 = false) ∧
    (∃ (s : State), alive s.ctl = true ∧ rbit s.ctl (ce 0x160) 29 = true) ∧
    (∃ (s : State) (t : Nat), alive s.ctl = true ∧ rbit s.ctl (ce 0x160) 29 = true ∧ s.ctl.ce.capt.trig = some t ∧ t + 16384 - captPre
        s.ctl ≤ s.ctl.ce.capt.n) ∧
    (∃ (s : State), alive s.ctl = true) ∧
    (∃ (s : State), alive s.ctl = true ∧ s.ctl.ce.tune.run = 1) ∧
    (∃ (s : State) (n : Nat), n = fld s.ctl (ce 0x180) 5 0 ∧ alive s.ctl = true ∧ s.ctl.ce.tune.results = true ∧ n ≠ 0 ∧
        s.ctl.ce.tune.sumL ≠ 0 ∧ s.ctl.ce.tune.sumPp ≠ 0) ∧
    (∃ (s : State), alive s.ctl = true ∧ s.ctl.ce.tune.run = 1 ∧ fld s.ctl (ce 0x190) 23 0 ≤ s.ctl.ce.tune.n) ∧
    (∃ (s : State), alive s.ctl = true ∧ s.ctl.ce.osc.hit = true ∧ fld s.ctl (ce 0x1C0) 11 10 = 1) ∧
    (∃ (s : State), alive s.ctl = true ∧ s.ctl.ce.osc.hit = true ∧ fld s.ctl (ce 0x1C0) 11 10 = 2 ∧ moving s.ctl = true) :=
  ⟨⟨cen 2, by decide +kernel⟩,
   ⟨cen 3, by decide +kernel⟩,
   ⟨cen 2 [(ce 0x140, 2 ^ 29)], by decide +kernel⟩,
   ⟨cen 2 [(ce 0x140, 2 ^ 29), (ce 0x150, 5)] (fun x => { x with inj := { x.inj with k := 5 } }), by decide +kernel⟩,
   ⟨cen 2, by decide +kernel⟩,
   ⟨cen 2 [(ce 0x160, 2 ^ 29)], by decide +kernel⟩,
   ⟨cen 2 [(ce 0x160, 2 ^ 29), (ce 0x168, 100)] (fun x => { x with capt := { x.capt with trig := some 100, n := 16384 } }), 100,
       by decide +kernel⟩,
   ⟨cen 2, by decide +kernel⟩,
   ⟨cen 2 [] (fun x => { x with tune := { x.tune with run := 1 } }), by decide +kernel⟩,
   ⟨cen 2 [(ce 0x180, 3), (ce 0x184, 1000), (ce 0x188, 10)] (fun x =>
           { x with tune := { x.tune with results := true, sumL := 301, sumPp := 6000, sumE := 777 } }),
       _, rfl, by decide +kernel⟩,
   ⟨cen 2 [(ce 0x190, 5)] (fun x => { x with tune := { x.tune with run := 1, n := 5 } }), by decide +kernel⟩,
   ⟨cen 2 [(ce 0x1C0, 0xF401)] (fun x => { x with osc := { x.osc with hit := true } }), by decide +kernel⟩,
   ⟨cen 2 [(ce 0x1C0, 0xF801)] (fun x => { x with osc := { x.osc with hit := true } }), by decide +kernel⟩⟩

/-- States and operands that meet the hypotheses of each clause of `RingsCarryCommandsAndCompletions`. -/
theorem test_hyps_RingsCarryCommandsAndCompletions :
    (∃ (s : State) (fn : Nat) (r : Nat), hostUp s.ctl = true ∧ ringIs s.ctl fn r = true ∧ ringRuns s.ctl fn r = false ∧ (fn = 0 → monRuns
        s.ctl = true)) ∧
    (∃ (s : State) (r : Nat), hostUp s.ctl = true ∧ r < 5 ∧ ringRuns s.ctl 0 r = false ∧ monRuns s.ctl = false) ∧
    (∃ (s : State) (fn : Nat) (r : Nat), hostUp s.ctl = true ∧ ringIs s.ctl fn r = true ∧ ringRuns s.ctl fn r = true ∧ r ≠ 1 ∧ r ≠ 3) ∧
    (∃ (s : State) (fn : Nat) (r : Nat), hostUp s.ctl = true ∧ ringIs s.ctl fn r = true ∧ (r = 1 ∨ r = 3)) ∧
    (∃ (s : State) (fn : Nat) (r : Nat) (tail : Nat) (es : List Bytes), hostUp s.ctl = true ∧ ringIs s.ctl fn r = true ∧ ringOk s.ctl fn r
        = true ∧ (r = 0 ∨ r = 2) ∧ (ring s.ctl fn r).db ≠ tail ∧ tail < ringSize s.ctl fn r ∧ (fn = 0 → monRuns s.ctl = true) ∧ (∀ e, e ∈
        es → e.length = 64) ∧ es.length = (tail + ringSize s.ctl fn r - (ring s.ctl fn r).head) % ringSize s.ctl fn r) ∧
    (∃ (s : State) (fn : Nat) (r : Nat) (tail : Nat), hostUp s.ctl = true ∧ ringIs s.ctl fn r = true ∧ ringOk s.ctl fn r = true ∧ (r = 0 ∨
        r = 2) ∧ (ring s.ctl fn r).db ≠ tail ∧ ringSize s.ctl fn r ≤ tail) ∧
    (∃ (s : State) (fn : Nat) (r : Nat) (head : Nat), hostUp s.ctl = true ∧ ringIs s.ctl fn r = true ∧ ringOk s.ctl fn r = true ∧ (r = 1 ∨
        r = 3 ∨ r = 4) ∧ (ring s.ctl fn r).db ≠ head ∧ head < ringSize s.ctl fn r ∧ (head + ringSize s.ctl fn r - (ring s.ctl fn r).tail)
        % ringSize s.ctl fn r ≤ ((ring s.ctl fn r).head + ringSize s.ctl fn r - (ring s.ctl fn r).tail) % ringSize s.ctl fn r) ∧
    (∃ (s : State) (fn : Nat) (r : Nat) (e : Bytes) (rest : List Bytes), regsServed s.ctl = true ∧ (r = 0 ∨ r = 2) ∧ (ring s.ctl fn
        r).fetched = e :: rest ∧ ringOk s.ctl fn r = true ∧ (fn = 0 → monRuns s.ctl = true ∧ s.ctl.db.coreHalted = false) ∧ (bitN (eFlags
        e) 0 = true → (ring s.ctl fn r).busy = 0) ∧ (ring s.ctl fn r).busy < 64 ∧ (ringOk s.ctl fn (r + 1) = true → (ring s.ctl fn r).busy
        < ringFree s.ctl fn (r + 1))) ∧
    (∃ (s : State) (fn : Nat) (r : Nat) (d : Done), regsServed s.ctl = true ∧ (r = 0 ∨ r = 2) ∧ ringOk s.ctl fn (r + 1) = true ∧ ringFree
        s.ctl fn (r + 1) ≠ 0 ∧ s.ctl.hi.done.find? (fun d => d.ref.fn = fn ∧ d.ref.ring = r) = some d) ∧
    (∃ (s : State) (fn : Nat) (r : Nat), rbit s.ctl (ringCtrl fn r) 16 = true ∧ ringOk s.ctl fn r = true ∧ 0 < (ring s.ctl fn r).pend ∧
        (max (fld s.ctl (ringBase fn r + 0xC) 15 0) 1 ≤ (ring s.ctl fn r).pend ∨ (ring s.ctl fn r).urgent = true) ∧ (s.ctl.time.epoch =
        true → s.ctl.time.ftc < nextBoundary s.ctl) ∧ smGet s.ctl.hi.unmasked false (fn * 4096 + fld s.ctl (ringCtrl fn r) 10 0) = true) ∧
    (∃ (s : State) (fn : Nat), fn ≤ 32 ∧ s.ctl.plan.loader.stage = .idle) ∧
    (∃ (s : State), hostUp s.ctl = true) :=
  ⟨⟨rg id [(ringCtrl 32 4, 2 ^ 26)], 32, 4, by decide +kernel⟩,
   ⟨up, 4, by decide +kernel⟩,
   ⟨rg (fun x => { x with fetched := [ent 0], pend := 3 }), 32, 0, by decide +kernel⟩,
   ⟨chg (rg) (fun c => { c with hi := { c.hi with done := [⟨refOf 32 0 (ent 0), 0, 0, 0⟩, ⟨refOf 31 0 (ent 0), 0, 0, 0⟩] } }), 32, 1,
       by decide +kernel⟩,
   ⟨rg (fun x => { x with head := 15, tail := 15, db := 15 }), 32, 0, 2, [ent 0, ent 1, ent 0x30], by decide +kernel⟩,
   ⟨rg, 32, 0, 16, by decide +kernel⟩,
   ⟨rg id [] (fun x => { x with head := 3, tail := 15, db := 15 }), 32, 1, 3, by decide +kernel⟩,
   ⟨rg (fun x => { x with fetched := [ent 0, ent 0x77], busy := 14 }), 32, 0, ent 0, [ent 0x77], by decide +kernel⟩,
   ⟨chg (rg (fun x => { x with busy := 1 }) [] (fun x => { x with head := 15, tail := 15 })) (fun c =>
           { c with hi := { c.hi with done := [⟨refOf 32 0 (ent 0), 0, 5, 7⟩] } }),
       32, 0, ⟨refOf 32 0 (ent 0), 0, 5, 7⟩, by decide +kernel⟩,
   ⟨chg (rg id [] (fun x => { x with pend := 1 })) (fun c => { c with hi := { c.hi with unmasked := ⟨[(32 * 4096 + 63, true)]⟩ } }), 32,
       1, by decide +kernel⟩,
   ⟨rg, 32, by decide +kernel⟩,
   ⟨chg (up [(ringCtrl 0 0, 2 ^ 29), (ringBase 0 4, 77)]) (fun c => { c with hi := { c.hi with unmasked := ⟨[(5, true)]⟩ } }),
       by decide +kernel⟩⟩

/-- States and operands that meet the hypotheses of each clause of `RingCommandsTakeEffect`. -/
theorem test_hyps_RingCommandsTakeEffect :
    (∃ (s : State) (fn : Nat) (r : Nat) (e : Bytes), Taken s.ctl fn r 0x00 e ∧ r ≠ 0xFF) ∧
    (∃ (s : State) (fn : Nat) (e : Bytes) (c0 : Ctl) (a : Ctl × Mem) (b : Ctl × Mem), a = barWrite fn (leAt e 0x10 4) 4 (BitVec.ofNat 64
        (leAt e 0x14 4)) (c0, s.mem) ∧ b = barWrite fn (leAt e 0x18 4) 4 (BitVec.ofNat 64 (leAt e 0x1C 4)) a ∧ takeCmd s.ctl fn 0 0x01 =
        some (e, c0) ∧ leAt e 8 1 = 2) ∧
    (∃ (s : State) (fn : Nat) (p : Nat) (opc : Nat) (v : Nat) (i : Instr) (e : Bytes), Taken s.ctl fn 0 opc e ∧ ((i = .partStart fn ∧ opc
        = 0x20 ∧ v = 1) ∨ (i = .partStop fn ∧ opc = 0x21 ∧ v = 0)) ∧ p = cmdPart e (refOf fn 0 e) ∧ p < 32 ∧ ePass e 8 = none ∧ (part
        s.ctl p).resetting = false ∧ rbit s.ctl (ptCtrl p) 1 = false ∧ (v = 1 → swapChanges s.ctl p = false) ∧ ptState s.ctl p ≠ 2 ∧
        s.ctl.time.epoch = true) ∧
    (∃ (s : State) (fn : Nat) (p : Nat) (e : Bytes), Taken s.ctl fn 0 0x22 e ∧ p = cmdPart e (refOf fn 0 e) ∧ p < 32 ∧ ePass e 8 = none ∧
        (part s.ctl p).resetting = false ∧ rbit s.ctl (ptCtrl p) 1 = false ∧ rbit s.ctl (ptStat p) 5 = true ∧ (fld s.ctl (ptStat p) 23 16
        = 2 ∨ fld s.ctl (ptStat p) 23 16 = 4) ∧ s.ctl.time.epoch = true) ∧
    (∃ (s : State) (fn : Nat) (opc : Nat) (i : Instr) (e : Bytes), Taken s.ctl fn 0 opc e ∧ ((i = .partStart fn ∧ opc = 0x20) ∨ (i =
        .partStop fn ∧ opc = 0x21) ∨ (i = .partResume fn ∧ opc = 0x22)) ∧ (ePass e 8).isSome = true ∧ s.ctl.time.epoch = false) ∧
    (∃ (s : State) (fn : Nat) (p : Nat) (e : Bytes), Taken s.ctl fn 0 0x23 e ∧ p = cmdPart e (refOf fn 0 e) ∧ p < 32 ∧ (part s.ctl
        p).resetting = false ∧ (part s.ctl p).heldAt = none ∧ inDump s.ctl p = false ∧ s.ctl.ev.contained = false) ∧
    (∃ (s : State) (e : Bytes) (want : Nat) (got : List EvRec), Taken s.ctl 0 0 0x50 e ∧ want = leAt e 8 8 % 2 ^ 48 ∧ got =
        (s.ctl.ev.log.reverse.filter (fun r => decide (want ≤ r.seq))).take (leAt e 0x18 2) ∧ got ≠ []) ∧
    (∃ (s : State) (e : Bytes) (o : Nat) (n : Nat), Taken s.ctl 0 0 0x51 e ∧ o = leAt e 8 4 ∧ n = leAt e 0xC 4 ∧ o + n ≤ 262144 ∧ n ≠ 0 ∧
        s.ctl.dump.sums = []) ∧
    (∃ (s : State) (e : Bytes), Taken s.ctl 0 0 0x51 e ∧ 262144 < leAt e 8 4 + leAt e 0xC 4) ∧
    (∃ (s : State), regsServed s.ctl = true ∧ fld s.ctl 0x1004 1 0 ≠ 1 ∧ fld s.ctl 0x1004 1 0 ≠ 2) ∧
    (∃ (s : State), regsServed s.ctl = true ∧ (fld s.ctl 0x1004 1 0 = 1 ∨ fld s.ctl 0x1004 1 0 = 2)) ∧
    (∃ (s : State) (img : Option Bytes), regsServed s.ctl = true ∧ fld s.ctl 0x1004 1 0 = 1 ∧ s.ctl.hi.monVer = none ∧ monErr img ≠ 0) ∧
    (∃ (s : State) (b : Bytes), regsServed s.ctl = true ∧ fld s.ctl 0x1004 1 0 = 1 ∧ s.ctl.hi.monVer = none ∧ monErr (some b) = 0) ∧
    (∃ (s : State) (v : Nat), regsServed s.ctl = true ∧ fld s.ctl 0x1004 1 0 = 1 ∧ s.ctl.hi.monVer = some v ∧ v < 2 ^ 64) :=
  ⟨⟨cmd 32 0 (ent 0 [(2, 2, 9)]) up, 32, 0, ent 0 [(2, 2, 9)], ⟨⟨_, rfl⟩, by decide +kernel⟩, by decide +kernel⟩,
   ⟨cmd 0 0 (ent 1 [(8, 1, 2), (0x10, 4, 0x20), (0x14, 4, 7), (0x18, 4, 0x1100), (0x1C, 4, 0x40)]) up, 0,
       (ent 1 [(8, 1, 2), (0x10, 4, 0x20), (0x14, 4, 7), (0x18, 4, 0x1100), (0x1C, 4, 0x40)]),
       updRing (cmd 0 0 (ent 1 [(8, 1, 2), (0x10, 4, 0x20), (0x14, 4, 7), (0x18, 4, 0x1100), (0x1C, 4, 0x40)]) up).ctl 0 0 (fun x =>
           { x with todo := [] }),
       _, _, rfl, rfl, by decide +kernel⟩,
   ⟨cmd 32 0 (ent 0x20) ep, 32, 31, 0x20, 1, .partStart 32, ent 0x20, ⟨⟨_, rfl⟩, by decide +kernel⟩, by decide +kernel⟩,
   ⟨cmd 0 0 (ent 0x22 [(4, 1, 31)]) (ep [(ptStat 31, 0x20030)]), 0, 31, ent 0x22 [(4, 1, 31)], ⟨⟨_, rfl⟩, by decide +kernel⟩,
       by decide +kernel⟩,
   ⟨cmd 0 0 (ent 0x21 [(4, 1, 31), (8, 8, 2 ^ 63 + 5)]) up, 0, 0x21, .partStop 0, ent 0x21 [(4, 1, 31), (8, 8, 2 ^ 63 + 5)],
       ⟨⟨_, rfl⟩, by decide +kernel⟩, by decide +kernel⟩,
   ⟨cmd 32 0 (ent 0x23) ep, 32, _, ent 0x23, ⟨⟨_, rfl⟩, by decide +kernel⟩, rfl, by decide +kernel⟩,
   ⟨chg (cmd 0 0 (ent 0x50 [(8, 8, 3), (0x10, 8, 0x5000), (0x18, 2, 9)]) up) (fun c =>
           { c with ev := { c.ev with log := [lg 4, lg 3, lg 2] } }),
       ent 0x50 [(8, 8, 3), (0x10, 8, 0x5000), (0x18, 2, 9)], _, _, ⟨⟨_, rfl⟩, by decide +kernel⟩, rfl, rfl, by decide +kernel⟩,
   ⟨cmd 0 0 (ent 0x51 [(8, 4, 262080), (0xC, 4, 64), (0x10, 8, 0x6000)]) up, ent 0x51 [(8, 4, 262080), (0xC, 4, 64), (0x10, 8, 0x6000)],
       _, _, ⟨⟨_, rfl⟩, by decide +kernel⟩, rfl, rfl, by decide +kernel⟩,
   ⟨cmd 0 0 (ent 0x51 [(8, 4, 262080), (0xC, 4, 65)]) up, ent 0x51 [(8, 4, 262080), (0xC, 4, 65)], ⟨⟨_, rfl⟩, by decide +kernel⟩,
       by decide +kernel⟩,
   ⟨up [(0x1004, 0x503)], by decide +kernel⟩,
   ⟨up [(0x1004, 2)], by decide +kernel⟩,
   ⟨up [(0x1004, 1)], none, by decide +kernel⟩,
   ⟨up [(0x1004, 1)], mon, by decide +kernel⟩,
   ⟨chg (up [(0x1004, 1)]) (fun c => { c with hi := { c.hi with monVer := some 9 } }), 9, by decide +kernel⟩⟩

/-- States and operands that meet the hypotheses of each clause of `HubRequestsAreAnswered`. -/
theorem test_hyps_HubRequestsAreAnswered :
    (∃ (s : State) (e : Bytes) (q : HubReq), Taken s.ctl 0 2 0x60 e ∧ (q =
        { origin := 1, ref := refOf 0 2 e, bytes := slice e 8 56, acc := s.ctl.time.ftc }) ∧ hOp q ∈ hubOps ∧ (∀ r, r ∈ s.ctl.db.reqs →
        hOp r ∈ hubOps)) ∧
    (∃ (s : State) (e : Bytes), Taken s.ctl 0 2 0x60 e ∧ leAt e 8 1 ∉ hubOps ∧ s.ctl.db.reqs = [] ∧ (refOf 0 2 e).ring ≠ 0xFF) ∧
    (∃ (s : State) (b : Bytes) (q : HubReq), (q = { origin := 0, bytes := slice b 0 56, acc := s.ctl.time.ftc }) ∧ hOp q ∈ hubOps ∧ ((∀ r,
        r ∈ s.ctl.db.reqs → hOp r ∈ hubOps ∧ r.origin ≠ 0))) ∧
    (∃ (s : State) (r : HubReq), r ∈ s.ctl.db.reqs ∧ r.origin = 0) ∧
    (∃ (s : State) (busy : Bool), busy = s.ctl.db.reqs.any (fun r => decide (r.origin = 0))) ∧
    (∃ (s : State), s.ctl.db.wfifo.length < 256) ∧
    (∃ (s : State) (i : Instr) (op : Nat) (q : HubReq) (rest : List HubReq), hubRow i = some op ∧ HubTurn s.ctl op q rest ∧ checkReq q ≠
        0) ∧
    (∃ (s : State) (i : Instr) (op : Nat) (q : HubReq) (rest : List HubReq), hubRow i = some op ∧ (op = 0x01 ∨ op = 0x02) ∧ HubHere s.ctl
        op q rest ∧ unitReached s.ctl (hCls q) (hIdx q) (hAddr q) (hLen q) = false) ∧
    (∃ (s : State) (i : Instr) (op : Nat) (q : HubReq) (rest : List HubReq), hubRow i = some op ∧ 0x10 ≤ op ∧ HubTurn s.ctl op q rest ∧
        checkReq q = 0 ∧ hFab q = false ∧ hUnit q / 2 ^ 16 ≠ plezorId s.ctl ∧ routeTo s.ctl (hUnit q / 2 ^ 16) = none) ∧
    (∃ (s : State) (i : Instr) (op : Nat) (l : Nat) (q : HubReq) (rest : List HubReq), hubRow i = some op ∧ 0x10 ≤ op ∧ HubTurn s.ctl op q
        rest ∧ checkReq q = 0 ∧ hFab q = false ∧ hUnit q / 2 ^ 16 ≠ plezorId s.ctl ∧ routeTo s.ctl (hUnit q / 2 ^ 16) = some l ∧ sbTakes
        s.ctl l 4 = true) ∧
    (∃ (s : State) (q : HubReq) (rest : List HubReq) (o : Nat), HubHere s.ctl 0x01 q rest ∧ regsServed s.ctl = true ∧ hCls q = 0xF ∧ hLen
        q = 4 ∧ hInline q = true ∧ Unmoved q ∧ o = hAddr q ∧ latchedBy o = [] ∧ o ≠ hub 0x30 ∧ smGet s.ctl.latched none (o * 64 + whoHub)
        = none) ∧
    (∃ (s : State) (q : HubReq) (rest : List HubReq) (t : Nat) (a : Nat), HubHere s.ctl 0x01 q rest ∧ s.ctl.pwr.chip = false ∧ hCls q = 0
        ∧ t = hIdx q ∧ a = hAddr q ∧ a < 0x80000 ∧ hLen q = 4 ∧ hInline q = true ∧ Unmoved q ∧ (moveAt 0 t a s.ctl).isSome = true ∧
        tilesUp s.ctl = true ∧ tilesGated s.ctl = false ∧ tileOwner s.ctl t < 32 ∧ clearing s.ctl t = false ∧ CodesSound s.mem t a 4) ∧
    (∃ (s : State) (q : HubReq) (rest : List HubReq), HubHere s.ctl 0x01 q rest ∧ hCls q = 0 ∧ 0 < hLen q ∧ Unmoved q ∧ unitReached s.ctl
        0 (hIdx q) (hAddr q) (hLen q) = true ∧ moveAt 0 (hIdx q) (hAddr q) s.ctl = none) ∧
    (∃ (s : State) (q : HubReq) (rest : List HubReq) (b : Ctl × Mem), HubHere s.ctl 0x02 q rest ∧ regsServed s.ctl = true ∧ hCls q = 0xF ∧
        hLen q = 4 ∧ hInline q = true ∧ Unmoved q ∧ b = busWord 0 whoHub (hAddr q) (hAddr q) (leAt q.bytes 0x28 4) (s.ctl, s.mem)) ∧
    (∃ (s : State) (q : HubReq) (rest : List HubReq) (t : Nat) (n : Nat), HubHere s.ctl 0x02 q rest ∧ s.ctl.pwr.chip = false ∧ hCls q = 0
        ∧ t = hIdx q ∧ n < 32 ∧ hAddr q = 0x200000 + 4 * n ∧ hLen q = 4 ∧ hInline q = true ∧ Unmoved q ∧ (moveAt 0 t (hAddr q)
        s.ctl).isSome = true ∧ tilesUp s.ctl = true ∧ tilesGated s.ctl = false ∧ tileOwner s.ctl t < 32 ∧ clearing s.ctl t = false ∧ (tile
        s.ctl t).halted = true) ∧
    (∃ (s : State) (l : Nat) (ws : List Nat), l < 32 ∧ linkUp s.ctl l = true ∧ s.ctl.pwr.chip = false ∧ s.ctl.time.refclk = true ∧
        parseMsg ws = none) ∧
    (∃ (s : State) (l : Nat) (dst : Nat) (src : Nat) (tag : Nat) (ws : List Nat) (body : Bytes), dst ≠ plezorId s.ctl ∧ Message s.ctl l ws
        0 dst src tag body) ∧
    (∃ (s : State) (l : Nat) (dst : Nat) (src : Nat) (tag : Nat) (ws : List Nat) (body : Bytes), dst ≠ plezorId s.ctl ∧ Message s.ctl l ws
        1 dst src tag body) ∧
    (∃ (s : State) (l : Nat) (src : Nat) (tag : Nat) (ws : List Nat) (body : Bytes) (q : HubReq), Message s.ctl l ws 0 (plezorId s.ctl)
        src tag body ∧ s.ctl.db.reqs = [] ∧ s.ctl.db.relay = none ∧ q =
        { origin := 2, tag := tag, src := src, bytes := body, acc := s.ctl.time.ftc } ∧ hOp q = 0x10 ∧ checkReq q = 0 ∧ s.ctl.ev.contained
        = false) ∧
    (∃ (s : State) (l : Nat) (src : Nat) (tag : Nat) (ws : List Nat) (body : Bytes) (q : HubReq) (rest : List HubReq) (r : Relay), Message
        s.ctl l ws 1 (plezorId s.ctl) src tag body ∧ s.ctl.db.relay = some r ∧ s.ctl.db.reqs = q :: rest ∧ r.tag = tag ∧ hUnit q / 2 ^ 16
        = src ∧ hMoves q = false) ∧
    (∃ (s : State) (l : Nat) (src : Nat) (tag : Nat) (ws : List Nat) (body : Bytes) (q : HubReq) (rest : List HubReq) (r : Relay), Message
        s.ctl l ws 1 (plezorId s.ctl) src tag body ∧ s.ctl.db.relay = some r ∧ s.ctl.db.reqs = q :: rest ∧ r.tag = tag ∧ hUnit q / 2 ^ 16
        = src ∧ hOp q = 0x01 ∧ leAt body 0 1 = 0 ∧ r.len ≤ r.off + 64 ∧ r.off ≤ r.len ∧ bitN (leAt body 1 1) 0 = false ∧ r.data.any (·.2)
        = false) ∧
    (∃ (s : State) (l : Nat) (src : Nat) (tag : Nat) (ws : List Nat) (body : Bytes), Message s.ctl l ws 1 (plezorId s.ctl) src tag body ∧
        (∀ r, s.ctl.db.relay = some r → r.tag ≠ tag)) ∧
    (∃ (s : State) (l : Nat) (dst : Nat) (src : Nat) (tag : Nat) (ws : List Nat) (body : Bytes) (q : HubReq), Message s.ctl l ws 2 dst src
        tag body ∧ rbit s.ctl (hub 0x100) l = true ∧ s.ctl.db.reqs = [] ∧ s.ctl.db.relay = none ∧ q =
        { origin := 4, tag := tag, src := src, bytes := padTo 56 (body.take 0x20), acc := s.ctl.time.ftc } ∧ hOp q = 0x10 ∧ checkReq q = 0
        ∧ s.ctl.ev.contained = false) ∧
    (∃ (s : State) (l : Nat) (dst : Nat) (src : Nat) (tag : Nat) (ws : List Nat) (body : Bytes), Message s.ctl l ws 2 dst src tag body ∧
        rbit s.ctl (hub 0x100) l = false) ∧
    (∃ (s : State) (q : HubReq) (rest : List HubReq) (r : Relay) (t : Nat), (HubTurn { s.ctl with db := { s.ctl.db with relay := none } }
        (hOp q) q rest) ∧ s.ctl.db.relay = some r ∧ r.sent = some t ∧ Ahead s.ctl (t + fld s.ctl (hub 0x10) 15 0 * 1250)) :=
  ⟨⟨cmd 0 2 (ent 0x60 [(8, 1, 0x10), (0x20, 4, 5)]) (hw (hq 1 []) up), (ent 0x60 [(8, 1, 0x10), (0x20, 4, 5)]), _,
       ⟨⟨_, rfl⟩, by decide +kernel⟩, rfl, by decide +kernel⟩,
   ⟨cmd 0 2 (ent 0x60 [(8, 1, 0x15)]) up, (ent 0x60 [(8, 1, 0x15)]), ⟨⟨_, rfl⟩, by decide +kernel⟩, by decide +kernel⟩,
   ⟨hw (hq 1 []) up, hb 0x14 [(0x10, 6, 9)], _, rfl, by decide +kernel⟩,
   ⟨hw (hq 1 [] 0) up, hq 1 [] 0, by decide +kernel⟩,
   ⟨hw (hq 1 [] 0) up, _, rfl⟩,
   ⟨chg up (fun c => { c with db := { c.db with rfifo := [(7, true), (8, false)], wfifo := [3] } }), by decide +kernel⟩,
   ⟨hw (hq 0x10 [(0x20, 1, 1)]) up, .halt, 0x10, hq 0x10 [(0x20, 1, 1)], [hq 0x10 []], by unfold HubTurn; decide +kernel⟩,
   ⟨hw (hq 1 [fu 0 0x0005, (2, 2, 4)] 0) up, .read, 1, hq 1 [fu 0 0x0005, (2, 2, 4)] 0, [hq 0x10 []],
       by unfold HubHere HubTurn; decide +kernel⟩,
   ⟨hw (hq 0x14 [fu 0x300 0]) up, .bstop, 0x14, hq 0x14 [fu 0x300 0], [hq 0x10 []], by unfold HubTurn; decide +kernel⟩,
   ⟨lu (hw (hq 0x14 [fu 0x300 0]) up), .bstop, 0x14, 31, hq 0x14 [fu 0x300 0], [hq 0x10 []], by unfold HubTurn; decide +kernel⟩,
   ⟨hw (hq 1 [fu 0 0xF000, (2, 2, 4), (8, 8, 0x100)] 0) up, hq 1 [fu 0 0xF000, (2, 2, 4), (8, 8, 0x100)] 0, [hq 0x10 []], 0x100,
       by unfold HubHere HubTurn Unmoved; decide +kernel⟩,
   ⟨hw (hq 1 [fu 0 0, (2, 2, 4), (8, 8, 0x7FFFC)]) (chg ep (fun c =>
           { c with plan := { c.plan with active := some ({ plan0 with hbm := List.replicate 80 0x41, noc := List.replicate 64 0x41 }) } })),
       hq 1 [fu 0 0, (2, 2, 4), (8, 8, 0x7FFFC)], [hq 0x10 []], 0, 0x7FFFC, by unfold HubHere HubTurn Unmoved CodesSound; decide +kernel⟩,
   ⟨hw (hq 1 [fu 0 0, (2, 2, 4), (8, 8, 0x7FFFC)]) ep, hq 1 [fu 0 0, (2, 2, 4), (8, 8, 0x7FFFC)], [hq 0x10 []],
       by unfold HubHere HubTurn Unmoved; decide +kernel⟩,
   ⟨hw (hq 2 [fu 0 0xF000, (2, 2, 4), (8, 8, 0x100004), (0x28, 4, 1)]) ep, hq 2 [fu 0 0xF000, (2, 2, 4), (8, 8, 0x100004), (0x28, 4, 1)],
       [hq 0x10 []], _, by unfold HubHere HubTurn; decide +kernel, by decide +kernel, by decide +kernel, by decide +kernel,
       by decide +kernel, by unfold Unmoved; decide +kernel, rfl⟩,
   ⟨hw (hq 2 [fu 0 0, (2, 2, 4), (8, 8, 0x20007C), (0x28, 4, 77)] 0) (chg (tl (fun x => { x with halted := true })) (fun c =>
           { c with plan := { c.plan with active := some ({ plan0 with hbm := List.replicate 80 0x41, noc := List.replicate 64 0x41 }) } })),
       hq 2 [fu 0 0, (2, 2, 4), (8, 8, 0x20007C), (0x28, 4, 77)] 0, [hq 0x10 []], 0, 31,
       by unfold HubHere HubTurn Unmoved; decide +kernel⟩,
   ⟨lu up, 31, [5, 6], by decide +kernel⟩,
   ⟨lu up, 31, 0x301, 7, 9, msgWords 0 0x301 7 9 (slice (hb 0x10 []) 0 36), slice (hb 0x10 []) 0 36, by unfold Message; decide +kernel⟩,
   ⟨lu up, 31, 0x301, 7, 9, msgWords 1 0x301 7 9 (slice (hb 0x10 []) 0 18), slice (hb 0x10 []) 0 18, by unfold Message; decide +kernel⟩,
   ⟨lu up, 31, 0x300, 9, msgWords 0 0 0x300 9 (slice (hb 0x10 [(0x18, 4, 2 ^ 31)]) 0 36), (slice (hb 0x10 [(0x18, 4, 2 ^ 31)]) 0 36), _,
       by unfold Message; decide +kernel, by decide +kernel, by decide +kernel, rfl, by decide +kernel⟩,
   ⟨chg (lu (hw (hq 0x14 [fu 0x300 0]) up)) (fun c =>
           { c with db := { c.db with relay := some ({ tag := 9, first := 0, sent := some 0 }) } }),
       31, 0x300, 9, msgWords 1 0 0x300 9 (rspBody 5 77 [] ++ zeroBytes 2), (rspBody 5 77 [] ++ zeroBytes 2), hq 0x14 [fu 0x300 0],
       [hq 0x10 []], { tag := 9, first := 0, sent := some 0 }, by unfold Message; decide +kernel⟩,
   ⟨chg (lu (hw (hq 1 [fu 0x300 0, (2, 2, 4)]) up)) (fun c =>
           { c with db := { c.db with relay := some ({ tag := 9, first := 0, sent := some 0, len := 4 }) } }),
       31, 0x300, 9, msgWords 1 0 0x300 9 (rspBody 0 4 [(7, false)] ++ zeroBytes 4), (rspBody 0 4 [(7, false)] ++ zeroBytes 4),
       hq 1 [fu 0x300 0, (2, 2, 4)], [hq 0x10 []], { tag := 9, first := 0, sent := some 0, len := 4 }, by unfold Message; decide +kernel⟩,
   ⟨chg (lu (hw (hq 1 [fu 0x300 0, (2, 2, 4)]) up)) (fun c =>
           { c with db := { c.db with relay := some ({ tag := 9, first := 0, sent := some 0, len := 4 }) } }),
       31, 0x300, 8, msgWords 1 0 0x300 8 (rspBody 0 4 [(7, false)] ++ zeroBytes 4), (rspBody 0 4 [(7, false)] ++ zeroBytes 4),
       by unfold Message; decide +kernel⟩,
   ⟨lu up, 31, 0, 0x300, 9, msgWords 2 0 0x300 9 (slice (hb 0x10 [(0x18, 4, 2 ^ 31)]) 0 36), (slice (hb 0x10 [(0x18, 4, 2 ^ 31)]) 0 36),
       _, by unfold Message; decide +kernel, by decide +kernel, by decide +kernel, by decide +kernel, rfl, by decide +kernel⟩,
   ⟨chg (lu up) (put [(hub 0x100, 1)]), 31, 0, 0x300, 9, msgWords 2 0 0x300 9 (slice (hb 0x10 [(0x18, 4, 2 ^ 31)]) 0 36),
       (slice (hb 0x10 [(0x18, 4, 2 ^ 31)]) 0 36), by unfold Message; decide +kernel⟩,
   ⟨chg (chg (lu (hw (hq 1 [fu 0x300 0, (2, 2, 4)]) up)) (fun c =>
           { c with db := { c.db with relay := some ({ tag := 9, first := 0, sent := some 6000, len := 4 }) } })) (put [(hub 0x10, 2)]),
       hq 1 [fu 0x300 0, (2, 2, 4)], [hq 0x10 []], { tag := 9, first := 0, sent := some 6000, len := 4 }, 6000,
       by unfold HubTurn Ahead; decide +kernel⟩⟩

/-- States and operands that meet the hypotheses of each clause of `RunControlTakesEffect`. -/
theorem test_hyps_RunControlTakesEffect :
    (∃ (s : State) (q : HubReq) (rest : List HubReq), HubHere s.ctl 0x10 q rest ∧ s.ctl.ev.contained = true) ∧
    (∃ (s : State) (q : HubReq) (rest : List HubReq), HubHere s.ctl 0x10 q rest ∧ s.ctl.ev.contained = false) ∧
    (∃ (s : State) (q : HubReq) (rest : List HubReq), HubHere s.ctl 0x11 q rest ∧ hAt q = false ∧ dumpHolds s.ctl (hMask q) = false) ∧
    (∃ (s : State) (q : HubReq) (rest : List HubReq), HubHere s.ctl 0x11 q rest ∧ hAt q = true ∧ s.ctl.time.epoch = true ∧ hMask q ≠ 0 ∧
        s.ctl.db.relArmed = false ∧ dumpHolds s.ctl (hMask q) = false ∧ firstPassAfter s.ctl s.ctl.time.ftc ≤ hPass q) ∧
    (∃ (s : State) (i : Instr) (op : Nat) (q : HubReq) (rest : List HubReq), ((i = .release ∧ op = 0x11 ∧ hAt q = true) ∨ (i = .pstep ∧ op
        = 0x13) ∨ (i = .bstop ∧ op = 0x14)) ∧ HubHere s.ctl op q rest ∧ s.ctl.time.epoch = false) ∧
    (∃ (s : State) (i : Instr) (op : Nat) (q : HubReq) (rest : List HubReq), ((i = .release ∧ op = 0x11 ∧ hAt q = true) ∨ (i = .pstep ∧ op
        = 0x13)) ∧ HubHere s.ctl op q rest ∧ s.ctl.time.epoch = true ∧ (dumpHolds s.ctl (hMask q) = true ∨ (hMask q ≠ 0 ∧
        s.ctl.db.relArmed = true))) ∧
    (∃ (s : State) (q : HubReq) (rest : List HubReq), HubHere s.ctl 0x13 q rest ∧ s.ctl.time.epoch = true ∧ hMask q ≠ 0 ∧
        s.ctl.db.relArmed = false ∧ dumpHolds s.ctl (hMask q) = false ∧ firstPassAfter s.ctl s.ctl.time.ftc ≤ hPass q ∧ rbit s.ctl
        rBstopStat 0 = false) ∧
    (∃ (s : State) (q : HubReq) (rest : List HubReq), HubHere s.ctl 0x14 q rest ∧ s.ctl.time.epoch = true ∧ firstPassAfter s.ctl
        s.ctl.time.ftc ≤ hPass q ∧ rbit s.ctl rBstopStat 0 = false) ∧
    (∃ (s : State) (q : HubReq) (rest : List HubReq), HubHere s.ctl 0x14 q rest ∧ s.ctl.time.epoch = true ∧ hPass q < firstPassAfter s.ctl
        s.ctl.time.ftc ∧ firstPassAfter s.ctl s.ctl.time.ftc < 2 ^ 48 ∧ rbit s.ctl rBstopStat 0 = false) ∧
    (∃ (s : State) (q : HubReq) (rest : List HubReq) (no : Nat), HubHere s.ctl 0x12 q rest ∧ stepRefused (enterWait s.ctl (hIdx q)) (hIdx
        q) = no ∧ no ≠ 0) ∧
    (∃ (s : State) (q : HubReq) (rest : List HubReq) (t : Nat) (c : Ctl) (go : Ctl), HubHere s.ctl 0x12 q rest ∧ t = hIdx q ∧ c =
        enterWait s.ctl t ∧ stepRefused c t = 0 ∧ (tile c t).run ≠ .ending ∧ go = updTile (loadState c s.mem t) t (fun x =>
        { x with halted := false, exc := false, quiet := false, run := if x.run = .idle then .run else x.run }) ∧ stepStalls go t (fetched
        (go, s.mem) t (tile go t).pc).2 = false) ∧
    (∃ (s : State) (q : HubReq) (rest : List HubReq) (t : Nat) (c : Ctl) (go : Ctl), HubHere s.ctl 0x12 q rest ∧ t = hIdx q ∧ c =
        enterWait s.ctl t ∧ stepRefused c t = 0 ∧ (tile c t).run ≠ .ending ∧ go = updTile (loadState c s.mem t) t (fun x =>
        { x with halted := false, exc := false, quiet := false, run := if x.run = .idle then .run else x.run }) ∧ stepStalls go t (fetched
        (go, s.mem) t (tile go t).pc).2 = true ∧ c.time.ftc < q.acc + fld c (hub 0x14) 15 0) ∧
    (∃ (s : State) (q : HubReq) (rest : List HubReq) (t : Nat) (c : Ctl) (go : Ctl), HubHere s.ctl 0x12 q rest ∧ t = hIdx q ∧ c =
        enterWait s.ctl t ∧ stepRefused c t = 0 ∧ (tile c t).run ≠ .ending ∧ go = updTile (loadState c s.mem t) t (fun x =>
        { x with halted := false, exc := false, quiet := false, run := if x.run = .idle then .run else x.run }) ∧ stepStalls go t (fetched
        (go, s.mem) t (tile go t).pc).2 = true ∧ q.acc + fld c (hub 0x14) 15 0 ≤ c.time.ftc) :=
  ⟨⟨chg (hw (hq 0x10 [(0x18, 4, 1), (0x1C, 4, 3)]) (tl id [(hub 0, 2)])) (fun c => { c with ev := { c.ev with contained := true } }),
       hq 0x10 [(0x18, 4, 1), (0x1C, 4, 3)], [hq 0x10 []], by unfold HubHere HubTurn; decide +kernel, by decide +kernel⟩,
   ⟨hw (hq 0x10 [(0x18, 4, 1), (0x1C, 4, 3)]) (tl id [(hub 0, 2)]), hq 0x10 [(0x18, 4, 1), (0x1C, 4, 3)], [hq 0x10 []],
       by unfold HubHere HubTurn; decide +kernel⟩,
   ⟨hw (hq 0x11 [(0x18, 4, 1), (0x1C, 4, 3)]) (chg ep (fun c => { c with db := { c.db with ceHalted := true, coreHalted := true } })),
       hq 0x11 [(0x18, 4, 1), (0x1C, 4, 3)], [hq 0x10 []], by unfold HubHere HubTurn; decide +kernel⟩,
   ⟨hw (hq 0x11 [(1, 1, 2), (0x10, 6, 9), (0x18, 4, 1)]) (ep), hq 0x11 [(1, 1, 2), (0x10, 6, 9), (0x18, 4, 1)], [hq 0x10 []],
       by unfold HubHere HubTurn; decide +kernel⟩,
   ⟨hw (hq 0x14 [(0x10, 6, 9), (0x18, 4, 1)]) (up), .bstop, 0x14, hq 0x14 [(0x10, 6, 9), (0x18, 4, 1)], [hq 0x10 []],
       by unfold HubHere HubTurn; decide +kernel⟩,
   ⟨hw (hq 0x13 [(0x10, 6, 9), (0x16, 2, 1), (0x18, 4, 2 ^ 31)]) (chg ep (fun c => { c with db := { c.db with relArmed := true } })),
       .pstep, 0x13, hq 0x13 [(0x10, 6, 9), (0x16, 2, 1), (0x18, 4, 2 ^ 31)], [hq 0x10 []], by unfold HubHere HubTurn; decide +kernel⟩,
   ⟨hw (hq 0x13 [(0x10, 6, 9), (0x16, 2, 2), (0x18, 4, 2 ^ 31)]) (ep), hq 0x13 [(0x10, 6, 9), (0x16, 2, 2), (0x18, 4, 2 ^ 31)],
       [hq 0x10 []], by unfold HubHere HubTurn; decide +kernel⟩,
   ⟨hw (hq 0x14 [(0x10, 6, 9), (0x18, 4, 2 ^ 31), (0x1C, 4, 4)]) (ep), hq 0x14 [(0x10, 6, 9), (0x18, 4, 2 ^ 31), (0x1C, 4, 4)],
       [hq 0x10 []], by unfold HubHere HubTurn; decide +kernel⟩,
   ⟨hw (hq 0x14 [(0x10, 6, 2), (0x18, 4, 2 ^ 31)]) (ep), hq 0x14 [(0x10, 6, 2), (0x18, 4, 2 ^ 31)], [hq 0x10 []],
       by unfold HubHere HubTurn; decide +kernel⟩,
   ⟨hw (hq 0x12 [fu 0 5]) (ep), hq 0x12 [fu 0 5], [hq 0x10 []], 3, by unfold HubHere HubTurn; decide +kernel⟩,
   ⟨hw (hq 0x12 [fu 0 0]) ((fun s : State =>
           { s with mem := { s.mem with im := writeLe {} 0 16 (0x08210003 * 2 ^ 96) } }) (tl (fun x =>
           { x with halted := true }) [(ptStat 0, 0x42)])),
       hq 0x12 [fu 0 0], [hq 0x10 []], _, _, _, by unfold HubHere HubTurn; decide +kernel, rfl, rfl, by decide +kernel, by decide +kernel,
       rfl, by decide +kernel⟩,
   ⟨hw (hq 0x12 [fu 0 0]) ((fun s : State =>
           { s with mem := { s.mem with im := writeLe {} 0 16 (0x54000001 * 2 ^ 96) } }) (tl (fun x =>
           { x with halted := true }) [(hub 0x14, 100), (ptStat 0, 0x42)])),
       hq 0x12 [fu 0 0], [hq 0x10 []], _, _, _, by unfold HubHere HubTurn; decide +kernel, rfl, rfl, by decide +kernel, by decide +kernel,
       rfl, by decide +kernel, by decide +kernel⟩,
   ⟨hw ({ hq 0x12 [fu 0 0] with acc := 6400 }) ((fun s : State =>
           { s with mem := { s.mem with im := writeLe {} 0 16 (0x54000001 * 2 ^ 96) } }) (tl (fun x =>
           { x with halted := true }) [(hub 0x14, 100), (ptStat 0, 0x42)])),
       { hq 0x12 [fu 0 0] with acc := 6400 }, [hq 0x10 []], _, _, _, by unfold HubHere HubTurn; decide +kernel, rfl, rfl,
       by decide +kernel, by decide +kernel, rfl, by decide +kernel, by decide +kernel⟩⟩

/-- States and operands that meet the hypotheses of each clause of `FliwellServesItsPinsAndTools`. -/
theorem test_hyps_FliwellServesItsPinsAndTools :
    (∃ (i : Instr) (ir : Nat) (v : Nat), ((i = .idcode ∧ ir = 2 ∧ v = 0x13200563) ∨ (i = .clamp ∧ ir = 3 ∧ v = 0) ∨ (i = .highz ∧ ir = 4 ∧
        v = 0) ∨ (i = .bypass ∧ ir = 0xFF ∧ v = 0))) ∧
    (∃ (s : State) (i : Instr) (o : Nat) (b : Byte), ((i = .vtTxWrite b ∧ o = hub 0x30 ∧ monRuns s.ctl = true ∧ s.ctl.db.coreHalted =
        false) ∨ (i = .vtRxWrite b ∧ o = hub 0x34 ∧ s.ctl.time.refclk = true))) ∧
    (∃ (s : State) (i : Instr) (o : Nat), ((i = .vtTxRead ∧ o = hub 0x30 ∧ s.ctl.time.refclk = true) ∨ (i = .vtRxRead ∧ o = hub 0x34 ∧
        monRuns s.ctl = true ∧ s.ctl.db.coreHalted = false))) ∧
    (∃ (s : State), monRuns s.ctl = true) ∧
    (∃ (s : State), monRuns s.ctl = false) ∧
    (∃ (s : State), monRuns s.ctl = true ∧ mwdogTc s.ctl ≠ 0 ∧ rbit s.ctl (hub 0) 2 = false ∧ s.ctl.time.refclk = true ∧ Ahead s.ctl
        (s.ctl.db.mwdog + mwdogTc s.ctl) ∧ rbit s.ctl rDmCtrl 1 = false) ∧
    (∃ (s : State) (p : Nat) (v : Word), p < 32 ∧ s.ctl.time.refclk = true ∧ bitN v.toNat 31 = true) ∧
    (∃ (s : State) (p : Nat) (v : Word), p < 32 ∧ s.ctl.time.refclk = true ∧ bitN v.toNat 31 = false) ∧
    (∃ (s : State) (n : Nat) (ch : Nat), rootLock s.ctl = true ∧ s.ctl.time.refclk = true ∧ fld s.ctl (hub 0x108) 27 24 + 1 ≤ n ∧ ch = fld
        s.ctl (hub (0x200 + 4 * 98)) 15 0 ∧ ch ≠ 0) ∧
    (∃ (s : State) (n : Nat), (rootLock s.ctl = false ∨ s.ctl.time.refclk = false ∨ n < fld s.ctl (hub 0x108) 27 24 + 1)) ∧
    (∃ (s : State) (ch : Nat), regsServed s.ctl = true ∧ ch % 2 ^ 16 ≠ 0) ∧
    (∃ (s : State) (ch : Nat), regsServed s.ctl = true ∧ ch < 2 ^ 16 ∧ ch ≠ 0 ∧ s.ctl.db.fireQ = [] ∧ (∀ g, g < 8 → rd s.ctl (hub (0x80 +
        8 * g)) % 2 ^ 16 &&& ch = 0) ∧ bits (rd s.ctl (hub 0x50)) 31 16 &&& ch = 0 ∧ (∀ p, p < 32 → rbit s.ctl (trcCtrl p) 31 = false) ∧
        ch &&& fld s.ctl (hub 0x104) 15 0 = 0 ∧ bits (rd s.ctl rDmTrig) 31 16 &&& ch = 0 ∧ rd s.ctl (hub 0x108) % 2 ^ 16 &&& ch ≠ 0) ∧
    (∃ (s : State), regsServed s.ctl = true ∧ s.ctl.db.spillOut = true ∧ rbit s.ctl (hub 0x108) 30 = false ∧ Ahead s.ctl
        s.ctl.db.spillTill) ∧
    (∃ (s : State), regsServed s.ctl = true ∧ s.ctl.db.spillOut = true ∧ rbit s.ctl (hub 0x108) 30 = true) ∧
    (∃ (s : State), s.ctl.db.fireQ = []) :=
  ⟨⟨.bypass, 0xFF, 0, by decide +kernel⟩,
   ⟨up [(hub 0x34, 0x141)], .vtRxWrite 0x42, hub 0x34, 0x42, by decide +kernel⟩,
   ⟨up [(0x1004, 2), (hub 0x34, 0x141)], .vtRxRead, hub 0x34, by decide +kernel⟩,
   ⟨up [(0x1004, 2)], by decide +kernel⟩,
   ⟨up [(0x1004, 1)], by decide +kernel⟩,
   ⟨up [(0x1004, 2), (hub 0x28, 5)], by unfold Ahead; decide +kernel⟩,
   ⟨up, 31, 0x800A0000, by decide +kernel⟩,
   ⟨up, 31, 0, by decide +kernel⟩,
   ⟨up [(hub (0x200 + 4 * 98), 0x8000), (hub 0x108, 15 * 2 ^ 24)], 16, 0x8000, by decide +kernel⟩,
   ⟨up [(hub 0x108, 15 * 2 ^ 24)], 15, by decide +kernel⟩,
   ⟨up, 0x18000, by decide +kernel⟩,
   ⟨up [(hub 0x108, 0x20008000)], 0xC000, by decide +kernel⟩,
   ⟨chg up (fun c => { c with db := { c.db with spillOut := true, spillTill := c.time.ftc + 8 } }), by unfold Ahead; decide +kernel⟩,
   ⟨chg (up [(hub 0x108, 2 ^ 30)]) (fun c => { c with db := { c.db with spillOut := true } }), by decide +kernel⟩,
   ⟨tl id [(ptStat 0, 0x42), (hub 0x108, 7)], by decide +kernel⟩⟩

/-- States and operands that meet the hypotheses of each clause of `DumpsRunAndEnd`. -/
theorem test_hyps_DumpsRunAndEnd :
    (∃ (s : State) (fn : Nat) (p : Nat) (e : Bytes), Taken s.ctl fn 0 0x40 e ∧ leAt e 8 1 = 0 ∧ ePass e 0x10 = none ∧ s.ctl.time.epoch =
        false ∧ s.ctl.ev.contained = false ∧ p = cmdPart e (refOf fn 0 e) ∧ p < 32 ∧ s.ctl.dump.queue = []) ∧
    (∃ (s : State) (fn : Nat) (p : Nat) (e : Bytes), Taken s.ctl fn 0 0x40 e ∧ leAt e 8 1 = 0 ∧ ePass e 0x10 = none ∧ s.ctl.time.epoch =
        false ∧ s.ctl.ev.contained = false ∧ p = cmdPart e (refOf fn 0 e) ∧ p < 32 ∧ s.ctl.dump.queue.length = 4 ∧ (∀ q, q ∈
        s.ctl.dump.queue → q.scope = 0 → q.mask ≠ 2 ^ p) ∧ (∀ q, q ∈ s.ctl.dump.queue → q.ref ≠ some (refOf fn 0 e))) ∧
    (∃ (s : State) (fn : Nat) (p : Nat) (n : Nat) (e : Bytes), Taken s.ctl fn 0 0x40 e ∧ p = cmdPart e (refOf fn 0 e) ∧ n = (ePass e
        0x10).getD (firstPassAfter s.ctl s.ctl.time.ftc) ∧ leAt e 8 1 = 0 ∧ s.ctl.time.epoch = true ∧ p < 32 ∧ n < 2 ^ 48 ∧ firstPassAfter
        s.ctl s.ctl.time.ftc ≤ n ∧ rbit s.ctl rBstopStat 0 = false) ∧
    (∃ (s : State) (fn : Nat) (e : Bytes), Taken s.ctl fn 0 0x40 e ∧ (ePass e 0x10).isSome = true ∧ s.ctl.time.epoch = false) ∧
    (∃ (s : State) (r0 : DumpReq) (rest : List DumpReq) (mask : Nat) (cat : Nat) (base : Nat) (recs : List (Nat × Nat × Nat)),
        s.ctl.dump.queue = r0 :: rest ∧ s.ctl.dump.running = none ∧ s.ctl.dump.cut = none ∧ mask = scopeMask s.ctl r0 ∧ scopeQuiet s.ctl
        (mask - (mask &&& r0.lost)) = true ∧ dmUp s.ctl = true ∧ cat < 16 ∧ (smGet s.ctl.dump.cats none cat).isNone = true ∧ (∀ i, i < cat
        → (smGet s.ctl.dump.cats none i).isSome = true) ∧ recs = scopeRecs s.ctl { r0 with mask := mask } mask ∧ placeFor s.ctl (recs.map
        (fun e => e.2.2)).sum = some base) ∧
    (∃ (s : State) (r0 : DumpReq) (rest : List DumpReq) (mask : Nat) (st : Nat) (ref : CmdRef) (recs : List (Nat × Nat × Nat)),
        s.ctl.dump.queue = r0 :: rest ∧ s.ctl.dump.running = none ∧ s.ctl.dump.cut = none ∧ mask = scopeMask s.ctl r0 ∧ scopeQuiet s.ctl
        (mask - (mask &&& r0.lost)) = true ∧ dmUp s.ctl = true ∧ recs = scopeRecs s.ctl { r0 with mask := mask } mask ∧ ((st = 3 ∧ ∀ i, i
        < 16 → (smGet s.ctl.dump.cats none i).isSome = true) ∨ (st = 2 ∧ (∃ i, i < 16 ∧ (smGet s.ctl.dump.cats none i).isNone = true) ∧
        placeFor s.ctl (recs.map (fun e => e.2.2)).sum = none)) ∧ r0.ref = some ref ∧ ref.ring ≠ 0xFF ∧ (∀ p, p < 32 → (part s.ctl
        p).heldAt = none)) ∧
    (∃ (s : State) (q : Nat) (slot : Nat) (o : Nat) (t : Nat) (c1 : Ctl) (b : (Ctl × Mem) × Nat) (r : Ctl × Mem), dmUp s.ctl = true ∧ q <
        512 ∧ s.ctl.db.traceQ.entries = [] ∧ inForce s.ctl = true ∧ ((hbmOwner s.ctl q slot = o ∧ o < 32) ∨ (hbmOwner s.ctl q slot = 0x41
        ∧ o = 32)) ∧ slotFor s.ctl q slot (if o < 32 then o else 0x41) = some t ∧ c1 = useSlot { s.ctl with dump :=
        { s.ctl.dump with turn := o } } q t ∧ b = (if o = 32 then catBeats q (c1, s.mem) else ((c1, s.mem), 15)) ∧ r = dumpDone (Nat.fold
        b.2 (fun _ _ cm => dumpBeat o q cm) b.1)) ∧
    (∃ (c : Ctl) (c1 : Ctl) (d : Dump) (e : DumpEnt) (i : Nat) (r : Nat) (f : Nat) (o : Nat) (q : Nat), c.dump.running = some d ∧ e.state
        = 1 ∧ d.ents.zipIdx.find? (fun e => decide (e.1.state < 2 ∧ pathOf c e.1 q = o) && ((entNext (regionGrans c) d o q e.1).bind (fun
        r => (lineRead c d e.1 r).map (fun f => (r, f)))).isSome) = some (e, i) ∧ entNext (regionGrans c) d o q e = some r ∧ lineRead c d
        e r = some f ∧ pchFailed c (pchOf (regionAddr (regionGrans c) r)) = false ∧ c1 = (if e.kind = 1 ∧ (r - e.off) % 64 = 0 then rxUse
        c (e.unit % 4096) 0 false else c)) ∧
    (∃ (s : State) (d : Dump) (ref : CmdRef), s.ctl.dump.running = some d ∧ d.ents.all (fun e => decide (e.state ≥ 2)) = true ∧ dmUp s.ctl
        = true ∧ d.req.ref = some ref ∧ ref.ring ≠ 0xFF ∧ (∀ p, p < 32 → (part s.ctl p).heldAt = none) ∧ (inForce s.ctl = false ∨
        (s.ctl.dump.catq = [] ∧ ∃ t, nextSlot s.ctl (pchOf (regionAddr (regionGrans s.ctl) (65536 * d.cat))) 0x41 = some t ∧ Ahead s.ctl
        t))) ∧
    (∃ (s : State) (d : Dump), s.ctl.dump.running = some d ∧ inForce s.ctl = true ∧ s.ctl.dump.catq ≠ []) ∧
    (∃ (s : State) (d : Dump), s.ctl.dump.cut = some d ∧ dmUp s.ctl = true ∧ d.req.ref = none ∧ (∀ p, p < 32 → (part s.ctl p).heldAt =
        none)) ∧
    (∃ (s : State) (cat : Nat), cat < 16 ∧ regsServed s.ctl = true ∧ (∀ d, s.ctl.dump.running = some d → d.cat ≠ cat) ∧ (∀ d,
        s.ctl.dump.cut = some d → d.cat ≠ cat)) ∧
    (∃ (s : State) (cat : Nat) (d : Dump), cat < 16 ∧ regsServed s.ctl = true ∧ s.ctl.dump.running = some d ∧ d.cat = cat) ∧
    (∃ (s : State) (p : Nat) (a : Nat) (t : Nat), p < 32 ∧ regsServed s.ctl = true ∧ s.ctl.ev.contained = false ∧ (part s.ctl p).heldAt =
        some a ∧ t = a + fld s.ctl rDmHoldMax 15 0 * 1250 ∧ Ahead s.ctl t ∧ s.ctl.dump.queue = []) :=
  ⟨⟨cmd 32 0 (ent 0x40 [(4, 1, 31)]) up, 32, _, (ent 0x40 [(4, 1, 31)]), ⟨⟨_, rfl⟩, by decide +kernel⟩, by decide +kernel, by decide +kernel,
       by decide +kernel, by decide +kernel, rfl, by decide +kernel⟩,
   ⟨chg (cmd 0 0 (ent 0x40 [(4, 1, 31)]) up) (fun c => { c with dump := { c.dump with queue := [dq 1, dq 1, dq 0, dq 1] } }), 0, _,
       (ent 0x40 [(4, 1, 31)]), ⟨⟨_, rfl⟩, by decide +kernel⟩, by decide +kernel, by decide +kernel, by decide +kernel, by decide +kernel,
       rfl, by decide +kernel⟩,
   ⟨cmd 0 0 (ent 0x40 [(4, 1, 31), (0x10, 8, 2 ^ 63 + 9)]) ep, 0, _, _, (ent 0x40 [(4, 1, 31), (0x10, 8, 2 ^ 63 + 9)]),
       ⟨⟨_, rfl⟩, by decide +kernel⟩, rfl, rfl, by decide +kernel⟩,
   ⟨cmd 0 0 (ent 0x40 [(4, 1, 31), (0x10, 8, 2 ^ 63 + 9)]) up, 0, (ent 0x40 [(4, 1, 31), (0x10, 8, 2 ^ 63 + 9)]),
       ⟨⟨_, rfl⟩, by decide +kernel⟩, by decide +kernel⟩,
   ⟨dmp (fun d => { d with queue := [{ dq 0 with lost := 2 }, dq 1], cats := ⟨[(0, some (2 ^ 20, 64))]⟩ }), { dq 0 with lost := 2 },
       [dq 1], _, 1, 2 ^ 20 + 64, _, by decide +kernel, by decide +kernel, by decide +kernel, rfl, by decide +kernel, by decide +kernel,
       by decide +kernel, by decide +kernel, by decide +kernel, rfl, by decide +kernel⟩,
   ⟨dmp (fun d => { d with queue := [dq 0 (some (refOf 0 0 (ent 0))), dq 1], cats := cats16 }), dq 0 (some (refOf 0 0 (ent 0))), [dq 1],
       _, 3, refOf 0 0 (ent 0), _, by decide +kernel, by decide +kernel, by decide +kernel, rfl, by decide +kernel, by decide +kernel,
       rfl, by decide +kernel⟩,
   ⟨dmp (fun d => { d with running := some (dru 0) }), 0, 7, 0, 6512, _, _, _, by decide +kernel, by decide +kernel, by decide +kernel,
       by decide +kernel, by decide +kernel, by decide +kernel, rfl, rfl, rfl⟩,
   ⟨(dmp (fun d => { d with running := some (dru 1) })).ctl, _, dru 1, { unit := 0, kind := 2, state := 1, off := 2 ^ 20, len := 8256 },
       0, 2 ^ 20, 6500, 0, 0, by decide +kernel, by decide +kernel, by decide +kernel, by decide +kernel, by decide +kernel,
       by decide +kernel, rfl⟩,
   ⟨chg (dmp (fun d => { d with running := some (dru 3 (some (refOf 0 0 (ent 0)))) })) (fun c =>
           { c with time := { c.time with epoch := false } }),
       dru 3 (some (refOf 0 0 (ent 0))), refOf 0 0 (ent 0), by decide +kernel, by decide +kernel, by decide +kernel, by decide +kernel,
       by decide +kernel, by decide +kernel, Or.inl (by decide +kernel)⟩,
   ⟨dmp (fun d => { d with running := some (dru 3), catq := [(0, 7)] }), dru 3, by decide +kernel⟩,
   ⟨dmp (fun d => { d with cut := some (dru 1) }), dru 1, by decide +kernel⟩,
   ⟨dmp (fun d => { d with cats := cats16, running := some (dru 1) }), 14, by decide +kernel⟩,
   ⟨dmp (fun d => { d with cats := cats16, running := some (dru 1) }), 15, dru 1, by decide +kernel⟩,
   ⟨chg (dmp (fun d => { d with running := some (dru 1) }) [(rDmHoldMax, 1), (0x4024, 1)]) (fun c => updPart { c with time := { c.time with epoch := false } } 0 (fun p => { p with heldAt := some 6000 })),
       0, 6000, 7250, by unfold Ahead; decide +kernel⟩⟩

/-- States and operands that meet the hypotheses of each clause of `EventsAreRecordedAndDelivered`. -/
theorem test_hyps_EventsAreRecordedAndDelivered :
    (∃ (s : State) (e : EvCause) (n : Nat) (k : Nat), regsServed s.ctl = true ∧ firstCause s.ctl.ev.causes = some e ∧ n = smGet (if
        s.ctl.ev.window = stormWindow s.ctl then s.ctl.ev.entered else {}) 0 e.code ∧ (2 ≤ e.sev ∨ fld s.ctl rEvCtrl 7 0 = 0 ∨ n < fld
        s.ctl rEvCtrl 7 0) ∧ s.ctl.ev.seq < s.ctl.ev.taken + 256 ∧ k = rEvCnt (min e.sev 4)) ∧
    (∃ (s : State) (e : EvCause), regsServed s.ctl = true ∧ firstCause s.ctl.ev.causes = some e ∧ 2 ≤ e.sev ∧ s.ctl.ev.seq =
        s.ctl.ev.taken + 256) ∧
    (∃ (s : State) (e : EvCause), regsServed s.ctl = true ∧ firstCause s.ctl.ev.causes = some e ∧ e.sev ≤ 1 ∧ fld s.ctl rEvCtrl 7 0 ≠ 0 ∧
        s.ctl.ev.window = stormWindow s.ctl ∧ fld s.ctl rEvCtrl 7 0 ≤ smGet s.ctl.ev.entered 0 e.code) ∧
    (∃ (s : State), regsServed s.ctl = false) ∧
    (∃ (s : State) (r : EvRec) (h : Nat), regsServed s.ctl = true ∧ s.ctl.ev.vfTodo = [] ∧ monRuns s.ctl = true ∧ s.ctl.db.coreHalted =
        false ∧ s.ctl.ev.taken < s.ctl.ev.seq ∧ s.ctl.ev.lost = 0 ∧ ringOk s.ctl 0 4 = true ∧ ringFree s.ctl 0 4 ≠ 0 ∧ r = smGet
        s.ctl.ev.buf {} (s.ctl.ev.taken % 256) ∧ h = ((ring s.ctl 0 4).head + 1) % ringSize s.ctl 0 4) ∧
    (∃ (s : State), regsServed s.ctl = true ∧ s.ctl.ev.vfTodo = [] ∧ monRuns s.ctl = true ∧ s.ctl.db.coreHalted = false ∧ s.ctl.ev.taken <
        s.ctl.ev.seq ∧ s.ctl.ev.lost = 0 ∧ ringOk s.ctl 0 4 = true ∧ ringFree s.ctl 0 4 = 0) ∧
    (∃ (s : State) (r : EvRec) (rest : List EvRec), regsServed s.ctl = true ∧ s.ctl.ev.vfTodo = r :: rest ∧ (ringIs s.ctl (r.part + 1) 4 =
        false ∨ ringOk s.ctl (r.part + 1) 4 = false)) ∧
    (∃ (s : State), regsServed s.ctl = true ∧ s.ctl.ev.vfTodo = [] ∧ (monRuns s.ctl = false ∨ s.ctl.db.coreHalted = true ∨ s.ctl.ev.seq ≤
        s.ctl.ev.taken)) :=
  ⟨⟨evs (fun e => { e with causes := [ca 0x1001 0, ca 0x0003 1], seq := 255, suppressed := ⟨[(3, 7)]⟩ }) [(rEvCtrl, 1)], ca 0x0003 1, _, _,
       by decide +kernel, by decide +kernel, rfl, by decide +kernel, by decide +kernel, rfl⟩,
   ⟨evs (fun e => { e with causes := [ca 0x8005 3], seq := 256 }), ca 0x8005 3, by decide +kernel⟩,
   ⟨chg (evs (fun e => { e with causes := [ca 0x3081 0], entered := ⟨[(0x3081, 1)]⟩ }) [(rEvCtrl, 1)]) (fun c =>
           { c with ev := { c.ev with window := stormWindow c } }),
       ca 0x3081 0, by decide +kernel⟩,
   ⟨chg up (fun c => { c with pwr := { c.pwr with chip := true } }), by decide +kernel⟩,
   ⟨chg (evs (fun e => { e with seq := 300, taken := 299, buf := ⟨[(43, lg 299)]⟩ }) [(ringCtrl 0 4, 2 ^ 29 + 2 ^ 26), (ringStat 0 4, 1)]) (fun c => updRing c 0 4 (fun x => { x with head := 15, tail := 15 })),
       _, _, by decide +kernel, by decide +kernel, by decide +kernel, by decide +kernel, by decide +kernel, by decide +kernel,
       by decide +kernel, by decide +kernel, rfl, rfl⟩,
   ⟨chg (evs (fun e => { e with seq := 300, taken := 299 }) [(ringCtrl 0 4, 2 ^ 29 + 2 ^ 26), (ringStat 0 4, 1)]) (fun c => updRing c 0 4 (fun x => { x with head := 15, tail := 0 })),
       by decide +kernel⟩,
   ⟨evs (fun e => { e with vfTodo := [lg 4, lg 5] }), lg 4, [lg 5], by decide +kernel⟩,
   ⟨evs (fun e => e), by decide +kernel⟩⟩

/-- States and operands that meet the hypotheses of each clause of `PowerStatesAndResets`. -/
theorem test_hyps_PowerStatesAndResets :
    (∃ (s : State) (i : Instr) (st : Nat), powerRow i = some st ∧ regsServed s.ctl = true ∧ fld s.ctl rPwrCtrl 1 0 ≠ st ∧ refuseCode s.ctl
        st ≠ 0) ∧
    (∃ (s : State) (i : Instr) (st : Nat), powerRow i = some st ∧ (fld s.ctl rPwrCtrl 1 0 = st ∨ regsServed s.ctl = false)) ∧
    (∃ (s : State) (i : Instr) (st : Nat), powerRow i = some st ∧ regsServed s.ctl = true ∧ fld s.ctl rPwrCtrl 1 0 ≠ st ∧ refuseCode s.ctl
        st = 0 ∧ s.ctl.time.epoch = true) ∧
    (∃ (s : State), regsServed s.ctl = true ∧ fld s.ctl rPwrCtrl 1 0 ≠ 1 ∧ refuseCode s.ctl 1 = 0 ∧ s.ctl.time.epoch = false) ∧
    (∃ (s : State), regsServed s.ctl = true ∧ fld s.ctl rPwrCtrl 1 0 ≠ 2 ∧ refuseCode s.ctl 2 = 0 ∧ s.ctl.time.epoch = false) ∧
    (∃ (s : State), regsServed s.ctl = true ∧ fld s.ctl rPwrCtrl 1 0 ≠ 3 ∧ refuseCode s.ctl 3 = 0 ∧ s.ctl.time.epoch = false) ∧
    (∃ (s : State), regsServed s.ctl = true ∧ fld s.ctl rPwrCtrl 1 0 ≠ 0 ∧ refuseCode s.ctl 0 = 0 ∧ s.ctl.time.epoch = false ∧ pwrState
        s.ctl ≠ 1) ∧
    (∃ (s : State) (st : Nat) (a : Nat), regsServed s.ctl = true ∧ s.ctl.pwr.next = some (st, a, true) ∧ st ≤ 3) ∧
    (∃ (s : State), s.ctl.pwr.next = none) ∧
    (∃ (s : State), s.ctl.pwr.save = none) ∧
    (∃ (s : State) (v : SaveSt), s.ctl.pwr.save = some v) ∧
    (∃ (s : State), s.ctl.pwr.chip = true) ∧
    (∃ (v : Nat), v ≠ 0xC1) ∧
    (∃ (s : State) (i : Instr) (hw : Bool), ((i = .chipReset ∧ hw = true) ∨ (i = .pwrRst 0xC1 ∧ hw = false)) ∧ s.ctl.pwr.chip = false ∧
        s.ctl.pwr.save = none) ∧
    (∃ (s : State) (src : Nat), LastSource s.ctl src) ∧
    (∃ (s : State), s.ctl.pwr.chip = true ∧ s.ctl.pwr.byReg = true) ∧
    (∃ (s : State), s.ctl.pwr.train = true ∧ rootLock s.ctl = true ∧ regsServed s.ctl = true) ∧
    (∃ (s : State), s.ctl.pwr.perst = true ∧ s.ctl.pwr.chip = false) ∧
    (∃ (s : State) (kind : Nat) (idx : Nat) (lo : Nat) (n : Nat), regsServed s.ctl = true ∧ s.ctl.ev.contained = false ∧ ((kind = 0 ∧ idx
        < 16 ∧ lo = hgBase idx ∧ n = 8) ∨ (kind = 1 ∧ idx < 32 ∧ lo = lkBase idx ∧ n = 0x100) ∨ (kind = 2 ∧ idx = 0 ∧ lo = 0x40000 ∧ n =
        0x20000) ∨ (kind = 4 ∧ idx < 16 ∧ lo = pmCtrl idx ∧ n = 0x20))) ∧
    (∃ (s : State) (kind : Nat) (idx : Nat) (b : Blk), regsServed s.ctl = true ∧ s.ctl.ev.contained = true ∧ blkOf kind idx = some b) ∧
    (∃ (s : State), regsServed s.ctl = false) :=
  ⟨⟨chg (up [(rPwrStat, 8)]) id, .requestS2, 2, by decide +kernel⟩,
   ⟨up, .requestS0, 0, by decide +kernel⟩,
   ⟨ep, .requestS1, 1, by decide +kernel⟩,
   ⟨up [(rPwrCtrl, 0x500)], by decide +kernel⟩,
   ⟨up [(rPwrCtrl, 0x810000)], by decide +kernel⟩,
   ⟨up, by decide +kernel⟩,
   ⟨up [(rPwrCtrl, 2), (rPwrStat, 2)], by decide +kernel⟩,
   ⟨pw (fun p => { p with next := some (3, 5, true), sref := 255 }) (up [(rPwrStat, 8)]), 3, 5, by decide +kernel⟩,
   ⟨up, by decide +kernel⟩,
   ⟨up, by decide +kernel⟩,
   ⟨pw (fun p => { p with save := some sav }), sav, by decide +kernel⟩,
   ⟨pw (fun p => { p with chip := true }), by decide +kernel⟩,
   ⟨0xC0, by decide +kernel⟩,
   ⟨tl id [(ptStat 0, 0x42), (0x60000, 7), (0x91000, 9), (0xA0010, 8)], .chipReset, true, by decide +kernel⟩,
   ⟨pw (fun p => { p with chip := true, byReg := true }), 1, by unfold LastSource; decide +kernel⟩,
   ⟨pw (fun p => { p with chip := true, byReg := true, wrst := true }), by decide +kernel⟩,
   ⟨pw (fun p => { p with train := true }), by decide +kernel⟩,
   ⟨pw (fun p => { p with perst := true }) (rg (fun x => { x with head := 3, tail := 2, fetched := [ent 0] })), by decide +kernel⟩,
   ⟨pw id (ep (hgOn 15 63)), 0, 15, hgBase 15, 8, by decide +kernel⟩,
   ⟨chg up (fun c => { c with ev := { c.ev with contained := true } }), 0, 15, .hg 15, by decide +kernel⟩,
   ⟨State.reset, by decide +kernel⟩⟩

/-- States and operands that meet the hypotheses of each clause of `SavesSensorsAndSmbus`. -/
theorem test_hyps_SavesSensorsAndSmbus :
    (∃ (s : State) (i : Nat), i ≤ 11 ∧ s.ctl.pwr.por = false ∧ rbit s.ctl rPwrStat 8 = false ∧ s.ctl.pwr.save = none ∧ s.ctl.staged = [] ∧
        s.ctl.plan.loader.stage = .idle ∧ mstate s.ctl = 0) ∧
    (∃ (s : State) (i : Nat), i < 7 ∧ s.ctl.pwr.por = false ∧ rbit s.ctl rPwrStat 8 = false ∧ s.ctl.pwr.save = none ∧ s.ctl.time.epoch =
        false ∧ moving s.ctl = true) ∧
    (∃ (s : State) (i : Nat), i < 11 ∧ s.ctl.pwr.por = true) ∧
    (∃ (s : State) (result : Nat) (b : Nat) (q : Nat) (v : SaveSt), 1 ≤ result ∧ result ≤ 2 ∧ s.ctl.pwr.save = some v ∧ v.wait = false ∧
        s.ctl.pwr.porWaits = false ∧ ((newestBank s.mem = none ∧ b = 0 ∧ q = 1) ∨ (∃ a, newestBank s.mem = some a ∧ b = 1 - a ∧ q =
        bankSeq s.mem a + 1)) ∧ q < 2 ^ 32) ∧
    (∃ (s : State), s.ctl.pwr.save = none) ∧
    (∃ (s : State), s.ctl.pwr.por = false) ∧
    (∃ (s : State) (temps : List Nat), s.ctl.pwr.por = false ∧ temps.length = 24 ∧ (s.ctl.pwr.tripped = 0 ∨ rbit s.ctl rPwrStat 11 =
        true)) ∧
    (∃ (s : State) (temps : List Nat) (i : Nat), s.ctl.pwr.por = false ∧ temps.length = 24 ∧ i < 24 ∧ rbit s.ctl rPwrStat 11 = false ∧
        bitN s.ctl.pwr.tripped i = true ∧ ((fld s.ctl rPwrTherm 23 16 * 16 : Nat) : Int) ≤ sx 16 (temps.getD i 0) ∧ s.ctl.time.epoch =
        false ∧ s.ctl.plan.loader.stage = .idle) ∧
    (∃ (s : State), s.ctl.pwr.por = true) ∧
    (∃ (i : Nat), i < 24) ∧
    (∃ (i : Nat), i ≤ 10) ∧
    (∃ (s : State), s.ctl.pwr.alert = true ∧ chainHeld s.ctl = false) :=
  ⟨⟨ep, 11, by decide +kernel⟩,
   ⟨cen 2, 6, by decide +kernel⟩,
   ⟨pw (fun p => { p with chip := true, por := true }), 10, by decide +kernel⟩,
   ⟨pw (fun p => { p with save := some sav }) (up [(rKsStat, 0x80)]), 2, 0, 1, sav, by decide +kernel⟩,
   ⟨up, by decide +kernel⟩,
   ⟨up, by decide +kernel⟩,
   ⟨up, List.replicate 23 0x140 ++ [0x6F0], by decide +kernel⟩,
   ⟨pw (fun p => { p with tripped := 2 ^ 23 }), List.replicate 23 0x140 ++ [0x6F0], 23, by decide +kernel⟩,
   ⟨pw (fun p => { p with chip := true, por := true }), by decide +kernel⟩,
   ⟨23, by decide +kernel⟩,
   ⟨10, by decide +kernel⟩,
   ⟨pw (fun p => { p with alert := true }), by decide +kernel⟩⟩

end Sys2Proof.Tests
end

section
/-! SUPPORT. One bundle whose only operation stands in the vector slot, at a tile that is ready for it: nothing keeps it from issuing, and
the tile becomes what the vector slot writes (R251, R260, R273). -/
namespace Sys2Proof.Machine
open Sys2Proof.Safety

variable {s : State} {c : Ctl} {m : Mem} {t : Nat} {b : Slots} {v : VOp}

/-! What keeps a bundle from issuing. -/
/-- No breakpoint and no watchpoint of the tile is enabled. -/
def DebugOff (c : Ctl) (t : Nat) : Prop :=
  (∀ k, k < 4 → rbit c (dbtBp t k) 31 = false) ∧ (∀ k, k < 2 → rbit c (dbtWp t k) 31 = false)

theorem foldUp_succ {σ : Type} (n : Nat) (f : σ → Nat → σ) (a : σ) : foldUp (n + 1) f a = f (foldUp n f a) n := by
  simp [foldUp, List.range_succ]

theorem foldUp_fixed {σ : Type} {f : σ → Nat → σ} {a : σ} {n : Nat} (hf : ∀ i, i < n → f a i = a) : foldUp n f a = a := by
  induction n with
  | zero => rfl
  | succ n ih => rw [foldUp_succ, ih fun i hi => hf i (by omega), hf n (by omega)]

theorem bpHit_off {k a : Nat} (h : rbit c (dbtBp t k) 31 = false) : bpHit c t k a = false := by
  have h' : bitN (rd c (dbtBp t k)) 31 = false := h
  simp [bpHit, h']

theorem wpHit_off {k : Nat} {x : Tile} {o : MOp} (h : rbit c (dbtWp t k) 31 = false) : wpHit c t k x o = false := by
  have h' : bitN (rd c (dbtWp t k)) 31 = false := h
  simp [wpHit, h']

theorem noteMatches_off (h : DebugOff c t) : noteMatches c t b = c := by
  obtain ⟨hb, hw⟩ := h
  simp only [noteMatches]
  rw [foldUp_fixed (n := 4), foldUp_fixed (n := 2)]
  · exact fun k hk => by simp [wpHit_off (hw k hk)]
  · exact fun k hk => by simp [bpHit_off (hb k hk)]

theorem breakNow_off (h : DebugOff c t) : breakNow c t = false := by
  simp only [breakNow, List.any_eq_false, List.mem_range]
  intro k hk
  simp [bpActs, bpHit_off (h.1 k hk)]

theorem watchNow_off (h : DebugOff c t) (o : MOp) : watchNow c t o = false := by
  simp only [watchNow, List.any_eq_false, List.mem_range]
  intro k hk
  simp [wpHit_off (h.2 k hk)]

/-- The tile knows that its next bundle is judged (R260, R958). -/
def markJudged (x : Tile) : Tile := { x with judged := max x.judged 1 }
/-- The control state once the next bundle of tile `t` is judged. -/
def judgedOnce (c : Ctl) (t : Nat) : Ctl := updTile c t fun x => { x with judged := max x.judged 1 }

/-- Where no breakpoint and no watchpoint is enabled, judging leaves only its note in the tile. -/
theorem judge_off (h : DebugOff c t) (bad : Bool) :
    judge c t b bad false false = (judgedOnce c t, causeOf (judgedOnce c t) bad t b false false) := by
  have e : ∀ d, earlyRegs d [] = d := fun _ => rfl
  have l : ∀ d, lateRegs d [] = d := fun _ => rfl
  simp [judge, e, l, noteMatches_off h, breakNow_off h, judgedOnce]

theorem stallDep_written (h : ∀ e, e ∈ (tile c t).score → e.2 ≤ c.time.ftc) : stallDep c t b = false := by
  simp only [stallDep, List.any_eq_false]
  intro e he
  simp [h e he]

/-- The bundle at the pc of a ready tile is held or fetched with a sound code, and fetching it changes nothing. -/
theorem fetched_ready (h : TileReady s t) :
    (fetched (s.ctl, s.mem) t (tile s.ctl t).pc).1 = (s.ctl, s.mem) ∧ (fetched (s.ctl, s.mem) t (tile s.ctl t).pc).2.bad = false := by
  obtain ⟨-, -, -, hbad, hweak, hheld, -⟩ := h
  unfold fetched
  split
  case h_1 f hf => exact ⟨rfl, hheld f (List.mem_of_find?_eq_some hf)⟩
  case h_2 => simp [fetch, hbad, hweak]

/-! The vector slot alone. -/
/-- No cause is found in a listed vector operation that stands alone (R297). -/
theorem causeOf_vector (hv : illegalV v = false) (hd : (tile c t).delay = none) (ho : DebugOff c t) :
    causeOf c false t { v := v } false false = none := by
  simp [causeOf, illegalSlot, destConflict, destC, destM, destX, illegalC, illegalM, illegalX, hv, hd, badLoop, badLoopEnd, isBranch,
    badAddr, accessOf, watchNow_off ho, cALU, cADDI, cORI, cLUI, cJR, cBAL, cCSRR, cCSRW, cBR, cLOOP, cSETMODE, cWAITP, cACLR, cTRAP]

/-- A vector operation that stands alone at a ready tile issues. -/
theorem issueCmd_issues (h : TileReady s t) (hd : (tile s.ctl t).delay = none) (hv : illegalV v = false) :
    issueCmd t { v := v } s = onAll (fun _ => issueBundle (judgedOnce s.ctl t, s.mem) t { v := v } false false) s := by
  obtain ⟨hcm, hbad⟩ := fetched_ready h
  obtain ⟨hi, hb, hw, -, -, -, hs, hrx, -⟩ := h
  have ho : DebugOff s.ctl t := ⟨hb, hw⟩
  have ho' : DebugOff (judgedOnce s.ctl t) t := ho
  have hd' : (tile (judgedOnce s.ctl t) t).delay = none := by simpa [judgedOnce] using hd
  simp only [issueCmd, onAll, hi, if_true, hcm, hbad]
  simp [attempt, stallDep_written hs, judge_off ho, causeOf_vector hv hd' ho', stallBank, stallWait, eccCause, isLoad, accessOf, cWAITA,
    cWAITT]

/-! What the vector slot writes. -/
/-- `y` is `x` but for what a vector slot writes: vector registers, masks, wide accumulators and flags. -/
def OnlyVector (x y : Tile) : Prop := { y with v := x.v, k := x.k, wv := x.wv, ws := x.ws, sticky := x.sticky } = x

theorem onlyVector_refl (x : Tile) : OnlyVector x x := rfl
theorem onlyVector_wrV {x y : Tile} (h : OnlyVector x y) (n : Nat) (r : VecReg) : OnlyVector x (wrV y n r) := h
theorem onlyVector_wrW {x y : Tile} (h : OnlyVector x y) (w i : Nat) (a : BitVec 256) (st : Nat) : OnlyVector x (wrW y w i a st) := h
theorem onlyVector_addVFlags {x y : Tile} (h : OnlyVector x y) (f : Nat) : OnlyVector x (addVFlags y f) := h
theorem onlyVector_wrK {x y : Tile} (h : OnlyVector x y) (n r : Nat) : OnlyVector x (wrK y n r) := by
  unfold wrK
  split
  · exact h
  · exact h

theorem writesV_onlyVector (mode key n : Nat) (o : VOp) (x y : Tile) : OnlyVector y (writesV mode key n o x y) := by
  have hy := onlyVector_refl y
  unfold writesV
  dsimp only
  split
  · exact hy
  · exact onlyVector_addVFlags (onlyVector_wrK hy ..) _
  · exact onlyVector_wrV hy ..
  · exact onlyVector_wrV hy ..
  · refine foldUp_keeps (P := OnlyVector y) (fun z i hz => ?_) _ _ hy
    split
    · split
      · exact onlyVector_addVFlags (onlyVector_wrW hz ..) _
      · exact hz
    · exact hz
  · exact onlyVector_addVFlags (onlyVector_wrW (foldUp_keeps (P := OnlyVector y) (fun z i hz => onlyVector_wrW hz ..) _ _ hy) ..) _
  · refine foldUp_keeps (P := OnlyVector y) (fun z i hz => ?_) _ _ hy
    split
    · exact onlyVector_wrW hz ..
    · exact hz
  · split
    · exact onlyVector_wrV hy ..
    · exact onlyVector_addVFlags (onlyVector_wrV hy ..) _
  · exact onlyVector_addVFlags (onlyVector_wrV hy ..) _

/-- The tile after its vector slot's writes: the flags they raise join those that stand in STICKY (R336). -/
def joinFlags (f y : Tile) : Tile := { y with sticky := f.sticky ||| y.sticky }
/-- The tile whose registers a vector slot writes, with no flag of the bundle yet. -/
def flagless (f : Tile) : Tile := { f with sticky := 0 }
/-- What a vector operation that stands alone makes of a tile `f`, before the next address. -/
def afterVector (key : Nat) (v : VOp) (f : Tile) : Tile := joinFlags f (writesV f.mode key f.issued v f (flagless f))

theorem onlyVector_joinFlags {f y : Tile} (h : OnlyVector (flagless f) y) : OnlyVector f (joinFlags f y) := by
  rw [OnlyVector] at h
  exact congrArg (fun z : Tile => { z with sticky := f.sticky }) h

theorem afterVector_onlyVector (key : Nat) (v : VOp) (f : Tile) : OnlyVector f (afterVector key v f) :=
  onlyVector_joinFlags (writesV_onlyVector f.mode key f.issued v f (flagless f))

/-! The issue. -/
@[simp] theorem tile_judgedOnce (c : Ctl) (t : Nat) : tile (judgedOnce c t) t = markJudged (tile c t) := tile_updTile_same ..

theorem found_judgedOnce (c : Ctl) (t : Nat) : found (judgedOnce c t) t = markJudged (found c t) := by
  rw [found, tile_judgedOnce]
  rfl

theorem tileKey_judgedOnce (c : Ctl) (t : Nat) : tileKey (judgedOnce c t) t = tileKey c t := by
  unfold tileKey
  rw [tile_judgedOnce]
  rfl

theorem writesC_nop (x y : Tile) : writesC c t {} x y = y := rfl
theorem writesM_nop (x y : Tile) : writesM m t {} x y = y := rfl
theorem writesX_nop (mode key n : Nat) (x y : Tile) : writesX mode key n {} x y = y := rfl

/-- A vector operation that stands alone writes its registers, and then the sequencer takes its step. -/
theorem issueTile_vector :
    issueTile c m t { v := v } false = sequence c.time.ftc {} (found c t) (afterVector (tileKey c t) v (found c t)) := by
  have hj : ∀ f y : Tile, joinFlags f y = { y with sticky := f.sticky ||| y.sticky ||| 0 } := fun f y => by
    rw [Nat.or_zero, joinFlags]
  simp only [issueTile, writesC_nop, writesM_nop, writesX_nop, afterVector, hj]
  rfl

/-- The sequencer goes on to the next bundle where no branch, no mode change and no loop is under way (R279, R283, R289). -/
theorem sequence_straight {x y : Tile} (hst : Straight x) (h : OnlyVector x y) (ftc : Nat) :
    sequence ftc {} x y = { onward x y with held := x.held } := by
  obtain ⟨hd, hmn, ha0, ha1⟩ := hst
  have hl : loopStep x.l0 x.l1 x.pc = (x.l0, x.l1, (x.pc + 1) % 4096) := by simp [loopStep, ha0, ha1]
  rw [OnlyVector] at h
  have hy : y = { x with v := y.v, k := y.k, wv := y.wv, ws := y.ws, sticky := y.sticky } := by rw [← h]
  rw [hy]
  simp [sequence, hd, hmn, hl, isBranch, onward, cBR, cJR, cBAL, cLOOP, cWAITP, cSETMODE]

theorem discards_straight {x : Tile} (hst : Straight x) : discards {} x = false := by
  obtain ⟨hd, -⟩ := hst
  simp [discards, hd, cWAITP, cLOOP]

theorem traceFlow_straight {x y : Tile} (hst : Straight x) : traceFlow c t {} x y = c := by
  obtain ⟨-, -, h0, h1⟩ := hst
  simp [traceFlow, isBranch, h0, h1, cBR, cJR, cBAL, cWAITP]

/-- A vector operation that stands alone at a tile that goes straight on: the tile is stored with its registers written, nothing stays held,
and ISSUED counts (R303). -/
theorem issueBundle_vector (hst : Straight (tile c t)) :
    issueBundle (c, m) t { v := v } false false =
      (cnt1 (putTile c t (onward (found c t) (afterVector (tileKey c t) v (found c t)))) (tlCnt t 0), m) := by
  have hf : Straight (found c t) := hst
  have hi := (issueTile_vector (m := m) (v := v)).trans (sequence_straight hf (afterVector_onlyVector (tileKey c t) v _) _)
  simp only [issueBundle, hi, discards_straight hst, traceFlow_straight hst]
  rfl

theorem tlCnt_ne (t : Nat) : tlCnt t 4 ≠ tlCnt t 0 := by simp [tlCnt]

theorem satU_rd (c : Ctl) (o : Nat) : satU 32 (rd c o + 0) = rd c o := by
  have h := rd_lt c o
  simp only [satU, Nat.add_zero]
  rw [if_neg (by omega)]

theorem onward_markJudged (x y : Tile) : onward (markJudged x) y = onward x y := rfl

/-- A judged tile that is stored as `y`, with ISSUED counted, has issued one bundle and lost none. -/
theorem issued_of_stored (c : Ctl) (t : Nat) (y : Tile) : Issued c (cnt1 (putTile (judgedOnce c t) t y) (tlCnt t 0)) t y 0 := by
  have hr : ∀ o, rd (putTile (judgedOnce c t) t y) o = rd c o := fun _ => rfl
  refine ⟨tile_putTile_same .., fun u hu => ?_, ?_, ?_, ?_, ?_⟩
  · exact (tile_putTile_ne hu ..).trans (tile_updTile_ne hu ..)
  · rw [rd_cnt1_same, hr]
  · rw [rd_cnt1_ne (tlCnt_ne t), hr, satU_rd]
  · exact regsBut_cnt1 (d := putTile (judgedOnce c t) t y) (regsBut_of_regs rfl) (List.mem_cons_self ..)
  · simp [judgedOnce]

/-- What tile `t` becomes, before the next address, when a vector operation that stands alone issues in it. -/
def vectorDone (c : Ctl) (t : Nat) (v : VOp) : Tile := afterVector (tileKey c t) v (markJudged (found c t))

/-- A vector operation that stands alone, with an encoding that is listed, issues at a ready tile and makes of it what the vector slot
writes (R251, R260, R273, R336). -/
theorem issueCmd_vector (h : TileReady s t) (hst : Straight (tile s.ctl t)) (hv : illegalV v = false) :
    ∃ c, issueCmd t { v := v } s = .next { s with ctl := settled c } ∧
      Issued s.ctl c t (onward (found s.ctl t) (vectorDone s.ctl t v)) 0 := by
  have hs : Straight (tile (judgedOnce s.ctl t) t) := by rw [tile_judgedOnce]; exact hst
  rw [issueCmd_issues h hst.1 hv, onAll_next, issueBundle_vector hs, found_judgedOnce, tileKey_judgedOnce, onward_markJudged]
  exact ⟨_, rfl, issued_of_stored ..⟩

end Sys2Proof.Machine
end

section
/-! SUPPORT. The lanes of vectors and wide accumulators, and what WACC, WFOLD, WCLR and WRD write (R249, R337 to R343). -/
namespace Sys2Proof.Machine
open Sys2Proof.Safety

variable {s : State} {c : Ctl} {t : Nat} {v : VOp}

/-! Lanes of a vector. -/
theorem packLanes_lt (l : List Nat) : packLanes l < 2 ^ (32 * l.length) := by
  induction l with
  | nil => simp [packLanes]
  | cons a l ih =>
    have e : 2 ^ (32 * (a :: l).length) = 2 ^ 32 * 2 ^ (32 * l.length) := by
      rw [List.length_cons, ← pow_add]
      congr 1
      omega
    rw [packLanes, e]
    generalize 2 ^ (32 * l.length) = b at ih
    omega

theorem bits_packLanes (l : List Nat) (i : Nat) : bits (packLanes l) (32 * i + 31) (32 * i) = l.getD i 0 % 2 ^ 32 := by
  have hw : ∀ i, 32 * i + 31 + 1 - 32 * i = 32 := fun i => by omega
  simp only [bits, hw]
  induction l generalizing i with
  | nil => simp [packLanes]
  | cons a l ih =>
    cases i with
    | zero => simp only [packLanes, Nat.mul_zero, Nat.shiftRight_zero, List.getD_cons_zero]; omega
    | succ i =>
      have hs : packLanes (a :: l) >>> 32 = packLanes l := by
        rw [packLanes, Nat.shiftRight_eq_div_pow]
        omega
      rw [show 32 * (i + 1) = 32 + 32 * i by omega, Nat.shiftRight_add, hs, ih, List.getD_cons_succ]

theorem toNat_ofNat_packLanes {n : Nat} {l : List Nat} (hn : n = 32 * l.length) :
    (BitVec.ofNat n (packLanes l)).toNat = packLanes l := by
  subst hn
  rw [BitVec.toNat_ofNat, Nat.mod_eq_of_lt (packLanes_lt l)]

theorem lane_vecOf (f : Nat → Nat) {i : Nat} (hi : i < 64) : lane (vecOf f) i = f i % 2 ^ 32 := by
  rw [lane, vecOf, toNat_ofNat_packLanes (by simp), bits_packLanes, List.getD_eq_getElem _ _ (by simpa using hi)]
  simp

theorem lane_lt (v : VecReg) (i : Nat) : lane v i < 2 ^ 32 := by
  have hw : 32 * i + 31 + 1 - 32 * i = 32 := by omega
  rw [lane, bits, hw]
  exact Nat.mod_lt _ (by decide)

/-! Lanes of the wide accumulators. -/
@[simp] theorem rdW_wrW_same (y : Tile) (w i : Nat) (a : BitVec 256) (st : Nat) : rdW (wrW y w i a st) w i = (a, st) := by
  simp [rdW, wrW]

theorem rdW_wrW_ne {w i u j : Nat} (hi : i < 64) (hj : j < 64) (h : u ≠ w ∨ j ≠ i) (y : Tile) (a : BitVec 256) (st : Nat) :
    rdW (wrW y w i a st) u j = rdW y u j := by
  have hne : 64 * u + j ≠ 64 * w + i := by omega
  simp [rdW, wrW, smGet_smSet_ne hne]

@[simp] theorem rdW_addVFlags (y : Tile) (f u j : Nat) : rdW (addVFlags y f) u j = rdW y u j := rfl

/-- Work that goes lane by lane through one accumulator: each step writes its own lane only, from what that lane held at the start. -/
theorem rdW_foldUp {w : Nat} {g : Tile → Nat → Tile} {r : Nat → BitVec 256 × Nat} {y : Tile}
    (hsame : ∀ z i, rdW z w i = rdW y w i → rdW (g z i) w i = r i)
    (hother : ∀ z i u j, i < 64 → j < 64 → u ≠ w ∨ j ≠ i → rdW (g z i) u j = rdW z u j)
    {n : Nat} (hn : n ≤ 64) (u : Nat) {j : Nat} (hj : j < 64) :
    rdW (foldUp n g y) u j = if u = w ∧ j < n then r j else rdW y u j := by
  induction n generalizing u j with
  | zero => simp [foldUp]
  | succ n ih =>
    rw [foldUp_succ]
    by_cases h : u = w ∧ j = n
    · obtain ⟨rfl, rfl⟩ := h
      rw [hsame _ _ (by simp [ih (by omega) u hj]), if_pos ⟨rfl, by omega⟩]
    · rw [hother _ _ _ _ (by omega) hj (by tauto), ih (by omega) u hj]
      exact if_congr (by omega) rfl rfl

/-! The operations as vector slots. -/
/-- WACC's vector slot. -/
def waccOp (w va km ty fn : Nat) : VOp := { op := 0x0D, vd := w, va := va, km := km, t := ty, fn := fn }
/-- WFOLD's vector slot. -/
def wfoldOp (w : Nat) : VOp := { op := 0x0E, vd := w }
/-- WRD's vector slot. -/
def wrdOp (vd w km ty fn : Nat) : VOp := { op := 0x0F, vd := vd, va := w, km := km, t := ty, fn := fn }
/-- WCLR's vector slot. -/
def wclrOp (w km : Nat) : VOp := { op := 0x10, vd := w, km := km }

theorem exec_wacc (w va km ty fn : Nat) : exec (.wacc t w va km ty fn) s = issueCmd t { v := waccOp w va km ty fn } s := rfl
theorem exec_wfold (w : Nat) : exec (.wfold t w) s = issueCmd t { v := wfoldOp w } s := rfl
theorem exec_wrd (vd w km ty fn : Nat) : exec (.wrd t vd w km ty fn) s = issueCmd t { v := wrdOp vd w km ty fn } s := rfl
theorem exec_wclr (w km : Nat) : exec (.wclr t w km) s = issueCmd t { v := wclrOp w km } s := rfl

theorem illegalV_wacc {w va km ty fn : Nat} (hw : w < 4) (ht : ty ≤ 1) (hl : waccListed ty fn = true) :
    illegalV (waccOp w va km ty fn) = false := by
  have hb : bits w 4 2 = 0 := by rw [bits, Nat.shiftRight_eq_div_pow]; omega
  simp [waccOp, illegalV, hb, hl, ht]

theorem illegalV_wrd {vd w km ty fn : Nat} (ht : ty ≤ 1) (hl : waccListed ty fn = true) : illegalV (wrdOp vd w km ty fn) = false := by
  simp [wrdOp, illegalV, hl, ht]

theorem illegalV_wfold (w : Nat) : illegalV (wfoldOp w) = false := rfl
theorem illegalV_wclr (w km : Nat) : illegalV (wclrOp w km) = false := rfl

/-! Lane by lane. -/
/-- WACC in one lane: the lane that KM selects takes the term (R338 to R341). -/
def waccStep (x : Tile) (w va km ty fn : Nat) (y : Tile) (i : Nat) : Tile :=
  if bitN (rdK x km) i then
    (waccLane ty fn (rdW x w i).1 (rdW x w i).2 (lane (rdV x va) i)).elim y fun r => addVFlags (wrW y w i r.1 r.2.1) r.2.2
  else y
/-- WCLR in one lane (R273). -/
def wclrStep (x : Tile) (w km : Nat) (y : Tile) (i : Nat) : Tile := if bitN (rdK x km) i then wrW y w i 0 0 else y
/-- A lane becomes 0 with its status. -/
def wzeroStep (w : Nat) (y : Tile) (i : Nat) : Tile := wrW y w i 0 0
/-- The exact sum of the lanes of an accumulator (R343). -/
def wideSum (x : Tile) (w : Nat) : Int := (List.range 64).foldl (fun n i => n + wInt (rdW x w i).1) 0
/-- The status of the lanes of an accumulator, together (R343). -/
def wideStatus (x : Tile) (w : Nat) : Nat := (List.range 64).foldl (fun n i => n ||| (rdW x w i).2) 0

theorem writesV_wacc (mode key n w va km ty fn : Nat) (x y : Tile) :
    writesV mode key n (waccOp w va km ty fn) x y = foldUp 64 (waccStep x (w % 4) va km ty fn) y := by
  refine congrArg (fun g => foldUp 64 g y) (funext fun z => funext fun i => ?_)
  simp only [waccStep, waccOp]
  cases waccLane ty fn (rdW x (w % 4) i).1 (rdW x (w % 4) i).2 (lane (rdV x va) i) <;> rfl

theorem writesV_wfold (mode key n w : Nat) (x y : Tile) :
    writesV mode key n (wfoldOp w) x y =
      addVFlags (wrW (foldUp 64 (wzeroStep (w % 4)) y) (w % 4) 0 (wPut (wideSum x (w % 4))).1 (wideStatus x (w % 4)))
        (wPut (wideSum x (w % 4))).2 := by
  unfold writesV wideSum wideStatus wzeroStep
  rfl

theorem writesV_wclr (mode key n w km : Nat) (x y : Tile) :
    writesV mode key n (wclrOp w km) x y = foldUp 64 (wclrStep x (w % 4) km) y := rfl

/-- What WRD reads from one lane: the value for VD and its flags (R341, R342). -/
def wrdResult (mode key n : Nat) (x : Tile) (vd w ty fn i : Nat) : Nat × Nat :=
  (wrdLane ty fn (rndOf mode) (satOf mode) (if rndOf mode = 4 then drawOf key n 0 0 i else 0) (rdW x w i).1 (rdW x w i).2).getD
    (lane (rdV x vd) i, 0)

theorem writesV_wrd (mode key n vd w km ty fn : Nat) (x y : Tile) :
    writesV mode key n (wrdOp vd w km ty fn) x y =
      addVFlags (wrV y vd (vecOf fun i =>
          if bitN (rdK x km) i then (wrdResult mode key n x vd (w % 4) ty fn i).1 else lane (rdV x vd) i))
        (orFlags (bitN (rdK x km)) fun i => (wrdResult mode key n x vd (w % 4) ty fn i).2) := rfl

/-! The lanes that each operation leaves. -/
/-- A lane that WACC selects, after it. -/
def waccResult (x : Tile) (w va ty fn i : Nat) : BitVec 256 × Nat :=
  ((waccLane ty fn (rdW x w i).1 (rdW x w i).2 (lane (rdV x va) i)).map fun r => (r.1, r.2.1)).getD (rdW x w i)

theorem rdW_waccSteps {x y : Tile} {w : Nat} (hy : ∀ i, rdW y w i = rdW x w i) (va km ty fn u : Nat) {j : Nat} (hj : j < 64) :
    rdW (foldUp 64 (waccStep x w va km ty fn) y) u j =
      if u = w then (if bitN (rdK x km) j then waccResult x w va ty fn j else rdW x w j) else rdW y u j := by
  rw [rdW_foldUp (w := w) (r := fun i => if bitN (rdK x km) i then waccResult x w va ty fn i else rdW x w i) ?_ ?_ (le_refl 64) u hj]
  · simp [hj]
  · intro z i hz
    simp only [waccStep, waccResult]
    split
    · cases waccLane ty fn (rdW x w i).1 (rdW x w i).2 (lane (rdV x va) i) with
      | none => exact hz.trans (hy i)
      | some r => exact rdW_wrW_same ..
    · exact hz.trans (hy i)
  · intro z i v k hi hk hne
    simp only [waccStep]
    split
    · cases waccLane ty fn (rdW x w i).1 (rdW x w i).2 (lane (rdV x va) i) with
      | none => rfl
      | some r => exact rdW_wrW_ne hi hk hne ..
    · rfl

theorem rdW_wclrSteps {x y : Tile} {w : Nat} (hy : ∀ i, rdW y w i = rdW x w i) (km u : Nat) {j : Nat} (hj : j < 64) :
    rdW (foldUp 64 (wclrStep x w km) y) u j =
      if u = w then (if bitN (rdK x km) j then (0, 0) else rdW x w j) else rdW y u j := by
  rw [rdW_foldUp (w := w) (r := fun i => if bitN (rdK x km) i then (0, 0) else rdW x w i) ?_ ?_ (le_refl 64) u hj]
  · simp [hj]
  · intro z i hz
    simp only [wclrStep]
    split
    · exact rdW_wrW_same ..
    · exact hz.trans (hy i)
  · intro z i v k hi hk hne
    simp only [wclrStep]
    split
    · exact rdW_wrW_ne hi hk hne ..
    · rfl

theorem rdW_wzeroSteps (y : Tile) (w u : Nat) {j : Nat} (hj : j < 64) :
    rdW (foldUp 64 (wzeroStep w) y) u j = if u = w then (0, 0) else rdW y u j := by
  rw [rdW_foldUp (g := wzeroStep w) (w := w) (r := fun _ => (0, 0)) (fun _ _ _ => rdW_wrW_same ..)
    (fun _ _ _ _ hi hk hne => rdW_wrW_ne hi hk hne ..) (le_refl 64) u hj]
  simp [hj]

/-! What they leave alone. -/
/-- `z` has the vector registers and the masks of `y`. -/
def SameVK (y z : Tile) : Prop := z.v = y.v ∧ z.k = y.k

theorem sameVK_wrW {y z : Tile} (h : SameVK y z) (w i : Nat) (a : BitVec 256) (st : Nat) : SameVK y (wrW z w i a st) := h
theorem sameVK_addVFlags {y z : Tile} (h : SameVK y z) (f : Nat) : SameVK y (addVFlags z f) := h

theorem sameVK_waccSteps (x y : Tile) (w va km ty fn : Nat) : SameVK y (foldUp 64 (waccStep x w va km ty fn) y) := by
  refine foldUp_keeps (P := SameVK y) (fun z i hz => ?_) _ _ ⟨rfl, rfl⟩
  unfold waccStep
  split
  · cases waccLane ty fn (rdW x w i).1 (rdW x w i).2 (lane (rdV x va) i) with
    | none => exact hz
    | some r => exact sameVK_addVFlags (sameVK_wrW hz ..) _
  · exact hz

theorem sameVK_wclrSteps (x y : Tile) (w km : Nat) :
    SameVK y (foldUp 64 (wclrStep x w km) y) ∧ (foldUp 64 (wclrStep x w km) y).sticky = y.sticky := by
  refine foldUp_keeps (P := fun z => SameVK y z ∧ z.sticky = y.sticky) (fun z i hz => ?_) _ _ ⟨⟨rfl, rfl⟩, rfl⟩
  unfold wclrStep
  split
  · exact hz
  · exact hz

theorem sameVK_wzeroSteps (y : Tile) (w : Nat) : SameVK y (foldUp 64 (wzeroStep w) y) := by
  refine foldUp_keeps (P := SameVK y) (fun z i hz => ?_) _ _ ⟨rfl, rfl⟩
  exact hz

/-- The tile after an operation that wrote wide accumulators and flags only. -/
theorem onward_wide {f y : Tile} (h : OnlyVector (markJudged f) y) (hs : SameVK f y) :
    onward f y = onward f { f with wv := y.wv, ws := y.ws, sticky := y.sticky } := by
  obtain ⟨hv, hk⟩ := hs
  rw [OnlyVector] at h
  have e : y = { markJudged f with v := y.v, k := y.k, wv := y.wv, ws := y.ws, sticky := y.sticky } := by rw [← h]
  rw [e, hv, hk]
  rfl

/-- A vector operation that leaves vector registers and masks alone issues at a ready tile: what it changes there is wide accumulators and
flags. -/
theorem issueCmd_wide (h : TileReady s t) (hst : Straight (tile s.ctl t)) (hv : illegalV v = false)
    (hs : SameVK (found s.ctl t) (vectorDone s.ctl t v)) :
    ∃ c, issueCmd t { v := v } s = .next { s with ctl := settled c } ∧ Issued s.ctl c t (onward (found s.ctl t) { found s.ctl t with
      wv := (vectorDone s.ctl t v).wv, ws := (vectorDone s.ctl t v).ws, sticky := (vectorDone s.ctl t v).sticky }) 0 := by
  rw [← onward_wide (y := vectorDone s.ctl t v) (afterVector_onlyVector ..) hs]
  exact issueCmd_vector h hst hv

/-! What each operation makes of a tile. -/
/-- The tile that the writes of a vector slot start from. -/
def startTile (c : Ctl) (t : Nat) : Tile := flagless (markJudged (found c t))

@[simp] theorem rdW_startTile (c : Ctl) (t u i : Nat) : rdW (startTile c t) u i = rdW (tile c t) u i := rfl
@[simp] theorem rdW_joinFlags (f y : Tile) (u i : Nat) : rdW (joinFlags f y) u i = rdW y u i := rfl
theorem sameVK_joinFlags {f y : Tile} (h : SameVK (startTile c t) y) : SameVK (found c t) (joinFlags f y) := h
@[simp] theorem joinFlags_sticky (f y : Tile) : (joinFlags f y).sticky = f.sticky ||| y.sticky := rfl

theorem writesV_found (mode key n : Nat) (o : VOp) (y : Tile) :
    writesV mode key n o (markJudged (found c t)) y = writesV mode key n o (tile c t) y := rfl

/-- A vector operation reads the registers that the tile holds, and writes from `startTile` on. -/
theorem vectorDone_eq (c : Ctl) (t : Nat) (v : VOp) : vectorDone c t v =
    joinFlags (found c t) (writesV (tile c t).mode (tileKey c t) (tile c t).issued v (tile c t) (startTile c t)) := by
  rw [vectorDone, afterVector, writesV_found]
  rfl

theorem onward_wrV (vd : Nat) (r : VecReg) (g : Nat) :
    onward (found c t) (joinFlags (found c t) (addVFlags (wrV (startTile c t) vd r) g)) =
      onward (found c t) { wrV (found c t) vd r with sticky := (found c t).sticky ||| (0 ||| stickyMask (g % 512)) } := by
  unfold startTile
  generalize found c t = f
  rfl

section
variable {w : Nat} (hw : w < 4)
include hw

theorem vectorDone_wacc (va km ty fn : Nat) : vectorDone c t (waccOp w va km ty fn) =
    joinFlags (found c t) (foldUp 64 (waccStep (tile c t) w va km ty fn) (startTile c t)) := by
  rw [vectorDone_eq, writesV_wacc, Nat.mod_eq_of_lt hw]

theorem vectorDone_wclr (km : Nat) : vectorDone c t (wclrOp w km) =
    joinFlags (found c t) (foldUp 64 (wclrStep (tile c t) w km) (startTile c t)) := by
  rw [vectorDone_eq, writesV_wclr, Nat.mod_eq_of_lt hw]

theorem vectorDone_wfold : vectorDone c t (wfoldOp w) =
    joinFlags (found c t) (addVFlags (wrW (foldUp 64 (wzeroStep w) (startTile c t)) w 0 (wPut (wideSum (tile c t) w)).1
      (wideStatus (tile c t) w)) (wPut (wideSum (tile c t) w)).2) := by
  rw [vectorDone_eq, writesV_wfold, Nat.mod_eq_of_lt hw]

theorem rdW_vectorDone_wacc (va km ty fn u : Nat) {i : Nat} (hi : i < 64) :
    rdW (vectorDone c t (waccOp w va km ty fn)) u i = if u = w then
      (if bitN (rdK (tile c t) km) i then waccResult (tile c t) w va ty fn i else rdW (tile c t) w i) else rdW (tile c t) u i := by
  rw [vectorDone_wacc hw, rdW_joinFlags, rdW_waccSteps (rdW_startTile c t w) va km ty fn u hi, rdW_startTile]

theorem rdW_vectorDone_wclr (km u : Nat) {i : Nat} (hi : i < 64) :
    rdW (vectorDone c t (wclrOp w km)) u i = if u = w then
      (if bitN (rdK (tile c t) km) i then (0, 0) else rdW (tile c t) w i) else rdW (tile c t) u i := by
  rw [vectorDone_wclr hw, rdW_joinFlags, rdW_wclrSteps (rdW_startTile c t w) km u hi, rdW_startTile]

theorem rdW_vectorDone_wfold_zero :
    rdW (vectorDone c t (wfoldOp w)) w 0 = ((wPut (wideSum (tile c t) w)).1, wideStatus (tile c t) w) := by
  rw [vectorDone_wfold hw, rdW_joinFlags, rdW_addVFlags, rdW_wrW_same]

theorem rdW_vectorDone_wfold {u i : Nat} (hi : i < 64) (hne : u ≠ w ∨ i ≠ 0) :
    rdW (vectorDone c t (wfoldOp w)) u i = if u = w then (0, 0) else rdW (tile c t) u i := by
  rw [vectorDone_wfold hw, rdW_joinFlags, rdW_addVFlags, rdW_wrW_ne (by decide) hi hne, rdW_wzeroSteps _ _ _ hi, rdW_startTile]

theorem sameVK_vectorDone_wacc (va km ty fn : Nat) : SameVK (found c t) (vectorDone c t (waccOp w va km ty fn)) := by
  rw [vectorDone_wacc hw]
  exact sameVK_joinFlags (sameVK_waccSteps ..)

theorem sameVK_vectorDone_wclr (km : Nat) : SameVK (found c t) (vectorDone c t (wclrOp w km)) := by
  rw [vectorDone_wclr hw]
  exact sameVK_joinFlags (sameVK_wclrSteps ..).1

theorem vectorDone_wclr_sticky (km : Nat) : (vectorDone c t (wclrOp w km)).sticky = (found c t).sticky := by
  rw [vectorDone_wclr hw, joinFlags_sticky, (sameVK_wclrSteps ..).2]
  exact Nat.or_zero _

theorem sameVK_vectorDone_wfold : SameVK (found c t) (vectorDone c t (wfoldOp w)) := by
  rw [vectorDone_wfold hw]
  exact sameVK_joinFlags (sameVK_addVFlags (sameVK_wrW (sameVK_wzeroSteps ..) ..) _)

/-- WRD writes its vector register and flags. -/
theorem onward_vectorDone_wrd (vd km ty fn : Nat) : ∃ g, onward (found c t) (vectorDone c t (wrdOp vd w km ty fn)) =
    onward (found c t) { wrV (found c t) vd (vecOf fun i => if bitN (rdK (tile c t) km) i then
        (wrdResult (tile c t).mode (tileKey c t) (tile c t).issued (tile c t) vd w ty fn i).1 else lane (rdV (tile c t) vd) i) with
      sticky := (found c t).sticky ||| g } := by
  rw [vectorDone_eq, writesV_wrd, Nat.mod_eq_of_lt hw, onward_wrV]
  exact ⟨_, rfl⟩

end

end Sys2Proof.Machine
end

section
/-! PROOF. The wide accumulators (R249, R273, R337 to R343): WACC, WFOLD, WCLR and WRD at a ready tile. -/
namespace Sys2Proof.Machine
open Sys2Proof.Safety

section
variable {s : State} {t w : Nat} (h : TileReady s t) (hst : Straight (tile s.ctl t)) (hw : w < 4)
include h hst hw

/-- WACC, whatever its type and code (R338 to R341). -/
theorem exec_wacc_lanes (km va : Nat) {ty fn : Nat} (ht : ty ≤ 1) (hl : waccListed ty fn = true) :
    ∃ c y, exec (.wacc t w va km ty fn) s = .next { s with ctl := settled c } ∧
      (∀ u i, i < 64 → rdW y u i = if u = w then
        (if bitN (rdK (tile s.ctl t) km) i then waccResult (tile s.ctl t) w va ty fn i else rdW (tile s.ctl t) w i)
        else rdW (tile s.ctl t) u i) ∧
      Issued s.ctl c t (onward (found s.ctl t) { found s.ctl t with wv := y.wv, ws := y.ws, sticky := y.sticky }) 0 := by
  rw [exec_wacc]
  obtain ⟨c, hc, hi⟩ := issueCmd_wide h hst (illegalV_wacc hw ht hl) (sameVK_vectorDone_wacc hw va km ty fn)
  exact ⟨c, _, hc, fun u _ => rdW_vectorDone_wacc hw va km ty fn u, hi⟩

/-- WACC of INT32 with FN 0 adds the term x × 2^128 (R339). -/
theorem exec_wacc_int32 (km va : Nat) :
    ∃ c y, exec (.wacc t w va km 0 0) s = .next { s with ctl := settled c } ∧
      (∀ i, i < 64 → (rdW y w i).1 = if bitN (rdK (tile s.ctl t) km) i then
        BitVec.ofInt 256 ((rdW (tile s.ctl t) w i).1.toInt + sx 32 (lane (rdV (tile s.ctl t) va) i) * (2 ^ 128 : Nat))
        else (rdW (tile s.ctl t) w i).1) ∧
      (∀ u i, u < 4 → u ≠ w → i < 64 → rdW y u i = rdW (tile s.ctl t) u i) ∧
      Issued s.ctl c t (onward (found s.ctl t) { found s.ctl t with wv := y.wv, ws := y.ws, sticky := y.sticky }) 0 := by
  obtain ⟨c, y, hc, hy, hi⟩ := exec_wacc_lanes h hst hw km va (ty := 0) (fn := 0) (by decide) (by decide)
  refine ⟨c, y, hc, fun i hi => ?_, fun u i _ hne hi => ?_, hi⟩
  · rw [hy w i hi, if_pos rfl, apply_ite Prod.fst]
    rfl
  · rw [hy u i hi, if_neg hne]

/-- WFOLD: lane 0 takes the sum, the others 0 (R343). -/
theorem exec_wfold_lanes :
    ∃ c y, exec (.wfold t w) s = .next { s with ctl := settled c } ∧
      (rdW y w 0).1 = BitVec.ofInt 256 ((List.range 64).foldl (fun n i => n + (rdW (tile s.ctl t) w i).1.toInt) 0) ∧
      (∀ i, 1 ≤ i → i < 64 → rdW y w i = (0, 0)) ∧
      (∀ u i, u < 4 → u ≠ w → i < 64 → rdW y u i = rdW (tile s.ctl t) u i) ∧
      Issued s.ctl c t (onward (found s.ctl t) { found s.ctl t with wv := y.wv, ws := y.ws, sticky := y.sticky }) 0 := by
  rw [exec_wfold]
  obtain ⟨c, hc, hi⟩ := issueCmd_wide h hst (illegalV_wfold w) (sameVK_vectorDone_wfold hw)
  refine ⟨c, vectorDone s.ctl t (wfoldOp w), hc, ?_, fun i h1 hi => ?_, fun u i _ hne hi => ?_, hi⟩
  · rw [rdW_vectorDone_wfold_zero hw]
    rfl
  · rw [rdW_vectorDone_wfold hw hi (.inr (by omega)), if_pos rfl]
  · rw [rdW_vectorDone_wfold hw hi (.inl hne), if_neg hne]

/-- WCLR makes the selected lanes 0 and raises no flag (R273). -/
theorem exec_wclr_lanes (km : Nat) :
    ∃ c y, exec (.wclr t w km) s = .next { s with ctl := settled c } ∧
      (∀ i, i < 64 → rdW y w i = if bitN (rdK (tile s.ctl t) km) i then (0, 0) else rdW (tile s.ctl t) w i) ∧
      (∀ u i, u < 4 → u ≠ w → i < 64 → rdW y u i = rdW (tile s.ctl t) u i) ∧
      Issued s.ctl c t (onward (found s.ctl t) { found s.ctl t with wv := y.wv, ws := y.ws }) 0 := by
  rw [exec_wclr]
  obtain ⟨c, hc, hi⟩ := issueCmd_wide h hst (illegalV_wclr w km) (sameVK_vectorDone_wclr hw km)
  rw [vectorDone_wclr_sticky hw] at hi
  refine ⟨c, vectorDone s.ctl t (wclrOp w km), hc, fun i hi => ?_, fun u i _ hne hi => ?_, hi⟩
  · rw [rdW_vectorDone_wclr hw km w hi, if_pos rfl]
  · rw [rdW_vectorDone_wclr hw km u hi, if_neg hne]

/-- WRD reads the selected lanes into a vector register (R341, R342). -/
theorem exec_wrd_lanes (km vd : Nat) {ty fn : Nat} (ht : ty ≤ 1) (hl : waccListed ty fn = true) :
    ∃ c v g, exec (.wrd t vd w km ty fn) s = .next { s with ctl := settled c } ∧
      LanesAre (tile s.ctl t) km (rdV (tile s.ctl t) vd) v (fun i =>
        (wrdResult (tile s.ctl t).mode (tileKey s.ctl t) (tile s.ctl t).issued (tile s.ctl t) vd w ty fn i).1 % 2 ^ 32) ∧
      Issued s.ctl c t (onward (found s.ctl t) { wrV (found s.ctl t) vd v with sticky := (found s.ctl t).sticky ||| g }) 0 := by
  rw [exec_wrd]
  obtain ⟨c, hc, hi⟩ := issueCmd_vector h hst (illegalV_wrd (w := w) (vd := vd) (km := km) ht hl)
  obtain ⟨g, hg⟩ := onward_vectorDone_wrd (c := s.ctl) (t := t) hw vd km ty fn
  refine ⟨c, _, g, hc, fun i hi => ?_, hg ▸ hi⟩
  rw [lane_vecOf _ hi]
  split
  · rfl
  · exact Nat.mod_eq_of_lt (lane_lt ..)

end

/-- Settles O28: each of the four operations issues at the ready tile, and its lanes are those of its own lemma above. -/
theorem wideAccumulatorsAreExact : Obligations.WideAccumulatorsAreExact := by
  unfold Obligations.WideAccumulatorsAreExact
  intro s t w km h hst hw
  refine ⟨fun va => exec_wacc_int32 h hst hw km va, fun va ty fn ht hl => ?_, exec_wfold_lanes h hst hw, exec_wclr_lanes h hst hw km,
    fun vd ty fn ht hl => exec_wrd_lanes h hst hw km vd ht hl⟩
  obtain ⟨c, y, hc, hy, hi⟩ := exec_wacc_lanes h hst hw km va ht hl
  exact ⟨c, y, hc, fun i hi => (hy w i hi).trans (if_pos rfl), hi⟩

end Sys2Proof.Machine
end

section
/-! PROOF. Stations (R404, R408, R476, R483): the statement on them fails at a state whose merger holds an entry of a station number past 63. The
deadline of such an entry is read past the table of deadlines, and there can stand the word of the station that rejoins. -/
namespace Sys2Proof.Machine
open Sys2Proof.Safety

/-- REJOIN, as a change of the control state (R408). -/
theorem exec_rejoin (n q : Nat) (s : State) :
    exec (.rejoin n q) s = .next { s with ctl := settled (if regsServed s.ctl then stnRejoin n q s.ctl else s.ctl) } := rfl

/-- No channel waits to fire and no partition has a halt due: settling changes nothing. -/
theorem settled_of_idle {c : Ctl} (hq : c.db.fireQ = []) (hp : c.parts = {}) : settled c = c :=
  settled_of_none hq fun p k hk => by simp [part, hp] at hk

/-- The station number at which the deadline of headgate 0 is word 0 of its station 0. -/
def strayStn : Nat := (hgStn 0 0 0 - dcDl 0 0) / 4

theorem dcDl_strayStn : dcDl 0 strayStn = hgStn 0 0 0 := rfl

/-- An undecided entry of that station number, closed at FTC 1000. -/
def strayEntry : Pend :=
  { hg := 0, stn := strayStn, evn := 0, part := 0, ts := 0, tsFtc := 996, lpass := 0, k := 0, closed := some 1000 }

/-- FTC 1000, ROOT locked, headgate 0 ON with its station 0 ABSENT under EN = 1, and the entry pending. -/
def strayState : State :=
  let c := wr (wr (wr State.reset.ctl rClkStat 1) (hgStat 0) 1) (hgStn 0 0 0) 0x102
  { State.reset with ctl := { c with time := { c.time with ftc := 1000 }, dc := { c.dc with pend := [strayEntry] } } }

/-- The entry will be handed off at 1004, which a NOTICE of 4 tc that starts at 1000 leaves free. -/
theorem handoffsTo_strayState : handoffsTo strayState.ctl 0 = [1004] := by decide +kernel

/-- ACTIVE in the place of ABSENT makes the entry's deadline 1 tc shorter, and its hand-off 1 tc earlier. -/
theorem handoffsTo_stnActive_strayState : handoffsTo (stnActive strayState.ctl 0 0) 0 = [1003] := by decide +kernel

theorem txFree_strayState : TxFree strayState.ctl 0 16 := by
  refine ⟨by decide +kernel, by decide +kernel, by decide +kernel, fun h hh => ?_⟩
  rw [handoffsTo_strayState, List.mem_singleton] at hh
  subst hh
  decide +kernel

/-- The NOTICE of the rejoining station would end at 1004, after the hand-off at 1003: it waits, and nothing is sent. -/
theorem stnRejoin_strayState_outs : (stnRejoin 0 0 strayState.ctl).outs = strayState.ctl.outs := by decide +kernel

theorem regsServed_strayState : regsServed strayState.ctl = true := by decide +kernel

/-- The rejoin leaves nothing to settle. -/
theorem exec_rejoin_strayState :
    exec (.rejoin 0 0) strayState = .next { strayState with ctl := stnRejoin 0 0 strayState.ctl } := by
  rw [exec_rejoin, if_pos regsServed_strayState, settled_of_idle (by decide +kernel) (by decide +kernel)]

/-- Refutes O33: its clause on a REJOIN that finds the transmit pipeline free has the NOTICE sent at once, and no hypothesis bounds the station
numbers of the pending entries; in `strayState` the REJOIN itself moves a hand-off into the NOTICE's way. -/
theorem not_stationsComeAndGo : ¬ Obligations.StationsComeAndGo := by
  unfold Obligations.StationsComeAndGo
  rintro ⟨-, -, -, -, -, -, hsent, -, -, -⟩
  obtain ⟨c, hc, -, -, houts, -, -, hframe⟩ := hsent strayState 0 0 (by decide) (by decide) regsServed_strayState (by decide +kernel)
    (.inl (by decide +kernel)) txFree_strayState
  have hq : c.db.fireQ = [] := (congrArg (fun d => d.db.fireQ) hframe).trans (by decide +kernel)
  have hp : c.parts = {} := (congrArg (fun d => d.parts) hframe).trans (by decide +kernel)
  rw [exec_rejoin_strayState, settled_of_idle hq hp] at hc
  have hctl : stnRejoin 0 0 strayState.ctl = c := congrArg State.ctl (Host.Outcome.next.inj hc)
  rw [← hctl, stnRejoin_strayState_outs] at houts
  exact List.cons_ne_self _ _ houts.symm

end Sys2Proof.Machine
end

section
/-! SUPPORT. The rules of the pool's shared operations: commands that are served, register pairs, a region's members, granules, requests
that are cancelled, page movers that stop, and what each leaves as it was (R555 to R563, R576, R603, R608, R622). -/
namespace Sys2Proof.Machine
open Sys2Proof.Safety

variable {c d : Ctl} {l : List Nat}

/-! The shapes of a command. -/
theorem onServed_of_served {s : State} (h : regsServed s.ctl = true) (f : Ctl → Ctl) :
    onServed f s = .next { s with ctl := settled (f s.ctl) } := by
  rw [onServed, onCtl_next, whenServed, if_pos h]

theorem onHost_of_up {s : State} (h : hostUp s.ctl = true) (f : Ctl → Ctl) : onHost f s = .next { s with ctl := settled (f s.ctl) } := by
  rw [onHost, onCtl_next, if_pos h]

/-- What each step of a fold leaves as it was, the fold does. -/
theorem foldl_image {σ τ β : Type} {f : σ → τ → σ} {g : σ → β} (hf : ∀ s x, g (f s x) = g s) (l : List τ) (s : σ) :
    g (l.foldl f s) = g s := foldl_keeps (P := fun t => g t = g s) (fun t x ht => (hf t x).trans ht) l s rfl

/-! Commands that change registers alone. -/
theorem onlyRegs_refl (l : List Nat) (c : Ctl) : OnlyRegs l c c := ⟨rfl, regsBut_refl l c⟩

theorem onlyRegs_wr (h : OnlyRegs l c d) {o v : Nat} (ho : o ∈ l) : OnlyRegs l c (wr d o v) := ⟨h.1, regsBut_wr h.2 ho⟩

theorem onlyRegs_setFld (h : OnlyRegs l c d) {o a b v : Nat} (ho : o ∈ l) : OnlyRegs l c (setFld d o a b v) := onlyRegs_wr h ho

theorem onlyRegs_setBit (h : OnlyRegs l c d) {o i : Nat} {b : Bool} (ho : o ∈ l) : OnlyRegs l c (setBit d o i b) := onlyRegs_wr h ho

/-! Register pairs, and the members of a region (R13, R573). -/
theorem rd64_wr64_same (c : Ctl) (o v : Nat) : rd64 (wr64 c o v) o = v % 2 ^ 64 := by
  rw [rd64, wr64, rd_wr_same, rd_wr_ne (by omega), rd_wr_same]
  omega

theorem rd64_congr_regs {o : Nat} (h : rd d o = rd c o) (h' : rd d (o + 4) = rd c (o + 4)) : rd64 d o = rd64 c o := by
  rw [rd64, rd64, h, h']

theorem regsBut_setMember (h : RegsBut l c d) {r k : Nat} {b : Bool} (ho : srBase r + 0x28 ∈ l) (ho' : srBase r + 0x2C ∈ l) :
    RegsBut l c (setMember d r k b) := regsBut_wr64 h ho ho'

theorem srMembers_setMember_ne {r r' : Nat} (h : r' ≠ r) (c : Ctl) (k : Nat) (b : Bool) :
    srMembers (setMember c r k b) r' = srMembers c r' := by
  have hr : RegsBut [srBase r + 0x28, srBase r + 0x2C] c (setMember c r k b) :=
    regsBut_setMember (regsBut_refl _ c) (by simp) (by simp)
  exact rd64_congr_regs (hr _ (by simp [srBase]; omega)) (hr _ (by simp [srBase]; omega))

theorem bitN_srMembers_setMember (c : Ctl) (r k : Nat) : bitN (srMembers (setMember c r k false) r) k = false := by
  rw [srMembers, setMember, rd64_wr64_same, bitN, Nat.testBit_mod_two_pow, testBit_setBits le_rfl]
  simp [b2n]

/-- A host leaves the first `n` regions. -/
theorem bitN_srMembers_leave (c : Ctl) (k n : Nat) :
    ∀ r, r < n → bitN (srMembers (foldUp n (fun c r => setMember c r k false) c) r) k = false := by
  induction n with
  | zero => exact fun r hr => absurd hr (Nat.not_lt_zero r)
  | succ n ih =>
    intro r hr
    rw [foldUp_succ]
    by_cases hn : r = n
    · rw [hn, bitN_srMembers_setMember]
    · rw [srMembers_setMember_ne hn, ih r (by omega)]

/-! Granules (R561 to R565). -/
/-- `d` is `c` but for the pool's hidden state. -/
def PoolOnly (c d : Ctl) : Prop := d = { c with pool := d.pool }

theorem poolOnly_refl (c : Ctl) : PoolOnly c c := rfl

theorem PoolOnly.trans {e : Ctl} (h : PoolOnly c d) (k : PoolOnly d e) : PoolOnly c e := by
  unfold PoolOnly at *
  rw [k, h]

theorem PoolOnly.regs (h : PoolOnly c d) : d.regs = c.regs := by
  rw [PoolOnly] at h
  rw [h]

theorem poolOnly_foldl {τ : Type} {f : Ctl → τ → Ctl} (hf : ∀ c x, PoolOnly c (f c x)) (l : List τ) (c : Ctl) : PoolOnly c (l.foldl f c) :=
  foldl_keeps (P := PoolOnly c) (fun d x hd => hd.trans (hf d x)) l c (poolOnly_refl c)

theorem poolOnly_setGt (c : Ctl) (g st sr host : Nat) : PoolOnly c (setGt c g st sr host) := by
  unfold setGt
  split <;> exact rfl

theorem poolOnly_kickScrub (c : Ctl) (st : Nat) : PoolOnly c (kickScrub c st) := by
  unfold kickScrub
  split
  · split <;> exact rfl
  · exact rfl

theorem poolOnly_toScrub (c : Ctl) (g : Nat) : PoolOnly c (toScrub c g) := (poolOnly_setGt ..).trans (poolOnly_kickScrub ..)
theorem poolOnly_toFree (c : Ctl) (g : Nat) : PoolOnly c (toFree c g) := poolOnly_setGt ..

/-- A granule's word, after a granule was put in a state. -/
theorem smGet_setGt (hf : poolIsFatal c = false) (g st sr host k : Nat) : smGet (setGt c g st sr host).pool.gt 0 k =
    if k = g then st * 2 ^ 16 + sr % 64 * 2 ^ 8 + host % 64 else smGet c.pool.gt 0 k := by
  rw [setGt, if_neg (by simp [hf])]
  exact smGet_smSet ..

theorem kickScrub_gt (c : Ctl) (st : Nat) : (kickScrub c st).pool.gt = c.pool.gt := by
  unfold kickScrub
  split
  · split <;> rfl
  · rfl

theorem smGet_toScrub (hf : poolIsFatal c = false) (g k : Nat) :
    smGet (toScrub c g).pool.gt 0 k = if k = g then gSCRUB * 2 ^ 16 else smGet c.pool.gt 0 k := by
  rw [toScrub, kickScrub_gt]
  exact smGet_setGt hf ..

/-- The region's granules of the first `n` enter SCRUB (R577). -/
def scrubRegion (r n : Nat) (c : Ctl) : Ctl := foldUp n (fun c g => if srHas c r g then toScrub c g else c) c

theorem scrubRegion_succ (r n : Nat) (c : Ctl) : scrubRegion r (n + 1) c =
    if srHas (scrubRegion r n c) r n then toScrub (scrubRegion r n c) n else scrubRegion r n c := foldUp_succ ..

theorem poolOnly_scrubRegion (r n : Nat) (c : Ctl) : PoolOnly c (scrubRegion r n c) :=
  poolOnly_foldl (fun d g => by
    split
    · exact poolOnly_toScrub d g
    · exact poolOnly_refl d) _ c

theorem srHas_congr {r g : Nat} (h : smGet d.pool.gt 0 g = smGet c.pool.gt 0 g) : srHas d r g = srHas c r g := by
  rw [srHas, srHas, gtState, gtState, gtSr, gtSr, h]

theorem smGet_scrubRegion (hf : poolIsFatal c = false) (r n k : Nat) : smGet (scrubRegion r n c).pool.gt 0 k =
    if k < n ∧ srHas c r k = true then gSCRUB * 2 ^ 16 else smGet c.pool.gt 0 k := by
  induction n with
  | zero => simp [scrubRegion, foldUp]
  | succ n ih =>
    have hfn : poolIsFatal (scrubRegion r n c) = false := (rbit_congr (poolOnly_scrubRegion r n c).regs _ _).trans hf
    by_cases hk : k = n
    · subst hk
      have hw : smGet (scrubRegion r k c).pool.gt 0 k = smGet c.pool.gt 0 k := by simpa using ih
      rw [scrubRegion_succ, srHas_congr hw]
      by_cases hs : srHas c r k = true
      · rw [if_pos hs, smGet_toScrub hfn, if_pos rfl, if_pos ⟨Nat.lt_succ_self k, hs⟩]
      · rw [if_neg hs, hw, if_neg fun h => hs h.2]
    · have hw : smGet (scrubRegion r (n + 1) c).pool.gt 0 k = smGet (scrubRegion r n c).pool.gt 0 k := by
        rw [scrubRegion_succ]
        split
        · rw [smGet_toScrub hfn, if_neg hk]
        · rfl
      have hlt : k < n + 1 ↔ k < n := by omega
      rw [hw, ih]
      simp only [hlt]

theorem gtState_scrubRegion (hf : poolIsFatal c = false) (r n : Nat) {k : Nat} (hk : k < n) :
    gtState (scrubRegion r n c) k = if srHas c r k = true then gSCRUB else gtState c k := by
  rw [gtState, smGet_scrubRegion hf]
  simp only [hk, true_and]
  split <;> rfl

/-! FTC, and the KILLs and extents that wait. -/
/-- FTC, the KILLs that wait, and the offers, mappings and unmaps that do. -/
def waits (c : Ctl) : TimeSt × List (Nat × Nat) × List Offer × List ExtWait × List ExtWait :=
  (c.time, c.pool.kills, c.pool.offers, c.pool.mapping, c.pool.unmapping)

@[simp] theorem waits_wr (c : Ctl) (o v : Nat) : waits (wr c o v) = waits c := rfl
@[simp] theorem waits_setFld (c : Ctl) (o h l v : Nat) : waits (setFld c o h l v) = waits c := rfl
@[simp] theorem waits_setMember (c : Ctl) (r k : Nat) (b : Bool) : waits (setMember c r k b) = waits c := rfl
@[simp] theorem waits_cnt1 (c : Ctl) (o : Nat) : waits (cnt1 c o) = waits c := rfl
@[simp] theorem waits_freeTracker (c : Ctl) (h : Nat) : waits (freeTracker c h) = waits c := rfl
@[simp] theorem waits_emit (c : Ctl) (e : Emit) : waits (emit c e) = waits c := by simp [waits]
@[simp] theorem waits_raise (c : Ctl) (code part unit det : Nat) : waits (raise c code part unit det) = waits c := by simp [waits]

@[simp] theorem waits_setGt (c : Ctl) (g st sr host : Nat) : waits (setGt c g st sr host) = waits c := by
  unfold setGt
  split <;> rfl

@[simp] theorem waits_toFree (c : Ctl) (g : Nat) : waits (toFree c g) = waits c := waits_setGt ..

@[simp] theorem waits_pmLine (c : Ctl) (m i : Nat) (v : BitVec 512) (psn : Bool) : waits (pmLine c m i v psn) = waits c := by
  unfold pmLine
  split <;> rfl

@[simp] theorem waits_unmappedAnswer (c : Ctl) (h tag a : Nat) (w : Bool) : waits (unmappedAnswer c h tag a w) = waits c := by
  unfold unmappedAnswer poolAnswer
  split <;> exact waits_emit ..

@[simp] theorem waits_cxlLog (c : Ctl) (h log : Nat) (r : CxlRec) : waits (cxlLog c h log r) = waits c := by
  unfold cxlLog
  dsimp only
  split
  · rfl
  · split
    · exact waits_emit ..
    · rfl

@[simp] theorem waits_denied (c : Ctl) (h tag a : Nat) (w : Bool) : waits (denied c h tag a w) = waits c := by
  unfold denied
  dsimp only
  split
  · rw [waits_cnt1, waits_unmappedAnswer]
  · rw [waits_cxlLog, ← waits_unmappedAnswer c h tag a w]
    rfl

@[simp] theorem waits_cancelWaiting (c : Ctl) (h : Nat) (p : Nat → Bool) : waits (cancelWaiting c h p) = waits c := by
  unfold cancelWaiting
  refine (foldl_image (g := waits) (fun d r => ?_) _ _).trans rfl
  split
  · exact waits_pmLine ..
  · rw [waits_denied, waits_freeTracker]

@[simp] theorem waits_removeEntry (c : Ctl) (e : Nat × Nat) : waits (removeEntry c e) = waits c := by
  unfold removeEntry
  dsimp only
  split
  · rw [waits_setMember, waits_cancelWaiting]
    rfl
  · rw [waits_cancelWaiting]
    rfl

theorem waits_dropOffer (c : Ctl) (o : Offer) :
    waits (dropOffer c o) = (c.time, c.pool.kills, c.pool.offers.erase o, c.pool.mapping, c.pool.unmapping) := by
  unfold dropOffer
  dsimp only
  split
  · refine (foldl_image (g := waits) (fun d g => ?_) _ _).trans rfl
    split
    · exact waits_toFree ..
    · rfl
  · rfl

theorem waits_dropOffers (l : List Offer) (c : Ctl) :
    waits (l.foldl dropOffer c) = (c.time, c.pool.kills, c.pool.offers.diff l, c.pool.mapping, c.pool.unmapping) := by
  induction l generalizing c with
  | nil => rfl
  | cons o l ih =>
    have h := waits_dropOffer c o
    simp only [waits, Prod.mk.injEq] at h
    obtain ⟨ht, hk, ho, hm, hu⟩ := h
    rw [List.foldl_cons, ih, List.diff_cons, ht, hk, ho, hm, hu]

theorem poolOnly_dropOffer (c : Ctl) (o : Offer) : PoolOnly c (dropOffer c o) := by
  have h0 : PoolOnly c { c with pool := { c.pool with offers := c.pool.offers.erase o } } := rfl
  unfold dropOffer
  dsimp only
  split
  · refine h0.trans (poolOnly_foldl (fun d g => ?_) _ _)
    split
    · exact poolOnly_toFree ..
    · exact poolOnly_refl d
  · exact h0

/-- Once the members of a list that satisfy a condition are taken out one by one, none of them is left. -/
theorem not_of_mem_diff_filter {α : Type} [DecidableEq α] {p : α → Bool} {m : List α} {a : α} (h : a ∈ m.diff (m.filter p)) :
    ¬ p a = true := by
  intro hp
  rw [← List.count_pos_iff, List.count_diff, List.count_filter hp, Nat.sub_self] at h
  exact absurd h (lt_irrefl 0)

/-! The registers that a removed entry can touch (R576, R586, R608). -/
/-- Of every host its trackers in use and its denied requests, of every region its members. -/
def entryRegs : List Nat := (List.range 64).flatMap fun k => [weUsed k, weCnt k 3, srBase k + 0x28, srBase k + 0x2C]

theorem mem_entryRegs {k o : Nat} (hk : k < 64) (ho : o ∈ [weUsed k, weCnt k 3, srBase k + 0x28, srBase k + 0x2C]) : o ∈ entryRegs :=
  List.mem_flatMap.2 ⟨k, List.mem_range.2 hk, ho⟩

theorem hitLo_notMem_entryRegs {k : Nat} (hk : k < 64) : hitLo k ∉ entryRegs := by
  simp only [entryRegs, List.mem_flatMap, List.mem_range, List.mem_cons, List.not_mem_nil, or_false, hitLo, weUsed, weCnt, srBase]
  omega

theorem cxlLog_regs (c : Ctl) (h log : Nat) (r : CxlRec) : (cxlLog c h log r).regs = c.regs := by
  unfold cxlLog
  dsimp only
  split
  · rfl
  · split
    · exact emit_regs ..
    · rfl

theorem pmLine_regs (c : Ctl) (m i : Nat) (v : BitVec 512) (psn : Bool) : (pmLine c m i v psn).regs = c.regs := by
  unfold pmLine
  split <;> rfl

theorem unmappedAnswer_regs (c : Ctl) (h tag a : Nat) (w : Bool) : (unmappedAnswer c h tag a w).regs = c.regs := by
  unfold unmappedAnswer poolAnswer
  split <;> exact emit_regs ..

theorem regsBut_denied (h : RegsBut l c d) {k tag a : Nat} {w : Bool} (ho : weCnt k 3 ∈ l) : RegsBut l c (denied d k tag a w) := by
  have hc := regsBut_cnt1 (regsBut_congr h (unmappedAnswer_regs d k tag a w)) ho
  unfold denied
  dsimp only
  split
  · exact hc
  · exact regsBut_congr hc (cxlLog_regs ..)

theorem regsBut_cancelWaiting (h : RegsBut l c d) {k : Nat} {p : Nat → Bool} (ho : weUsed k ∈ l) (ho' : weCnt k 3 ∈ l) :
    RegsBut l c (cancelWaiting d k p) := by
  unfold cancelWaiting
  refine foldl_keeps (P := RegsBut l c) (fun e r he => ?_) _ _ (regsBut_congr h rfl)
  split
  · exact regsBut_congr he (pmLine_regs ..)
  · exact regsBut_denied (regsBut_wr he ho) ho'

theorem bits_lt (v h l : Nat) : bits v h l < 2 ^ (h + 1 - l) := Nat.mod_lt _ (by positivity)

theorem regsBut_removeEntry (h : RegsBut l c d) (hl : entryRegs ⊆ l) (e : Nat × Nat) : RegsBut l c (removeEntry d e) := by
  have hh : hrtHost e.2 < 64 := bits_lt ..
  have hs : hrtSr e.2 < 64 := bits_lt ..
  have hd : RegsBut l c { d with pool := { d.pool with hrt := smSet d.pool.hrt 0 e.1 0 } } := regsBut_congr h rfl
  have hc := regsBut_cancelWaiting (p := hrtCovers e.2) hd (hl (mem_entryRegs hh (o := weUsed (hrtHost e.2)) (by simp)))
    (hl (mem_entryRegs hh (by simp)))
  unfold removeEntry
  dsimp only
  split
  · exact regsBut_setMember hc (hl (mem_entryRegs hs (by simp))) (hl (mem_entryRegs hs (by simp)))
  · exact hc

/-! Page movers that stop (R603, R622). -/
@[simp] theorem waits_complete (c : Ctl) (ref : CmdRef) (gen status result : Nat) : waits (complete c ref gen status result) = waits c := by
  unfold complete
  split <;> rfl

theorem complete_regs (c : Ctl) (ref : CmdRef) (gen status result : Nat) : (complete c ref gen status result).regs = c.regs := by
  unfold complete
  split <;> rfl

theorem waits_putPm (c : Ctl) (m : Nat) (x : PmSt) : waits (putPm c m x) = waits c := rfl

theorem waits_pmDiscard (c : Ctl) (m : Nat) (p : Nat → PmCmd → Bool) : waits (pmDiscard c m false p) = waits c := by
  unfold pmDiscard
  refine (foldl_image (g := waits) (fun d e => waits_complete ..) _ _).trans ?_
  rw [if_neg Bool.false_ne_true, waits_putPm]
  split <;> rfl

theorem regsBut_pmDiscard (h : RegsBut l c d) {m : Nat} (ho : pmStat m ∈ l) (p : Nat → PmCmd → Bool) :
    RegsBut l c (pmDiscard d m false p) := by
  unfold pmDiscard
  refine foldl_keeps (P := RegsBut l c) (fun e r he => regsBut_congr he (complete_regs ..)) _ _ (regsBut_setFld (regsBut_congr h ?_) ho)
  dsimp only
  split <;> rfl

/-- The status registers of the page movers. -/
def pmStats : List Nat := (List.range 16).map pmStat

theorem waits_pmKill (c : Ctl) (k : Nat) : waits (pmKill c k) = waits c := foldl_image (g := waits) (fun _ _ => waits_pmDiscard ..) _ _

theorem regsBut_pmKill (h : RegsBut l c d) (hl : pmStats ⊆ l) (k : Nat) : RegsBut l c (pmKill d k) :=
  List.foldlRecOn _ _ h fun _ he _ hm => regsBut_pmDiscard he (hl (List.mem_map_of_mem hm)) _

end Sys2Proof.Machine
end

section
/-! PROOF. Shared regions and keys (R573, R577, R581, R583, R602). -/
namespace Sys2Proof.Machine
open Sys2Proof.Safety

variable {c : Ctl} {s : State}

/-! DEF and DEL. -/
theorem exec_srDefine (h : regsServed s.ctl = true) (r : Nat) : exec (.srDefine r) s = .next { s with ctl := settled (srDefine r s.ctl) } :=
  onServed_of_served h _

theorem exec_srDelete (h : regsServed s.ctl = true) (r : Nat) : exec (.srDelete r) s = .next { s with ctl := settled (srDelete r s.ctl) } :=
  onServed_of_served h _

theorem srDefine_sound {r : Nat} (hd : srDef c r = false) (hk : keyLoaded c 1 r = true) (ht : srTag c r ≠ 0)
    (hu : ∀ k, k < 64 → srDef c k = true → srTag c k ≠ srTag c r) : srDefine r c = setBit c (srBase r) 0 true := by
  have hany : (List.range 64).any (fun k => srDef c k && decide (srTag c k = srTag c r)) = false := by
    simpa using hu
  simp [srDefine, hd, hk, ht, hany]

theorem srDefine_untagged {r : Nat} (hd : srDef c r = false) (ht : srTag c r = 0) : srDefine r c = discard c (srBase r) 0 := by
  simp [srDefine, hd, ht]

theorem srDelete_empty {r : Nat} (hm : srMembers c r = 0) (ho : c.pool.offers = []) (hp : c.pool.mapping = []) :
    srDelete r c = setBit (scrubRegion r 1024 c) (srBase r) 0 false := by
  rw [srDelete, if_neg (by simp [hm, ho, hp])]
  rfl

theorem srDelete_held {r : Nat} (hm : srMembers c r ≠ 0) : srDelete r c = discard c (srBase r) 0 := if_pos (.inl hm)

/-- A region that is deleted is not defined, and its granules, and they alone, enter SCRUB (R577). -/
theorem srDelete_empty_effect {r : Nat} (hm : srMembers c r = 0) (ho : c.pool.offers = []) (hp : c.pool.mapping = [])
    (hf : poolIsFatal c = false) : srDef (srDelete r c) r = false ∧
      OnlyRegs [srBase r] { c with pool := (srDelete r c).pool } (srDelete r c) ∧
      ∀ g, g < 1024 → gtState (srDelete r c) g = if srHas c r g = true then gSCRUB else gtState c g := by
  have hd := poolOnly_scrubRegion r 1024 c
  rw [srDelete_empty hm ho hp]
  refine ⟨rbit_setBit_same (by norm_num) .., ?_, fun g hg => ?_⟩
  · have hr : OnlyRegs [srBase r] (scrubRegion r 1024 c) (setBit (scrubRegion r 1024 c) (srBase r) 0 false) :=
      onlyRegs_setBit (onlyRegs_refl _ _) (by simp)
    rw [PoolOnly] at hd
    rwa [setBit_pool, ← hd]
  · rw [gtState, setBit_pool, ← gtState, gtState_scrubRegion hf r 1024 hg]

/-! Key commands. -/
/-- The status register that shows a key slot. -/
def keyStat (kind slot : Nat) : Nat := 0x26048 + 8 * kind + 4 * (slot / 32)

/-- The command register shows a key command. -/
def keyShown (op kind slot : Nat) (c : Ctl) : Ctl := setFld (setFld (setFld c 0x26040 9 8 op) 0x26040 7 7 kind) 0x26040 5 0 slot

/-- A key command is accepted: the command register shows it, the key data is gone, and it takes 64 tc (R581, R602). -/
def keyTaken (op kind slot : Nat) (c : Ctl) : Ctl :=
  { keyShown op kind slot c with pool := { c.pool with keyData := {}, keyTill := c.time.ftc + 64 } }

/-- A key command ends with a result. -/
def keyDone (c : Ctl) (r : Nat) : Ctl := setFld c 0x26044 2 0 r

theorem exec_keyLoad (h : regsServed s.ctl = true) (kind slot : Nat) :
    exec (.keyLoad kind slot) s = .next { s with ctl := settled (keyCommand 1 kind slot s.ctl) } := onServed_of_served h _

theorem exec_keyErase (h : regsServed s.ctl = true) (kind slot : Nat) :
    exec (.keyErase kind slot) s = .next { s with ctl := settled (keyCommand 2 kind slot s.ctl) } := onServed_of_served h _

theorem regsBut_keyTaken {l : List Nat} (hl : 0x26040 ∈ l) (op kind slot : Nat) (c : Ctl) : RegsBut l c (keyTaken op kind slot c) :=
  regsBut_congr (regsBut_setFld (regsBut_setFld (regsBut_setFld (regsBut_refl l c) hl) hl) hl) rfl

theorem rbit_keyTaken {o : Nat} (ho : o ≠ 0x26040) (op kind slot : Nat) (c : Ctl) (i : Nat) :
    rbit (keyTaken op kind slot c) o i = rbit c o i := by
  rw [rbit, rbit, regsBut_keyTaken (List.mem_singleton_self _) op kind slot c o (by simpa using ho)]

theorem keyLoaded_keyTaken (op kind slot : Nat) (c : Ctl) : keyLoaded (keyTaken op kind slot c) kind slot = keyLoaded c kind slot :=
  rbit_keyTaken (by omega) ..

theorem keyInUse_keyTaken {slot : Nat} (hs : slot < 64) (op kind : Nat) (c : Ctl) :
    keyInUse (keyTaken op kind slot c) kind slot = keyInUse c kind slot := by
  unfold keyInUse
  split
  · exact rbit_keyTaken (by simp only [srBase]; omega) ..
  · rfl

theorem keyWords_keyShown (op kind slot : Nat) (c : Ctl) : keyWords (keyShown op kind slot c) = keyWords c := by
  unfold keyWords
  rw [show (keyShown op kind slot c).pool = c.pool from rfl]

/-- What a key command does once the one before it has ended (R581, R583, R602). -/
theorem keyCommand_free (ht : c.pool.keyTill ≤ c.time.ftc) (op kind slot : Nat) : keyCommand op kind slot c =
    if op = 1 then
      if keyLoaded (keyTaken op kind slot c) kind slot then keyDone (keyTaken op kind slot c) 2
      else if keyWords (keyShown op kind slot c) % 2 ^ 256 = keyWords (keyShown op kind slot c) / 2 ^ 256 ∨
          keyWords (keyShown op kind slot c) % 2 ^ 256 = 0 ∨ keyWords (keyShown op kind slot c) / 2 ^ 256 = 0 then
        keyDone (keyTaken op kind slot c) 3
      else keyDone (setKey (keyTaken op kind slot c) kind slot (some (keyWords (keyShown op kind slot c)))) 1
    else if keyInUse (keyTaken op kind slot c) kind slot then keyDone (keyTaken op kind slot c) 4
    else keyDone (setKey (keyTaken op kind slot c) kind slot none) 1 := by
  rw [keyCommand, if_neg ht.not_gt]
  rfl

theorem keyCommand_load {kind slot : Nat} (ht : c.pool.keyTill ≤ c.time.ftc) (hl : keyLoaded c kind slot = false)
    (hne : keyWords c % 2 ^ 256 ≠ keyWords c / 2 ^ 256) (hlo : keyWords c % 2 ^ 256 ≠ 0) (hhi : keyWords c / 2 ^ 256 ≠ 0) :
    keyCommand 1 kind slot c = keyDone (setKey (keyTaken 1 kind slot c) kind slot (some (keyWords c))) 1 := by
  rw [keyCommand_free ht, if_pos rfl, keyLoaded_keyTaken, hl, if_neg Bool.false_ne_true, keyWords_keyShown,
    if_neg (not_or.2 ⟨hne, not_or.2 ⟨hlo, hhi⟩⟩)]

theorem keyCommand_erase {kind slot : Nat} (hs : slot < 64) (ht : c.pool.keyTill ≤ c.time.ftc) :
    keyCommand 2 kind slot c = if keyInUse c kind slot then keyDone (keyTaken 2 kind slot c) 4
      else keyDone (setKey (keyTaken 2 kind slot c) kind slot none) 1 := by
  rw [keyCommand_free ht, if_neg (by norm_num), keyInUse_keyTaken hs]

@[simp] theorem keyDone_pool (c : Ctl) (r : Nat) : (keyDone c r).pool = c.pool := rfl
@[simp] theorem keyTaken_keys (op kind slot : Nat) (c : Ctl) : (keyTaken op kind slot c).pool.keys = c.pool.keys := rfl
@[simp] theorem keyTaken_keyData (op kind slot : Nat) (c : Ctl) : (keyTaken op kind slot c).pool.keyData = {} := rfl
@[simp] theorem keyTaken_keyTill (op kind slot : Nat) (c : Ctl) : (keyTaken op kind slot c).pool.keyTill = c.time.ftc + 64 := rfl
@[simp] theorem setKey_keyData (c : Ctl) (kind slot : Nat) (v : Option Nat) : (setKey c kind slot v).pool.keyData = c.pool.keyData := rfl
@[simp] theorem setKey_keyTill (c : Ctl) (kind slot : Nat) (v : Option Nat) : (setKey c kind slot v).pool.keyTill = c.pool.keyTill := rfl

theorem smGet_setKey (c : Ctl) (kind slot : Nat) (v : Option Nat) (k : Nat) : smGet (setKey c kind slot v).pool.keys 0 k =
    if k = 64 * kind + slot then BitVec.ofNat 512 (v.getD 0) else smGet c.pool.keys 0 k := smGet_smSet ..

theorem fld_keyDone {r : Nat} (hr : r < 8) (c : Ctl) : fld (keyDone c r) 0x26044 2 0 = r := by
  rw [keyDone, fld_setFld_same (by norm_num) (by norm_num)]
  exact Nat.mod_eq_of_lt hr

theorem keyLoaded_keyDone_setKey (c : Ctl) (kind slot r : Nat) (v : Option Nat) :
    keyLoaded (keyDone (setKey c kind slot v) r) kind slot = v.isSome := by
  have hne : keyStat kind slot ≠ 0x26044 := by unfold keyStat; omega
  have hs : keyLoaded (setKey c kind slot v) kind slot = v.isSome := rbit_setBit_same (Nat.mod_lt _ (by norm_num)) ..
  rw [← hs]
  exact congrArg (Nat.testBit · (slot % 32)) (rd_setFld_ne hne ..)

theorem regsBut_keyDone {l : List Nat} {d : Ctl} (h : RegsBut l c d) (ho : 0x26044 ∈ l) (r : Nat) : RegsBut l c (keyDone d r) :=
  regsBut_setFld h ho

theorem regsBut_setKey {l : List Nat} {d : Ctl} (h : RegsBut l c d) {kind slot : Nat} (ho : keyStat kind slot ∈ l) (v : Option Nat) :
    RegsBut l c (setKey d kind slot v) := regsBut_setBit h ho

/-- A key slot is loaded from the key data (R581). -/
theorem exec_keyLoad_sound {kind slot : Nat} (hv : regsServed s.ctl = true) (ht : s.ctl.pool.keyTill ≤ s.ctl.time.ftc)
    (hl : keyLoaded s.ctl kind slot = false) (hne : keyWords s.ctl % 2 ^ 256 ≠ keyWords s.ctl / 2 ^ 256)
    (hlo : keyWords s.ctl % 2 ^ 256 ≠ 0) (hhi : keyWords s.ctl / 2 ^ 256 ≠ 0) :
    ∃ c, exec (.keyLoad kind slot) s = .next { s with ctl := settled c } ∧ keyLoaded c kind slot = true ∧
      smGet c.pool.keys 0 (64 * kind + slot) = BitVec.ofNat 512 (keyWords s.ctl) ∧ c.pool.keyData = {} ∧
      c.pool.keyTill = s.ctl.time.ftc + 64 ∧ fld c 0x26044 2 0 = 1 ∧ RegsBut [0x26040, 0x26044, keyStat kind slot] s.ctl c := by
  refine ⟨_, exec_keyLoad hv kind slot, ?_⟩
  rw [keyCommand_load ht hl hne hlo hhi]
  refine ⟨keyLoaded_keyDone_setKey .., ?_, by simp, by simp, fld_keyDone (by norm_num) _, ?_⟩
  · rw [keyDone_pool, smGet_setKey, if_pos rfl, Option.getD_some]
  · exact regsBut_keyDone (regsBut_setKey (regsBut_keyTaken (by simp) 1 kind slot s.ctl) (by simp) _) (by simp) 1

/-- A key slot is erased unless it is in use (R583). -/
theorem exec_keyErase_effect {kind slot : Nat} (hs : slot < 64) (hv : regsServed s.ctl = true)
    (ht : s.ctl.pool.keyTill ≤ s.ctl.time.ftc) :
    ∃ c, exec (.keyErase kind slot) s = .next { s with ctl := settled c } ∧ c.pool.keyData = {} ∧
      (keyInUse s.ctl kind slot = true → fld c 0x26044 2 0 = 4 ∧ c.pool.keys = s.ctl.pool.keys) ∧
      (keyInUse s.ctl kind slot = false → fld c 0x26044 2 0 = 1 ∧ keyLoaded c kind slot = false ∧
        smGet c.pool.keys 0 (64 * kind + slot) = 0) ∧
      (∀ k, k ≠ 64 * kind + slot → smGet c.pool.keys 0 k = smGet s.ctl.pool.keys 0 k) ∧
      RegsBut [0x26040, 0x26044, keyStat kind slot] s.ctl c := by
  refine ⟨_, exec_keyErase hv kind slot, ?_⟩
  rw [keyCommand_erase hs ht]
  have hr : RegsBut [0x26040, 0x26044, keyStat kind slot] s.ctl (keyTaken 2 kind slot s.ctl) :=
    regsBut_keyTaken (by simp) 2 kind slot s.ctl
  cases hu : keyInUse s.ctl kind slot with
  | true =>
    rw [if_pos rfl]
    exact ⟨by simp, fun _ => ⟨fld_keyDone (by norm_num) _, by simp⟩, fun h => absurd h (by decide), fun _ _ => by simp,
      regsBut_keyDone hr (by simp) 4⟩
  | false =>
    rw [if_neg Bool.false_ne_true]
    refine ⟨by simp, fun h => absurd h (by decide), fun _ => ⟨fld_keyDone (by norm_num) _, keyLoaded_keyDone_setKey .., ?_⟩,
      fun k hk => ?_, ?_⟩
    · rw [keyDone_pool, smGet_setKey, if_pos rfl]
      rfl
    · rw [keyDone_pool, smGet_setKey, if_neg hk, keyTaken_keys]
    · exact regsBut_keyDone (regsBut_setKey hr (by simp) _) (by simp) 1

end Sys2Proof.Machine
end

section
/-! PROOF. Host identities (R555, R556, R618, R619, R624): KILL and REVIVE as they are written, and the decoder's base. -/
namespace Sys2Proof.Machine
open Sys2Proof.Safety

variable {c : Ctl} {s : State} {h : Nat}

theorem exec_kill (hv : regsServed s.ctl = true) (h : Nat) : exec (.kill h) s = .next { s with ctl := settled (killAccept h s.ctl) } :=
  onServed_of_served hv _

theorem exec_revive (hv : regsServed s.ctl = true) (h : Nat) : exec (.revive h) s = .next { s with ctl := settled (reviveHost h s.ctl) } :=
  onServed_of_served hv _

theorem exec_hdmDecoderCommit (hv : hostUp s.ctl = true) (base : Nat) :
    exec (.hdmDecoderCommit base) s = .next { s with ctl := settled (hdmCommit base s.ctl) } := onHost_of_up hv _

/-! KILL is written (R618). -/
theorem killAccept_invalid (hi : hostValid c h = false) : killAccept h c = discard c 0x2000C 0 := if_pos hi

/-- A KILL of a host identity that is VALID is accepted, to take effect 64 tc later (Assumption 84). -/
theorem killAccept_valid (hh : h < 64) (hi : hostValid c h = true) : (killAccept h c).pool.kills = c.pool.kills ++ [(h, c.time.ftc + 64)] ∧
    fld (killAccept h c) 0x2000C 9 8 = 1 ∧ fld (killAccept h c) 0x2000C 5 0 = h ∧
    (∀ x, x ∈ (killAccept h c).pool.unmapping → x ∈ c.pool.unmapping) ∧ OnlyRegs [0x2000C] c { killAccept h c with pool := c.pool } := by
  have hregs : (killAccept h c).regs = (setFld (setFld c 0x2000C 9 8 1) 0x2000C 5 0 h).regs := by simp [killAccept, hi]
  have hk : killAccept h c = _ := if_neg (by simp [hi])
  refine ⟨by rw [hk]; rfl, ?_, ?_, ?_, by rw [hk]; rfl, ?_⟩
  · rw [fld_congr hregs, fld_setFld_apart (by norm_num) (by norm_num) (by norm_num), fld_setFld_same (by norm_num) (by norm_num)]
    rfl
  · rw [fld_congr hregs, fld_setFld_same (by norm_num) (by norm_num)]
    exact Nat.mod_eq_of_lt hh
  · rw [hk]
    exact fun x hx => List.mem_of_mem_filter hx
  · exact regsBut_congr (regsBut_setFld (regsBut_setFld (regsBut_refl _ c) (by simp)) (by simp)) hregs

/-! REVIVE is written (R624). -/
theorem reviveHost_free (hi : hostValid c h = true) (he : hrtOf c h = []) (hg : c.pool.gt = {}) : reviveHost h c =
    wr (setBit (setFld (setFld c 0x2000C 9 8 2) 0x2000C 5 0 h) (hitLo h) 30 false) (weTok h) 0 := by
  rw [reviveHost, if_neg (by simp [hi, he, hg])]

theorem hitLo_ne_weTok {k : Nat} (hk : k < 64) (hh : h < 64) : hitLo k ≠ weTok h := by
  unfold hitLo weTok
  omega

/-- A host that holds nothing is alive again, without tokens. -/
theorem reviveHost_free_effect (hh : h < 64) (hi : hostValid c h = true) (he : hrtOf c h = []) (hg : c.pool.gt = {}) :
    hostDead (reviveHost h c) h = false ∧ rd (reviveHost h c) (weTok h) = 0 ∧
      OnlyRegs [0x2000C, hitLo h, weTok h] c (reviveHost h c) := by
  rw [reviveHost_free hi he hg]
  refine ⟨?_, rd_wr_same .., ?_⟩
  · rw [hostDead, rbit, rd_wr_ne (hitLo_ne_weTok hh hh)]
    exact rbit_setBit_same (by norm_num) ..
  · exact onlyRegs_wr (onlyRegs_setBit (onlyRegs_setFld (onlyRegs_setFld (onlyRegs_refl _ c) (by simp)) (by simp)) (by simp)) (by simp)

/-! The decoder commits (R555, R556). -/
theorem hitLo_ne_hitHi (h : Nat) : hitLo h ≠ hitHi h := by
  unfold hitLo hitHi
  omega

theorem hpaBase_setFld (c : Ctl) (h b : Nat) : hpaBase (setFld c (hitHi h) 23 0 b) h = b % 2 ^ 24 * 2 ^ 28 := by
  rw [hpaBase, fld_setFld_same (by norm_num) (by norm_num)]

theorem hpaBase_setBit (c : Ctl) (h i : Nat) (b : Bool) : hpaBase (setBit c (hitLo h) i b) h = hpaBase c h := by
  rw [hpaBase, hpaBase, fld, fld, rd_setBit_ne (hitLo_ne_hitHi h).symm]

/-- The base is written, and VALID is set unless another identity has the SPID or too many trackers are reserved (R555, R586). -/
theorem hdmCommit_free (base : Nat) (hf : hitHeld c (localHost c) = false) : hdmCommit base c =
    if hostValid c (localHost c) = false ∧
        (spidTaken c (localHost c) (fld c (hitLo (localHost c)) 11 0) = true ∨ overTracked c (localHost c) = true) then
      setFld c (hitHi (localHost c)) 23 0 (base / 2 ^ 28 % 2 ^ 24)
    else setBit (setFld c (hitHi (localHost c)) 23 0 (base / 2 ^ 28 % 2 ^ 24)) (hitLo (localHost c)) 31 true := by
  rw [hdmCommit, if_neg (by simp [hf])]

theorem hostValid_of_overTracked (ho : overTracked c h = true) : hostValid c h = false := by
  simp only [overTracked, Bool.and_eq_true, Bool.not_eq_true'] at ho
  exact ho.1

theorem hdmCommit_valid (base : Nat) (hf : hitHeld c (localHost c) = false)
    (hs : spidTaken c (localHost c) (fld c (hitLo (localHost c)) 11 0) = false) (ho : overTracked c (localHost c) = false) :
    hostValid (hdmCommit base c) (localHost c) = true ∧
      hpaBase (hdmCommit base c) (localHost c) = base / 2 ^ 28 % 2 ^ 24 * 2 ^ 28 ∧
      OnlyRegs [hitLo (localHost c), hitHi (localHost c)] c (hdmCommit base c) := by
  rw [hdmCommit_free base hf, if_neg (by simp [hs, ho])]
  refine ⟨rbit_setBit_same (by norm_num) .., ?_, onlyRegs_setBit (onlyRegs_setFld (onlyRegs_refl _ c) (by simp)) (by simp)⟩
  rw [hpaBase_setBit, hpaBase_setFld, Nat.mod_mod]

theorem hdmCommit_overTracked (base : Nat) (hf : hitHeld c (localHost c) = false) (ho : overTracked c (localHost c) = true) :
    hostValid (hdmCommit base c) (localHost c) = false ∧ OnlyRegs [hitHi (localHost c)] c (hdmCommit base c) := by
  have hv := hostValid_of_overTracked ho
  rw [hdmCommit_free base hf, if_pos ⟨hv, .inr ho⟩]
  refine ⟨?_, onlyRegs_setFld (onlyRegs_refl _ c) (by simp)⟩
  rw [hostValid, rbit, rd_setFld_ne (hitLo_ne_hitHi _)]
  exact hv

end Sys2Proof.Machine
end

section
/-! PROOF. A KILL takes effect (R618 to R622, R646): stage by stage, and what each stage leaves as it was. -/
namespace Sys2Proof.Machine
open Sys2Proof.Safety

variable {c d : Ctl} {l : List Nat} {h : Nat}

/-! The stages. -/
/-- The host is dead, and its unmaps wait no more. -/
def killMark (h : Nat) (c : Ctl) : Ctl :=
  let c := setBit c (hitLo h) 30 true
  { c with pool := { c.pool with unmapping := c.pool.unmapping.filter (fun x => x.host ≠ h) } }
/-- Its entries are removed. -/
def killEntries (h : Nat) (c : Ctl) : Ctl := (hrtOf c h).foldl removeEntry c
/-- The extents it accepted get no entry. -/
def killMapping (h : Nat) (c : Ctl) : Ctl := { c with pool := { c.pool with mapping := c.pool.mapping.filter (fun x => x.host ≠ h) } }
/-- Its offers end. -/
def killOffers (h : Nat) (c : Ctl) : Ctl := (c.pool.offers.filter (fun o => o.host = h)).foldl dropOffer c
/-- The granules of extents that get no entry become FREE. -/
def freeLost (lost : List ExtWait) (c : Ctl) : Ctl := lost.foldl (fun c x => (runOf x.first x.cnt).foldl toFree c) c
/-- Granules go to QUARANTINE. -/
def quarantine (h : Nat) (q : List Nat) (c : Ctl) : Ctl := q.foldl (fun c g => setGt c g gQUARANTINE 0 h) c
/-- The host leaves every region. -/
def leaveRegions (h : Nat) (c : Ctl) : Ctl := foldUp 64 (fun c r => setMember c r h false) c
/-- The death of a host that held something is reported (R646). -/
def killReport (held : Bool) (detail : Nat) (c : Ctl) : Ctl := if held then raise c 0x7303 noPart (unitOf c 7 0) detail else c

/-- A KILL, up to the granules it leaves. -/
def killExtents (h : Nat) (c : Ctl) : Ctl := killOffers h (killMapping h (killEntries h (killMark h c)))

theorem killHost_stages (h : Nat) (c : Ctl) : ∃ lost q detail, killHost h c =
    killReport (hostHolds c h) detail (wr (leaveRegions h (quarantine h q (freeLost lost (killExtents h c)))) (weTok h) 0) :=
  ⟨_, _, _, rfl⟩

/-! FTC and what waits. -/
theorem waits_killEntries (h : Nat) (c : Ctl) : waits (killEntries h c) = waits c := foldl_image (g := waits) waits_removeEntry _ _

theorem waits_freeLost (lost : List ExtWait) (c : Ctl) : waits (freeLost lost c) = waits c :=
  foldl_image (g := waits) (fun _ _ => foldl_image (g := waits) waits_toFree _ _) _ _

theorem waits_quarantine (h : Nat) (q : List Nat) (c : Ctl) : waits (quarantine h q c) = waits c :=
  foldl_image (g := waits) (fun _ _ => waits_setGt ..) _ _

theorem waits_leaveRegions (h : Nat) (c : Ctl) : waits (leaveRegions h c) = waits c :=
  foldl_image (g := waits) (fun _ _ => waits_setMember ..) _ _

theorem waits_killReport (held : Bool) (detail : Nat) (c : Ctl) : waits (killReport held detail c) = waits c := by
  unfold killReport
  split
  · exact waits_raise ..
  · rfl

/-- Of what waits, the KILL takes away what is its host's. -/
theorem waits_killExtents (h : Nat) (c : Ctl) : waits (killExtents h c) =
    (c.time, c.pool.kills, c.pool.offers.diff (c.pool.offers.filter (fun o => o.host = h)), c.pool.mapping.filter (fun x => x.host ≠ h),
      c.pool.unmapping.filter (fun x => x.host ≠ h)) := by
  have he := waits_killEntries h (killMark h c)
  simp only [waits, Prod.mk.injEq] at he
  obtain ⟨ht, hk, ho, hm, hu⟩ := he
  rw [killExtents, killOffers, waits_dropOffers]
  simp only [killMapping, ht, hk, ho, hm, hu]
  rfl

theorem waits_killHost (h : Nat) (c : Ctl) : waits (killHost h c) = waits (killExtents h c) := by
  obtain ⟨lost, q, detail, he⟩ := killHost_stages h c
  rw [he, waits_killReport, waits_wr, waits_leaveRegions, waits_quarantine, waits_freeLost]

/-! Registers. -/
theorem poolOnly_freeLost (lost : List ExtWait) (c : Ctl) : PoolOnly c (freeLost lost c) :=
  poolOnly_foldl (fun d _ => poolOnly_foldl poolOnly_toFree _ d) _ c

theorem poolOnly_quarantine (h : Nat) (q : List Nat) (c : Ctl) : PoolOnly c (quarantine h q c) :=
  poolOnly_foldl (fun _ _ => poolOnly_setGt ..) _ c

theorem regsBut_killExtents (hl : entryRegs ⊆ l) : RegsBut l (killMark h c) (killExtents h c) := by
  have he : RegsBut l (killMark h c) (killEntries h (killMark h c)) :=
    foldl_keeps (P := RegsBut l (killMark h c)) (fun d e hd => regsBut_removeEntry hd hl e) _ _ (regsBut_refl _ _)
  exact regsBut_congr (regsBut_congr he rfl) (poolOnly_foldl poolOnly_dropOffer _ _).regs

theorem regsBut_leaveRegions (hd : RegsBut l c d) (hl : entryRegs ⊆ l) (h : Nat) : RegsBut l c (leaveRegions h d) :=
  List.foldlRecOn _ _ hd fun _ he r hr =>
    have hr := List.mem_range.1 hr
    regsBut_setMember he (hl (mem_entryRegs hr (by simp))) (hl (mem_entryRegs hr (by simp)))

theorem killReport_regs (held : Bool) (detail : Nat) (c : Ctl) : (killReport held detail c).regs = c.regs := by
  unfold killReport
  split
  · exact raise_regs ..
  · rfl

/-- The registers that a KILL can touch once the host is marked dead. -/
def killRegs (h : Nat) : List Nat := weTok h :: entryRegs

theorem regsBut_killHost (h : Nat) (c : Ctl) : RegsBut (killRegs h) (killMark h c) (killHost h c) := by
  obtain ⟨lost, q, detail, he⟩ := killHost_stages h c
  have hl : entryRegs ⊆ killRegs h := List.subset_cons_self ..
  have hq : RegsBut (killRegs h) (killMark h c) (quarantine h q (freeLost lost (killExtents h c))) :=
    regsBut_congr (regsBut_congr (regsBut_killExtents hl) (poolOnly_freeLost lost _).regs) (poolOnly_quarantine h q _).regs
  rw [he]
  exact regsBut_congr (regsBut_wr (regsBut_leaveRegions hq hl h) List.mem_cons_self) (killReport_regs ..)

theorem hitLo_notMem_killRegs {k : Nat} (hh : h < 64) (hk : k < 64) : hitLo k ∉ killRegs h :=
  fun hm => (List.mem_cons.1 hm).elim (hitLo_ne_weTok hk hh) (hitLo_notMem_entryRegs hk)

theorem hostDead_congr {k : Nat} (he : rd d (hitLo k) = rd c (hitLo k)) : hostDead d k = hostDead c k := by
  rw [hostDead, hostDead, rbit, rbit, he]

/-- The host is dead, and no other host dies or revives. -/
theorem hostDead_killHost {k : Nat} (hh : h < 64) (hk : k < 64) (c : Ctl) :
    hostDead (killHost h c) k = if k = h then true else hostDead c k := by
  rw [hostDead_congr (regsBut_killHost h c _ (hitLo_notMem_killRegs hh hk))]
  have hm : (killMark h c).regs = (setBit c (hitLo h) 30 true).regs := rfl
  rw [hostDead, rbit_congr hm]
  split
  · rename_i e
    rw [e, rbit_setBit_same (by norm_num)]
  · rename_i e
    have hne : hitLo k ≠ hitLo h := by unfold hitLo; omega
    rw [rbit_setBit_ne hne, hostDead]

theorem rd_weTok_killHost (h : Nat) (c : Ctl) : rd (killHost h c) (weTok h) = 0 := by
  obtain ⟨lost, q, detail, he⟩ := killHost_stages h c
  rw [he, rd_congr (killReport_regs ..), rd_wr_same]
  rfl

theorem srMembers_congr {r : Nat} (hd : RegsBut l c d) (hl : ∀ r < 64, srBase r + 0x28 ∉ l ∧ srBase r + 0x2C ∉ l) (hr : r < 64) :
    srMembers d r = srMembers c r := rd64_congr_regs (hd _ (hl r hr).1) (hd _ (hl r hr).2)

/-- The host is a member of no region. -/
theorem bitN_srMembers_killHost {r : Nat} (hh : h < 64) (hr : r < 64) (c : Ctl) : bitN (srMembers (killHost h c) r) h = false := by
  obtain ⟨lost, q, detail, he⟩ := killHost_stages h c
  have hw : RegsBut [weTok h] (leaveRegions h (quarantine h q (freeLost lost (killExtents h c)))) (killHost h c) := by
    rw [he]
    exact regsBut_congr (regsBut_wr (regsBut_refl _ _) (by simp)) (killReport_regs ..)
  rw [srMembers_congr hw (fun r _ => by simp only [srBase, weTok, List.mem_singleton]; omega) hr]
  exact bitN_srMembers_leave _ h 64 r hr

/-! The page movers stop after it: their status registers are apart from all of these. -/
theorem lt_of_mem_pmStats {o : Nat} (ho : o ∈ pmStats) : 0x19000 ≤ o ∧ o < 0x19200 := by
  obtain ⟨m, hm, rfl⟩ := List.mem_map.1 ho
  have := List.mem_range.1 hm
  unfold pmStat
  omega

theorem rd_pmKill {o : Nat} (ho : o < 0x19000 ∨ 0x19200 ≤ o) (c : Ctl) (k : Nat) : rd (pmKill c k) o = rd c o :=
  regsBut_pmKill (regsBut_refl _ c) (List.Subset.refl _) k o fun hm => by
    have := lt_of_mem_pmStats hm
    omega

theorem hostDead_pmKill (c : Ctl) (h k : Nat) : hostDead (pmKill c h) k = hostDead c k :=
  hostDead_congr (rd_pmKill (by unfold hitLo; omega) c h)

theorem srMembers_pmKill (c : Ctl) (h r : Nat) : srMembers (pmKill c h) r = srMembers c r :=
  rd64_congr_regs (rd_pmKill (by unfold srBase; omega) c h) (rd_pmKill (by unfold srBase; omega) c h)

/-- What a KILL does to its host, to the others and to what waits. -/
theorem pmKill_killHost (hh : h < 64) (c : Ctl) :
    hostDead (pmKill (killHost h c) h) h = true ∧ rd (pmKill (killHost h c) h) (weTok h) = 0 ∧
      (pmKill (killHost h c) h).pool.kills = c.pool.kills ∧ (pmKill (killHost h c) h).time = c.time ∧
      (∀ o, o ∈ (pmKill (killHost h c) h).pool.offers → o.host ≠ h) ∧
      (∀ x, x ∈ (pmKill (killHost h c) h).pool.mapping ++ (pmKill (killHost h c) h).pool.unmapping → x.host ≠ h) ∧
      (∀ r, r < 64 → bitN (srMembers (pmKill (killHost h c) h) r) h = false) ∧
      ∀ k, k < 64 → k ≠ h → hostDead (pmKill (killHost h c) h) k = hostDead c k := by
  have hw := waits_pmKill (killHost h c) h
  rw [waits_killHost, waits_killExtents] at hw
  simp only [waits, Prod.mk.injEq] at hw
  obtain ⟨htime, hkills, hoffers, hmapping, hunmapping⟩ := hw
  refine ⟨?_, ?_, hkills, htime, fun o ho => ?_, fun x hx => ?_, fun r hr => ?_, fun k hk hne => ?_⟩
  · rw [hostDead_pmKill, hostDead_killHost hh hh, if_pos rfl]
  · rw [rd_pmKill (by unfold weTok; omega), rd_weTok_killHost]
  · rw [hoffers] at ho
    simpa using not_of_mem_diff_filter ho
  · rw [hmapping, hunmapping, List.mem_append, List.mem_filter, List.mem_filter] at hx
    rcases hx with hx | hx <;> simpa using hx.2
  · rw [srMembers_pmKill, bitN_srMembers_killHost hh hr]
  · rw [hostDead_pmKill, hostDead_killHost hh hk, if_neg hne]

/-! The unmap instant (R607, R619). -/
theorem firstExt_mem {m : List ExtWait} {x : ExtWait} (hx : firstExt m = some x) : x ∈ m := by
  have key : ∀ y, firstExt m = some y → y ∈ m := List.foldlRecOn m _ (motive := fun b => ∀ y, b = some y → y ∈ m) (by simp)
    fun b hb a ha y hy => by
      split at hy
      · exact Option.some.inj hy ▸ ha
      · split at hy
        · exact Option.some.inj hy ▸ ha
        · exact hb y hy
  exact key x hx

/-- The instant of the first KILL: it waits no more. -/
def killTaken (due : Nat) (r : List (Nat × Nat)) (c : Ctl) : Ctl :=
  { advanceTo c due with pool := { (advanceTo c due).pool with kills := r } }

theorem killTaken_kills (due : Nat) (r : List (Nat × Nat)) (c : Ctl) : (killTaken due r c).pool.kills = r := rfl
theorem killTaken_time (due : Nat) (r : List (Nat × Nat)) (c : Ctl) : (killTaken due r c).time = (advanceTo c due).time := rfl
theorem killTaken_regs (due : Nat) (r : List (Nat × Nat)) (c : Ctl) : (killTaken due r c).regs = c.regs := advanceTo_regs ..

theorem unmapInstant_kill {due : Nat} {r : List (Nat × Nat)} (hk : c.pool.kills = (h, due) :: r)
    (hu : ∀ x, x ∈ c.pool.unmapping → due ≤ x.due) : unmapInstant c = pmKill (killHost h (killTaken due r c)) h := by
  have hn : ¬ (match firstExt c.pool.unmapping with | some x => decide (x.due < due) | none => false) = true := by
    split
    · rename_i x hx
      simpa using hu x (firstExt_mem hx)
    · simp
  unfold unmapInstant
  rw [hk]
  exact if_neg hn

end Sys2Proof.Machine
end

section
/-! PROOF. Endpoint-fatal state (R631 to R633). -/
namespace Sys2Proof.Machine
open Sys2Proof.Safety

variable {c : Ctl} {s : State}

theorem exec_endpointFatal (cause : Nat) (s : State) :
    exec (.endpointFatal cause) s = .next { s with ctl := settled (poolFatal cause s.ctl) } := rfl

/-! The stages. -/
/-- The state register shows the state and its cause. -/
def fatalMarked (cause : Nat) (c : Ctl) : Ctl := setFld (setBit c 0x20014 0 true) 0x20014 3 1 cause
/-- The event, and ERR_FATAL. -/
def fatalReported (cause : Nat) (c : Ctl) : Ctl :=
  emit (if cause ≥ 2 then raise c 0x7304 noPart (unitOf c 7 0) cause else c) (.errMsg 2)
/-- Viral, if the host enabled it. -/
def viralSent (c : Ctl) : Ctl := if Config.freeBit (drawFree c).2 then emit (drawFree c).1 .viral else (drawFree c).1
/-- A Fatal record for every host with an entry. -/
def fatalLogged (c : Ctl) : Ctl :=
  foldUp 64 (fun c h => if (hrtOf c h).isEmpty then c else cxlLog c h 3 { kind := 0, what := 4, dpa := 0 }) c
/-- Requests are answered, with none left in the endpoint. -/
def fatalAnswered (rs : List PoolReq) (c : Ctl) : Ctl :=
  rs.foldl fatalAnswer { c with pool := { c.pool with waiting := [], lines := [], reads := [] } }

theorem poolFatal_stages (hf : poolIsFatal c = false) (cause : Nat) :
    ∃ rs, poolFatal cause c = fatalAnswered rs (fatalLogged (viralSent (fatalReported cause (fatalMarked cause c)))) := by
  rw [poolFatal, if_neg (by simp [hf])]
  obtain ⟨d, n, hd⟩ : ∃ d n, drawFree (fatalReported cause (fatalMarked cause c)) = (d, n) := ⟨_, _, rfl⟩
  rw [viralSent, hd]
  unfold fatalReported fatalMarked at hd
  dsimp only
  rw [hd, fatalLogged]
  dsimp only
  generalize foldUp 64 _ _ = e
  exact ⟨_, rfl⟩

theorem poolFatal_fatal (hf : poolIsFatal c = true) (cause : Nat) : poolFatal cause c = c := if_pos hf

/-! Outputs: what was sent stays sent. -/
theorem mem_outs_emit {x : Emit} (hx : x ∈ c.outs) (e : Emit) : x ∈ (emit c e).outs := by
  unfold emit
  split
  · exact hx
  · exact List.mem_cons_of_mem _ hx

theorem mem_outs_emit_self {e : Emit} (he : onChain e = false) (c : Ctl) : e ∈ (emit c e).outs := by
  rw [emit, if_neg (by simp [he])]
  exact List.mem_cons_self

theorem mem_outs_cxlLog {x : Emit} (hx : x ∈ c.outs) (h log : Nat) (r : CxlRec) : x ∈ (cxlLog c h log r).outs := by
  unfold cxlLog
  dsimp only
  split
  · exact hx
  · split
    · refine mem_outs_emit ?_ _
      exact hx
    · exact hx

theorem mem_outs_fatalAnswer {x : Emit} (hx : x ∈ c.outs) (r : PoolReq) : x ∈ (fatalAnswer c r).outs := by
  unfold fatalAnswer poolAnswer
  split
  · unfold pmLine
    split <;> exact hx
  · split <;> exact mem_outs_emit (c := freeTracker c r.host) hx _

theorem mem_outs_fatalLogged {x : Emit} (hx : x ∈ c.outs) : x ∈ (fatalLogged c).outs :=
  foldUp_keeps (P := fun d => x ∈ d.outs) (fun d h hd => by
    split
    · exact hd
    · exact mem_outs_cxlLog hd ..) 64 c hx

theorem mem_outs_fatalAnswered {x : Emit} (hx : x ∈ c.outs) (rs : List PoolReq) : x ∈ (fatalAnswered rs c).outs :=
  foldl_keeps (P := fun d : Ctl => x ∈ d.outs) (fun _ r hd => mem_outs_fatalAnswer hd r) rs _ hx

theorem errMsg_mem_fatalReported (cause : Nat) (c : Ctl) : Emit.errMsg 2 ∈ (fatalReported cause c).outs := mem_outs_emit_self rfl _

theorem mem_outs_viralSent {x : Emit} (hx : x ∈ c.outs) : x ∈ (viralSent c).outs := by
  unfold viralSent
  split
  · refine mem_outs_emit ?_ _
    exact hx
  · exact hx

/-! The state register: no request's answer touches it. -/
theorem fatalReported_regs (cause : Nat) (c : Ctl) : (fatalReported cause c).regs = c.regs := by
  rw [fatalReported, emit_regs]
  split
  · exact raise_regs ..
  · rfl

theorem viralSent_regs (c : Ctl) : (viralSent c).regs = c.regs := by
  unfold viralSent
  split
  · exact emit_regs ..
  · rfl

theorem fatalLogged_regs (c : Ctl) : (fatalLogged c).regs = c.regs :=
  foldl_image (g := Ctl.regs) (fun d h => by
    split
    · rfl
    · exact cxlLog_regs ..) _ c

theorem rd_fatalAnswer (c : Ctl) (r : PoolReq) : rd (fatalAnswer c r) 0x20014 = rd c 0x20014 := by
  have hne : 0x20014 ≠ weUsed r.host := by unfold weUsed; omega
  unfold fatalAnswer poolAnswer
  split
  · exact rd_congr (pmLine_regs ..) _
  · split <;> exact (rd_congr (emit_regs ..) _).trans (rd_wr_ne hne ..)

theorem rd_fatalAnswered (rs : List PoolReq) (c : Ctl) : rd (fatalAnswered rs c) 0x20014 = rd c 0x20014 :=
  foldl_image (g := fun d => rd d 0x20014) rd_fatalAnswer rs _

/-! What waits in the endpoint. -/
/-- The requests at the weirs, the lines that wait for slots and the read data on its way. -/
def inEndpoint (c : Ctl) : List PoolReq × List PoolLine × List PoolBack := (c.pool.waiting, c.pool.lines, c.pool.reads)

theorem inEndpoint_fatalAnswer (c : Ctl) (r : PoolReq) : inEndpoint (fatalAnswer c r) = inEndpoint c := by
  unfold fatalAnswer poolAnswer
  split
  · unfold pmLine
    split <;> rfl
  · split <;> simp [inEndpoint, freeTracker]

theorem inEndpoint_fatalAnswered (rs : List PoolReq) (c : Ctl) : inEndpoint (fatalAnswered rs c) = ([], [], []) :=
  foldl_image (g := inEndpoint) inEndpoint_fatalAnswer rs _

/-- The endpoint enters endpoint-fatal state with its cause, sends ERR_FATAL, and nothing waits in it any more. -/
theorem poolFatal_enters (hf : poolIsFatal c = false) {cause : Nat} (hc : cause < 8) : poolIsFatal (poolFatal cause c) = true ∧
    fld (poolFatal cause c) 0x20014 3 1 = cause ∧ inEndpoint (poolFatal cause c) = ([], [], []) ∧
      Emit.errMsg 2 ∈ (poolFatal cause c).outs := by
  obtain ⟨rs, he⟩ := poolFatal_stages hf cause
  have hr : rd (poolFatal cause c) 0x20014 = rd (fatalMarked cause c) 0x20014 := by
    rw [he, rd_fatalAnswered, rd_congr (fatalLogged_regs _), rd_congr (viralSent_regs _), rd_congr (fatalReported_regs ..)]
  refine ⟨?_, ?_, he ▸ inEndpoint_fatalAnswered rs _, ?_⟩
  · rw [poolIsFatal, rbit, hr, fatalMarked, rd_setFld_same (by norm_num) (by norm_num), testBit_setBits (by norm_num), if_neg (by norm_num)]
    exact rbit_setBit_same (by norm_num) ..
  · rw [fld, hr, ← fld, fatalMarked, fld_setFld_same (by norm_num) (by norm_num)]
    exact Nat.mod_eq_of_lt hc
  · rw [he]
    exact mem_outs_fatalAnswered (mem_outs_fatalLogged (mem_outs_viralSent (errMsg_mem_fatalReported ..))) rs

end Sys2Proof.Machine
end

section
/-! PROOF. Shared regions, keys and hosts (R555, R573, R577, R581, R583, R602, R619, R624, R631 to R633): the statement. -/
namespace Sys2Proof.Machine
open Sys2Proof.Safety

theorem exec_unmap {s : State} (hv : regsServed s.ctl = true) : exec .unmap s = .next { s with ctl := settled (unmapInstant s.ctl) } :=
  onServed_of_served hv _

/-- A KILL whose instant comes first takes effect (R619). -/
theorem exec_unmap_kill {s : State} {h due : Nat} {r : List (Nat × Nat)} (hh : h < 64) (hv : regsServed s.ctl = true)
    (hk : s.ctl.pool.kills = (h, due) :: r) (hu : ∀ x, x ∈ s.ctl.pool.unmapping → due ≤ x.due) :
    ∃ c, exec .unmap s = .next { s with ctl := settled c } ∧ hostDead c h = true ∧ rd c (weTok h) = 0 ∧ c.pool.kills = r ∧
      c.time = (advanceTo s.ctl due).time ∧
      (∀ o, o ∈ c.pool.offers → o.host ≠ h) ∧ (∀ x, x ∈ c.pool.mapping ++ c.pool.unmapping → x.host ≠ h) ∧
      (∀ r, r < 64 → bitN (srMembers c r) h = false) ∧ (∀ k, k < 64 → k ≠ h → hostDead c k = hostDead s.ctl k) := by
  refine ⟨_, exec_unmap hv, ?_⟩
  rw [unmapInstant_kill hk hu]
  obtain ⟨hdead, htok, hkills, htime, hoffers, hexts, hmember, hothers⟩ := pmKill_killHost hh (killTaken due r s.ctl)
  rw [killTaken_kills] at hkills
  rw [killTaken_time] at htime
  exact ⟨hdead, htok, hkills, htime, hoffers, hexts, hmember,
    fun k hk64 hne => (hothers k hk64 hne).trans (rbit_congr (killTaken_regs ..) ..)⟩

/-- Settles O43: each clause is the effect of its command, in the order of the statement; a KILL's own is that of its stages. -/
theorem regionsKeysAndHosts : Obligations.RegionsKeysAndHosts := by
  unfold Obligations.RegionsKeysAndHosts
  refine ⟨?define, ?untagged, ?delete, ?held, ?load, ?erase, ?kill, ?invalid, ?dies, ?revive, ?commit, ?tracked, ?fatal, ?again⟩
  case define =>
    intro s r _ hv hd hk ht hu
    refine ⟨_, exec_srDefine hv r, ?_⟩
    rw [srDefine_sound hd hk ht hu]
    exact ⟨rbit_setBit_same (by norm_num) .., onlyRegs_setBit (onlyRegs_refl _ _) (by simp)⟩
  case untagged =>
    intro s r hv hd ht
    rw [exec_srDefine hv, srDefine_untagged hd ht]
  case delete =>
    intro s r _ hv hm ho hp hf
    exact ⟨_, exec_srDelete hv r, srDelete_empty_effect hm ho hp hf⟩
  case held =>
    intro s r hv hm
    rw [exec_srDelete hv, srDelete_held hm]
  case load =>
    intro s kind slot _ _ hv ht hl hne hlo hhi
    exact exec_keyLoad_sound hv ht hl hne hlo hhi
  case erase =>
    intro s kind slot _ hs hv ht
    exact exec_keyErase_effect hs hv ht
  case kill =>
    intro s h hh hv hi
    exact ⟨_, exec_kill hv h, killAccept_valid hh hi⟩
  case invalid =>
    intro s h hv hi
    rw [exec_kill hv, killAccept_invalid hi]
  case dies =>
    intro s h due r hh hv hk hu
    exact exec_unmap_kill hh hv hk hu
  case revive =>
    intro s h hh hv hi he hg
    exact ⟨_, exec_revive hv h, reviveHost_free_effect hh hi he hg⟩
  case commit =>
    intro s base hv hf hs ho
    exact ⟨_, exec_hdmDecoderCommit hv base, hdmCommit_valid base hf hs ho⟩
  case tracked =>
    intro s base hv hf ho
    exact ⟨_, exec_hdmDecoderCommit hv base, hdmCommit_overTracked base hf ho⟩
  case fatal =>
    intro s cause hf hc
    obtain ⟨hfatal, hcause, hin, hout⟩ := poolFatal_enters hf hc
    simp only [inEndpoint, Prod.mk.injEq] at hin
    obtain ⟨hwaiting, hlines, hreads⟩ := hin
    exact ⟨_, exec_endpointFatal cause s, hfatal, hcause, hwaiting, hlines, hreads, hout⟩
  case again =>
    intro s cause hf
    rw [exec_endpointFatal, poolFatal_fatal hf]

end Sys2Proof.Machine
end

section
/-! SUPPORT. The rules that the spindle's commands need of shared operations: commands of blocks that run, a fold of which one step acts,
little-endian bytes, and whole words written into tile memory (R4, R256, R1074). -/
namespace Sys2Proof.Machine
open Sys2Proof.Safety

variable {c d : Ctl} {l : List Nat}

/-! The shape of a command, the registers it changes, and instants. -/
theorem onCtl_alive {s : State} (h : alive s.ctl = true) (f : Ctl → Ctl) :
    onCtl (fun c => whenAlive c f) s = .next { s with ctl := settled (f s.ctl) } := by
  rw [onCtl_next, whenAlive, if_pos h]

theorem onlyRegs_cnt1 (h : OnlyRegs l c d) {o : Nat} (ho : o ∈ l) : OnlyRegs l c (cnt1 d o) := onlyRegs_wr h ho

theorem le_advanceTo_ftc (c : Ctl) (t : Nat) : c.time.ftc ≤ (advanceTo c t).time.ftc := by
  unfold advanceTo
  split
  case isTrue h => exact h.1.le
  case isFalse => exact le_rfl

theorem advanceTo_pass (c : Ctl) (t : Nat) : (advanceTo c t).time.pass = c.time.pass := by
  unfold advanceTo
  split <;> rfl

/-- A register pair that is written word by word. -/
theorem rd64_of_words {o v : Nat} (hv : v < 2 ^ 64) (hlo : rd c o = v % 2 ^ 32) (hhi : rd c (o + 4) = v / 2 ^ 32 % 2 ^ 32) :
    rd64 c o = v := by
  rw [rd64, hlo, hhi]
  omega

theorem b2n_le_one (b : Bool) : b2n b ≤ 1 := by cases b <;> decide

theorem decide_b2n (b : Bool) : decide (b2n b = 1) = b := by cases b <;> rfl

theorem ux_lt (w : Nat) (v : Int) : ux w v < 2 ^ w := by
  have h := Int.emod_lt_of_pos v (b := ((2 ^ w : Nat) : Int)) (by positivity)
  unfold ux
  omega

/-! A fold. -/
/-- A fold of which one step alone acts takes that step. -/
theorem foldUp_single {σ : Type} {f : σ → Nat → σ} {a : σ} {p n : Nat} (hp : p < n) (hbefore : ∀ i, i < p → f a i = a)
    (hafter : ∀ i, p < i → i < n → f (f a p) i = f a p) : foldUp n f a = f a p := by
  induction n with
  | zero => omega
  | succ n ih =>
    rw [foldUp_succ]
    rcases Nat.lt_succ_iff_lt_or_eq.1 hp with h | rfl
    · rw [ih h fun i hi hin => hafter i hi (by omega), hafter n h (by omega)]
    · rw [foldUp_fixed hbefore]

/-! Little-endian bytes (R4). -/
@[simp] theorem leBytes_length (n v : Nat) : (leBytes n v).length = n := by
  induction n generalizing v with
  | zero => rfl
  | succ n ih => simp [leBytes, ih]

theorem leNat_leBytes (n v : Nat) : leNat (leBytes n v) = v % 256 ^ n := by
  induction n generalizing v with
  | zero => simp [leBytes, leNat, Nat.mod_one]
  | succ n ih => rw [leBytes, leNat, ih, BitVec.toNat_ofNat, pow_succ' 256 n, Nat.mod_mul (x := v) (a := 256)]

theorem readBytes_add (m : SMap Byte) (a j k : Nat) : readBytes m a (j + k) = readBytes m a j ++ readBytes m (a + j) k := by
  induction j generalizing a with
  | zero => simp [readBytes]
  | succ j ih => rw [Nat.succ_add, readBytes, readBytes, ih, Nat.add_right_comm a 1 j, Nat.add_assoc a j 1, List.cons_append]

/-- A little-endian number inside a run of bytes that is known reads as itself. -/
theorem readLe_of_bytes {m : SMap Byte} {a j n k v : Nat} {u w : Bytes} (hu : u.length = j)
    (h : readBytes m a (j + (n + k)) = u ++ (leBytes n v ++ w)) : readLe m (a + j) n = v % 256 ^ n := by
  rw [readBytes_add, readBytes_add] at h
  obtain ⟨-, hrest⟩ := List.append_inj h (by simp [hu])
  obtain ⟨hnum, -⟩ := List.append_inj hrest (by simp)
  rw [readLe, hnum, leNat_leBytes]

/-! Whole words written into tile memory (R256). -/
/-- `n` is `m` but for the codes of words of tile memory. -/
def WordCodesOnly (m n : Mem) : Prop := { n with badWord := m.badWord, weakWord := m.weakWord } = m

theorem WordCodesOnly.tm {m n : Mem} (h : WordCodesOnly m n) : n.tm = m.tm := (congrArg Mem.tm h :)

theorem whole_of_mem_wordsOf {a n w : Nat} (ha : a % 8 = 0) (hn : n % 8 = 0) (hw : w ∈ wordsOf a n) :
    a ≤ 8 * w ∧ 8 * w + 8 ≤ a + n := by
  unfold wordsOf at hw
  split at hw
  case isTrue => exact absurd hw List.not_mem_nil
  case isFalse =>
    obtain ⟨i, hi, rfl⟩ := List.mem_map.1 hw
    have := List.mem_range.1 hi
    omega

/-- Whole words are replaced with their codes: no merge corrects anything. -/
theorem eccWrite_whole (cm : CM) (t : Nat) {a n : Nat} (ha : a % 8 = 0) (hn : n % 8 = 0) :
    (eccWrite cm t a n).1 = cm.1 ∧ WordCodesOnly cm.2 (eccWrite cm t a n).2 := by
  unfold eccWrite
  refine List.foldlRecOn (motive := fun x : CM => x.1 = cm.1 ∧ WordCodesOnly cm.2 x.2) _ _ ⟨rfl, rfl⟩ ?_
  intro x ⟨hctl, hmem⟩ w hw
  have hfull := whole_of_mem_wordsOf ha hn hw
  exact ⟨by simpa [hfull] using hctl, hmem⟩

/-- A tile that takes a write receives whole words in its memory and uses its receive port. -/
theorem rxWrite_whole {m : Mem} {t a : Nat} {bs : Bytes} (ht : tileTakes c t = true) (ha : a % 8 = 0) (hn : bs.length % 8 = 0)
    (hb : bs ≠ []) : (rxWrite (c, m) t a bs).1 = rxUse c t a true ∧
      WordCodesOnly { m with tm := writeBytes m.tm (tmAt t a) bs } (rxWrite (c, m) t a bs).2 := by
  have he : bs.isEmpty = false := by simpa using hb
  simp only [rxWrite, ht, tmWrite, he, if_true, Bool.false_eq_true, if_false]
  exact eccWrite_whole _ t ha hn

/-- Granted and not being cleared, a tile takes a write, then and at any later instant (R185, R248). -/
theorem tileTakes_advanceTo {t : Nat} (ho : tileOwner c t < 32) (hc : clearing c t = false) (f : Nat) :
    tileTakes (advanceTo c f) t = true := by
  have hown : tileOwner (advanceTo c f) t = tileOwner c t := by rw [tileOwner, fplan, advanceTo_plan, tileOwner, fplan]
  have hclr : clearing (advanceTo c f) t = false := by
    have := le_advanceTo_ftc c f
    simp only [clearing, advanceTo_plan, decide_eq_false_iff_not] at hc ⊢
    omega
  simp [tileTakes, hown, ho, hclr]

end Sys2Proof.Machine
end

section
/-! SUPPORT. Angle stamps: the window of the one partition that receives them, and a stamp that waits on the links of a master (R668,
R743 to R748). -/
namespace Sys2Proof.Machine
open Sys2Proof.Safety

variable {c d : Ctl} {x : AngleStamp}

/-! The windows of a pass (R743, R744). -/
/-- The windows of the pass in progress are taken up. -/
def windowsTaken (c : Ctl) : Ctl := updSp c fun y => { y with windowAt := c.time.pass + 1 }

/-- One partition's turn: its window, where it has one, gets the bytes `b`. -/
def windowTurn (b : Bytes) (cm : CM) (p : Nat) : CM :=
  match stampTile cm.1 p with
  | none => cm
  | some t => match firstPhase cm.1 t 0x44 (cm.1.time.passAt + 16) with
    | none => cm
    | some f => rxWrite (advanceTo cm.1 f, cm.2) t (params cm.1 p 8 4 % 2 ^ 19) b

/-- A Plezor that uses its own stamp writes it in the turns of the partitions. -/
theorem stampWindows_own {m : Mem} (he : c.time.epoch = true) (hw : c.sp.windowAt ≠ c.time.pass + 1) (hs : spSrc c = false)
    (hx : c.sp.stamp = some x) (hp : x.pass = c.time.pass % 2 ^ 48) :
    stampWindows (c, m) = foldUp 32 (windowTurn (stampBytes c (some x))) (windowsTaken c, m) := by
  have hf : stampFor c = some x := by simp [stampFor, hs, hx]
  have hfuture : ¬ x.pass > c.time.pass % 2 ^ 48 := by omega
  unfold stampWindows
  dsimp only
  rw [if_neg (by simp [he, hw]), hf]
  simp only [hfuture, hs, decide_false, Bool.false_eq_true, if_false]
  rfl

theorem windowTurn_none {b : Bytes} {cm : CM} {p : Nat} (h : stampTile cm.1 p = none) : windowTurn b cm p = cm := by
  simp only [windowTurn, h]

theorem windowTurn_some {b : Bytes} {m : Mem} {p t f : Nat} (h : stampTile c p = some t)
    (hf : firstPhase c t 0x44 (c.time.passAt + 16) = some f) :
    windowTurn b (c, m) p = rxWrite (advanceTo c f, m) t (params c p 8 4 % 2 ^ 19) b := by
  simp only [windowTurn, h, hf]

/-- Which tile a partition receives stamps in does not depend on the tiles, nor on where in its pass FTC stands. -/
theorem stampTile_congr (hr : d.regs = c.regs) (hl : d.plan = c.plan) (hq : d.parts = c.parts) (hp : d.time.pass = c.time.pass)
    (hw : d.pwr = c.pwr) (p : Nat) : stampTile d p = stampTile c p := by
  have hgrant : grantFlag d p 0 = grantFlag c p 0 := by simp only [grantFlag, fplanOn, fplan, hl]
  have hplan : partPlan d p = partPlan c p := by rw [partPlan, partPlan, hl]
  have hparams : params d p 6 2 = params c p 6 2 := by rw [params, params, hplan]
  have hruns : ptRuns d p = ptRuns c p := by
    rw [ptRuns, ptRuns, ptState, ptState, ptHalted, ptHalted, part, part, fld_congr hr, rbit_congr hr, hq]
  have hthr : throttled d d.time.pass = throttled c c.time.pass := by
    rw [throttled, throttled, pwrState, pwrState, fld_congr hr, hp, hw]
  rw [stampTile, stampTile, hparams, hgrant, hplan, ptPasses, ptPasses, hruns, hthr]

theorem stampTile_rxUse_advanceTo (c : Ctl) (f t a p : Nat) : stampTile (rxUse (advanceTo c f) t a true) p = stampTile c p :=
  stampTile_congr (advanceTo_regs ..) (advanceTo_plan ..) (advanceTo_parts ..) (advanceTo_pass ..) (advanceTo_pwr ..) p

/-- Where one partition alone receives stamps, its window is all that the turns write. -/
theorem foldUp_windowTurn {b : Bytes} {m : Mem} {p t f a : Nat} (hp : p < 32) (ht : stampTile c p = some t)
    (hothers : ∀ q, q < 32 → q ≠ p → stampTile c q = none) (hf : firstPhase c t 0x44 (c.time.passAt + 16) = some f)
    (ho : tileOwner c t < 32) (hc : clearing c t = false) (ha : params c p 8 4 % 2 ^ 19 = a) (ha8 : a % 8 = 0)
    (hb : b.length = 64) : ∃ n, foldUp 32 (windowTurn b) (c, m) = (rxUse (advanceTo c f) t a true, n) ∧
      WordCodesOnly { m with tm := writeBytes m.tm (tmAt t a) b } n := by
  have hne : b ≠ [] := by
    rintro rfl
    simp at hb
  obtain ⟨hctl, hmem⟩ := rxWrite_whole (m := m) (tileTakes_advanceTo ho hc f) ha8 (by omega) hne
  have hturn : windowTurn b (c, m) p = rxWrite (advanceTo c f, m) t a b := by rw [windowTurn_some ht hf, ha]
  refine ⟨_, ?_, hmem⟩
  rw [foldUp_single hp (fun q hq => windowTurn_none (hothers q (by omega) (by omega))) (fun q hq hq32 => windowTurn_none ?_), hturn]
  · exact Prod.ext hctl rfl
  · rw [hturn, hctl, stampTile_rxUse_advanceTo]
    exact hothers q hq32 (by omega)

/-- The window's bytes begin with the stamp's pass, its source and its angle. -/
theorem stampBytes_some (c : Ctl) (x : AngleStamp) : ∃ r : Bytes, r.length = 52 ∧
    stampBytes c (some x) = leBytes 6 x.pass ++ (leBytes 2 x.source ++ (leBytes 4 x.angle ++ r)) := by
  simp only [stampBytes, List.append_assoc]
  exact ⟨_, by simp [zeroBytes], rfl⟩

theorem stampBytes_length (c : Ctl) (x : AngleStamp) : (stampBytes c (some x)).length = 64 := by
  obtain ⟨r, hr, h⟩ := stampBytes_some c x
  simp [h, hr]

/-- What the stamp's window shows of it. -/
theorem readLe_stampBytes {m : SMap Byte} {b : Nat} (h : readBytes m b 64 = stampBytes c (some x)) :
    readLe m b 6 = x.pass % 2 ^ 48 ∧ readLe m (b + 8) 4 = x.angle % 2 ^ 32 := by
  obtain ⟨r, -, hr⟩ := stampBytes_some c x
  rw [hr] at h
  exact ⟨readLe_of_bytes (j := 0) (k := 58) (u := []) rfl h,
    readLe_of_bytes (j := 8) (k := 52) (u := leBytes 6 x.pass ++ leBytes 2 x.source) (by simp) (by rw [List.append_assoc]; exact h)⟩

/-! A stamp on the links of a master (R668, R672, R746 to R748). -/
/-- `d` is `c` but for the words that wait on the links, and for the count of stamps replaced. -/
def StampsQueued (c d : Ctl) : Prop :=
  { d with regs := c.regs, lk := { d.lk with sb := c.lk.sb } } = c ∧ RegsBut [sp 0xA8] c d

theorem stampsQueued_refl (c : Ctl) : StampsQueued c c := ⟨rfl, regsBut_refl _ c⟩

theorem StampsQueued.trans {e : Ctl} (h : StampsQueued c d) (k : StampsQueued d e) : StampsQueued c e := by
  obtain ⟨hrec, hregs⟩ := h
  obtain ⟨krec, kregs⟩ := k
  exact ⟨by rw [← hrec, ← krec], regsBut_trans hregs kregs⟩

theorem StampsQueued.sp_eq (h : StampsQueued c d) : d.sp = c.sp := (congrArg Ctl.sp h.1 :)

theorem StampsQueued.rd_eq {o : Nat} (h : StampsQueued c d) (ho : o ≠ sp 0xA8) : rd d o = rd c o :=
  h.2 o (by simpa using ho)

/-- A stamp that waits on a link changes the words that wait there, and counts where it replaces another. -/
theorem stampSend_shape (c : Ctl) (l : Nat) (x : AngleStamp) : ∃ e q, (e = spCount c 2 ∨ e = c) ∧
    stampSend c l x = updLk e fun y => { y with sb := smSet y.sb [] l q } := ⟨_, _, ite_eq_or_eq .., rfl⟩

theorem stampsQueued_stampSend (c : Ctl) (l : Nat) (x : AngleStamp) : StampsQueued c (stampSend c l x) := by
  obtain ⟨e, q, rfl | rfl, hs⟩ := stampSend_shape c l x
  · exact hs ▸ ⟨rfl, regsBut_cnt1 (regsBut_refl _ c) (List.mem_singleton_self _)⟩
  · exact hs ▸ stampsQueued_refl e

theorem smGet_stampSend_ne {k l : Nat} (h : k ≠ l) (c : Ctl) (x : AngleStamp) :
    smGet (stampSend c l x).lk.sb [] k = smGet c.lk.sb [] k := by
  obtain ⟨e, q, he, hs⟩ := stampSend_shape c l x
  have hlk : e.lk = c.lk := by
    rcases he with rfl | rfl <;> rfl
  rw [hs]
  exact (smGet_smSet_ne h ..).trans (by rw [hlk])

/-- The words of a stamp join those that wait on a link, behind them, where no stamp waits there yet. -/
theorem smGet_stampSend_same {l : Nat} (h : ∀ w, w ∈ smGet c.lk.sb [] l → w.kind ≠ 3) (x : AngleStamp) :
    smGet (stampSend c l x).lk.sb [] l = smGet c.lk.sb [] l ++ (stampWords x).map fun v => ⟨3, v, none⟩ := by
  have hmine : (smGet c.lk.sb [] l).filter (fun w => w.kind = 3) = [] := by simpa using h
  have hrest : (smGet c.lk.sb [] l).filter (fun w => w.kind ≠ 3) = smGet c.lk.sb [] l :=
    List.filter_eq_self.2 (by simpa using h)
  simp only [stampSend, hmine, hrest]
  simp [updLk]

/-- One link's turn when a stamp goes out. -/
def stampTurn (x : AngleStamp) (c : Ctl) (l : Nat) : Ctl := if bitN (rd c rStampOut) l && lkUp c l then stampSend c l x else c

theorem stampsQueued_stampTurn (x : AngleStamp) (c : Ctl) (l : Nat) : StampsQueued c (stampTurn x c l) := by
  unfold stampTurn
  split
  · exact stampsQueued_stampSend ..
  · exact stampsQueued_refl c

theorem smGet_stampTurn_ne {k l : Nat} (h : k ≠ l) (x : AngleStamp) (c : Ctl) :
    smGet (stampTurn x c l).lk.sb [] k = smGet c.lk.sb [] k := by
  unfold stampTurn
  split
  · exact smGet_stampSend_ne h ..
  · rfl

theorem StampsQueued.lkUp_eq {l : Nat} (h : StampsQueued c d) : lkUp d l = lkUp c l := by
  have hstat : rd d (lkStat l) = rd c (lkStat l) := h.rd_eq (by simp only [lkStat, lkBase, sp]; omega)
  rw [lkUp, lkUp, lkLive, lkLive, lkState, lkState, lkStep, lkStep, fld, fld, fld, fld, hstat]

theorem stampsQueued_turns (x : AngleStamp) (n : Nat) (c : Ctl) : StampsQueued c (foldUp n (stampTurn x) c) :=
  foldUp_keeps (P := StampsQueued c) (fun _ _ h => h.trans (stampsQueued_stampTurn ..)) n c (stampsQueued_refl c)

/-- The words that wait on an UP link of LK_STAMP_OUT once the first `n` links have had their turn. -/
theorem smGet_turns {l : Nat} (ho : bitN (rd c rStampOut) l = true) (hu : lkUp c l = true)
    (h : ∀ w, w ∈ smGet c.lk.sb [] l → w.kind ≠ 3) (x : AngleStamp) (n : Nat) :
    smGet (foldUp n (stampTurn x) c).lk.sb [] l =
      smGet c.lk.sb [] l ++ if l < n then (stampWords x).map fun v => ⟨3, v, none⟩ else [] := by
  induction n with
  | zero => simp [foldUp]
  | succ n ih =>
    rw [foldUp_succ]
    by_cases hn : l = n
    · subst hn
      have hq := stampsQueued_turns x l c
      have hout : bitN (rd (foldUp l (stampTurn x) c) rStampOut) l = true := by
        rw [hq.rd_eq (by decide)]
        exact ho
      have hsame : smGet (foldUp l (stampTurn x) c).lk.sb [] l = smGet c.lk.sb [] l := by simpa using ih
      rw [stampTurn, hout, hq.lkUp_eq, hu, Bool.and_self, if_pos rfl, smGet_stampSend_same (hsame ▸ h), hsame, if_pos (Nat.lt_succ_self l)]
    · have hlt : l < n + 1 ↔ l < n := by omega
      rw [smGet_stampTurn_ne hn, ih]
      simp only [hlt]

theorem stampOut_eq (c : Ctl) (x : AngleStamp) : stampOut c x = foldUp 32 (stampTurn x) c := rfl

/-- A master takes the next sequence number for the stamp of the pass. -/
def stampNumbered (c : Ctl) : Ctl := updSp c fun y => { y with seq := (c.sp.seq + 1) % 64, relayAt := c.time.pass + 1 }

theorem stampRelay_due (he : c.time.epoch = true) (hm : spMaster c = true) (hx : c.sp.stamp = some x)
    (hp : x.pass = c.time.pass % 2 ^ 48) (hd : c.time.pass % max 1 (fld c (sp 0x60) 15 8) = 0) (hr : c.sp.relayAt ≠ c.time.pass + 1) :
    stampRelay c = stampOut (stampNumbered c) { x with seq := c.sp.seq } := by
  simp [stampRelay, hx, he, hm, hp, hd, hr, stampNumbered]

end Sys2Proof.Machine
end

section
/-! SUPPORT. The latch FIFO (R751, R752): an edge's entry, an edge that finds the FIFO full, and the registers that POP fills. -/
namespace Sys2Proof.Machine
open Sys2Proof.Safety

variable {c : Ctl}

/-! Angles have 24 bits (R373, R724). -/
theorem elecOf_lt (c : Ctl) (st : Nat) : elecOf c st < 2 ^ 24 := by
  unfold elecOf
  extract_lets th i h tc
  have htc : tc < 2 ^ 24 := by
    change (if rbit c rSpCfg 9 = true then ux 24 ((th : Int) - h) else th) < 2 ^ 24
    split
    · exact ux_lt ..
    · exact ux_lt ..
  split
  · omega
  · exact htc

theorem anglesAt_lt (c : Ctl) (t : Nat) : (anglesAt c t).1 < 2 ^ 24 ∧ (anglesAt c t).2 < 2 ^ 24 :=
  ⟨elecOf_lt .., Nat.mod_lt _ (by norm_num)⟩

/-! An edge (R751). -/
/-- D2 of an entry: the edge's direction, the flags of R728 and the mechanical angle. -/
def latchFlags (rising v e m : Bool) (a : Nat) : Nat := b2n rising * 2 ^ 31 + (b2n v * 4 + b2n e * 2 + b2n m) * 2 ^ 28 + a

/-- The instant of an edge: the input delay before the MOTCLK sample that finds it (R1153, Assumption 37). -/
def edgeInstant (c : Ctl) : Nat := c.time.ftc / 10 * 10 - 20

/-- The entry that an edge makes. -/
def latchEntry (rising : Bool) (c : Ctl) : Nat × Nat × Nat :=
  (stampBack c (edgeInstant c), latchFlags rising (spValid c) (spEValid c) (spMtValid c) (anglesAt c (edgeInstant c)).2,
    spMt c * 2 ^ 16 + (anglesAt c (edgeInstant c)).1 / 256)

theorem latchFlags_fields {a : Nat} (ha : a < 2 ^ 24) (rising v e m : Bool) : (latchFlags rising v e m a).testBit 31 = rising ∧
    (latchFlags rising v e m a).testBit 30 = v ∧ bits (latchFlags rising v e m a) 23 0 = a := by
  have hr := b2n_le_one rising
  have hv := b2n_le_one v
  have he := b2n_le_one e
  have hm := b2n_le_one m
  have h31 : latchFlags rising v e m a / 2 ^ 31 % 2 = b2n rising := by unfold latchFlags; omega
  have h30 : latchFlags rising v e m a / 2 ^ 30 % 2 = b2n v := by unfold latchFlags; omega
  refine ⟨?_, ?_, ?_⟩
  · rw [Nat.testBit_eq_decide_div_mod_eq, h31, decide_b2n]
  · rw [Nat.testBit_eq_decide_div_mod_eq, h30, decide_b2n]
  · simp only [bits, Nat.shiftRight_zero, latchFlags]
    omega

/-- What an entry holds. -/
theorem latchEntry_fields (rising : Bool) (c : Ctl) : (latchEntry rising c).1 = stampBack c (edgeInstant c) ∧
    (latchEntry rising c).2.1.testBit 31 = rising ∧ (latchEntry rising c).2.1.testBit 30 = spValid c ∧
    bits (latchEntry rising c).2.1 23 0 = (anglesAt c (edgeInstant c)).2 ∧ bits (latchEntry rising c).2.2 31 16 = spMt c := by
  obtain ⟨helec, hmech⟩ := anglesAt_lt c (edgeInstant c)
  obtain ⟨hdir, hvalid, hangle⟩ := latchFlags_fields hmech rising (spValid c) (spEValid c) (spMtValid c)
  have hturns : spMt c < 2 ^ 16 := bits_lt ..
  refine ⟨rfl, hdir, hvalid, hangle, ?_⟩
  simp only [latchEntry, bits, Nat.shiftRight_eq_div_pow]
  omega

theorem latchEdge_room {rising : Bool} (he : rbit c (sp 0x70) 0 = true) (hd : rbit c (sp 0x70) (if rising = true then 1 else 2) = true)
    (hl : c.sp.latch.length < 16) : latchEdge rising c =
      setFld (updSp c fun y => { y with latch := y.latch ++ [latchEntry rising c] }) (sp 0x74) 4 0 (c.sp.latch.length + 1) := by
  have he' : bitN (rd c (sp 0x70)) 0 = true := he
  have hd' : bitN (rd c (sp 0x70)) (if rising = true then 1 else 2) = true := hd
  have hl' : ¬ 16 ≤ c.sp.latch.length := by omega
  simp [latchEdge, he', hd', hl', latchEntry, latchFlags, edgeInstant, updSp]

theorem latchEdge_full {rising : Bool} (he : rbit c (sp 0x70) 0 = true) (hd : rbit c (sp 0x70) (if rising = true then 1 else 2) = true)
    (hl : 16 ≤ c.sp.latch.length) : latchEdge rising c = spCount (hwBit c (sp 0x74) 8) 1 := by
  have he' : bitN (rd c (sp 0x70)) 0 = true := he
  have hd' : bitN (rd c (sp 0x70)) (if rising = true then 1 else 2) = true := hd
  simp [latchEdge, he', hd', hl]

theorem rbit_hwBit_same {i : Nat} (hi : i < 32) (c : Ctl) (o : Nat) : rbit (hwBit c o i) o i = true := by
  rw [rbit, hwBit, rd_hwSet_same, Nat.testBit_mod_two_pow, Nat.testBit_or, Nat.testBit_two_pow_self]
  simp [hi]

theorem onlyRegs_hwBit {l : List Nat} {o : Nat} (ho : o ∈ l) (c : Ctl) (i : Nat) :
    OnlyRegs l { c with w1cSet := (hwBit c o i).w1cSet } (hwBit c o i) := ⟨rfl, regsBut_wr (regsBut_of_regs rfl) ho⟩

/-! POP (R752). -/
/-- The entry that POP shows in D0 to D3. -/
def latchShown (c : Ctl) (d0 d1 d2 d3 : Nat) : Ctl := wr (wr (wr (wr c (sp 0x80) d0) (sp 0x84) d1) (sp 0x88) d2) (sp 0x8C) d3

/-- The oldest entry leaves the FIFO. -/
def latchTaken (c : Ctl) (r : List (Nat × Nat × Nat)) : Ctl := setFld (updSp c fun y => { y with latch := r }) (sp 0x74) 4 0 r.length

theorem latchPop_cons {ts d2 d3 : Nat} {r : List (Nat × Nat × Nat)} (h : c.sp.latch = (ts, d2, d3) :: r) :
    latchPop c = latchShown (latchTaken c r) (ts % 2 ^ 32) (ts / 2 ^ 32) d2 d3 := by
  simp only [latchPop, h]
  rfl

theorem latchPop_nil (h : c.sp.latch = []) : latchPop c = latchShown c 0 0 0 0 := by
  simp only [latchPop, h]
  rfl

theorem rd64_latchShown {v : Nat} (hv : v < 2 ^ 64) (c : Ctl) (d2 d3 : Nat) :
    rd64 (latchShown c (v % 2 ^ 32) (v / 2 ^ 32) d2 d3) (sp 0x80) = v :=
  rd64_of_words hv (by simp [latchShown, rd_wr, sp]) (by simp [latchShown, rd_wr, sp])

theorem rd_latchShown_d2 {d2 : Nat} (h : d2 < 2 ^ 32) (c : Ctl) (d0 d1 d3 : Nat) : rd (latchShown c d0 d1 d2 d3) (sp 0x88) = d2 := by
  rw [latchShown, rd_wr_ne (by decide), rd_wr_same, Nat.mod_eq_of_lt h]

theorem rd_latchShown_d3 {d3 : Nat} (h : d3 < 2 ^ 32) (c : Ctl) (d0 d1 d2 : Nat) : rd (latchShown c d0 d1 d2 d3) (sp 0x8C) = d3 := by
  rw [latchShown, rd_wr_same, Nat.mod_eq_of_lt h]

theorem fld_latchShown (c : Ctl) (d0 d1 d2 d3 h l : Nat) : fld (latchShown c d0 d1 d2 d3) (sp 0x74) h l = fld c (sp 0x74) h l := by
  rw [fld, latchShown, rd_wr_ne (by decide), rd_wr_ne (by decide), rd_wr_ne (by decide), rd_wr_ne (by decide), fld]

theorem fld_latchTaken (c : Ctl) (r : List (Nat × Nat × Nat)) : fld (latchTaken c r) (sp 0x74) 4 0 = r.length % 32 :=
  fld_setFld_same (by norm_num) (by norm_num) ..

theorem onlyRegs_latchShown {l : List Nat} {d : Ctl} (h : OnlyRegs l c d) (hl : [sp 0x80, sp 0x84, sp 0x88, sp 0x8C] ⊆ l)
    (d0 d1 d2 d3 : Nat) : OnlyRegs l c (latchShown d d0 d1 d2 d3) :=
  onlyRegs_wr (onlyRegs_wr (onlyRegs_wr (onlyRegs_wr h (hl (by simp))) (hl (by simp))) (hl (by simp))) (hl (by simp))

end Sys2Proof.Machine
end

section
/-! SUPPORT. Encoder emulation (R753 to R758): the instant of a count, the count itself, and RUN. -/
namespace Sys2Proof.Machine
open Sys2Proof.Safety

variable {c d : Ctl}

/-! The instant of a count. -/
/-- The control state with FTC at `t`. -/
def movedTo (c : Ctl) (t : Nat) : Ctl := { c with time := { c.time with ftc := t } }

theorem advanceTo_movedTo {t : Nat} (ht : c.time.ftc ≤ t) (hp : c.time.phase = 0) (hc : c.pwr.chip = false) :
    advanceTo c t = movedTo c t := by
  unfold advanceTo
  split
  case isTrue => rfl
  case isFalse h =>
    have he : t = c.time.ftc := by
      by_contra hne
      exact h ⟨by omega, hp, hc⟩
    subst he
    rfl

theorem reachGrid_movedTo {t : Nat} (ht : c.time.ftc ≤ t) (hp : c.time.phase = 0) (hc : c.pwr.chip = false)
    (hb : c.time.epoch = false ∨ t ≤ nextBoundary c) : reachGrid c t = some (movedTo c t) := by
  have hgo : ¬ (c.time.epoch = true ∧ (t > nextBoundary c ∨ c.time.phase ≠ 0 ∧ t > c.time.ftc)) := by
    rcases hb with h | h
    · simp [h]
    · rintro ⟨-, h' | h'⟩
      · omega
      · exact h'.1 hp
  rw [reachGrid, if_neg hgo, advanceTo_movedTo ht hp hc]

theorem le_ceilDiv_mul (n : Nat) {g : Nat} (hg : 0 < g) : n ≤ ceilDiv n g * g := by
  have h := Nat.lt_div_mul_add hg (a := n + g - 1)
  unfold ceilDiv
  omega

/-! A count (R754 to R757). -/
/-- The position, the lag shown and its LAG bit. -/
def encoderPlaced (c : Ctl) (p : Nat) (lag : Int) : Ctl :=
  setBit (wr (wr c (ee 0x10) p) (ee 0x14) (ux 32 lag)) (ee 0x0C) 2 (decide (lag.natAbs > 1))

/-- The position moves to `p`, and ENC shows it. -/
def encoderMoved (c : Ctl) (p : Nat) (lag : Int) : Ctl :=
  emit (updSp (encoderPlaced c p lag) fun y => { y with edgeAt := c.time.ftc + 1 }) (.pin 2 (encLevels (encoderPlaced c p lag) p))

theorem eeHold_steady (h : rbit c (ee 0x0C) 1 = false) (hv : eeValid c = true) : eeHold c = c := by
  simp [eeHold, h, hv]

/-- At an instant `d` at which it lags behind its target, by no more than the limits allow, the emulator counts up. -/
theorem encoderCount_behind {target : Nat} (hr : rbit c (ee 0) 0 = true)
    (hd : reachGrid c (ceilDiv (max c.time.ftc (if c.sp.edgeAt = 0 then 0 else c.sp.edgeAt - 1 + 10 * fld c (ee 0) 15 8)) 10 * 10) = some d)
    (hhold : eeHold d = d) (hv : eeValid d = true) (ht : eeTarget d d.time.ftc = target) (hlag : 0 < eeLag d target)
    (hjump : 4 * (eeLag d target).natAbs < eeN d) (hwarn : (eeLag d target).natAbs ≤ rd d (ee 8) % 2 ^ 18) :
    ∃ lag, encoderCount c = encoderMoved d ((rd d (ee 0x10) + 1) % eeN d) lag := by
  have hnot : ¬ (eeLag d target).natAbs > rd d (ee 8) % 2 ^ 18 := not_lt.2 hwarn
  refine ⟨eeLag (wr d (ee 0x10) ((rd d (ee 0x10) + 1) % eeN d)) target, ?_⟩
  simp only [encoderCount, hr, hd, hhold, hv, ht, hlag, hlag.ne', hjump.not_ge, hnot, Bool.true_eq_false, false_and, if_true, if_false]
  rfl

theorem encoderCount_up {t : Nat} (hr : rbit c (ee 0) 0 = true) (hh : rbit c (ee 0x0C) 1 = false) (hv : eeValid c = true)
    (hp : c.time.phase = 0) (hc : c.pwr.chip = false) (hb : c.time.epoch = false ∨ t ≤ nextBoundary c)
    (ht : t = ceilDiv (max c.time.ftc (if c.sp.edgeAt = 0 then 0 else c.sp.edgeAt - 1 + 10 * fld c (ee 0) 15 8)) 10 * 10)
    (hlag : 0 < eeLag c (eeTarget c t)) (hjump : 4 * (eeLag c (eeTarget c t)).natAbs < eeN c)
    (hwarn : (eeLag c (eeTarget c t)).natAbs ≤ rd c (ee 8) % 2 ^ 18) :
    ∃ lag, encoderCount c = encoderMoved (movedTo c t) ((rd c (ee 0x10) + 1) % eeN c) lag := by
  have hle : c.time.ftc ≤ t := ht ▸ (le_max_left ..).trans (le_ceilDiv_mul _ (by norm_num))
  have hreach := reachGrid_movedTo hle hp hc hb
  exact encoderCount_behind (d := movedTo c t) (target := eeTarget c t) hr (ht ▸ hreach) (eeHold_steady hh hv) hv rfl hlag hjump hwarn

/-- Where the TAP holds no pin, what is sent out joins the outputs. -/
theorem emit_unheld (h : chainHeld c = false) (e : Emit) : emit c e = { c with outs := e :: c.outs } := by
  simp [emit, h]

theorem eeN_pos (c : Ctl) : 0 < eeN c := by simp [eeN]

theorem eeN_le (c : Ctl) : eeN c ≤ 2 ^ 18 := by
  have h : fld c (ee 0) 31 16 < 2 ^ 16 := bits_lt ..
  unfold eeN
  omega

theorem regsBut_encoderPlaced (c : Ctl) (p : Nat) (lag : Int) :
    RegsBut [ee 0x0C, ee 0x10, ee 0x14] c (encoderPlaced c p lag) :=
  regsBut_setBit (regsBut_wr (regsBut_wr (regsBut_refl _ c) (by simp)) (by simp)) (by simp)

theorem encLevels_encoderPlaced (c : Ctl) (p q : Nat) (lag : Int) : encLevels (encoderPlaced c p lag) q = encLevels c q := by
  have hr := regsBut_encoderPlaced c p lag
  have hn : eeN (encoderPlaced c p lag) = eeN c := by rw [eeN, eeN, fld, fld, hr (ee 0) (by decide)]
  have hw : fld (encoderPlaced c p lag) (ee 0) 3 2 = fld c (ee 0) 3 2 := by rw [fld, fld, hr (ee 0) (by decide)]
  rw [encLevels, encLevels, hn, hw, hr (ee 4) (by decide)]

theorem rd_encoderPlaced {p : Nat} (hp : p < 2 ^ 32) (c : Ctl) (lag : Int) : rd (encoderPlaced c p lag) (ee 0x10) = p := by
  rw [encoderPlaced, rd_setBit_ne (by decide), rd_wr_ne (by decide), rd_wr_same, Nat.mod_eq_of_lt hp]

/-- What a count changes. -/
theorem encoderMoved_effect {p : Nat} (hp : p < 2 ^ 32) (hc : chainHeld c = false) (lag : Int) :
    (encoderMoved c p lag).time = c.time ∧ rd (encoderMoved c p lag) (ee 0x10) = p ∧
      (encoderMoved c p lag).sp = { c.sp with edgeAt := c.time.ftc + 1 } ∧
      (encoderMoved c p lag).outs = .pin 2 (encLevels c p) :: c.outs ∧
      RegsBut [ee 0x0C, ee 0x10, ee 0x14] c (encoderMoved c p lag) := by
  have hregs : (encoderMoved c p lag).regs = (encoderPlaced c p lag).regs := emit_regs ..
  refine ⟨emit_time .., ?_, emit_sp .., ?_, regsBut_congr (regsBut_encoderPlaced c p lag) hregs⟩
  · rw [rd_congr hregs, rd_encoderPlaced hp]
  · have hfree : chainHeld (updSp (encoderPlaced c p lag) fun y => { y with edgeAt := c.time.ftc + 1 }) = false := hc
    rw [encoderMoved, emit_unheld hfree, encLevels_encoderPlaced]
    rfl

/-! RUN (R758). -/
/-- The angles rest on the spindle's own registers and state alone. -/
theorem anglesAt_congr (hr : ∀ o, rd d (sp o) = rd c (sp o)) (hs : d.sp = c.sp) (t : Nat) : anglesAt d t = anglesAt c t := by
  have hfld : ∀ o i j, fld d (sp o) i j = fld c (sp o) i j := fun o i j => by rw [fld, fld, hr]
  have hbit : ∀ o i, rbit d (sp o) i = rbit c (sp o) i := fun o i => by rw [rbit, rbit, hr]
  have hstate : advState d = advState c := by
    funext n
    rw [advState, advState, compState, compState, spDcomp, spDcomp, spDiv, spDiv, hfld, hs]
  have helec : elecOf d = elecOf c := by
    funext n
    have hharm : harm d = harm c := funext fun i => by rw [harm, harm, hr]
    rw [elecOf, elecOf, hharm, spDir, spDir, rSpCfg, hbit, hbit]
  have hp : spP d = spP c := by rw [spP, spP, rSpCfg, hfld]
  have hmech : mechOf d = mechOf c := by
    funext e a
    rw [mechOf, mechOf, hp]
  rw [anglesAt, anglesAt, hstate, helec, hmech, spE, spE, hp, spValid, spValid, rSpStat, hbit, hs]

theorem eeTarget_lt (c : Ctl) (t : Nat) : eeTarget c t < 2 ^ 32 := by
  obtain ⟨he, hm⟩ := anglesAt_lt c t
  have hn := eeN_le c
  have hscaled : ∀ a, a < 2 ^ 24 → a * eeN c / 2 ^ 24 < 2 ^ 32 := fun a ha => by
    rw [Nat.div_lt_iff_lt_mul (by norm_num)]
    calc a * eeN c ≤ a * 2 ^ 18 := Nat.mul_le_mul_left a hn
      _ < 2 ^ 32 * 2 ^ 24 := by omega
  unfold eeTarget
  dsimp only
  split
  · exact hscaled _ he
  · exact hscaled _ hm

/-- RUN is written, and RUNNING follows it. -/
def encoderSwitched (c : Ctl) (on : Bool) : Ctl := setBit (setBit c (ee 0) 0 on) (ee 0x0C) 0 on

theorem sp_ne_ee {o k : Nat} (hk : k < 0x18000) : sp o ≠ ee k := by
  simp only [sp, ee]
  omega

theorem rd_sp_encoderSwitched (c : Ctl) (on : Bool) (o : Nat) : rd (encoderSwitched c on) (sp o) = rd c (sp o) := by
  rw [encoderSwitched, rd_setBit_ne (sp_ne_ee (by norm_num)), rd_setBit_ne (sp_ne_ee (by norm_num))]

theorem rbit_ee_encoderSwitched (c : Ctl) (on : Bool) {i : Nat} (hi : i ≠ 0) : rbit (encoderSwitched c on) (ee 0) i = rbit c (ee 0) i := by
  rw [encoderSwitched, rbit_setBit_ne (by decide), rbit_setBit_apart (by norm_num) hi]

theorem eeValid_encoderSwitched (c : Ctl) (on : Bool) : eeValid (encoderSwitched c on) = eeValid c := by
  have hbit : ∀ o i, rbit (encoderSwitched c on) (sp o) i = rbit c (sp o) i := fun o i => by
    rw [rbit, rbit, rd_sp_encoderSwitched]
  have hp : spP (encoderSwitched c on) = spP c := by rw [spP, spP, fld, fld, rSpCfg, rd_sp_encoderSwitched]
  rw [eeValid, eeValid, hp, spValid, spValid, spEValid, spEValid, eeElec, eeElec, rSpStat, hbit, hbit,
    rbit_ee_encoderSwitched c on one_ne_zero]

theorem eeTarget_encoderSwitched (c : Ctl) (on : Bool) (t : Nat) : eeTarget (encoderSwitched c on) t = eeTarget c t := by
  have hn : eeN (encoderSwitched c on) = eeN c := by
    rw [eeN, eeN, encoderSwitched, setBit, fld_setFld_ne (by decide), setBit, fld_setFld_apart le_rfl (by norm_num) (by norm_num)]
  rw [eeTarget, eeTarget, anglesAt_congr (rd_sp_encoderSwitched c on) rfl, hn, eeElec, eeElec,
    rbit_ee_encoderSwitched c on one_ne_zero]

theorem onlyRegs_encoderSwitched {l : List Nat} (h0 : ee 0 ∈ l) (hC : ee 0x0C ∈ l) (c : Ctl) (on : Bool) :
    OnlyRegs l c (encoderSwitched c on) := onlyRegs_setBit (onlyRegs_setBit (onlyRegs_refl l c) h0) hC

theorem rbit_encoderSwitched (c : Ctl) (on : Bool) :
    rbit (encoderSwitched c on) (ee 0) 0 = on ∧ rbit (encoderSwitched c on) (ee 0x0C) 0 = on :=
  ⟨by rw [encoderSwitched, rbit_setBit_ne (by decide), rbit_setBit_same (by norm_num)],
    by rw [encoderSwitched, rbit_setBit_same (by norm_num)]⟩

/-- The emulator starts at its target, with no edges. -/
def encoderSet (c : Ctl) : Ctl := eeSet (setBit (encoderSwitched c true) (ee 0x0C) 1 false) (eeTarget c c.time.ftc)

theorem encoderRun_start (hr : rbit c (ee 0) 0 = false) (hv : eeValid c = true) : encoderRun true c = encoderSet c := by
  have hv' : eeValid (encoderSwitched c true) = true := (eeValid_encoderSwitched c true).trans hv
  have ht := eeTarget_encoderSwitched c true c.time.ftc
  rw [encoderSwitched] at hv' ht
  simp [encoderRun, hr, hv', ht, encoderSet, encoderSwitched]

theorem encoderRun_stop (c : Ctl) : encoderRun false c = encoderSwitched c false := by
  simp [encoderRun, encoderSwitched]

theorem rbit_eeSet_ctrl (c : Ctl) (target i : Nat) : rbit (eeSet c target) (ee 0) i = rbit c (ee 0) i := by
  rw [eeSet, rbit_setBit_ne (by decide), rbit, rd_wr_ne (by decide), rd_wr_ne (by decide), rbit]

theorem rbit_eeSet_stat {i : Nat} (hi : i ≠ 2) (c : Ctl) (target : Nat) : rbit (eeSet c target) (ee 0x0C) i = rbit c (ee 0x0C) i := by
  rw [eeSet, rbit_setBit_apart (by norm_num) hi, rbit, rd_wr_ne (by decide), rd_wr_ne (by decide), rbit]

theorem rd_eeSet_position {target : Nat} (h : target < 2 ^ 32) (c : Ctl) : rd (eeSet c target) (ee 0x10) = target := by
  rw [eeSet, rd_setBit_ne (by decide), rd_wr_ne (by decide), rd_wr_same, Nat.mod_eq_of_lt h]

theorem onlyRegs_eeSet {l : List Nat} (h : OnlyRegs l c d) (hl : [ee 0x0C, ee 0x10, ee 0x14] ⊆ l) (target : Nat) :
    OnlyRegs l c (eeSet d target) :=
  onlyRegs_setBit (onlyRegs_wr (onlyRegs_wr h (hl (by simp))) (hl (by simp))) (hl (by simp))

theorem encoderSet_effect (c : Ctl) : rbit (encoderSet c) (ee 0) 0 = true ∧ rbit (encoderSet c) (ee 0x0C) 0 = true ∧
    rbit (encoderSet c) (ee 0x0C) 1 = false ∧ rd (encoderSet c) (ee 0x10) = eeTarget c c.time.ftc ∧
    OnlyRegs [ee 0, ee 0x0C, ee 0x10, ee 0x14] c (encoderSet c) := by
  obtain ⟨hrun, hrunning⟩ := rbit_encoderSwitched c true
  unfold encoderSet
  refine ⟨?_, ?_, ?_, rd_eeSet_position (eeTarget_lt ..) _,
    onlyRegs_eeSet (onlyRegs_setBit (onlyRegs_encoderSwitched (by simp) (by simp) c true) (by simp)) (by simp) _⟩
  · rw [rbit_eeSet_ctrl, rbit_setBit_ne (by decide), hrun]
  · rw [rbit_eeSet_stat (by norm_num), rbit_setBit_apart (by norm_num) (by norm_num), hrunning]
  · rw [rbit_eeSet_stat (by norm_num), rbit_setBit_same (by norm_num)]

end Sys2Proof.Machine
end

section
/-! PROOF. Stamps, the latch FIFO and encoder counts (R741 to R748, R751 to R758): the statement. -/
namespace Sys2Proof.Machine
open Sys2Proof.Safety

variable {s : State}

/-! The commands. -/
theorem exec_stampWindowWrite (h : alive s.ctl = true) : exec .stampWindowWrite s =
    .next { s with ctl := settled (stampWindows (s.ctl, s.mem)).1, mem := (stampWindows (s.ctl, s.mem)).2 } := by
  change onAll (fun cm => if alive cm.1 then stampWindows cm else cm) s = _
  simp only [onAll_next, h, if_true]

theorem exec_stampRelay (h : alive s.ctl = true) : exec .stampRelay s = .next { s with ctl := settled (stampRelay s.ctl) } :=
  onCtl_alive h _
theorem exec_latchEdge (h : alive s.ctl = true) (rising : Bool) :
    exec (.latchEdge rising) s = .next { s with ctl := settled (latchEdge rising s.ctl) } := onCtl_alive h _
theorem exec_latchPop (h : alive s.ctl = true) : exec .latchPop s = .next { s with ctl := settled (latchPop s.ctl) } := onCtl_alive h _
theorem exec_encoderCount (h : alive s.ctl = true) : exec .encoderCount s = .next { s with ctl := settled (encoderCount s.ctl) } :=
  onCtl_alive h _
theorem exec_encoderRun (h : alive s.ctl = true) (on : Bool) :
    exec (.encoderRun on) s = .next { s with ctl := settled (encoderRun on s.ctl) } := onCtl_alive h _

/-- Settles O49: each clause is the effect of its command, in the order of the statement; the stamp's window is read back from its tile's
memory. -/
theorem stampsLatchesAndEncoderCounts : Obligations.StampsLatchesAndEncoderCounts := by
  unfold Obligations.StampsLatchesAndEncoderCounts
  refine ⟨?window, ?relay, ?entry, ?overflow, ?pop, ?popEmpty, ?count, ?start, ?stop⟩
  case window =>
    intro s p t f a x hv he _ hw hs hx hpass hp ht hothers hf ho hc ha ha64 _
    obtain ⟨n, hwritten, hmem⟩ := foldUp_windowTurn (c := windowsTaken s.ctl) (m := s.mem) hp ht hothers hf ho hc ha.symm (by omega)
      (stampBytes_length s.ctl x)
    rw [exec_stampWindowWrite hv, stampWindows_own he hw hs hx hpass, hwritten]
    have hbytes : readBytes n.tm (tmAt t a) 64 = stampBytes s.ctl (some x) := by
      rw [hmem.tm]
      simpa [stampBytes_length] using readBytes_writeBytes s.mem.tm (tmAt t a) (stampBytes s.ctl (some x))
    obtain ⟨hshown, hangle⟩ := readLe_stampBytes hbytes
    refine ⟨_, n, rfl, ?_, hbytes, ?_, hangle, fun j hj => ?_, ?_, advanceTo_regs ..⟩
    · exact congrArg SpSt.windowAt (advanceTo_sp ..)
    · rw [hshown, hpass, Nat.mod_mod]
    · rw [hmem.tm, smGet_writeBytes, stampBytes_length, if_neg hj]
    · exact congrArg (fun m : Mem => { m with tm := s.mem.tm }) hmem
  case relay =>
    intro s x l hv he hm hx hpass hdiv hr hl ho hu hnone
    have hq := stampsQueued_turns { x with seq := s.ctl.sp.seq } 32 (stampNumbered s.ctl)
    refine ⟨_, exec_stampRelay hv, ?_⟩
    rw [stampRelay_due he hm hx hpass hdiv hr, stampOut_eq]
    refine ⟨hq.sp_eq, ?_⟩
    rw [smGet_turns (c := stampNumbered s.ctl) ho hu hnone, if_pos hl]
    rfl
  case entry =>
    intro s rising hv he hd hl
    obtain ⟨hstamp, hdir, hvalid, hangle, hturns⟩ := latchEntry_fields rising s.ctl
    refine ⟨_, (latchEntry rising s.ctl).1, (latchEntry rising s.ctl).2.1, (latchEntry rising s.ctl).2.2, exec_latchEdge hv rising, ?_⟩
    rw [latchEdge_room he hd hl]
    refine ⟨rfl, hstamp, hdir, hvalid, hangle, hturns, ?_, onlyRegs_setFld (onlyRegs_refl _ _) (by simp)⟩
    rw [fld_setFld_same (by norm_num) (by norm_num)]
    omega
  case overflow =>
    intro s rising hv he hd hl
    refine ⟨_, exec_latchEdge hv rising, ?_⟩
    rw [latchEdge_full he hd hl]
    refine ⟨rfl, ?_, ?_, onlyRegs_cnt1 (onlyRegs_hwBit (by simp) ..) (by simp)⟩
    · rw [spCount, rbit, rd_cnt1_ne (by decide)]
      exact rbit_hwBit_same (by norm_num) ..
    · rw [spCount, rd_cnt1_same, hwBit, rd_hwSet_ne (by decide)]
  case pop =>
    intro s ts d2 d3 r hv hl hts hd2 hd3
    refine ⟨_, exec_latchPop hv, ?_⟩
    rw [latchPop_cons hl]
    exact ⟨rfl, rd64_latchShown hts .., rd_latchShown_d2 hd2 .., rd_latchShown_d3 hd3 .., (fld_latchShown ..).trans (fld_latchTaken ..),
      onlyRegs_latchShown (onlyRegs_setFld (onlyRegs_refl _ _) (by simp)) (by simp) ..⟩
  case popEmpty =>
    intro s hv hl
    refine ⟨_, exec_latchPop hv, ?_⟩
    rw [latchPop_nil hl]
    exact ⟨rd64_latchShown (v := 0) (by norm_num) .., rd_latchShown_d2 (by norm_num) .., rd_latchShown_d3 (by norm_num) ..,
      onlyRegs_latchShown (onlyRegs_refl _ _) (by simp) ..⟩
  case count =>
    intro s t target hv hr hh hvalid hp hc hb ht htarget hlag hjump hwarn hfree
    subst htarget
    obtain ⟨lag, hcount⟩ := encoderCount_up hr hh hvalid hp hc hb ht hlag hjump hwarn
    have hpos : (rd s.ctl (ee 0x10) + 1) % eeN s.ctl < 2 ^ 32 :=
      (Nat.mod_lt _ (eeN_pos s.ctl)).trans_le ((eeN_le s.ctl).trans (by norm_num))
    obtain ⟨htime, hmoved, hsp, houts, hregs⟩ := encoderMoved_effect (c := movedTo s.ctl t) hpos hfree lag
    refine ⟨_, exec_encoderCount hv, ?_⟩
    rw [hcount]
    exact ⟨htime, hmoved, hsp, by rw [houts, hmoved]; rfl, hregs⟩
  case start =>
    intro s hv hr hvalid
    refine ⟨_, exec_encoderRun hv true, ?_⟩
    rw [encoderRun_start hr hvalid]
    exact encoderSet_effect s.ctl
  case stop =>
    intro s hv
    refine ⟨_, exec_encoderRun hv false, ?_⟩
    rw [encoderRun_stop]
    obtain ⟨hrun, hrunning⟩ := rbit_encoderSwitched s.ctl false
    exact ⟨hrun, hrunning, onlyRegs_encoderSwitched (by simp) (by simp) ..⟩

end Sys2Proof.Machine
end
